-- ==== Sys2Proof/Word.lean ====
section
/-! DEFINITION. The word types of the Zarral ZV-640 (spec 00, R4). -/

namespace Sys2Proof

/-- One byte. -/
abbrev Byte := BitVec 8
/-- One 32-bit register. -/
abbrev Word := BitVec 32
/-- One 64-bit pair, instruction word, address or literal word. -/
abbrev DWord := BitVec 64
/-- A 128-bit quad. -/
abbrev QWord := BitVec 128
/-- The lanes of a group, bit L standing for lane L. -/
abbrev LaneMask := BitVec 32

end Sys2Proof
end

