-- ==== Sys2Proof/Syntax.lean ====
section
/-! DEFINITION. The instructions and the hardware steps of the ZV-640: one constructor per row of
spec/opcode_table.json. A row of the 64-bit instruction set carries the fields of its format (R220 to R227) as
they stand in the word, reserved fields included; a hardware step carries the choices it is made with. -/

namespace Sys2Proof

/-- Format V (R220). -/
structure VF where
  fn : BitVec 4
  d : BitVec 11
  a : BitVec 11
  b : BitVec 11
  c : BitVec 11
  pm : BitVec 4
  pn : BitVec 1
  hold : BitVec 2
  sat : BitVec 1
  deriving DecidableEq, Repr

/-- Format M (R221). -/
structure MF where
  fn : BitVec 4
  d : BitVec 11
  base : BitVec 11
  coh : BitVec 2
  scope : BitVec 2
  ord : BitVec 2
  imm : BitVec 16
  pm : BitVec 4
  pn : BitVec 1
  flg : BitVec 1
  rsv : BitVec 1
  nt : BitVec 1
  deriving DecidableEq, Repr

/-- Format MA (R222). -/
structure MAF where
  fn : BitVec 4
  d : BitVec 11
  base : BitVec 11
  coh : BitVec 2
  scope : BitVec 2
  ord : BitVec 2
  s : BitVec 11
  ty : BitVec 4
  rsv8 : BitVec 1
  pm : BitVec 4
  pn : BitVec 1
  flg : BitVec 1
  rsv : BitVec 1
  nt : BitVec 1
  deriving DecidableEq, Repr

/-- Format B (R223). -/
structure BF where
  fn : BitVec 4
  a : BitVec 11
  mreg : BitVec 4
  tgt : BitVec 29
  pm : BitVec 4
  pn : BitVec 1
  rsv : BitVec 3
  deriving DecidableEq, Repr

/-- Format O (R224). -/
structure OF where
  fn : BitVec 4
  d : BitVec 11
  a : BitVec 11
  b : BitVec 11
  mreg : BitVec 4
  rsv7 : BitVec 7
  pm : BitVec 4
  pn : BitVec 1
  flg : BitVec 1
  rsv : BitVec 2
  deriving DecidableEq, Repr

/-- Format X (R225). -/
structure XF where
  fn : BitVec 4
  d : BitVec 11
  a : BitVec 11
  b : BitVec 11
  tr : BitVec 4
  tc : BitVec 4
  pa : BitVec 3
  pb : BitVec 3
  rsv2 : BitVec 2
  flg : BitVec 1
  rsv : BitVec 1
  nt : BitVec 1
  deriving DecidableEq, Repr

/-- Format C (R226). -/
structure CF where
  fn : BitVec 4
  d : BitVec 11
  a : BitVec 11
  b : BitVec 11
  ch : BitVec 2
  rsv14 : BitVec 14
  flg : BitVec 1
  rsv : BitVec 2
  deriving DecidableEq, Repr

/-- Format S (R227). -/
structure SF where
  fn : BitVec 4
  d : BitVec 11
  a : BitVec 11
  csr : BitVec 12
  n : BitVec 6
  cf : BitVec 4
  pm : BitVec 4
  pn : BitVec 1
  flg : BitVec 1
  rsv : BitVec 2
  deriving DecidableEq, Repr

/-- What a scrub read finds in a sector (R84). -/
inductive ErrKind where
  | clean | correctable | uncorrectable
  deriving DecidableEq, Repr

/-- The AtomicOps a host may send (R370). -/
inductive HostOp where
  | fetchAdd | swap | cas
  deriving DecidableEq, Repr

/-- The message classes of a flit (R421). -/
inductive FlitClass where
  | request | response | grant
  deriving DecidableEq, Repr

/-- What one message of a flit says (R142 to R147, R421); addresses are peer or own device addresses. -/
inductive FabricMsg where
  /-- asks the owning device for a line of one of its pages, and for the page's grant: shared, or exclusive where store holds (R144) -/
  | want (line : Nat) (store : Bool)
  /-- the owning device has no record for the page: it takes one access at a time (R143) -/
  | bare (page : Nat)
  /-- one such access, made as WT at the owning device's home: the lane that makes it, its address there, and for an atomic its
  operation and type -/
  | access (team iss lane sb ea n : Nat) (store : Bool) (atom : Option (Nat × Nat)) (data : List Byte)
  /-- its answer: 0 performed, with a load's bytes or the old value; 1 poisoned; 2 refused admission, 3 refused for want of pool,
  with the reserve -/
  | reply (team iss lane sb status reserve : Nat) (bytes : List Byte)
  /-- a page grant from the owning device: 1 shared, 2 exclusive -/
  | pageGrant (page : Nat) (kind : Nat)
  /-- the owning device refuses the exclusive grant, with its context's reserve (R147) -/
  | pageRefuse (page : Nat) (short : Bool) (reserve : Nat)
  /-- the bytes of one line of a granted page; none where the line is poisoned -/
  | lineData (line : Nat) (bytes : List Byte)
  /-- the owning device asks for a revocation (false) or a demotion (true) of a page, in a change of its own number (R144, R145, R148) -/
  | revoke (page : Nat) (demote : Bool) (change : Nat)
  /-- a device's acknowledgement of a revocation with its dirty lines (R145) -/
  | revoked (page : Nat) (dirty : List (Nat × List Byte)) (change : Nat)
  deriving DecidableEq, Repr

/-- One flit (R421): sequence numbers, class, source device, whether its CRC-64 checks, its messages. -/
structure Flit where
  seq : BitVec 12
  ack : BitVec 12
  cls : FlitClass
  src : Nat
  crcOk : Bool
  nak : Bool
  msgs : List FabricMsg
  deriving DecidableEq, Repr

/-- One image the boot source supplies (R431). -/
structure Image where
  kind : Nat
  magic : BitVec 32
  bodyLen : Nat
  version : BitVec 16
  signerKey : List Byte
  chain : List Byte
  signature : List Byte
  headerRest : List Byte
  body : List Byte
  deriving DecidableEq, Repr

/-- What a boot meets (R430): the board strap (false: strap 0, the management Ethernet; true: strap 1, storage that a peer serves over port 0),
whether that source answered, the images in the order of R430 step 2, the root key beside them, whether the self-test passed, which cores it
disables and what else it finds bad. -/
structure BootInput where
  strap : Bool
  sourceOk : Bool
  images : List Image
  rootKey : List Byte
  selfTestOk : Bool
  selfTestDisables : List Nat
  /-- what else it finds bad: 1 a slice, 2 a pseudo-channel, 3 a port to spare, 5 a port to narrow, 4 a threshold to lower, as pseudo-channel × 1,024 + degrees (R433) -/
  selfTestAmends : List (Nat × Nat)
  deriving DecidableEq, Repr

/-- The evidence a peer complex presents (R434): its identity key and the certificate chain of it, the nonce it supplies, its evidence over
this complex's nonce with its signature, and its part of the key agreement, empty where it does not accept this complex's evidence. -/
structure PeerEvidence where
  key : List Byte
  chain : List Byte
  nonce : BitVec 256
  evidence : List Byte
  signature : List Byte
  kem : List Byte
  deriving DecidableEq, Repr

/-- The rows of spec/opcode_table.json. -/
inductive Instr where
  /-- IADD (R243). -/
  | iadd (f : VF)
  /-- ISUB (R243). -/
  | isub (f : VF)
  /-- IMUL (R243). -/
  | imul (f : VF)
  /-- IMULH (R243). -/
  | imulh (f : VF)
  /-- IMAD (R243). -/
  | imad (f : VF)
  /-- IMIN (R243). -/
  | imin (f : VF)
  /-- IMAX (R243). -/
  | imax (f : VF)
  /-- IABS (R243). -/
  | iabs (f : VF)
  /-- INEG (R243). -/
  | ineg (f : VF)
  /-- AND (R244). -/
  | and (f : VF)
  /-- OR (R244). -/
  | or (f : VF)
  /-- XOR (R244). -/
  | xor (f : VF)
  /-- NOT (R244). -/
  | not (f : VF)
  /-- SHL (R244). -/
  | shl (f : VF)
  /-- SHR (R244). -/
  | shr (f : VF)
  /-- ROT (R244). -/
  | rot (f : VF)
  /-- BFX (R245). -/
  | bfx (f : VF)
  /-- BFI (R245). -/
  | bfi (f : VF)
  /-- POPC (R245). -/
  | popc (f : VF)
  /-- CLZ (R245). -/
  | clz (f : VF)
  /-- BREV (R245). -/
  | brev (f : VF)
  /-- PRMT (R245). -/
  | prmt (f : VF)
  /-- SEL (R246). -/
  | sel (f : VF)
  /-- ICMP (R246). -/
  | icmp (f : VF)
  /-- IADD64 (R247). -/
  | iadd64 (f : VF)
  /-- ISUB64 (R247). -/
  | isub64 (f : VF)
  /-- IMAD64 (R247). -/
  | imad64 (f : VF)
  /-- LEA (R247). -/
  | lea (f : VF)
  /-- MOV (R247). -/
  | mov (f : VF)
  /-- IDOT4 (R248). -/
  | idot4 (f : VF)
  /-- ISAT (R248). -/
  | isat (f : VF)
  /-- FADD (R249). -/
  | fadd (f : VF)
  /-- FSUB (R249). -/
  | fsub (f : VF)
  /-- FMUL (R249). -/
  | fmul (f : VF)
  /-- FFMA (R249). -/
  | ffma (f : VF)
  /-- FDIV (R249). -/
  | fdiv (f : VF)
  /-- FSQRT (R249). -/
  | fsqrt (f : VF)
  /-- FRCP (R249). -/
  | frcp (f : VF)
  /-- FMIN (R250). -/
  | fmin (f : VF)
  /-- FMAX (R250). -/
  | fmax (f : VF)
  /-- FCMP (R251). -/
  | fcmp (f : VF)
  /-- FRSQ (R252). -/
  | frsq (f : VF)
  /-- FEX2 (R252). -/
  | fex2 (f : VF)
  /-- FLG2 (R252). -/
  | flg2 (f : VF)
  /-- FSIN (R252). -/
  | fsin (f : VF)
  /-- FCOS (R252). -/
  | fcos (f : VF)
  /-- FTANH (R252). -/
  | ftanh (f : VF)
  /-- FCLASS (R253). -/
  | fclass (f : VF)
  /-- FRND (R253). -/
  | frnd (f : VF)
  /-- HADD2 (R254). -/
  | hadd2 (f : VF)
  /-- HMUL2 (R254). -/
  | hmul2 (f : VF)
  /-- HFMA2 (R254). -/
  | hfma2 (f : VF)
  /-- HMIN2 (R254). -/
  | hmin2 (f : VF)
  /-- HMAX2 (R254). -/
  | hmax2 (f : VF)
  /-- FCVT (R255). -/
  | fcvt (f : VF)
  /-- FCVTI (R256). -/
  | fcvti (f : VF)
  /-- ICVTF (R257). -/
  | icvtf (f : VF)
  /-- ICVT (R258). -/
  | icvt (f : VF)
  /-- MAND (R265). -/
  | mand (f : VF)
  /-- MOR (R265). -/
  | mor (f : VF)
  /-- MXOR (R265). -/
  | mxor (f : VF)
  /-- MNOT (R265). -/
  | mnot (f : VF)
  /-- MMOV (R265). -/
  | mmov (f : VF)
  /-- MPOP (R266). -/
  | mpop (f : VF)
  /-- MFIRST (R266). -/
  | mfirst (f : VF)
  /-- VOTE (R266). -/
  | vote (f : VF)
  /-- SHFL (R267). -/
  | shfl (f : VF)
  /-- BCAST (R268). -/
  | bcast (f : VF)
  /-- LRED (R269). -/
  | lred (f : VF)
  /-- LSCAN (R270). -/
  | lscan (f : VF)
  /-- GADD (R259). -/
  | gadd (f : VF)
  /-- GSUB (R259). -/
  | gsub (f : VF)
  /-- GMUL (R259). -/
  | gmul (f : VF)
  /-- GAND (R259). -/
  | gand (f : VF)
  /-- GOR (R259). -/
  | gor (f : VF)
  /-- GXOR (R259). -/
  | gxor (f : VF)
  /-- GSHL (R259). -/
  | gshl (f : VF)
  /-- GSHR (R259). -/
  | gshr (f : VF)
  /-- GCMP (R259). -/
  | gcmp (f : VF)
  /-- GMOV (R259). -/
  | gmov (f : VF)
  /-- GSEL (R259). -/
  | gsel (f : VF)
  /-- GADD64 (R259). -/
  | gadd64 (f : VF)
  /-- GMIN (R259). -/
  | gmin (f : VF)
  /-- GMAX (R259). -/
  | gmax (f : VF)
  /-- GFOP (R260). -/
  | gfop (f : VF)
  /-- GLDK (R261). -/
  | gldk (f : VF)
  /-- BRA (R274). -/
  | bra (f : BF)
  /-- BRM (R274). -/
  | brm (f : BF)
  /-- BRG (R274). -/
  | brg (f : BF)
  /-- CALL (R277). -/
  | call (f : BF)
  /-- CALLI (R277). -/
  | calli (f : OF)
  /-- RET (R278). -/
  | ret (f : OF)
  /-- JMPI (R278). -/
  | jmpi (f : OF)
  /-- MBEGIN (R182). -/
  | mbegin (f : OF)
  /-- MLEAVE (R281). -/
  | mleave (f : OF)
  /-- MWAIT (R182). -/
  | mwait (f : OF)
  /-- EXIT (R282). -/
  | exit (f : OF)
  /-- REGROUP (R285). -/
  | regroup (f : OF)
  /-- PRIO (R283). -/
  | prio (f : OF)
  /-- YIELD (R284). -/
  | yield (f : OF)
  /-- PUSHM (R279). -/
  | pushm (f : OF)
  /-- POPM (R279). -/
  | popm (f : OF)
  /-- LD (R292). -/
  | ld (f : MF)
  /-- ST (R293). -/
  | st (f : MF)
  /-- LDK (R296). -/
  | ldk (f : MF)
  /-- LDP (R295). -/
  | ldp (f : MF)
  /-- STP (R295). -/
  | stp (f : MF)
  /-- ATOM (R298). -/
  | atom (f : MAF)
  /-- RED (R298). -/
  | red (f : MAF)
  /-- PREF (R302). -/
  | pref (f : MF)
  /-- FENCE (R158). -/
  | fence (f : MF)
  /-- PFENCE (R161). -/
  | pfence (f : MF)
  /-- WBACK (R67). -/
  | wback (f : MF)
  /-- BINFO (R305). -/
  | binfo (f : MF)
  /-- RSVQ (R306). -/
  | rsvq (f : MF)
  /-- PGYIELD (R63). -/
  | pgyield (f : MF)
  /-- MARK (R308). -/
  | mark (f : MF)
  /-- RESID (R303). -/
  | resid (f : MF)
  /-- SLD (R311). -/
  | sld (f : MF)
  /-- SST (R311). -/
  | sst (f : MF)
  /-- SATOM (R312). -/
  | satom (f : MAF)
  /-- SALLOC (R102). -/
  | salloc (f : OF)
  /-- SFREE (R107). -/
  | sfree (f : OF)
  /-- SRENEW (R105). -/
  | srenew (f : OF)
  /-- SAGE (R106). -/
  | sage (f : OF)
  /-- BAR (R314). -/
  | bar (f : OF)
  /-- QPERM (R318). -/
  | qperm (f : OF)
  /-- QPOST (R318). -/
  | qpost (f : OF)
  /-- QTAKE (R318). -/
  | qtake (f : OF)
  /-- QFREE (R318). -/
  | qfree (f : OF)
  /-- QINIT (R318). -/
  | qinit (f : OF)
  /-- QSTAT (R319). -/
  | qstat (f : OF)
  /-- CPY (R324). -/
  | cpy (f : CF)
  /-- CPWP (R328). -/
  | cpwp (f : CF)
  /-- TSR (R327). -/
  | tsr (f : CF)
  /-- CPFILL (R324). -/
  | cpfill (f : CF)
  /-- CPCANCEL (R331). -/
  | cpcancel (f : CF)
  /-- COPY_SEGMENT (R321). -/
  | copySegment (core : Nat) (ch : Nat)
  /-- XMMA (R342). -/
  | xmma (f : XF)
  /-- XZERO (R345). -/
  | xzero (f : XF)
  /-- XFILL (R345). -/
  | xfill (f : XF)
  /-- XRD (R345). -/
  | xrd (f : XF)
  /-- XWR (R345). -/
  | xwr (f : XF)
  /-- XSCALE (R345). -/
  | xscale (f : XF)
  /-- XDRAIN (R346). -/
  | xdrain (f : XF)
  /-- XQUANT (R348). -/
  | xquant (f : XF)
  /-- MATRIX_COMMAND (R340). -/
  | matrixCommand (core : Nat)
  /-- NOP (R353). -/
  | nop (f : SF)
  /-- CSRR (R354). -/
  | csrr (f : SF)
  /-- CSRW (R354). -/
  | csrw (f : SF)
  /-- RSVADD_TRANSFER (R60). -/
  | rsvaddTransfer (ctx : Nat) (amount : BitVec 37)
  /-- HINTDROP_READ (R27). -/
  | hintdropRead (ctx : Nat)
  /-- TRAP (R361). -/
  | trap (f : SF)
  /-- BRK (R361). -/
  | brk (f : SF)
  /-- TRET_REPLAY (R362). -/
  | tretReplay (f : SF)
  /-- TRET_SKIP (R362). -/
  | tretSkip (f : SF)
  /-- LAUNCH (R366). -/
  | launch (f : SF)
  /-- CLOCK (R363). -/
  | clock (f : SF)
  /-- SLEEP (R364). -/
  | sleep (f : SF)
  /-- SLEEP_END (R364). -/
  | sleepEnd (team : Nat) (tid : Nat)
  /-- WAITF (R365). -/
  | waitf (f : SF)
  /-- ISSUE (R150). -/
  | issue (core : Nat) (slot : Nat)
  /-- CLAUSE_FETCH (R211). -/
  | clauseFetch (team : Nat) (tid : Nat)
  /-- LOCAL (R151). -/
  | localLoad (team : Nat) (iss : Nat) (lane : Nat)
  /-- SEND (R150). -/
  | send (team : Nat) (iss : Nat) (lane : Nat)
  /-- ENTER (R150). -/
  | enter (team : Nat) (iss : Nat) (lane : Nat)
  /-- LEAVE (R150). -/
  | leave (core : Nat) (entry : Nat)
  /-- STORE_ACK (R150). -/
  | storeAck (core : Nat) (slice : Nat)
  /-- OWNERSHIP_GRANT (R138). -/
  | ownershipGrant (core : Nat) (slice : Nat)
  /-- ADMISSION_REFUSED (R53). -/
  | admissionRefused (core : Nat) (slice : Nat)
  /-- LOAD_REPLY (R150). -/
  | loadReply (core : Nat) (slice : Nat)
  /-- COMPLETE (R150). -/
  | complete (team : Nat) (iss : Nat)
  /-- PORT (R96). -/
  | port (core : Nat) (row : Nat)
  /-- TICK (R99). -/
  | tick
  /-- WALK (R18). -/
  | walk (core : Nat) (walker : Nat)
  /-- ADMISSION_REQUEST (R45). -/
  | admissionRequest (line : Nat)
  /-- HOME_LOAD_FILL (R124). -/
  | homeLoadFill (core : Nat) (line : Nat)
  /-- HOME_SIS_FILL (R124). -/
  | homeSisFill (core : Nat) (line : Nat)
  /-- HOME_WT_LOAD (R124). -/
  | homeWtLoad (core : Nat) (line : Nat)
  /-- OWNERSHIP_REQUEST (R124). -/
  | ownershipRequest (core : Nat) (line : Nat)
  /-- HOME_WRITE (R124). -/
  | homeWrite (core : Nat) (line : Nat)
  /-- HOME_ATOMIC (R298). -/
  | homeAtomic (core : Nat) (line : Nat)
  /-- WALK_READ (R124). -/
  | walkRead (core : Nat) (ea : Nat)
  /-- RELEASE (R124). -/
  | release (core : Nat) (line : Nat)
  /-- EVICTION_NOTICE (R124). -/
  | evictionNotice (core : Nat) (line : Nat)
  /-- INVALIDATION (R137). -/
  | invalidation (core : Nat) (slice : Nat)
  /-- INVALIDATION_ACK (R137). -/
  | invalidationAck (core : Nat) (line : Nat)
  /-- RECALL (R125). -/
  | recall (core : Nat) (slice : Nat)
  /-- RECALL_REPLY (R140). -/
  | recallReply (core : Nat) (line : Nat)
  /-- LEASE_KILL (R134). -/
  | leaseKill (core : Nat) (page : Nat)
  /-- CLOSE_MESSAGE (R50). -/
  | closeMessage (core : Nat) (slice : Nat)
  /-- CLOSE_ACK (R46). -/
  | closeAck (core : Nat) (billet : Nat)
  /-- BILLET_CLOSE (R46). -/
  | billetClose (billet : Nat)
  /-- L1_EVICTION (R72). -/
  | l1Eviction (core : Nat) (line : Nat)
  /-- L2_EVICTION (R76). -/
  | l2Eviction (line : Nat)
  /-- TRANSLATION_EVICTION (R21). -/
  | translationEviction (core : Nat) (idx : Nat)
  /-- FILTER_EVICTION (R48). -/
  | filterEviction (core : Nat) (billet : Nat)
  /-- COMPACTION (R42). -/
  | compaction (billet : Nat) (frame : Nat)
  /-- PATROL_SCRUB (R84). -/
  | patrolScrub (billet : Nat) (found : ErrKind)
  /-- CHIPPER_SELECT (R89). -/
  | chipperSelect (page : Nat)
  /-- DEMOTION_COPY (R90). -/
  | demotionCopy (page : Nat)
  /-- FREEZE (R90). -/
  | freeze (page : Nat)
  /-- DEMOTION_ABANDON (R90). -/
  | demotionAbandon (page : Nat)
  /-- PROMOTION (R91). -/
  | promotion (page : Nat)
  /-- PROMOTION_COMMIT (R91). -/
  | promotionCommit (page : Nat)
  /-- LEASE_SWEEP (R131). -/
  | leaseSweep (core : Nat)
  /-- EXPIRY_SWEEP (R108). -/
  | expirySweep (core : Nat)
  /-- TEMPERATURE_READING (R100). -/
  | temperatureReading (core : Nat) (deciC : Nat)
  /-- BAND_FALL (R100). -/
  | bandFall (core : Nat)
  /-- GOVERNOR_INTERVAL (R179). -/
  | governorInterval (core : Nat) (khz : Nat)
  /-- KEEPALIVE_RENEW (R113). -/
  | keepaliveRenew (team : Nat)
  /-- KEEPALIVE_END (R113). -/
  | keepaliveEnd (team : Nat)
  /-- RETENTION_SLEEP (R111). -/
  | retentionSleep (core : Nat)
  /-- RETENTION_WAKE (R111). -/
  | retentionWake (core : Nat)
  /-- EMERGENCY_RETENTION_SLEEP (R110). -/
  | emergencyRetentionSleep (core : Nat)
  /-- POWER_CAP_EXCEEDED (R436). -/
  | powerCapExceeded (enough : Bool) (emergency : Bool)
  /-- QNOTIFY (R369). -/
  | qnotify (vd : Nat) (n : Nat) (q : Nat) (idx : BitVec 64)
  /-- PACKET_TAKE_UP (R372). -/
  | packetTakeUp (ctx : Nat) (q : Nat)
  /-- DEPENDENCE_MET (R372). -/
  | dependenceMet (ctx : Nat) (q : Nat) (idx : Nat)
  /-- TEAM_PLACEMENT (R375). -/
  | teamPlacement (ctx : Nat) (q : Nat) (idx : Nat) (core : Nat)
  /-- TEAM_RETIRE (R176). -/
  | teamRetire (team : Nat)
  /-- PACKET_COMPLETE (R372). -/
  | packetComplete (ctx : Nat) (q : Nat) (idx : Nat)
  /-- PREEMPTIVE_DESCHEDULE (R376). -/
  | preemptiveDeschedule (ctx : Nat) (q : Nat) (idx : Nat) (core : Nat)
  /-- TEAM_STOP (R380). -/
  | teamStop (team : Nat)
  /-- STOP_TIMEOUT (R380). -/
  | stopTimeout (team : Nat)
  /-- TEAM_DRAIN (R381). -/
  | teamDrain (team : Nat)
  /-- TEAM_RESUME (R386). -/
  | teamResume (ctx : Nat) (entry : Nat) (core : Nat)
  /-- THROTTLE_HANDOFF (R378). -/
  | throttleHandoff (core : Nat) (slot : Nat)
  /-- LOOKOUT (R388). -/
  | lookout (team : Nat)
  /-- TRAP_DELIVERY (R391). -/
  | trapDelivery (team : Nat) (tid : Nat)
  /-- TEAM_KILL (R400). -/
  | teamKill (team : Nat)
  /-- HOST_APERTURE_WRITE (R411). -/
  | hostApertureWrite (da : Nat) (bytes : List Byte)
  /-- HOST_APERTURE_READ (R411). -/
  | hostApertureRead (da : Nat) (len : Nat)
  /-- HOST_ATOMICOP (R370). -/
  | hostAtomicop (op : HostOp) (da : Nat) (wide : Bool) (a : BitVec 64) (b : BitVec 64)
  /-- HOST_COMPLETION_ERROR (R412). -/
  | hostCompletionError (team : Nat) (iss : Nat) (lane : Nat)
  /-- HOST_COMPLETION_TIMEOUT (R412). -/
  | hostCompletionTimeout (team : Nat) (iss : Nat) (lane : Nat)
  /-- THINNING_DOORBELL (R62). -/
  | thinningDoorbell (ctx : Nat)
  /-- CTX_BIND (R414). -/
  | ctxBind (vd : Nat) (n : Nat) (ccb : BitVec 64)
  /-- CTX_DESTROY (R414). -/
  | ctxDestroy (vd : Nat) (n : Nat)
  /-- CTX_KILL_TEAM (R414). -/
  | ctxKillTeam (vd : Nat) (n : Nat) (q : Nat) (idx : Nat) (team : Nat)
  /-- CTX_DESCHEDULE_TEAM (R414). -/
  | ctxDescheduleTeam (vd : Nat) (n : Nat) (q : Nat) (idx : Nat) (team : Nat)
  /-- CTX_DEBUG_REPLAY (R414). -/
  | ctxDebugReplay (vd : Nat) (n : Nat) (pslot : Nat)
  /-- CTX_DEBUG_SKIP (R414). -/
  | ctxDebugSkip (vd : Nat) (n : Nat) (pslot : Nat)
  /-- CTX_RELOAD_IMAGES (R414). -/
  | ctxReloadImages (vd : Nat) (n : Nat)
  /-- CTX_RESERVE_TRANSFER (R414). -/
  | ctxReserveTransfer (vd : Nat) (n : Nat) (amount : BitVec 37)
  /-- BACK (R418). -/
  | back (vd : Nat) (n : Nat) (page : Nat)
  /-- BACK_FIXED_SIZE (R418). -/
  | backFixedSize (vd : Nat) (n : Nat) (page : Nat)
  /-- UNBACK (R418). -/
  | unback (vd : Nat) (n : Nat) (page : Nat)
  /-- REASSIGN (R30). -/
  | reassign (vd : Nat) (n : Nat) (page : Nat)
  /-- CHIPPER_DEMOTE (R419). -/
  | chipperDemote (page : Nat)
  /-- CHIPPER_PROMOTE (R419). -/
  | chipperPromote (page : Nat)
  /-- LM_TRACK (R426). -/
  | lmTrack (vd : Nat) (on : Bool)
  /-- LM_STOP (R427). -/
  | lmStop (vd : Nat)
  /-- LM_STOP_COMPLETE (R427). -/
  | lmStopComplete (vd : Nat)
  /-- LM_STOP_RELEASE (R427). -/
  | lmStopRelease (vd : Nat)
  /-- DIRTY_WORD_READ (R426). -/
  | dirtyWordRead (vd : Nat) (word : Nat)
  /-- HRLOST_READ (R417). -/
  | hrlostRead
  /-- BPSTAT_READ (R424). -/
  | bpstatRead (port : Nat)
  /-- PCAPL_WRITE (R435). -/
  | pcaplWrite (v : BitVec 32)
  /-- PCAPR_WRITE (R435). -/
  | pcaprWrite (v : BitVec 32)
  /-- REGISTER_WRITE (R5). -/
  | registerWrite (vd : Nat) (off : Nat) (v : BitVec 64)
  /-- PEER_LOAD (R144). -/
  | peerLoad (dev : Nat) (line : Nat)
  /-- PEER_STORE (R147). -/
  | peerStore (dev : Nat) (page : Nat)
  /-- LOCAL_PAGE_ACCESS (R144). -/
  | localPageAccess (page : Nat) (store : Bool)
  /-- REVOCATION (R145). -/
  | revocation (dev : Nat) (page : Nat)
  /-- REVOCATION_ACK (R145) of a change: the page and the number of the change of its grant (R148). -/
  | revocationAck (dev : Nat) (change : Nat × Nat) (dirty : List (Nat × List Byte))
  /-- REVOCATION_TIMEOUT (R148). -/
  | revocationTimeout (page : Nat)
  /-- FLIT_RECEIVE (R421). -/
  | flitReceive (port : Nat) (flit : Flit)
  /-- NAK_REPLAY (R422). -/
  | nakReplay (port : Nat) (seq : Nat)
  /-- PORT_RECOVERY (R422). -/
  | portRecovery (port : Nat) (good : Nat) (spareGood : Bool)
  /-- RECOVERY_TIMEOUT (R422). -/
  | recoveryTimeout (port : Nat)
  /-- REQUEST_GIVE_UP (R423). -/
  | requestGiveUp (team : Nat) (iss : Nat) (lane : Nat)
  /-- HALF_WIDTH_ENTRY (R83). -/
  | halfWidthEntry (pc : Nat) (laneFault : Bool)
  /-- FULL_WIDTH_RETURN (R83). -/
  | fullWidthReturn (pc : Nat)
  /-- POWER_ON (R430). -/
  | powerOn (boot : BootInput)
  /-- SPDM_CHALLENGE (R434). -/
  | spdmChallenge (nonce : BitVec 256)
  /-- MIGRATION_KEY_AGREEMENT (R434). -/
  | migrationKeyAgreement (peer : PeerEvidence)
  /-- PAGE_EXPORT (R428). -/
  | pageExport (vd : Nat) (page : Nat)
  /-- PAGE_IMPORT (R428). -/
  | pageImport (vd : Nat) (n : Nat) (page : Nat) (image : List Byte)
  /-- KEY_SLOT_FILL (R29). -/
  | keySlotFill (slot : Nat)
  /-- KEY_SLOT_RELEASE (R29). -/
  | keySlotRelease (slot : Nat)
  /-- AGEING_READ (R437). -/
  | ageingRead (die : Nat) (eold : Nat) (wear : Nat)
  /-- LEASE_KILL_ACK (R134). -/
  | leaseKillAck (core : Nat) (page : Nat)
  /-- RECOVERY_END (R422). -/
  | recoveryEnd (port : Nat)
  /-- HOST_COMPLETION (R167). -/
  | hostCompletion (team : Nat) (iss : Nat) (lane : Nat) (bytes : List Byte)
  /-- SUB_ARRAY_POWER_DOWN (R349). -/
  | subArrayPowerDown (core : Nat)
  deriving DecidableEq, Repr

end Sys2Proof
end

