-- ==== Sys2Proof/WellFormed.lean ====
section
/-! DEFINITION. Which field values an instruction may hold, whatever the machine's state (R212 to R232 and the
tables of spec 10 to 15): `Instr.form` gives for each instruction whether its fixed fields are in order and which
operands it names; `Instr.wellFormed` is the check. The parts that need the team's footprint or the clause's
literals are in Machine/Operands.lean. -/

namespace Sys2Proof

/-- What an 11-bit operand code names (R216). -/
inductive OpKind where
  | v (n : Nat) | g (n : Nat) | m (k : Nat) | lit (j : Nat) | srT (k : Nat) | srG (k : Nat) | inl (c : Nat) | reserved
  deriving DecidableEq, Repr

/-- R216, R217: the five per-thread special registers are codes 1178 to 1182. -/
def opKind (code : BitVec 11) : OpKind :=
  let c := code.toNat
  if c < 640 then .v c
  else if c < 1152 then .g (c - 640)
  else if c < 1164 then .m (c - 1152)
  else if c < 1178 then .lit (c - 1164)
  else if c < 1183 then .srT (c - 1178)
  else if c < 1191 then .srG (c - 1178)
  else if c < 1536 then .reserved
  else .inl c

/-- Which kinds of operand a position accepts. -/
structure Kinds where
  v : Bool := false
  g : Bool := false
  m : Bool := false
  lit : Bool := false
  srT : Bool := false
  srG : Bool := false
  inl : Bool := false
  deriving DecidableEq, Repr

/-- Any 32-bit source (R219). -/
def Kinds.any : Kinds := ⟨true, true, true, true, true, true, true⟩
/-- A 64-bit source: no mask and no special register (R219). -/
def Kinds.wide : Kinds := ⟨true, true, false, true, false, false, true⟩
/-- A uniform 32-bit source (R219). -/
def Kinds.uni : Kinds := ⟨false, true, true, true, false, true, true⟩
/-- A uniform 64-bit source: a g pair, a 64-bit literal or an inline value. -/
def Kinds.uniWide : Kinds := ⟨false, true, false, true, false, false, true⟩
/-- "Uniform" in the system class: a g register, literal or inline value (R351). -/
def Kinds.sys : Kinds := ⟨false, true, false, true, false, false, true⟩
def Kinds.vOnly : Kinds := { v := true }
def Kinds.gOnly : Kinds := { g := true }
def Kinds.mOnly : Kinds := { m := true }
def Kinds.vg : Kinds := { v := true, g := true }
def Kinds.vm : Kinds := { v := true, m := true }

/-- One operand of an instruction: its code, how many registers it spans, what it may be, whether it is written,
whether it stands in a float position (R218). -/
structure Use where
  code : BitVec 11
  span : Nat
  kinds : Kinds
  dst : Bool := false
  float : Bool := false
  deriving DecidableEq, Repr

/-- A block of k consecutive v registers (R225, R279) has no alignment; a pair is even, a quad a multiple of 4 (R219). -/
def Use.aligned (u : Use) (n : Nat) : Bool :=
  if u.span == 2 then n % 2 == 0 else if u.span == 4 then n % 4 == 0 else true

/-- The checks of R219 that need no state. -/
def Use.ok (u : Use) : Bool :=
  match opKind u.code with
  | .v n => u.kinds.v && u.aligned n
  | .g n => u.kinds.g && (u.span == 4 || u.aligned n)
  | .m _ => u.kinds.m
  | .lit j => u.kinds.lit && u.aligned j
  | .srT _ => u.kinds.srT
  | .srG _ => u.kinds.srG
  | .inl c => u.kinds.inl && (!u.float || c < 1600)
  | .reserved => false

/-- The form of an instruction: whether its fixed fields are in order, and its operands. -/
structure Form where
  fixed : Bool
  uses : List Use
  deriving DecidableEq, Repr

/-- A field a row does not use must be zero (R220 to R227). -/
def unused {w : Nat} (b : BitVec w) : Bool := b == 0

def pmOk (pm : BitVec 4) : Bool := pm.toNat ≤ 12
def pmAll (pm : BitVec 4) (pn : BitVec 1) : Bool := pm == 12 && pn == 0

/-- R228: the type codes of 64-bit values. -/
def wideTy (t : Nat) : Bool := t == 2 || t == 3 || t == 9
/-- Registers a value of type code t fills. -/
def tySpan (t : Nat) : Nat := if wideTy t then 2 else if t == 10 then 4 else 1
/-- Bytes of a value of type code t (R228). -/
def tyBytes (t : Nat) : Nat :=
  if wideTy t then 8 else if t == 10 then 16
  else if t == 4 || t == 5 || t == 11 || t == 14 || t == 15 then 2
  else if t == 6 || t == 7 || t == 12 then 1 else 4

def vdst (c : BitVec 11) (span : Nat := 1) : Use := { code := c, span := span, kinds := .vOnly, dst := true }
def gdst (c : BitVec 11) (span : Nat := 1) : Use := { code := c, span := span, kinds := .gOnly, dst := true }
def src (c : BitVec 11) (span : Nat := 1) : Use :=
  { code := c, span := span, kinds := if span == 1 then .any else if span == 2 then .wide else .vOnly }
def fsrc (c : BitVec 11) : Use := { code := c, span := 1, kinds := .any, float := true }
def usrc (c : BitVec 11) (span : Nat := 1) : Use :=
  { code := c, span := span, kinds := if span == 1 then .uni else .uniWide }
def ufsrc (c : BitVec 11) : Use := { code := c, span := 1, kinds := .uni, float := true }

/-- Vector class: PM at most 12, SAT only where the row defines it (R220, R242). -/
def vecForm (f : VF) (sat : Bool) (fixed : Bool) (uses : List Use) : Form :=
  ⟨pmOk f.pm && (sat || f.sat == 0) && fixed, uses⟩
/-- Uniform class: PM 12, PN 0, HOLD 0 (R220). -/
def uniForm (f : VF) (sat : Bool) (fixed : Bool) (uses : List Use) : Form :=
  ⟨pmAll f.pm f.pn && f.hold == 0 && (sat || f.sat == 0) && fixed, uses⟩

def VF.ty (f : VF) : Nat := f.fn.toNat
/-- FN[1:0] of a float instruction (R229). -/
def VF.fty (f : VF) : Nat := f.fn.toNat % 4
/-- FN[3:2], the rounding mode (R229). -/
def VF.rnd (f : VF) : Nat := f.fn.toNat / 4
/-- R230: CND in C[3:0] of the field, the rest zero. -/
def VF.cnd (f : VF) : Nat := f.c.toNat % 16
def VF.cndOk (f : VF) (n : Nat) : Bool := f.c.toNat < n
/-- R230: the type of lred and lscan. -/
def VF.redTy (f : VF) : Nat := f.c.toNat
def redTyOk (op ty : Nat) : Bool :=
  if op == 6 then ty == 13 else if op == 3 || op == 4 || op == 5 then ty == 8 else (op < 3) && (ty == 0 || ty == 1)
/-- Conversions: destination and source type codes in the B field (R229). -/
def VF.cvtDst (f : VF) : Nat := f.b.toNat / 128
def VF.cvtSrc (f : VF) : Nat := f.b.toNat / 8 % 16
def VF.cvtOk (f : VF) : Bool := f.b.toNat % 8 == 0 && f.fn.toNat % 4 == 0 && unused f.c && f.cvtDst != f.cvtSrc
def isFloatTy (t : Nat) : Bool := 13 ≤ t && t ≤ 15
def isIntTy (t : Nat) : Bool := t < 8

def intTys : List Nat := [0, 1]

def loadSet (t : Nat) : Bool := [6, 7, 4, 5, 8, 9, 10].contains t
def storeSet (t : Nat) : Bool := [12, 11, 8, 9, 10].contains t

/-- An address pair of a global-memory instruction: an even v or g code (R198, R221). -/
def addr64 (c : BitVec 11) : Use := { code := c, span := 2, kinds := .vg }
/-- A scratchpad address register: a v or g code of either parity (R198, R310). -/
def addr32 (c : BitVec 11) : Use := { code := c, span := 1, kinds := .vg }

/-- M-format fields that a row marks with a dash. -/
def MF.plain (f : MF) : Bool := f.coh == 0 && f.scope == 0 && f.ord == 0 && f.nt == 0
def MF.ordScopeZero (f : MF) : Bool := f.scope == 0 && f.ord == 0
def MF.ty (f : MF) : Nat := f.fn.toNat

/-- R229: the legal pairs of an atomic's operation and type. -/
def atomPairOk (op ty : Nat) : Bool :=
  if op ≤ 2 then [0, 1, 2, 3, 13].contains ty
  else if op ≤ 5 then [8, 9].contains ty
  else if op ≤ 7 then [8, 9, 10].contains ty
  else if op ≤ 9 then ty == 1 else false

/-- The data operands of an atomic (R222, R297): a register of its width, or a literal or inline value for 32 and 64
bits; for .cas a register and the one after it. A 128-bit one is a v quad or four g registers from any g code: R219 asks for alignment of the
v code alone (log 95). -/
def atomData (f : MAF) : List Use :=
  let ty := f.ty.toNat
  let k := tySpan ty
  -- the swap value is the next register of the same kind: v behind v, g behind g
  let next : Kinds := if opKind f.s matches .v _ then .vOnly else .vg
  if f.fn == 7 then
    [{ code := f.s, span := k, kinds := .vg }, { code := f.s + BitVec.ofNat 11 k, span := k, kinds := next }]
  else [{ code := f.s, span := k, kinds := if k == 4 then .vg else ⟨true, true, false, true, false, false, true⟩,
          float := ty == 13 }]

/-- The control/status registers that have a number (R355): width in bits. -/
def csrWidth (n : Nat) : Option Nat :=
  if n ≤ 7 then some 32
  else if n == 0x11 || n == 0x12 || n == 0x16 || n == 0x19 then some 32
  else if (0x10 ≤ n && n ≤ 0x18) || (0x20 ≤ n && n ≤ 0x23) || (0x30 ≤ n && n ≤ 0x37) then some 64
  else none

def csrSpan (n : BitVec 12) : Nat := if csrWidth n.toNat == some 64 then 2 else 1

def OF.zeros (f : OF) (d a b mreg pred flg : Bool) : Bool :=
  f.fn == 0 && f.rsv7 == 0 && f.rsv == 0 && (d || unused f.d) && (a || unused f.a) && (b || unused f.b) &&
  (if mreg then f.mreg.toNat < 12 else unused f.mreg) && (flg || unused f.flg) &&
  (if pred then pmOk f.pm else pmAll f.pm f.pn)

def SF.zeros (f : SF) (d a csr n cf pred flg : Bool) : Bool :=
  f.rsv == 0 && (d || unused f.d) && (a || unused f.a) && (csr || unused f.csr) && (n || unused f.n) &&
  (cf || unused f.cf) && (flg || unused f.flg) && (if pred then pmOk f.pm else pmAll f.pm f.pn)

def XF.zeros (f : XF) (d a b pa pb nt : Bool) : Bool :=
  f.rsv2 == 0 && f.rsv == 0 && f.tr.toNat ≤ 12 && f.tc.toNat ≤ 12 && (d || unused f.d) && (a || unused f.a) &&
  (b || unused f.b) && (pa || unused f.pa) && (pb || unused f.pb) && (nt || unused f.nt)

/-- Copy operands (R226, R323): a memory operand, a scratchpad operand. -/
def copyOperand (scratch : Bool) (c : BitVec 11) : Use := usrc c (if scratch then 1 else 2)

/-- cpy (R323): FN[3] the source space, FN[2] the destination space, FN[1] shaped. -/
def cpyForm (f : CF) : Form :=
  let s := f.fn.getLsbD 3
  let d := f.fn.getLsbD 2
  let sh := f.fn.getLsbD 1
  let fixed := !f.fn.getLsbD 0 && f.rsv14 == 0 && f.rsv == 0
  if sh then
    ⟨fixed && (s != d) && (if s then unused f.d else unused f.a),
     (if s then [copyOperand true f.a] else [copyOperand true f.d]) ++ [copyOperand false f.b]⟩
  else ⟨fixed, [copyOperand d f.d, copyOperand s f.a, usrc f.b]⟩

def cpfillForm (f : CF) : Form :=
  let d := f.fn.getLsbD 2
  let sh := f.fn.getLsbD 1
  let fixed := !f.fn.getLsbD 0 && !f.fn.getLsbD 3 && f.rsv14 == 0 && f.rsv == 0
  if sh then ⟨fixed && !d && unused f.d, [usrc f.a, copyOperand false f.b]⟩
  else ⟨fixed, [copyOperand d f.d, usrc f.a, usrc f.b]⟩

/-- xdrain (R338): FN 0 to v registers, 1 and 5 to the scratchpad, 2 and 6 to memory. -/
def xdrainForm (f : XF) : Form :=
  match f.fn.toNat with
  | 0 => ⟨f.zeros true false false false false false, [vdst f.d 128]⟩
  | 1 => ⟨f.zeros false true false false false false, [usrc f.a]⟩
  | 5 => ⟨f.zeros false true false true false false && f.pa.toNat ≤ 1, [usrc f.a]⟩
  | 2 => ⟨f.zeros false true true false false true && f.b.toNat ≤ 3 && (f.a == 1792 || (opKind f.a matches .g _)),
          [{ code := f.a, span := 2, kinds := ⟨false, true, false, false, false, false, true⟩ }]⟩
  | 6 => ⟨f.zeros false true true true false true && f.pa.toNat ≤ 1 && f.b.toNat ≤ 3 && (f.a == 1792 || (opKind f.a matches .g _)),
          [{ code := f.a, span := 2, kinds := ⟨false, true, false, false, false, false, true⟩ }]⟩
  | _ => ⟨false, []⟩

/-- The registers pushm and popm move: k from the inline code 1,793 to 1,824 (R273). -/
def frameCount (b : BitVec 11) : Nat := b.toNat - 1792
def frameOk (b : BitVec 11) : Bool := 1793 ≤ b.toNat && b.toNat ≤ 1824
/-- A block use of k registers that needs no alignment: k single-register uses. -/
def blockUses (a : BitVec 11) (k : Nat) (dst : Bool) : List Use :=
  (List.range k).map fun i => { code := a + BitVec.ofNat 11 i, span := 1, kinds := .vOnly, dst := dst }

/-- Bounds of the choices a hardware step names. -/
def okCore (c : Nat) : Bool := c < 640
def okSlot (c : Nat) : Bool := c < 4
def okSlice (c : Nat) : Bool := c < 512
/-- One of the 1,024 key slots (R29). -/
def okKey (c : Nat) : Bool := c < 1024
def okPort (c : Nat) : Bool := c < 18
def okVd (c : Nat) : Bool := c < 32

/-- The form of each instruction (R219 to R232 and the tables of spec 10 to 15); a hardware step has no operands, and
its choices lie in the part's ranges. The 32-bit data of st, stp and sst may be an m code or a special register beside what R221 lists, since R291
says any 32-bit source (DESIGN CHOICE, log 113). The uniform A of brg may be an m code or a special register of the whole group beside what R223
lists, since R273 makes only a per-thread A illegal (DESIGN CHOICE, log 114). -/
def Instr.form : Instr → Form
  | .iadd f => vecForm f true (intTys.contains f.ty && unused f.c) [vdst f.d, src f.a, src f.b]
  | .isub f => vecForm f true (intTys.contains f.ty && unused f.c) [vdst f.d, src f.a, src f.b]
  | .imul f => vecForm f true (intTys.contains f.ty && unused f.c) [vdst f.d, src f.a, src f.b]
  | .imulh f => vecForm f false (intTys.contains f.ty && unused f.c) [vdst f.d, src f.a, src f.b]
  | .imad f => vecForm f true (intTys.contains f.ty) [vdst f.d, src f.a, src f.b, src f.c]
  | .imin f => vecForm f false (intTys.contains f.ty && unused f.c) [vdst f.d, src f.a, src f.b]
  | .imax f => vecForm f false (intTys.contains f.ty && unused f.c) [vdst f.d, src f.a, src f.b]
  | .iabs f => vecForm f true ([0].contains f.ty && unused f.b && unused f.c) [vdst f.d, src f.a]
  | .ineg f => vecForm f true ([0].contains f.ty && unused f.b && unused f.c) [vdst f.d, src f.a]
  | .and f => vecForm f false ([8, 9].contains f.ty && unused f.c) [vdst f.d (tySpan f.ty), src f.a (tySpan f.ty), src f.b (tySpan f.ty)]
  | .or f => vecForm f false ([8, 9].contains f.ty && unused f.c) [vdst f.d (tySpan f.ty), src f.a (tySpan f.ty), src f.b (tySpan f.ty)]
  | .xor f => vecForm f false ([8, 9].contains f.ty && unused f.c) [vdst f.d (tySpan f.ty), src f.a (tySpan f.ty), src f.b (tySpan f.ty)]
  | .not f => vecForm f false ([8, 9].contains f.ty && unused f.b && unused f.c) [vdst f.d (tySpan f.ty), src f.a (tySpan f.ty)]
  | .shl f => vecForm f false ([8, 9].contains f.ty && unused f.c) [vdst f.d (tySpan f.ty), src f.a (tySpan f.ty), src f.b]
  | .shr f => vecForm f false ([0, 1, 2, 3].contains f.ty && unused f.c) [vdst f.d (tySpan f.ty), src f.a (tySpan f.ty), src f.b]
  | .rot f => vecForm f false ([8].contains f.ty && unused f.c) [vdst f.d, src f.a, src f.b]
  | .bfx f => vecForm f false (intTys.contains f.ty && unused f.c) [vdst f.d, src f.a, src f.b]
  | .bfi f => vecForm f false ([8].contains f.ty) [vdst f.d, src f.a, src f.b, src f.c]
  | .popc f => vecForm f false ([8, 9].contains f.ty && unused f.b && unused f.c) [vdst f.d, src f.a (tySpan f.ty)]
  | .clz f => vecForm f false ([8, 9].contains f.ty && unused f.b && unused f.c) [vdst f.d, src f.a (tySpan f.ty)]
  | .brev f => vecForm f false ([8].contains f.ty && unused f.b && unused f.c) [vdst f.d, src f.a]
  | .prmt f => vecForm f false ([8].contains f.ty) [vdst f.d, src f.a, src f.b, src f.c]
  | .sel f => vecForm f false ([8, 9].contains f.ty) [vdst f.d (tySpan f.ty), src f.a (tySpan f.ty), src f.b (tySpan f.ty), src f.c]
  | .icmp f => vecForm f false ([0, 1, 2, 3].contains f.ty && f.cndOk 6) [{ vdst f.d with kinds := .vm }, src f.a (tySpan f.ty), src f.b (tySpan f.ty)]
  | .iadd64 f => vecForm f true ([2, 3].contains f.ty && unused f.c) [vdst f.d 2, src f.a 2, src f.b 2]
  | .isub64 f => vecForm f true ([2, 3].contains f.ty && unused f.c) [vdst f.d 2, src f.a 2, src f.b 2]
  | .imad64 f => vecForm f true ([2, 3].contains f.ty) [vdst f.d 2, src f.a, src f.b, src f.c 2]
  | .lea f => vecForm f false (intTys.contains f.ty) [vdst f.d 2, src f.a 2, src f.b, src f.c]
  | .mov f => vecForm f false ([8, 9, 10].contains f.ty && unused f.b && unused f.c) [vdst f.d (tySpan f.ty), src f.a (tySpan f.ty)]
  | .idot4 f => vecForm f true ([6, 7].contains f.ty) [vdst f.d, src f.a, src f.b, src f.c]
  | .isat f => vecForm f false ([6, 7, 4, 5, 1].contains f.ty && unused f.b && unused f.c) [vdst f.d, src f.a]
  | .fadd f => vecForm f true (f.fty < 3 && unused f.c) [vdst f.d, fsrc f.a, fsrc f.b]
  | .fsub f => vecForm f true (f.fty < 3 && unused f.c) [vdst f.d, fsrc f.a, fsrc f.b]
  | .fmul f => vecForm f true (f.fty < 3 && unused f.c) [vdst f.d, fsrc f.a, fsrc f.b]
  | .ffma f => vecForm f true (f.fty < 3) [vdst f.d, fsrc f.a, fsrc f.b, fsrc f.c]
  | .fdiv f => vecForm f true (f.fty < 3 && unused f.c) [vdst f.d, fsrc f.a, fsrc f.b]
  | .fsqrt f => vecForm f false (f.fty < 3 && unused f.b && unused f.c) [vdst f.d, fsrc f.a]
  | .frcp f => vecForm f false (f.fty < 3 && unused f.b && unused f.c) [vdst f.d, fsrc f.a]
  | .fmin f => vecForm f false (f.fty < 3 && f.rnd == 0 && unused f.c) [vdst f.d, fsrc f.a, fsrc f.b]
  | .fmax f => vecForm f false (f.fty < 3 && f.rnd == 0 && unused f.c) [vdst f.d, fsrc f.a, fsrc f.b]
  | .fcmp f => vecForm f false (f.fty < 3 && f.rnd == 0 && f.cndOk 8) [{ vdst f.d with kinds := .vm }, fsrc f.a, fsrc f.b]
  | .frsq f => vecForm f false (f.fty < 3 && f.rnd == 0 && unused f.b && unused f.c) [vdst f.d, fsrc f.a]
  | .fex2 f => vecForm f false (f.fty < 3 && f.rnd == 0 && unused f.b && unused f.c) [vdst f.d, fsrc f.a]
  | .flg2 f => vecForm f false (f.fty < 3 && f.rnd == 0 && unused f.b && unused f.c) [vdst f.d, fsrc f.a]
  | .fsin f => vecForm f false (f.fty < 3 && f.rnd == 0 && unused f.b && unused f.c) [vdst f.d, fsrc f.a]
  | .fcos f => vecForm f false (f.fty < 3 && f.rnd == 0 && unused f.b && unused f.c) [vdst f.d, fsrc f.a]
  | .ftanh f => vecForm f false (f.fty < 3 && f.rnd == 0 && unused f.b && unused f.c) [vdst f.d, fsrc f.a]
  | .fclass f => vecForm f false (f.fty < 3 && f.rnd == 0 && unused f.b && unused f.c) [vdst f.d, fsrc f.a]
  | .frnd f => vecForm f false (f.fty < 3 && unused f.b && unused f.c) [vdst f.d, fsrc f.a]
  | .hadd2 f => vecForm f true ((f.fty == 1 || f.fty == 2) && unused f.c) [vdst f.d, fsrc f.a, fsrc f.b]
  | .hmul2 f => vecForm f true ((f.fty == 1 || f.fty == 2) && unused f.c) [vdst f.d, fsrc f.a, fsrc f.b]
  | .hfma2 f => vecForm f true ((f.fty == 1 || f.fty == 2)) [vdst f.d, fsrc f.a, fsrc f.b, fsrc f.c]
  | .hmin2 f => vecForm f false ((f.fty == 1 || f.fty == 2) && f.rnd == 0 && unused f.c) [vdst f.d, fsrc f.a, fsrc f.b]
  | .hmax2 f => vecForm f false ((f.fty == 1 || f.fty == 2) && f.rnd == 0 && unused f.c) [vdst f.d, fsrc f.a, fsrc f.b]
  | .fcvt f => vecForm f false (f.cvtOk && isFloatTy f.cvtDst && isFloatTy f.cvtSrc) [vdst f.d, fsrc f.a]
  | .fcvti f => vecForm f false (f.cvtOk && isIntTy f.cvtDst && isFloatTy f.cvtSrc) [vdst f.d (tySpan f.cvtDst), fsrc f.a]
  | .icvtf f => vecForm f false (f.cvtOk && isFloatTy f.cvtDst && isIntTy f.cvtSrc) [vdst f.d, src f.a (tySpan f.cvtSrc)]
  | .icvt f => vecForm f true (f.cvtOk && f.rnd == 0 && isIntTy f.cvtDst && isIntTy f.cvtSrc) [vdst f.d (tySpan f.cvtDst), src f.a (tySpan f.cvtSrc)]
  | .mand f => vecForm f false ([0].contains f.ty && unused f.c) [{ vdst f.d with kinds := .mOnly }, src f.a, src f.b]
  | .mor f => vecForm f false ([0].contains f.ty && unused f.c) [{ vdst f.d with kinds := .mOnly }, src f.a, src f.b]
  | .mxor f => vecForm f false ([0].contains f.ty && unused f.c) [{ vdst f.d with kinds := .mOnly }, src f.a, src f.b]
  | .mnot f => vecForm f false ([0].contains f.ty && unused f.b && unused f.c) [{ vdst f.d with kinds := .mOnly }, src f.a]
  | .mmov f => vecForm f false ([0].contains f.ty && unused f.b && unused f.c) [{ vdst f.d with kinds := .mOnly }, src f.a]
  | .mpop f => vecForm f false ([0].contains f.ty && unused f.b && unused f.c) [vdst f.d, src f.a]
  | .mfirst f => vecForm f false ([0].contains f.ty && unused f.b && unused f.c) [vdst f.d, src f.a]
  | .vote f => vecForm f false ([0, 1, 2].contains f.ty && unused f.b && unused f.c) [vdst f.d, src f.a]
  | .shfl f => vecForm f false ([0, 1, 2, 3].contains f.ty && unused f.c) [vdst f.d, src f.a, src f.b]
  | .bcast f => vecForm f false ([0].contains f.ty && unused f.c) [vdst f.d, src f.a, usrc f.b]
  | .lred f => vecForm f false (f.ty < 7 && redTyOk f.ty f.redTy && unused f.b) [vdst f.d, { src f.a with float := f.ty == 6 }]
  | .lscan f => vecForm f false (f.ty % 8 < 7 && redTyOk (f.ty % 8) f.redTy && unused f.b) [vdst f.d, { src f.a with float := f.ty % 8 == 6 }]
  | .gadd f => uniForm f true (intTys.contains f.ty && unused f.c) [gdst f.d, usrc f.a, usrc f.b]
  | .gsub f => uniForm f true (intTys.contains f.ty && unused f.c) [gdst f.d, usrc f.a, usrc f.b]
  | .gmul f => uniForm f true (intTys.contains f.ty && unused f.c) [gdst f.d, usrc f.a, usrc f.b]
  | .gand f => uniForm f false ([8, 9].contains f.ty && unused f.c) [gdst f.d (tySpan f.ty), usrc f.a (tySpan f.ty), usrc f.b (tySpan f.ty)]
  | .gor f => uniForm f false ([8, 9].contains f.ty && unused f.c) [gdst f.d (tySpan f.ty), usrc f.a (tySpan f.ty), usrc f.b (tySpan f.ty)]
  | .gxor f => uniForm f false ([8, 9].contains f.ty && unused f.c) [gdst f.d (tySpan f.ty), usrc f.a (tySpan f.ty), usrc f.b (tySpan f.ty)]
  | .gshl f => uniForm f false ([8, 9].contains f.ty && unused f.c) [gdst f.d (tySpan f.ty), usrc f.a (tySpan f.ty), usrc f.b]
  | .gshr f => uniForm f false ([0, 1, 2, 3].contains f.ty && unused f.c) [gdst f.d (tySpan f.ty), usrc f.a (tySpan f.ty), usrc f.b]
  | .gcmp f => uniForm f false ([0, 1, 2, 3].contains f.ty && f.cndOk 6) [gdst f.d, usrc f.a (tySpan f.ty), usrc f.b (tySpan f.ty)]
  | .gmov f => uniForm f false ([8, 9].contains f.ty && unused f.b && unused f.c) [gdst f.d (tySpan f.ty), usrc f.a (tySpan f.ty)]
  | .gsel f => uniForm f false ([8, 9].contains f.ty) [gdst f.d (tySpan f.ty), usrc f.a (tySpan f.ty), usrc f.b (tySpan f.ty), usrc f.c]
  | .gadd64 f => uniForm f true ([2, 3].contains f.ty && unused f.c) [gdst f.d 2, usrc f.a 2, usrc f.b 2]
  | .gmin f => uniForm f false ([0, 1, 2, 3].contains f.ty && unused f.c) [gdst f.d (tySpan f.ty), usrc f.a (tySpan f.ty), usrc f.b (tySpan f.ty)]
  | .gmax f => uniForm f false ([0, 1, 2, 3].contains f.ty && unused f.c) [gdst f.d (tySpan f.ty), usrc f.a (tySpan f.ty), usrc f.b (tySpan f.ty)]
  | .gfop f => uniForm f false (f.ty < 6 && (f.ty == 3 || unused f.c)) (if f.ty == 3 then [gdst f.d, ufsrc f.a, ufsrc f.b, ufsrc f.c] else [gdst f.d, ufsrc f.a, ufsrc f.b])
  | .gldk f => uniForm f false ([8, 9].contains f.ty && unused f.c) [gdst f.d (tySpan f.ty), usrc f.a 2, usrc f.b]
  | .bra f => ⟨f.fn == 0 && unused f.a && unused f.mreg && f.rsv == 0 && pmOk f.pm, []⟩
  | .brm f => ⟨f.fn.toNat < 2 && unused f.a && f.mreg.toNat < 12 && f.rsv == 0 && pmOk f.pm, []⟩
  | .brg f => ⟨f.fn.toNat < 2 && unused f.mreg && f.rsv == 0 && pmOk f.pm, [usrc f.a]⟩
  | .call f => ⟨f.fn == 0 && unused f.a && unused f.mreg && f.rsv == 0 && pmOk f.pm, []⟩
  | .calli f => ⟨f.zeros false true false false true false, [{ code := f.a, span := 2, kinds := .vOnly }]⟩
  | .ret f => ⟨f.zeros false false false false true false, []⟩
  | .jmpi f => ⟨f.zeros false true false false true false, [{ code := f.a, span := 2, kinds := .vOnly }]⟩
  | .mbegin f => ⟨f.zeros false false false true false false, []⟩
  | .mleave f => ⟨f.zeros false false false true true false, []⟩
  | .mwait f => ⟨f.zeros false false false true false false, []⟩
  | .exit f => ⟨f.zeros false false false false true false, []⟩
  | .regroup f => ⟨f.zeros false true false false false false, [{ code := f.a, span := 1, kinds := .vOnly }]⟩
  | .prio f => ⟨f.zeros false true false false true false, [src f.a]⟩
  | .yield f => ⟨f.zeros false false false false false false, []⟩
  | .pushm f => ⟨f.zeros false true true false false false && frameOk f.b, blockUses f.a (frameCount f.b) false⟩
  | .popm f => ⟨f.zeros false true true false false false && frameOk f.b, blockUses f.a (frameCount f.b) true⟩
  | .ld f => ⟨f.rsv == 0 && loadSet f.ty && pmOk f.pm && f.ord.toNat < 2, [vdst f.d (tySpan f.ty), addr64 f.base]⟩
  | .st f => ⟨f.rsv == 0 && storeSet f.ty && pmOk f.pm && (f.ord == 0 || f.ord == 2), [{ code := f.d, span := tySpan f.ty, kinds := if tySpan f.ty == 1 then .any else if tySpan f.ty == 2 then .wide else .vOnly }, addr64 f.base]⟩
  | .ldk f => ⟨f.rsv == 0 && loadSet f.ty && pmOk f.pm && f.coh == 0 && f.ordScopeZero, [vdst f.d (tySpan f.ty), addr64 f.base]⟩
  | .ldp f => ⟨f.rsv == 0 && loadSet f.ty && pmOk f.pm && f.ord.toNat < 2, [vdst f.d (tySpan f.ty), { addr64 f.base with kinds := .gOnly }]⟩
  | .stp f => ⟨f.rsv == 0 && storeSet f.ty && pmOk f.pm && (f.ord == 0 || f.ord == 2), [{ code := f.d, span := tySpan f.ty, kinds := if tySpan f.ty == 1 then .any else if tySpan f.ty == 2 then .wide else .vOnly }, { addr64 f.base with kinds := .gOnly }]⟩
  | .atom f => ⟨f.rsv == 0 && f.rsv8 == 0 && pmOk f.pm && atomPairOk f.fn.toNat f.ty.toNat, vdst f.d (tySpan f.ty.toNat) :: addr64 f.base :: atomData f⟩
  | .red f => ⟨f.rsv == 0 && f.rsv8 == 0 && pmOk f.pm && atomPairOk f.fn.toNat f.ty.toNat && f.fn.toNat < 6 && unused f.d && (f.ord == 0 || f.ord == 2), addr64 f.base :: atomData f⟩
  | .pref f => ⟨f.rsv == 0 && f.fn.toNat < 2 && pmOk f.pm && unused f.d && f.ordScopeZero, [addr64 f.base]⟩
  | .fence f => ⟨f.rsv == 0 && f.fn == 0 && pmAll f.pm f.pn && unused f.d && unused f.base && unused f.imm && f.coh == 0 && f.nt == 0, []⟩
  | .pfence f => ⟨f.rsv == 0 && f.fn == 0 && pmAll f.pm f.pn && unused f.d && unused f.base && unused f.imm && f.plain, []⟩
  | .wback f => ⟨f.rsv == 0 && f.fn == 0 && pmOk f.pm && unused f.d && f.plain, [addr64 f.base]⟩
  | .binfo f => ⟨f.rsv == 0 && f.fn == 0 && pmOk f.pm && f.plain, [vdst f.d, addr64 f.base]⟩
  | .rsvq f => ⟨f.rsv == 0 && f.fn == 0 && unused f.base && unused f.imm && f.plain && (if opKind f.d matches .g _ then pmAll f.pm f.pn else pmOk f.pm), [{ code := f.d, span := 2, kinds := .vg, dst := true }]⟩
  | .pgyield f => ⟨f.rsv == 0 && f.fn == 0 && pmOk f.pm && f.plain, [vdst f.d, addr64 f.base]⟩
  | .mark f => ⟨f.rsv == 0 && f.fn == 0 && pmAll f.pm f.pn && unused f.base && unused f.imm && f.plain, [{ code := f.d, span := 1, kinds := .sys }]⟩
  | .resid f => ⟨f.rsv == 0 && f.fn.toNat < 2 && pmOk f.pm && unused f.d && f.plain, [addr64 f.base]⟩
  | .sld f => ⟨f.rsv == 0 && loadSet f.ty && pmOk f.pm && f.coh == 0 && f.nt == 0 && f.scope.toNat < 2 && f.ord.toNat < 2, [vdst f.d (tySpan f.ty), addr32 f.base]⟩
  | .sst f => ⟨f.rsv == 0 && storeSet f.ty && pmOk f.pm && f.coh == 0 && f.nt == 0 && f.scope.toNat < 2 && (f.ord == 0 || f.ord == 2), [{ code := f.d, span := tySpan f.ty, kinds := if tySpan f.ty == 1 then .any else if tySpan f.ty == 2 then .wide else .vOnly }, addr32 f.base]⟩
  | .satom f => ⟨f.rsv == 0 && f.rsv8 == 0 && pmOk f.pm && atomPairOk f.fn.toNat f.ty.toNat && f.coh == 0 && f.nt == 0 && f.scope.toNat < 2, vdst f.d (tySpan f.ty.toNat) :: addr32 f.base :: atomData f⟩
  | .salloc f => ⟨f.zeros true true true false false true, [{ code := f.d, span := 1, kinds := .vg, dst := true }, usrc f.a, usrc f.b]⟩
  | .sfree f => ⟨f.zeros false true false false false false, [usrc f.a]⟩
  | .srenew f => ⟨f.zeros true true true false false true, [{ code := f.d, span := 1, kinds := .vg, dst := true }, usrc f.a, usrc f.b]⟩
  | .sage f => ⟨f.zeros true true true false false true, [{ code := f.d, span := 1, kinds := .vg, dst := true }, usrc f.a, usrc f.b]⟩
  | .bar f => ⟨f.zeros false false false false false false, []⟩
  | .qperm f => ⟨f.zeros true true false false false false, [{ code := f.d, span := 1, kinds := .vg, dst := true }, usrc f.a]⟩
  | .qpost f => ⟨f.zeros false true false false false false, [usrc f.a]⟩
  | .qtake f => ⟨f.zeros true true false false false false, [{ code := f.d, span := 1, kinds := .vg, dst := true }, usrc f.a]⟩
  | .qfree f => ⟨f.zeros false true false false false false, [usrc f.a]⟩
  | .qinit f => ⟨f.zeros false true true false false false, [usrc f.a, usrc f.b]⟩
  | .qstat f => ⟨f.zeros true true false false false false, [{ code := f.d, span := 1, kinds := .vg, dst := true }, usrc f.a]⟩
  | .cpy f => cpyForm f
  | .cpwp f => ⟨f.fn == 0 && f.rsv14 == 0 && f.rsv == 0 && unused f.a && unused f.b && unused f.flg, [gdst f.d 2]⟩
  | .tsr f => ⟨f.fn == 0 && f.rsv14 == 0 && f.rsv == 0 && unused f.d && unused f.b && unused f.flg, [copyOperand false f.a]⟩
  | .cpfill f => cpfillForm f
  | .cpcancel f => ⟨f.fn == 0 && f.rsv14 == 0 && f.rsv == 0 && unused f.d && unused f.a && unused f.b, []⟩
  | .copySegment xCore xCh => ⟨okCore xCore && okSlot xCh, []⟩
  | .xmma f => ⟨f.zeros false true true true true false && f.fn.toNat < 3 && (if f.fn == 0 then f.pa != 0 && f.pb != 0 else f.pa == 0 && f.pb == 0), [usrc f.a, usrc f.b]⟩
  | .xzero f => ⟨f.zeros false false false false false false && f.fn == 0, []⟩
  | .xfill f => ⟨f.zeros false true false false false false && f.fn == 0, [usrc f.a]⟩
  | .xrd f => ⟨f.zeros true false false false false false && f.fn == 0, blockUses f.d 16 true⟩
  | .xwr f => ⟨f.zeros false true false false false false && f.fn == 0, blockUses f.a 16 false⟩
  | .xscale f => ⟨f.zeros false false true true false false && f.fn == 0 && f.pa.toNat ≤ 1, [ufsrc f.b]⟩
  | .xdrain f => xdrainForm f
  | .xquant f => ⟨f.zeros false true true false false false && 1 ≤ f.fn.toNat && f.fn.toNat ≤ 7, [usrc f.a, usrc f.b]⟩
  | .matrixCommand xCore => ⟨okCore xCore, []⟩
  | .nop f => ⟨f.zeros false false false false false false false && f.fn == 0, []⟩
  | .csrr f => ⟨f.zeros true false true false false false false && f.fn == 0 && (csrWidth f.csr.toNat).isSome, [{ code := f.d, span := csrSpan f.csr, kinds := .vg, dst := true }]⟩
  | .csrw f => ⟨f.zeros false true true false false false false && f.fn == 0 && (csrWidth f.csr.toNat).isSome, [{ code := f.a, span := csrSpan f.csr, kinds := .sys }]⟩
  | .rsvaddTransfer _ _ => ⟨true, []⟩
  | .hintdropRead _ => ⟨true, []⟩
  | .trap f => ⟨f.zeros false false false true false true false && f.fn == 0, []⟩
  | .brk f => ⟨f.zeros false false false true false true false && f.fn == 0, []⟩
  | .tretReplay f => ⟨f.zeros false false false false false false false && f.fn == 0, []⟩
  | .tretSkip f => ⟨f.zeros false false false false false false false && f.fn == 1, []⟩
  | .launch f => ⟨f.zeros true true false false false false true && f.fn == 0, [gdst f.d 2, { code := f.a, span := 2, kinds := ⟨false, true, false, true, false, false, false⟩ }]⟩
  | .clock f => ⟨f.zeros true true false false false false false && f.fn == 0 && (f.a == 1792 || f.a == 1793), [{ code := f.d, span := 2, kinds := .vg, dst := true }]⟩
  | .sleep f => ⟨f.zeros false true false false false false false && f.fn == 0, [{ code := f.a, span := 1, kinds := .sys }]⟩
  | .sleepEnd _ _ => ⟨true, []⟩
  | .waitf f => ⟨f.zeros false false false true true false false && f.fn == 0 && f.cf.toNat < 12, []⟩
  | .issue xCore xSlot => ⟨okCore xCore && okSlot xSlot, []⟩
  | .clauseFetch _ _ => ⟨true, []⟩
  | .localLoad _ _ _ => ⟨true, []⟩
  | .send _ _ _ => ⟨true, []⟩
  | .enter _ _ _ => ⟨true, []⟩
  | .leave xCore _ => ⟨okCore xCore, []⟩
  | .storeAck xCore xSlice => ⟨okCore xCore && okSlice xSlice, []⟩
  | .ownershipGrant xCore xSlice => ⟨okCore xCore && okSlice xSlice, []⟩
  | .admissionRefused xCore xSlice => ⟨okCore xCore && okSlice xSlice, []⟩
  | .loadReply xCore xSlice => ⟨okCore xCore && okSlice xSlice, []⟩
  | .complete _ _ => ⟨true, []⟩
  | .port xCore xRow => ⟨okCore xCore && xRow < 3072, []⟩
  | .tick => ⟨true, []⟩
  | .walk xCore _ => ⟨okCore xCore, []⟩
  | .admissionRequest _ => ⟨true, []⟩
  | .homeLoadFill xCore _ => ⟨okCore xCore, []⟩
  | .homeSisFill xCore _ => ⟨okCore xCore, []⟩
  | .homeWtLoad xCore _ => ⟨okCore xCore, []⟩
  | .ownershipRequest xCore _ => ⟨okCore xCore, []⟩
  | .homeWrite xCore _ => ⟨okCore xCore, []⟩
  | .homeAtomic xCore _ => ⟨okCore xCore, []⟩
  | .walkRead xCore _ => ⟨okCore xCore, []⟩
  | .release xCore _ => ⟨okCore xCore, []⟩
  | .evictionNotice xCore _ => ⟨okCore xCore, []⟩
  | .invalidation xCore xSlice => ⟨okCore xCore && okSlice xSlice, []⟩
  | .invalidationAck xCore _ => ⟨okCore xCore, []⟩
  | .recall xCore xSlice => ⟨okCore xCore && okSlice xSlice, []⟩
  | .recallReply xCore _ => ⟨okCore xCore, []⟩
  | .leaseKill xCore _ => ⟨okCore xCore, []⟩
  | .closeMessage xCore xSlice => ⟨okCore xCore && okSlice xSlice, []⟩
  | .closeAck xCore _ => ⟨okCore xCore, []⟩
  | .billetClose _ => ⟨true, []⟩
  | .l1Eviction xCore _ => ⟨okCore xCore, []⟩
  | .l2Eviction _ => ⟨true, []⟩
  | .translationEviction xCore _ => ⟨okCore xCore, []⟩
  | .filterEviction xCore _ => ⟨okCore xCore, []⟩
  | .compaction _ _ => ⟨true, []⟩
  | .patrolScrub _ _ => ⟨true, []⟩
  | .chipperSelect _ => ⟨true, []⟩
  | .demotionCopy _ => ⟨true, []⟩
  | .freeze _ => ⟨true, []⟩
  | .demotionAbandon _ => ⟨true, []⟩
  | .promotion _ => ⟨true, []⟩
  | .promotionCommit _ => ⟨true, []⟩
  | .leaseSweep xCore => ⟨okCore xCore, []⟩
  | .expirySweep xCore => ⟨okCore xCore, []⟩
  | .temperatureReading xCore _ => ⟨okCore xCore, []⟩
  | .bandFall xCore => ⟨okCore xCore, []⟩
  | .governorInterval xCore _ => ⟨okCore xCore, []⟩
  | .keepaliveRenew _ => ⟨true, []⟩
  | .keepaliveEnd _ => ⟨true, []⟩
  | .retentionSleep xCore => ⟨okCore xCore, []⟩
  | .retentionWake xCore => ⟨okCore xCore, []⟩
  | .emergencyRetentionSleep xCore => ⟨okCore xCore, []⟩
  | .powerCapExceeded _ _ => ⟨true, []⟩
  | .qnotify _ _ _ _ => ⟨true, []⟩
  | .packetTakeUp _ _ => ⟨true, []⟩
  | .dependenceMet _ _ _ => ⟨true, []⟩
  | .teamPlacement _ _ _ xCore => ⟨okCore xCore, []⟩
  | .teamRetire _ => ⟨true, []⟩
  | .packetComplete _ _ _ => ⟨true, []⟩
  | .preemptiveDeschedule _ _ _ xCore => ⟨okCore xCore, []⟩
  | .teamStop _ => ⟨true, []⟩
  | .stopTimeout _ => ⟨true, []⟩
  | .teamDrain _ => ⟨true, []⟩
  | .teamResume _ _ xCore => ⟨okCore xCore, []⟩
  | .throttleHandoff xCore xSlot => ⟨okCore xCore && okSlot xSlot, []⟩
  | .lookout _ => ⟨true, []⟩
  | .trapDelivery _ _ => ⟨true, []⟩
  | .teamKill _ => ⟨true, []⟩
  | .hostApertureWrite _ _ => ⟨true, []⟩
  | .hostApertureRead _ _ => ⟨true, []⟩
  | .hostAtomicop _ _ _ _ _ => ⟨true, []⟩
  | .hostCompletionError _ _ _ => ⟨true, []⟩
  | .hostCompletionTimeout _ _ _ => ⟨true, []⟩
  | .thinningDoorbell _ => ⟨true, []⟩
  | .ctxBind xVd _ _ => ⟨okVd xVd, []⟩
  | .ctxDestroy xVd _ => ⟨okVd xVd, []⟩
  | .ctxKillTeam xVd _ _ _ _ => ⟨okVd xVd, []⟩
  | .ctxDescheduleTeam xVd _ _ _ _ => ⟨okVd xVd, []⟩
  | .ctxDebugReplay xVd _ _ => ⟨okVd xVd, []⟩
  | .ctxDebugSkip xVd _ _ => ⟨okVd xVd, []⟩
  | .ctxReloadImages xVd _ => ⟨okVd xVd, []⟩
  | .ctxReserveTransfer xVd _ _ => ⟨okVd xVd, []⟩
  | .back xVd _ _ => ⟨okVd xVd, []⟩
  | .backFixedSize xVd _ _ => ⟨okVd xVd, []⟩
  | .unback xVd _ _ => ⟨okVd xVd, []⟩
  | .reassign xVd _ _ => ⟨okVd xVd, []⟩
  | .chipperDemote _ => ⟨true, []⟩
  | .chipperPromote _ => ⟨true, []⟩
  | .lmTrack xVd _ => ⟨okVd xVd, []⟩
  | .lmStop xVd => ⟨okVd xVd, []⟩
  | .lmStopComplete xVd => ⟨okVd xVd, []⟩
  | .lmStopRelease xVd => ⟨okVd xVd, []⟩
  | .dirtyWordRead xVd _ => ⟨okVd xVd, []⟩
  | .hrlostRead => ⟨true, []⟩
  | .bpstatRead xPort => ⟨okPort xPort, []⟩
  | .pcaplWrite _ => ⟨true, []⟩
  | .pcaprWrite _ => ⟨true, []⟩
  | .registerWrite xVd _ _ => ⟨okVd xVd, []⟩
  | .peerLoad _ _ => ⟨true, []⟩
  | .peerStore _ _ => ⟨true, []⟩
  | .localPageAccess _ _ => ⟨true, []⟩
  | .revocation _ _ => ⟨true, []⟩
  | .revocationAck _ _ _ => ⟨true, []⟩
  | .revocationTimeout _ => ⟨true, []⟩
  | .flitReceive xPort _ => ⟨okPort xPort, []⟩
  | .nakReplay xPort _ => ⟨okPort xPort, []⟩
  | .portRecovery xPort _ _ => ⟨okPort xPort, []⟩
  | .recoveryTimeout xPort => ⟨okPort xPort, []⟩
  | .requestGiveUp _ _ _ => ⟨true, []⟩
  | .halfWidthEntry xPc _ => ⟨xPc < 512, []⟩
  | .fullWidthReturn xPc => ⟨xPc < 512, []⟩
  | .powerOn _ => ⟨true, []⟩
  | .spdmChallenge _ => ⟨true, []⟩
  | .migrationKeyAgreement _ => ⟨true, []⟩
  | .pageExport xVd _ => ⟨okVd xVd, []⟩
  | .pageImport xVd _ _ _ => ⟨okVd xVd, []⟩
  | .keySlotFill xSlot => ⟨okKey xSlot, []⟩
  | .keySlotRelease xSlot => ⟨okKey xSlot, []⟩
  | .ageingRead xDie _ _ => ⟨xDie < 6, []⟩
  | .leaseKillAck xCore _ => ⟨okCore xCore, []⟩
  | .recoveryEnd xPort => ⟨okPort xPort, []⟩
  | .hostCompletion _ _ _ _ => ⟨true, []⟩
  | .subArrayPowerDown xCore => ⟨okCore xCore, []⟩

/-- Well formed: the fixed fields are in order and every operand is one its position accepts. -/
def Instr.wellFormed (i : Instr) : Bool := i.form.fixed && i.form.uses.all Use.ok

/-- R202: the clause class of a major opcode; none where the opcode is unassigned (R231). -/
def opClass (op : BitVec 8) : Option Nat :=
  let o := op.toNat
  if (1 ≤ o && o ≤ 0x1F) || (0x40 ≤ o && o ≤ 0x56) || (0x60 ≤ o && o ≤ 0x63) || (0x70 ≤ o && o ≤ 0x7B) then some 0
  else if 0x80 ≤ o && o ≤ 0x8F then some 1
  else if (0xA0 ≤ o && o ≤ 0xAF) || (0xC0 ≤ o && o ≤ 0xC6) then some 2
  else if 0xE0 ≤ o && o ≤ 0xE7 then some 3
  else if 0xD0 ≤ o && o ≤ 0xD4 then some 4
  else if (0x90 ≤ o && o ≤ 0x9F) || (0xC7 ≤ o && o ≤ 0xCD) then some 5
  else if 0xF0 ≤ o && o ≤ 0xF9 then some 6
  else none

/-- R203: the clause-ending major opcodes. -/
def opEnding (op : BitVec 8) : Bool :=
  let o := op.toNat
  (0x90 ≤ o && o ≤ 0x95) || (0x98 ≤ o && o ≤ 0x9D) || o == 0xC7 || o == 0xC8 || o == 0xCA ||
  o == 0xF3 || o == 0xF4 || o == 0xF5 || o == 0xF8 || o == 0xF9

end Sys2Proof
end

