-- ==== Sys2Proof/Decode.lean ====
section
/-! DEFINITION. The decoder, total on every 64-bit word, and after it the encoder, both from the formats of R220 to R227 and the
opcode map of R231. A word whose major opcode is unassigned decodes to nothing (R232). tret is one opcode with two rows:
FN 0 is TRET_REPLAY, FN 1 TRET_SKIP, any other FN decodes to nothing (R229). -/

namespace Sys2Proof

/-- The fields of a V-format word (R220). -/
def VF.ofWord (w : DWord) : VF :=
  { fn := w.extractLsb' 52 4, d := w.extractLsb' 41 11, a := w.extractLsb' 30 11, b := w.extractLsb' 19 11, c := w.extractLsb' 8 11, pm := w.extractLsb' 4 4, pn := w.extractLsb' 3 1, hold := w.extractLsb' 1 2, sat := w.extractLsb' 0 1 }

/-- A V-format word from its major opcode and fields (R220). -/
def VF.toWord (op : BitVec 8) (f : VF) : DWord :=
  op ++ f.fn ++ f.d ++ f.a ++ f.b ++ f.c ++ f.pm ++ f.pn ++ f.hold ++ f.sat

/-- The fields of a M-format word (R221). -/
def MF.ofWord (w : DWord) : MF :=
  { fn := w.extractLsb' 52 4, d := w.extractLsb' 41 11, base := w.extractLsb' 30 11, coh := w.extractLsb' 28 2, scope := w.extractLsb' 26 2, ord := w.extractLsb' 24 2, imm := w.extractLsb' 8 16, pm := w.extractLsb' 4 4, pn := w.extractLsb' 3 1, flg := w.extractLsb' 2 1, rsv := w.extractLsb' 1 1, nt := w.extractLsb' 0 1 }

/-- A M-format word from its major opcode and fields (R221). -/
def MF.toWord (op : BitVec 8) (f : MF) : DWord :=
  op ++ f.fn ++ f.d ++ f.base ++ f.coh ++ f.scope ++ f.ord ++ f.imm ++ f.pm ++ f.pn ++ f.flg ++ f.rsv ++ f.nt

/-- The fields of a MA-format word (R222). -/
def MAF.ofWord (w : DWord) : MAF :=
  { fn := w.extractLsb' 52 4, d := w.extractLsb' 41 11, base := w.extractLsb' 30 11, coh := w.extractLsb' 28 2, scope := w.extractLsb' 26 2, ord := w.extractLsb' 24 2, s := w.extractLsb' 13 11, ty := w.extractLsb' 9 4, rsv8 := w.extractLsb' 8 1, pm := w.extractLsb' 4 4, pn := w.extractLsb' 3 1, flg := w.extractLsb' 2 1, rsv := w.extractLsb' 1 1, nt := w.extractLsb' 0 1 }

/-- A MA-format word from its major opcode and fields (R222). -/
def MAF.toWord (op : BitVec 8) (f : MAF) : DWord :=
  op ++ f.fn ++ f.d ++ f.base ++ f.coh ++ f.scope ++ f.ord ++ f.s ++ f.ty ++ f.rsv8 ++ f.pm ++ f.pn ++ f.flg ++ f.rsv ++ f.nt

/-- The fields of a B-format word (R223). -/
def BF.ofWord (w : DWord) : BF :=
  { fn := w.extractLsb' 52 4, a := w.extractLsb' 41 11, mreg := w.extractLsb' 37 4, tgt := w.extractLsb' 8 29, pm := w.extractLsb' 4 4, pn := w.extractLsb' 3 1, rsv := w.extractLsb' 0 3 }

/-- A B-format word from its major opcode and fields (R223). -/
def BF.toWord (op : BitVec 8) (f : BF) : DWord :=
  op ++ f.fn ++ f.a ++ f.mreg ++ f.tgt ++ f.pm ++ f.pn ++ f.rsv

/-- The fields of a O-format word (R224). -/
def OF.ofWord (w : DWord) : OF :=
  { fn := w.extractLsb' 52 4, d := w.extractLsb' 41 11, a := w.extractLsb' 30 11, b := w.extractLsb' 19 11, mreg := w.extractLsb' 15 4, rsv7 := w.extractLsb' 8 7, pm := w.extractLsb' 4 4, pn := w.extractLsb' 3 1, flg := w.extractLsb' 2 1, rsv := w.extractLsb' 0 2 }

/-- A O-format word from its major opcode and fields (R224). -/
def OF.toWord (op : BitVec 8) (f : OF) : DWord :=
  op ++ f.fn ++ f.d ++ f.a ++ f.b ++ f.mreg ++ f.rsv7 ++ f.pm ++ f.pn ++ f.flg ++ f.rsv

/-- The fields of a X-format word (R225). -/
def XF.ofWord (w : DWord) : XF :=
  { fn := w.extractLsb' 52 4, d := w.extractLsb' 41 11, a := w.extractLsb' 30 11, b := w.extractLsb' 19 11, tr := w.extractLsb' 15 4, tc := w.extractLsb' 11 4, pa := w.extractLsb' 8 3, pb := w.extractLsb' 5 3, rsv2 := w.extractLsb' 3 2, flg := w.extractLsb' 2 1, rsv := w.extractLsb' 1 1, nt := w.extractLsb' 0 1 }

/-- A X-format word from its major opcode and fields (R225). -/
def XF.toWord (op : BitVec 8) (f : XF) : DWord :=
  op ++ f.fn ++ f.d ++ f.a ++ f.b ++ f.tr ++ f.tc ++ f.pa ++ f.pb ++ f.rsv2 ++ f.flg ++ f.rsv ++ f.nt

/-- The fields of a C-format word (R226). -/
def CF.ofWord (w : DWord) : CF :=
  { fn := w.extractLsb' 52 4, d := w.extractLsb' 41 11, a := w.extractLsb' 30 11, b := w.extractLsb' 19 11, ch := w.extractLsb' 17 2, rsv14 := w.extractLsb' 3 14, flg := w.extractLsb' 2 1, rsv := w.extractLsb' 0 2 }

/-- A C-format word from its major opcode and fields (R226). -/
def CF.toWord (op : BitVec 8) (f : CF) : DWord :=
  op ++ f.fn ++ f.d ++ f.a ++ f.b ++ f.ch ++ f.rsv14 ++ f.flg ++ f.rsv

/-- The fields of a S-format word (R227). -/
def SF.ofWord (w : DWord) : SF :=
  { fn := w.extractLsb' 52 4, d := w.extractLsb' 41 11, a := w.extractLsb' 30 11, csr := w.extractLsb' 18 12, n := w.extractLsb' 12 6, cf := w.extractLsb' 8 4, pm := w.extractLsb' 4 4, pn := w.extractLsb' 3 1, flg := w.extractLsb' 2 1, rsv := w.extractLsb' 0 2 }

/-- A S-format word from its major opcode and fields (R227). -/
def SF.toWord (op : BitVec 8) (f : SF) : DWord :=
  op ++ f.fn ++ f.d ++ f.a ++ f.csr ++ f.n ++ f.cf ++ f.pm ++ f.pn ++ f.flg ++ f.rsv

/-- The instruction a word holds (R231). -/
def decode (w : DWord) : Option Instr :=
  match (w.extractLsb' 56 8).toNat with
  | 0x01 => some (.iadd (.ofWord w))
  | 0x02 => some (.isub (.ofWord w))
  | 0x03 => some (.imul (.ofWord w))
  | 0x04 => some (.imulh (.ofWord w))
  | 0x05 => some (.imad (.ofWord w))
  | 0x06 => some (.imin (.ofWord w))
  | 0x07 => some (.imax (.ofWord w))
  | 0x08 => some (.iabs (.ofWord w))
  | 0x09 => some (.ineg (.ofWord w))
  | 0x0A => some (.and (.ofWord w))
  | 0x0B => some (.or (.ofWord w))
  | 0x0C => some (.xor (.ofWord w))
  | 0x0D => some (.not (.ofWord w))
  | 0x0E => some (.shl (.ofWord w))
  | 0x0F => some (.shr (.ofWord w))
  | 0x10 => some (.rot (.ofWord w))
  | 0x11 => some (.bfx (.ofWord w))
  | 0x12 => some (.bfi (.ofWord w))
  | 0x13 => some (.popc (.ofWord w))
  | 0x14 => some (.clz (.ofWord w))
  | 0x15 => some (.brev (.ofWord w))
  | 0x16 => some (.sel (.ofWord w))
  | 0x17 => some (.icmp (.ofWord w))
  | 0x18 => some (.iadd64 (.ofWord w))
  | 0x19 => some (.isub64 (.ofWord w))
  | 0x1A => some (.imad64 (.ofWord w))
  | 0x1B => some (.lea (.ofWord w))
  | 0x1C => some (.mov (.ofWord w))
  | 0x1D => some (.idot4 (.ofWord w))
  | 0x1E => some (.isat (.ofWord w))
  | 0x1F => some (.prmt (.ofWord w))
  | 0x40 => some (.fadd (.ofWord w))
  | 0x41 => some (.fsub (.ofWord w))
  | 0x42 => some (.fmul (.ofWord w))
  | 0x43 => some (.ffma (.ofWord w))
  | 0x44 => some (.fmin (.ofWord w))
  | 0x45 => some (.fmax (.ofWord w))
  | 0x46 => some (.fcmp (.ofWord w))
  | 0x47 => some (.frcp (.ofWord w))
  | 0x48 => some (.frsq (.ofWord w))
  | 0x49 => some (.fsqrt (.ofWord w))
  | 0x4A => some (.fex2 (.ofWord w))
  | 0x4B => some (.flg2 (.ofWord w))
  | 0x4C => some (.fsin (.ofWord w))
  | 0x4D => some (.fcos (.ofWord w))
  | 0x4E => some (.ftanh (.ofWord w))
  | 0x4F => some (.fdiv (.ofWord w))
  | 0x50 => some (.hadd2 (.ofWord w))
  | 0x51 => some (.hmul2 (.ofWord w))
  | 0x52 => some (.hfma2 (.ofWord w))
  | 0x53 => some (.hmin2 (.ofWord w))
  | 0x54 => some (.hmax2 (.ofWord w))
  | 0x55 => some (.fclass (.ofWord w))
  | 0x56 => some (.frnd (.ofWord w))
  | 0x60 => some (.fcvt (.ofWord w))
  | 0x61 => some (.fcvti (.ofWord w))
  | 0x62 => some (.icvtf (.ofWord w))
  | 0x63 => some (.icvt (.ofWord w))
  | 0x70 => some (.mand (.ofWord w))
  | 0x71 => some (.mor (.ofWord w))
  | 0x72 => some (.mxor (.ofWord w))
  | 0x73 => some (.mnot (.ofWord w))
  | 0x74 => some (.mmov (.ofWord w))
  | 0x75 => some (.mpop (.ofWord w))
  | 0x76 => some (.mfirst (.ofWord w))
  | 0x77 => some (.vote (.ofWord w))
  | 0x78 => some (.shfl (.ofWord w))
  | 0x79 => some (.bcast (.ofWord w))
  | 0x7A => some (.lred (.ofWord w))
  | 0x7B => some (.lscan (.ofWord w))
  | 0x80 => some (.gadd (.ofWord w))
  | 0x81 => some (.gsub (.ofWord w))
  | 0x82 => some (.gmul (.ofWord w))
  | 0x83 => some (.gand (.ofWord w))
  | 0x84 => some (.gor (.ofWord w))
  | 0x85 => some (.gxor (.ofWord w))
  | 0x86 => some (.gshl (.ofWord w))
  | 0x87 => some (.gshr (.ofWord w))
  | 0x88 => some (.gcmp (.ofWord w))
  | 0x89 => some (.gmov (.ofWord w))
  | 0x8A => some (.gsel (.ofWord w))
  | 0x8B => some (.gadd64 (.ofWord w))
  | 0x8C => some (.gmin (.ofWord w))
  | 0x8D => some (.gmax (.ofWord w))
  | 0x8E => some (.gfop (.ofWord w))
  | 0x8F => some (.gldk (.ofWord w))
  | 0x90 => some (.bra (.ofWord w))
  | 0x91 => some (.brm (.ofWord w))
  | 0x92 => some (.brg (.ofWord w))
  | 0x93 => some (.call (.ofWord w))
  | 0x94 => some (.calli (.ofWord w))
  | 0x95 => some (.ret (.ofWord w))
  | 0x96 => some (.mbegin (.ofWord w))
  | 0x97 => some (.mleave (.ofWord w))
  | 0x98 => some (.mwait (.ofWord w))
  | 0x99 => some (.exit (.ofWord w))
  | 0x9A => some (.regroup (.ofWord w))
  | 0x9B => some (.prio (.ofWord w))
  | 0x9C => some (.yield (.ofWord w))
  | 0x9D => some (.jmpi (.ofWord w))
  | 0x9E => some (.pushm (.ofWord w))
  | 0x9F => some (.popm (.ofWord w))
  | 0xA0 => some (.ld (.ofWord w))
  | 0xA1 => some (.st (.ofWord w))
  | 0xA2 => some (.ldk (.ofWord w))
  | 0xA3 => some (.ldp (.ofWord w))
  | 0xA4 => some (.stp (.ofWord w))
  | 0xA5 => some (.atom (.ofWord w))
  | 0xA6 => some (.red (.ofWord w))
  | 0xA7 => some (.pref (.ofWord w))
  | 0xA8 => some (.fence (.ofWord w))
  | 0xA9 => some (.pfence (.ofWord w))
  | 0xAA => some (.wback (.ofWord w))
  | 0xAB => some (.binfo (.ofWord w))
  | 0xAC => some (.rsvq (.ofWord w))
  | 0xAD => some (.pgyield (.ofWord w))
  | 0xAE => some (.mark (.ofWord w))
  | 0xAF => some (.resid (.ofWord w))
  | 0xC0 => some (.sld (.ofWord w))
  | 0xC1 => some (.sst (.ofWord w))
  | 0xC2 => some (.salloc (.ofWord w))
  | 0xC3 => some (.sfree (.ofWord w))
  | 0xC4 => some (.srenew (.ofWord w))
  | 0xC5 => some (.sage (.ofWord w))
  | 0xC6 => some (.satom (.ofWord w))
  | 0xC7 => some (.bar (.ofWord w))
  | 0xC8 => some (.qperm (.ofWord w))
  | 0xC9 => some (.qpost (.ofWord w))
  | 0xCA => some (.qtake (.ofWord w))
  | 0xCB => some (.qfree (.ofWord w))
  | 0xCC => some (.qinit (.ofWord w))
  | 0xCD => some (.qstat (.ofWord w))
  | 0xD0 => some (.cpy (.ofWord w))
  | 0xD1 => some (.cpwp (.ofWord w))
  | 0xD2 => some (.tsr (.ofWord w))
  | 0xD3 => some (.cpfill (.ofWord w))
  | 0xD4 => some (.cpcancel (.ofWord w))
  | 0xE0 => some (.xmma (.ofWord w))
  | 0xE1 => some (.xzero (.ofWord w))
  | 0xE2 => some (.xdrain (.ofWord w))
  | 0xE3 => some (.xfill (.ofWord w))
  | 0xE4 => some (.xrd (.ofWord w))
  | 0xE5 => some (.xwr (.ofWord w))
  | 0xE6 => some (.xquant (.ofWord w))
  | 0xE7 => some (.xscale (.ofWord w))
  | 0xF0 => some (.nop (.ofWord w))
  | 0xF1 => some (.csrr (.ofWord w))
  | 0xF2 => some (.csrw (.ofWord w))
  | 0xF3 => some (.trap (.ofWord w))
  | 0xF4 => let f := SF.ofWord w; if f.fn = 0 then some (.tretReplay f) else if f.fn = 1 then some (.tretSkip f) else none
  | 0xF5 => some (.brk (.ofWord w))
  | 0xF6 => some (.launch (.ofWord w))
  | 0xF7 => some (.clock (.ofWord w))
  | 0xF8 => some (.sleep (.ofWord w))
  | 0xF9 => some (.waitf (.ofWord w))
  | _ => none

/-- The major opcode of an instruction of the 64-bit set; none for a hardware step, which has no word. -/
def Instr.opcode : Instr → Option (BitVec 8)
  | .iadd _ => some 0x01
  | .isub _ => some 0x02
  | .imul _ => some 0x03
  | .imulh _ => some 0x04
  | .imad _ => some 0x05
  | .imin _ => some 0x06
  | .imax _ => some 0x07
  | .iabs _ => some 0x08
  | .ineg _ => some 0x09
  | .and _ => some 0x0A
  | .or _ => some 0x0B
  | .xor _ => some 0x0C
  | .not _ => some 0x0D
  | .shl _ => some 0x0E
  | .shr _ => some 0x0F
  | .rot _ => some 0x10
  | .bfx _ => some 0x11
  | .bfi _ => some 0x12
  | .popc _ => some 0x13
  | .clz _ => some 0x14
  | .brev _ => some 0x15
  | .prmt _ => some 0x1F
  | .sel _ => some 0x16
  | .icmp _ => some 0x17
  | .iadd64 _ => some 0x18
  | .isub64 _ => some 0x19
  | .imad64 _ => some 0x1A
  | .lea _ => some 0x1B
  | .mov _ => some 0x1C
  | .idot4 _ => some 0x1D
  | .isat _ => some 0x1E
  | .fadd _ => some 0x40
  | .fsub _ => some 0x41
  | .fmul _ => some 0x42
  | .ffma _ => some 0x43
  | .fdiv _ => some 0x4F
  | .fsqrt _ => some 0x49
  | .frcp _ => some 0x47
  | .fmin _ => some 0x44
  | .fmax _ => some 0x45
  | .fcmp _ => some 0x46
  | .frsq _ => some 0x48
  | .fex2 _ => some 0x4A
  | .flg2 _ => some 0x4B
  | .fsin _ => some 0x4C
  | .fcos _ => some 0x4D
  | .ftanh _ => some 0x4E
  | .fclass _ => some 0x55
  | .frnd _ => some 0x56
  | .hadd2 _ => some 0x50
  | .hmul2 _ => some 0x51
  | .hfma2 _ => some 0x52
  | .hmin2 _ => some 0x53
  | .hmax2 _ => some 0x54
  | .fcvt _ => some 0x60
  | .fcvti _ => some 0x61
  | .icvtf _ => some 0x62
  | .icvt _ => some 0x63
  | .mand _ => some 0x70
  | .mor _ => some 0x71
  | .mxor _ => some 0x72
  | .mnot _ => some 0x73
  | .mmov _ => some 0x74
  | .mpop _ => some 0x75
  | .mfirst _ => some 0x76
  | .vote _ => some 0x77
  | .shfl _ => some 0x78
  | .bcast _ => some 0x79
  | .lred _ => some 0x7A
  | .lscan _ => some 0x7B
  | .gadd _ => some 0x80
  | .gsub _ => some 0x81
  | .gmul _ => some 0x82
  | .gand _ => some 0x83
  | .gor _ => some 0x84
  | .gxor _ => some 0x85
  | .gshl _ => some 0x86
  | .gshr _ => some 0x87
  | .gcmp _ => some 0x88
  | .gmov _ => some 0x89
  | .gsel _ => some 0x8A
  | .gadd64 _ => some 0x8B
  | .gmin _ => some 0x8C
  | .gmax _ => some 0x8D
  | .gfop _ => some 0x8E
  | .gldk _ => some 0x8F
  | .bra _ => some 0x90
  | .brm _ => some 0x91
  | .brg _ => some 0x92
  | .call _ => some 0x93
  | .calli _ => some 0x94
  | .ret _ => some 0x95
  | .jmpi _ => some 0x9D
  | .mbegin _ => some 0x96
  | .mleave _ => some 0x97
  | .mwait _ => some 0x98
  | .exit _ => some 0x99
  | .regroup _ => some 0x9A
  | .prio _ => some 0x9B
  | .yield _ => some 0x9C
  | .pushm _ => some 0x9E
  | .popm _ => some 0x9F
  | .ld _ => some 0xA0
  | .st _ => some 0xA1
  | .ldk _ => some 0xA2
  | .ldp _ => some 0xA3
  | .stp _ => some 0xA4
  | .atom _ => some 0xA5
  | .red _ => some 0xA6
  | .pref _ => some 0xA7
  | .fence _ => some 0xA8
  | .pfence _ => some 0xA9
  | .wback _ => some 0xAA
  | .binfo _ => some 0xAB
  | .rsvq _ => some 0xAC
  | .pgyield _ => some 0xAD
  | .mark _ => some 0xAE
  | .resid _ => some 0xAF
  | .sld _ => some 0xC0
  | .sst _ => some 0xC1
  | .satom _ => some 0xC6
  | .salloc _ => some 0xC2
  | .sfree _ => some 0xC3
  | .srenew _ => some 0xC4
  | .sage _ => some 0xC5
  | .bar _ => some 0xC7
  | .qperm _ => some 0xC8
  | .qpost _ => some 0xC9
  | .qtake _ => some 0xCA
  | .qfree _ => some 0xCB
  | .qinit _ => some 0xCC
  | .qstat _ => some 0xCD
  | .cpy _ => some 0xD0
  | .cpwp _ => some 0xD1
  | .tsr _ => some 0xD2
  | .cpfill _ => some 0xD3
  | .cpcancel _ => some 0xD4
  | .copySegment _ _ => none
  | .xmma _ => some 0xE0
  | .xzero _ => some 0xE1
  | .xfill _ => some 0xE3
  | .xrd _ => some 0xE4
  | .xwr _ => some 0xE5
  | .xscale _ => some 0xE7
  | .xdrain _ => some 0xE2
  | .xquant _ => some 0xE6
  | .matrixCommand _ => none
  | .nop _ => some 0xF0
  | .csrr _ => some 0xF1
  | .csrw _ => some 0xF2
  | .rsvaddTransfer _ _ => none
  | .hintdropRead _ => none
  | .trap _ => some 0xF3
  | .brk _ => some 0xF5
  | .tretReplay _ => some 0xF4
  | .tretSkip _ => some 0xF4
  | .launch _ => some 0xF6
  | .clock _ => some 0xF7
  | .sleep _ => some 0xF8
  | .sleepEnd _ _ => none
  | .waitf _ => some 0xF9
  | .issue _ _ => none
  | .clauseFetch _ _ => none
  | .localLoad _ _ _ => none
  | .send _ _ _ => none
  | .enter _ _ _ => none
  | .leave _ _ => none
  | .storeAck _ _ => none
  | .ownershipGrant _ _ => none
  | .admissionRefused _ _ => none
  | .loadReply _ _ => none
  | .complete _ _ => none
  | .port _ _ => none
  | .tick => none
  | .walk _ _ => none
  | .admissionRequest _ => none
  | .homeLoadFill _ _ => none
  | .homeSisFill _ _ => none
  | .homeWtLoad _ _ => none
  | .ownershipRequest _ _ => none
  | .homeWrite _ _ => none
  | .homeAtomic _ _ => none
  | .walkRead _ _ => none
  | .release _ _ => none
  | .evictionNotice _ _ => none
  | .invalidation _ _ => none
  | .invalidationAck _ _ => none
  | .recall _ _ => none
  | .recallReply _ _ => none
  | .leaseKill _ _ => none
  | .closeMessage _ _ => none
  | .closeAck _ _ => none
  | .billetClose _ => none
  | .l1Eviction _ _ => none
  | .l2Eviction _ => none
  | .translationEviction _ _ => none
  | .filterEviction _ _ => none
  | .compaction _ _ => none
  | .patrolScrub _ _ => none
  | .chipperSelect _ => none
  | .demotionCopy _ => none
  | .freeze _ => none
  | .demotionAbandon _ => none
  | .promotion _ => none
  | .promotionCommit _ => none
  | .leaseSweep _ => none
  | .expirySweep _ => none
  | .temperatureReading _ _ => none
  | .bandFall _ => none
  | .governorInterval _ _ => none
  | .keepaliveRenew _ => none
  | .keepaliveEnd _ => none
  | .retentionSleep _ => none
  | .retentionWake _ => none
  | .emergencyRetentionSleep _ => none
  | .powerCapExceeded _ _ => none
  | .qnotify _ _ _ _ => none
  | .packetTakeUp _ _ => none
  | .dependenceMet _ _ _ => none
  | .teamPlacement _ _ _ _ => none
  | .teamRetire _ => none
  | .packetComplete _ _ _ => none
  | .preemptiveDeschedule _ _ _ _ => none
  | .teamStop _ => none
  | .stopTimeout _ => none
  | .teamDrain _ => none
  | .teamResume _ _ _ => none
  | .throttleHandoff _ _ => none
  | .lookout _ => none
  | .trapDelivery _ _ => none
  | .teamKill _ => none
  | .hostApertureWrite _ _ => none
  | .hostApertureRead _ _ => none
  | .hostAtomicop _ _ _ _ _ => none
  | .hostCompletionError _ _ _ => none
  | .hostCompletionTimeout _ _ _ => none
  | .thinningDoorbell _ => none
  | .ctxBind _ _ _ => none
  | .ctxDestroy _ _ => none
  | .ctxKillTeam _ _ _ _ _ => none
  | .ctxDescheduleTeam _ _ _ _ _ => none
  | .ctxDebugReplay _ _ _ => none
  | .ctxDebugSkip _ _ _ => none
  | .ctxReloadImages _ _ => none
  | .ctxReserveTransfer _ _ _ => none
  | .back _ _ _ => none
  | .backFixedSize _ _ _ => none
  | .unback _ _ _ => none
  | .reassign _ _ _ => none
  | .chipperDemote _ => none
  | .chipperPromote _ => none
  | .lmTrack _ _ => none
  | .lmStop _ => none
  | .lmStopComplete _ => none
  | .lmStopRelease _ => none
  | .dirtyWordRead _ _ => none
  | .hrlostRead => none
  | .bpstatRead _ => none
  | .pcaplWrite _ => none
  | .pcaprWrite _ => none
  | .registerWrite _ _ _ => none
  | .peerLoad _ _ => none
  | .peerStore _ _ => none
  | .localPageAccess _ _ => none
  | .revocation _ _ => none
  | .revocationAck _ _ _ => none
  | .revocationTimeout _ => none
  | .flitReceive _ _ => none
  | .nakReplay _ _ => none
  | .portRecovery _ _ _ => none
  | .recoveryTimeout _ => none
  | .requestGiveUp _ _ _ => none
  | .halfWidthEntry _ _ => none
  | .fullWidthReturn _ => none
  | .powerOn _ => none
  | .spdmChallenge _ => none
  | .migrationKeyAgreement _ => none
  | .pageExport _ _ => none
  | .pageImport _ _ _ _ => none
  | .keySlotFill _ => none
  | .keySlotRelease _ => none
  | .ageingRead _ _ _ => none
  | .leaseKillAck _ _ => none
  | .recoveryEnd _ => none
  | .hostCompletion _ _ _ _ => none
  | .subArrayPowerDown _ => none

/-- The word of an instruction of the 64-bit set (R220 to R227); none for a hardware step. -/
def encode : Instr → Option DWord
  | .iadd f => some (f.toWord 0x01)
  | .isub f => some (f.toWord 0x02)
  | .imul f => some (f.toWord 0x03)
  | .imulh f => some (f.toWord 0x04)
  | .imad f => some (f.toWord 0x05)
  | .imin f => some (f.toWord 0x06)
  | .imax f => some (f.toWord 0x07)
  | .iabs f => some (f.toWord 0x08)
  | .ineg f => some (f.toWord 0x09)
  | .and f => some (f.toWord 0x0A)
  | .or f => some (f.toWord 0x0B)
  | .xor f => some (f.toWord 0x0C)
  | .not f => some (f.toWord 0x0D)
  | .shl f => some (f.toWord 0x0E)
  | .shr f => some (f.toWord 0x0F)
  | .rot f => some (f.toWord 0x10)
  | .bfx f => some (f.toWord 0x11)
  | .bfi f => some (f.toWord 0x12)
  | .popc f => some (f.toWord 0x13)
  | .clz f => some (f.toWord 0x14)
  | .brev f => some (f.toWord 0x15)
  | .prmt f => some (f.toWord 0x1F)
  | .sel f => some (f.toWord 0x16)
  | .icmp f => some (f.toWord 0x17)
  | .iadd64 f => some (f.toWord 0x18)
  | .isub64 f => some (f.toWord 0x19)
  | .imad64 f => some (f.toWord 0x1A)
  | .lea f => some (f.toWord 0x1B)
  | .mov f => some (f.toWord 0x1C)
  | .idot4 f => some (f.toWord 0x1D)
  | .isat f => some (f.toWord 0x1E)
  | .fadd f => some (f.toWord 0x40)
  | .fsub f => some (f.toWord 0x41)
  | .fmul f => some (f.toWord 0x42)
  | .ffma f => some (f.toWord 0x43)
  | .fdiv f => some (f.toWord 0x4F)
  | .fsqrt f => some (f.toWord 0x49)
  | .frcp f => some (f.toWord 0x47)
  | .fmin f => some (f.toWord 0x44)
  | .fmax f => some (f.toWord 0x45)
  | .fcmp f => some (f.toWord 0x46)
  | .frsq f => some (f.toWord 0x48)
  | .fex2 f => some (f.toWord 0x4A)
  | .flg2 f => some (f.toWord 0x4B)
  | .fsin f => some (f.toWord 0x4C)
  | .fcos f => some (f.toWord 0x4D)
  | .ftanh f => some (f.toWord 0x4E)
  | .fclass f => some (f.toWord 0x55)
  | .frnd f => some (f.toWord 0x56)
  | .hadd2 f => some (f.toWord 0x50)
  | .hmul2 f => some (f.toWord 0x51)
  | .hfma2 f => some (f.toWord 0x52)
  | .hmin2 f => some (f.toWord 0x53)
  | .hmax2 f => some (f.toWord 0x54)
  | .fcvt f => some (f.toWord 0x60)
  | .fcvti f => some (f.toWord 0x61)
  | .icvtf f => some (f.toWord 0x62)
  | .icvt f => some (f.toWord 0x63)
  | .mand f => some (f.toWord 0x70)
  | .mor f => some (f.toWord 0x71)
  | .mxor f => some (f.toWord 0x72)
  | .mnot f => some (f.toWord 0x73)
  | .mmov f => some (f.toWord 0x74)
  | .mpop f => some (f.toWord 0x75)
  | .mfirst f => some (f.toWord 0x76)
  | .vote f => some (f.toWord 0x77)
  | .shfl f => some (f.toWord 0x78)
  | .bcast f => some (f.toWord 0x79)
  | .lred f => some (f.toWord 0x7A)
  | .lscan f => some (f.toWord 0x7B)
  | .gadd f => some (f.toWord 0x80)
  | .gsub f => some (f.toWord 0x81)
  | .gmul f => some (f.toWord 0x82)
  | .gand f => some (f.toWord 0x83)
  | .gor f => some (f.toWord 0x84)
  | .gxor f => some (f.toWord 0x85)
  | .gshl f => some (f.toWord 0x86)
  | .gshr f => some (f.toWord 0x87)
  | .gcmp f => some (f.toWord 0x88)
  | .gmov f => some (f.toWord 0x89)
  | .gsel f => some (f.toWord 0x8A)
  | .gadd64 f => some (f.toWord 0x8B)
  | .gmin f => some (f.toWord 0x8C)
  | .gmax f => some (f.toWord 0x8D)
  | .gfop f => some (f.toWord 0x8E)
  | .gldk f => some (f.toWord 0x8F)
  | .bra f => some (f.toWord 0x90)
  | .brm f => some (f.toWord 0x91)
  | .brg f => some (f.toWord 0x92)
  | .call f => some (f.toWord 0x93)
  | .calli f => some (f.toWord 0x94)
  | .ret f => some (f.toWord 0x95)
  | .jmpi f => some (f.toWord 0x9D)
  | .mbegin f => some (f.toWord 0x96)
  | .mleave f => some (f.toWord 0x97)
  | .mwait f => some (f.toWord 0x98)
  | .exit f => some (f.toWord 0x99)
  | .regroup f => some (f.toWord 0x9A)
  | .prio f => some (f.toWord 0x9B)
  | .yield f => some (f.toWord 0x9C)
  | .pushm f => some (f.toWord 0x9E)
  | .popm f => some (f.toWord 0x9F)
  | .ld f => some (f.toWord 0xA0)
  | .st f => some (f.toWord 0xA1)
  | .ldk f => some (f.toWord 0xA2)
  | .ldp f => some (f.toWord 0xA3)
  | .stp f => some (f.toWord 0xA4)
  | .atom f => some (f.toWord 0xA5)
  | .red f => some (f.toWord 0xA6)
  | .pref f => some (f.toWord 0xA7)
  | .fence f => some (f.toWord 0xA8)
  | .pfence f => some (f.toWord 0xA9)
  | .wback f => some (f.toWord 0xAA)
  | .binfo f => some (f.toWord 0xAB)
  | .rsvq f => some (f.toWord 0xAC)
  | .pgyield f => some (f.toWord 0xAD)
  | .mark f => some (f.toWord 0xAE)
  | .resid f => some (f.toWord 0xAF)
  | .sld f => some (f.toWord 0xC0)
  | .sst f => some (f.toWord 0xC1)
  | .satom f => some (f.toWord 0xC6)
  | .salloc f => some (f.toWord 0xC2)
  | .sfree f => some (f.toWord 0xC3)
  | .srenew f => some (f.toWord 0xC4)
  | .sage f => some (f.toWord 0xC5)
  | .bar f => some (f.toWord 0xC7)
  | .qperm f => some (f.toWord 0xC8)
  | .qpost f => some (f.toWord 0xC9)
  | .qtake f => some (f.toWord 0xCA)
  | .qfree f => some (f.toWord 0xCB)
  | .qinit f => some (f.toWord 0xCC)
  | .qstat f => some (f.toWord 0xCD)
  | .cpy f => some (f.toWord 0xD0)
  | .cpwp f => some (f.toWord 0xD1)
  | .tsr f => some (f.toWord 0xD2)
  | .cpfill f => some (f.toWord 0xD3)
  | .cpcancel f => some (f.toWord 0xD4)
  | .copySegment _ _ => none
  | .xmma f => some (f.toWord 0xE0)
  | .xzero f => some (f.toWord 0xE1)
  | .xfill f => some (f.toWord 0xE3)
  | .xrd f => some (f.toWord 0xE4)
  | .xwr f => some (f.toWord 0xE5)
  | .xscale f => some (f.toWord 0xE7)
  | .xdrain f => some (f.toWord 0xE2)
  | .xquant f => some (f.toWord 0xE6)
  | .matrixCommand _ => none
  | .nop f => some (f.toWord 0xF0)
  | .csrr f => some (f.toWord 0xF1)
  | .csrw f => some (f.toWord 0xF2)
  | .rsvaddTransfer _ _ => none
  | .hintdropRead _ => none
  | .trap f => some (f.toWord 0xF3)
  | .brk f => some (f.toWord 0xF5)
  | .tretReplay f => some (f.toWord 0xF4)
  | .tretSkip f => some (f.toWord 0xF4)
  | .launch f => some (f.toWord 0xF6)
  | .clock f => some (f.toWord 0xF7)
  | .sleep f => some (f.toWord 0xF8)
  | .sleepEnd _ _ => none
  | .waitf f => some (f.toWord 0xF9)
  | .issue _ _ => none
  | .clauseFetch _ _ => none
  | .localLoad _ _ _ => none
  | .send _ _ _ => none
  | .enter _ _ _ => none
  | .leave _ _ => none
  | .storeAck _ _ => none
  | .ownershipGrant _ _ => none
  | .admissionRefused _ _ => none
  | .loadReply _ _ => none
  | .complete _ _ => none
  | .port _ _ => none
  | .tick => none
  | .walk _ _ => none
  | .admissionRequest _ => none
  | .homeLoadFill _ _ => none
  | .homeSisFill _ _ => none
  | .homeWtLoad _ _ => none
  | .ownershipRequest _ _ => none
  | .homeWrite _ _ => none
  | .homeAtomic _ _ => none
  | .walkRead _ _ => none
  | .release _ _ => none
  | .evictionNotice _ _ => none
  | .invalidation _ _ => none
  | .invalidationAck _ _ => none
  | .recall _ _ => none
  | .recallReply _ _ => none
  | .leaseKill _ _ => none
  | .closeMessage _ _ => none
  | .closeAck _ _ => none
  | .billetClose _ => none
  | .l1Eviction _ _ => none
  | .l2Eviction _ => none
  | .translationEviction _ _ => none
  | .filterEviction _ _ => none
  | .compaction _ _ => none
  | .patrolScrub _ _ => none
  | .chipperSelect _ => none
  | .demotionCopy _ => none
  | .freeze _ => none
  | .demotionAbandon _ => none
  | .promotion _ => none
  | .promotionCommit _ => none
  | .leaseSweep _ => none
  | .expirySweep _ => none
  | .temperatureReading _ _ => none
  | .bandFall _ => none
  | .governorInterval _ _ => none
  | .keepaliveRenew _ => none
  | .keepaliveEnd _ => none
  | .retentionSleep _ => none
  | .retentionWake _ => none
  | .emergencyRetentionSleep _ => none
  | .powerCapExceeded _ _ => none
  | .qnotify _ _ _ _ => none
  | .packetTakeUp _ _ => none
  | .dependenceMet _ _ _ => none
  | .teamPlacement _ _ _ _ => none
  | .teamRetire _ => none
  | .packetComplete _ _ _ => none
  | .preemptiveDeschedule _ _ _ _ => none
  | .teamStop _ => none
  | .stopTimeout _ => none
  | .teamDrain _ => none
  | .teamResume _ _ _ => none
  | .throttleHandoff _ _ => none
  | .lookout _ => none
  | .trapDelivery _ _ => none
  | .teamKill _ => none
  | .hostApertureWrite _ _ => none
  | .hostApertureRead _ _ => none
  | .hostAtomicop _ _ _ _ _ => none
  | .hostCompletionError _ _ _ => none
  | .hostCompletionTimeout _ _ _ => none
  | .thinningDoorbell _ => none
  | .ctxBind _ _ _ => none
  | .ctxDestroy _ _ => none
  | .ctxKillTeam _ _ _ _ _ => none
  | .ctxDescheduleTeam _ _ _ _ _ => none
  | .ctxDebugReplay _ _ _ => none
  | .ctxDebugSkip _ _ _ => none
  | .ctxReloadImages _ _ => none
  | .ctxReserveTransfer _ _ _ => none
  | .back _ _ _ => none
  | .backFixedSize _ _ _ => none
  | .unback _ _ _ => none
  | .reassign _ _ _ => none
  | .chipperDemote _ => none
  | .chipperPromote _ => none
  | .lmTrack _ _ => none
  | .lmStop _ => none
  | .lmStopComplete _ => none
  | .lmStopRelease _ => none
  | .dirtyWordRead _ _ => none
  | .hrlostRead => none
  | .bpstatRead _ => none
  | .pcaplWrite _ => none
  | .pcaprWrite _ => none
  | .registerWrite _ _ _ => none
  | .peerLoad _ _ => none
  | .peerStore _ _ => none
  | .localPageAccess _ _ => none
  | .revocation _ _ => none
  | .revocationAck _ _ _ => none
  | .revocationTimeout _ => none
  | .flitReceive _ _ => none
  | .nakReplay _ _ => none
  | .portRecovery _ _ _ => none
  | .recoveryTimeout _ => none
  | .requestGiveUp _ _ _ => none
  | .halfWidthEntry _ _ => none
  | .fullWidthReturn _ => none
  | .powerOn _ => none
  | .spdmChallenge _ => none
  | .migrationKeyAgreement _ => none
  | .pageExport _ _ => none
  | .pageImport _ _ _ _ => none
  | .keySlotFill _ => none
  | .keySlotRelease _ => none
  | .ageingRead _ _ _ => none
  | .leaseKillAck _ _ => none
  | .recoveryEnd _ => none
  | .hostCompletion _ _ _ _ => none
  | .subArrayPowerDown _ => none

/-- Bytes of a word as they stand in memory, little-endian (R4). -/
def leBytes (n w : Nat) : List Byte := (List.range n).map fun i => BitVec.ofNat 8 (w / 2 ^ (8 * i))
/-- The number that bytes stand for, little-endian (R4). -/
def leNat : List Byte → Nat
  | [] => 0
  | b :: bs => b.toNat + 256 * leNat bs

/-- The decoder on bytes as memory holds them: the first eight bytes are one instruction word (R4, R211). -/
def decodeBytes (bs : List Byte) : Option (Instr × List Byte) :=
  if bs.length < 8 then none
  else (decode (BitVec.ofNat 64 (leNat (bs.take 8)))).map fun i => (i, bs.drop 8)

/-- The host's question: the instruction read from a word numbered as the opcode table numbers it. Every instruction of
this hardware is one 64-bit word; bits above nbits are zero. -/
def decodeTableWord (nbits w : Nat) : Option Instr :=
  (decodeBytes (leBytes 8 (w % 2 ^ nbits))).map Prod.fst

end Sys2Proof
end

