-- ==== Sys2Proof/Config.lean ====
section
/-! DEFINITION. What an implementation fixes and the spec leaves open: constants without a body
(nothing can be proved about their values), and the sizes the spec states. -/

namespace Sys2Proof

/-- What the base of the signed configuration record says (R433). -/
structure ConfigRecord where
  disabledCores : List Nat
  /-- home slot and slice (R70) -/
  slotMap : List (Nat × Nat)
  /-- pseudo-channels at half width, and those of them that are so for a lane fault (R83) -/
  halfWidth : List Nat
  laneFaults : List Nat
  /-- lane repairs: pseudo-channel and lane -/
  laneRepairs : List (Nat × Nat)
  /-- temperature thresholds: pseudo-channel, degrees (R83) -/
  thresholds : List (Nat × Nat)
  /-- ports on other than four lanes: 0 down, 1 two lanes; and those whose spare lane is in use (R422) -/
  portWidths : List (Nat × Nat)
  sparedPorts : List Nat
  /-- route table: port and the device at its far end (R421) -/
  routes : List (Nat × Nat)
  deviceNumber : Nat
  tierBlocks : Nat
  deriving DecidableEq, Repr, Inhabited

end Sys2Proof

namespace Sys2Proof.Config

/-- Verification of an ML-DSA-87 signature (FIPS 204, R431): key, message, signature. The algorithm is outside the spec. -/
opaque mldsaVerify : List Byte → List Byte → List Byte → Bool
/-- The certificate chain of a signer key up to a root key (R431): root, signer key, chain. Its format is outside the spec. -/
opaque chainVerify : List Byte → List Byte → List Byte → Bool
/-- The digest of the root key that the complex's ROM holds (R430). -/
opaque romDigest : List Byte
/-- What the body of a configuration-record image says (R433); its format is outside the spec. -/
opaque recordOf : List Byte → ConfigRecord
/-- The public half of the device identity key, which the complex derives from a fuse secret (R434). -/
opaque identityKey : List Byte
/-- The complex's ML-DSA-87 signature with its device identity key (R434): message to signature. -/
opaque mldsaSign : List Byte → List Byte
/-- The migration key that ML-KEM-1024 (FIPS 203) agrees for a peer's certified identity (R434). -/
opaque migrationKey : List Byte → BitVec 256
/-- The AES-256-XTS block unit of the migration path (R428): key, tweak, plaintext to ciphertext. -/
opaque xtsEncrypt : BitVec 256 → BitVec 128 → List Byte → List Byte
/-- Its inverse (R428): key, tweak, ciphertext to plaintext. -/
opaque xtsDecrypt : BitVec 256 → BitVec 128 → List Byte → List Byte
/-- The complex's random source (R29): the n-th 256-bit draw. -/
opaque randomDraw : Nat → BitVec 256
/-- What the sensor of an HBM4 stack reads, in degrees (R83): stack, time in ns. -/
opaque stackTemperature : Nat → Nat → Nat
/-- The package power in W, averaged over the last 1 ms (R436): time in ns. -/
opaque packagePower : Nat → BitVec 12
/-- A free 32-bit value (a value the spec leaves undefined): the n-th drawn. -/
opaque freeWord : Nat → BitVec 32

/-- Cores of the package (R1). -/
def numCores : Nat := 640
/-- L2 slices of the package (R70). -/
def numSlices : Nat := 512
/-- HBM4 stacks (00, The package). -/
def numStacks : Nat := 8
/-- Frames of 8 sectors in one stack of 64 GiB (R40, 00). -/
def framesPerStack : Nat := 268435456
/-- The relocation margin of a fully enabled part: 16 sectors per slice (R43). -/
def relocMargin : Nat := 16 * numSlices
/-- 4 KiB blocks of the on-carrier tier of 2 TiB (00, R85). -/
def tierBlocks : Nat := 536870912

end Sys2Proof.Config
end

