-- ==== Sys2Proof/Machine/State.lean ====
section
/-! DEFINITION. The machine's state, as plain data (spec 00 to 24; INVENTORY.md lists every piece with its rule), the reasons a
step stops, and the state right after package reset. -/

namespace Sys2Proof.Machine

/-- A sparse array in canonical form: indices strictly rising, no zero value listed; an unlisted index holds zero. -/
abbrev Cells (w : Nat) := List (Nat × BitVec w)
/-- A finite map, keys strictly rising. -/
abbrev Map (α : Type) := List (Nat × α)

/-- Why the machine stops with a fault. -/
inductive Fault where
  /-- raised when the part itself (a ring, CCB or record table named by device address), a host aperture access or a peer's request
  meets a page that is not backed: the spec gives no such access an effect. Safe: the machine stops. -/
  | unbackedAccess (da : Nat)
  deriving DecidableEq, Repr

/-- Why a step is not taken. -/
inductive Refusal where
  /-- raised by an arm of exec that has no meaning yet. Safe. -/
  | notModelled (mnemonic : String)
  /-- raised by a hardware step asked for in a state in which the rules do not enable it (R150). Safe: no state changes. -/
  | notEnabled (why : String)
  deriving DecidableEq, Repr

/-- The causes of R397. -/
inductive Cause where
  | illinsn | badclause | trapi | brkpt | noncanon | notmapped | permission | format | xpoison | privbound
  | caprefuse | bpoison | unbacked | tiershort | sstale | sbound | spoison | illconv | rgflags | rgaddr | lnkovf | lnkunf
  | lnkorder | qbad | lookout | nested | tarea | drvkill | misalign | hostatom | cpyarg | apoison | rpoison | rgerr
  deriving DecidableEq, Repr

/-- What is known of a fault when it is raised: the fields of the trap record (R395). -/
structure FaultInfo where
  cause : Cause
  code : Nat := 0
  word : DWord := 0
  clause : Nat := 0
  index : Nat := 0
  prio : Nat := 0
  lane : Nat := 0
  bundle : LaneMask := 0
  done : LaneMask := 0
  refused : LaneMask := 0
  addrs : List Nat := []
  reserve : Nat := 0
  aux : Nat := 0
  /-- a fetch fault, charged to a transfer (R24, R272) -/
  fetch : Bool := false
  pmark : Word := 0
  grp : Word := 0
  time : Nat := 0
  core : Nat := 0
  deriving DecidableEq, Repr

/-- A resume point (R180). -/
structure Resume where
  prio : Nat := 0
  clause : Nat := 0
  index : Nat := 0
  deriving DecidableEq, Repr

/-- A yield mark (R284): the marked resume point, and what is left of the set W that bars it. -/
structure YieldMark where
  place : Resume
  wait : List Resume
  deriving DecidableEq, Repr

/-- What a waiting thread waits for (R175). -/
inductive Wait where
  | bar | mwait (k : Nat) | regroup | qperm (q : Nat) | qtake (q : Nat) | waitf (k n : Nat) | sleep (untilTick : Nat)
  deriving DecidableEq, Repr

/-- The thread states of R175. In handler mode this is the state of the handler's run; the thread itself counts as parked (R390). -/
inductive TState where
  | runnable | inBundle | held | waiting (w : Wait) | parked | exited
  deriving DecidableEq, Repr

/-- One thread (R174, R175, R190, 11 The link stack). -/
structure Thread where
  v : Cells 32 := []
  link : List DWord := []
  sp : Nat := 0
  st : TState := .runnable
  rp : Resume := {}
  /-- the header at the resume point has not been fetched yet (R180) -/
  fetch : Bool := true
  /-- the priority that a prio instruction gave the resume point (R283) -/
  setPrio : Option Nat := none
  /-- priority of the resume point before its header was read, for a fault in the rest of the clause (R180, R272) -/
  xprio : Nat := 0
  /-- lanes of the bundle that made the transfer (R395, BUNDLE of a fetch fault) -/
  xfer : LaneMask := 0
  pslot : Nat := 0
  grp : Nat := 0
  lane : Nat := 0
  handler : Bool := false
  /-- a fault raised and not yet delivered (R391) -/
  fault : Option FaultInfo := none
  /-- parked for the host debugger (R361) -/
  dbg : Bool := false
  /-- liveness word of the clause whose safe point the thread has just passed (R215, R380); the whole footprint after a tret in a stop -/
  safe : Option DWord := none
  /-- key given at regroup (R187) -/
  key : Nat := 0
  /-- header of the clause at the resume point, once fetched (R180) -/
  hdr : DWord := 0
  /-- the issue to come is a replay: the thread's rank in the original issue (R295) -/
  replay : Option Nat := none
  /-- the issue that was refused was such a replay: the same rank, for the next one (R295, R399) -/
  origin : Option Nat := none
  /-- the trap being handled was a fetch fault (R362) -/
  fetchTrap : Bool := false
  deriving DecidableEq, Repr

/-- One lane of a pgyield under way (R63): its address, the page and the page's leaf entry once they are known, how far it has come (0 to be
taken, 1 V := 0 written, 2 status written, 3 refused or faulted), and the status, the refusal or the fault. -/
structure YieldLane where
  lane : Nat
  tid : Nat
  va : Nat
  page : Nat
  /-- device address of the level 0 leaf entry; none for a lane that surrenders nothing -/
  entry : Option Nat
  /-- the page-table lines it was translated through (R20) -/
  ptes : List Nat := []
  stage : Nat := 0
  status : Nat := 0
  cause : Cause := .caprefuse
  reserve : Nat := 0
  /-- the addresses and AUX of a fault of its translation (R396) -/
  addrs : List Nat := []
  aux : Nat := 0
  deriving DecidableEq, Repr

/-- A running bundle and the copy of its clause (R181, R211). -/
structure Bundle where
  lanes : LaneMask
  clause : Nat
  prio : Nat
  index : Nat
  /-- header, instruction words, literal words, liveness word -/
  words : List DWord
  handler : Bool := false
  /-- the store-buffer entries a release waits for, once it has begun to wait (R156) -/
  snap : Option (List Nat) := none
  /-- transfers already fixed by the clause-ending instruction: lane, resume point -/
  next : Map Resume := []
  /-- the lanes of the pgyield that is being run (R63) -/
  yields : List YieldLane := []
  deriving DecidableEq, Repr

/-- One group slot of a team (R173, R174, R185, R190). -/
structure Group where
  live : Bool := true
  idx : Nat := 0
  gen : Nat := 0
  role : Nat := 0
  mixed : Bool := false
  flagged : Bool := false
  /-- group slot of the core; issue slot is slot mod 4 (R178) -/
  slot : Nat := 0
  g : Cells 32 := []
  m : Cells 32 := []
  /-- completion flags, 0 to 63 -/
  cf : Map Nat := []
  bundle : Option Bundle := none
  /-- operand latches: source position and instructions left (R220); they never change a result -/
  hold : List (Nat × Nat) := []
  /-- the yield marks that stand (R284) -/
  marks : List YieldMark := []
  /-- issue stamp for the least-recently-issued choice (R377) -/
  lastIssue : Nat := 0
  /-- stamp of the last memory-class issue (R378) -/
  lastMem : Nat := 0
  deriving DecidableEq, Repr

/-- What a lane of an issued memory instruction does. -/
inductive LaneKind where
  | load | store | atom (op ty : Nat) (ret : Bool)
  deriving DecidableEq, Repr

/-- How far a lane of an issued instruction has come (R150). -/
inductive Stage where
  | ready | sent | entered | returned | performed | refused | poisoned
  deriving DecidableEq, Repr

/-- One lane of an issued memory instruction. -/
structure LaneOp where
  lane : Nat
  tid : Nat
  va : Nat
  /-- target address: extended device address (TGT 0 and 2) or host address (TGT 1) -/
  ea : Nat
  tgt : Nat := 0
  n : Nat
  kind : LaneKind
  pol : Nat
  /-- data of a store, operand of an atomic (.cas: compare then swap), little-endian -/
  data : List Byte := []
  result : List Byte := []
  stage : Stage := .ready
  /-- page-table lines the address was translated through (R20) -/
  ptes : List Nat := []
  sb : Nat := 0
  /-- its admission reply is outstanding or yet to be asked for (R49, R51) -/
  unadmitted : Bool := false
  cause : Cause := .caprefuse
  billet : Nat := 0
  reserve : Nat := 0
  /-- scratchpad access: physical row and byte, with the check made at entry to the port -/
  row : Nat := 0
  /-- the admission request that the issue's lanes in this billet share has been refused (R49) -/
  doomed : Bool := false
  /-- that request has been granted (R49) -/
  granted : Bool := false
  /-- the lane in whose request this one was sent (R289) -/
  lead : Nat := 0
  /-- csr.lease when the instruction issued (R130, R354) -/
  lease : Nat := 0
  /-- when its request went to the host, in ns (R412) -/
  since : Nat := 0
  deriving DecidableEq, Repr

/-- One issued, not yet complete instruction (R149, IW). -/
structure Inflight where
  id : Nat
  grp : Nat
  insn : Instr
  word : DWord
  clause : Nat
  index : Nat
  prio : Nat
  bundle : LaneMask
  lanes : List LaneOp
  flag : Option Nat := none
  /-- dev or sys acquire still to be taken when every lane has returned (R157) -/
  acq : Option Nat := none
  /-- the instruction is a scratchpad access: its lanes go through SP(c) -/
  scratch : Bool := false
  /-- an engine command: complete when the command leaves its queue -/
  engine : Bool := false
  /-- the reserve when its last refusal was decided (R53) -/
  lastReserve : Nat := 0
  /-- the threads of its bundle -/
  tids : List Nat := []
  /-- a pfence: the store-buffer entries that it waits for (R161) -/
  fence : Option (List Nat) := none
  /-- threads that issue it as a replay: their ranks in the original issue (R295) -/
  replays : Map Nat := []
  deriving DecidableEq, Repr

/-- One store-buffer entry (R149). -/
structure SbEntry where
  id : Nat
  team : Nat
  tid : Nat
  iss : Nat
  lane : Nat
  ctx : Nat
  ea : Nat
  tgt : Nat
  n : Nat
  kind : LaneKind
  pol : Nat
  data : List Byte
  admitted : Bool
  sent : Bool := false
  /-- a write-back's entry: its billet has been closed since the entry was sent (R67) -/
  closed : Bool := false
  ptes : List Nat := []
  deriving DecidableEq, Repr

/-- A request for a line (R124). -/
inductive ReqKind where
  /-- load fill under OWN, SIS or WIS: policy, chunks, lease length -/
  | fill (pol : Nat) (chunks : BitVec 8) (lease : Nat)
  | wtLoad
  | own (words : BitVec 32)
  | write
  | atom (op ty : Nat) (ret : Bool)
  deriving DecidableEq, Repr

/-- A request in a channel or a home's queue. -/
structure HomeReq where
  core : Nat
  line : Nat
  kind : ReqKind
  team : Nat
  iss : Nat
  lane : Nat
  sb : Nat := 0
  ctx : Nat := 0
  ea : Nat
  n : Nat
  data : List Byte := []
  /-- the admission mark (R49) -/
  mark : Bool := false
  /-- HELD (R124): the core held a tracked copy of the line at sending -/
  held : Bool := false
  /-- the chunks it held as tracked then, which a grant need not carry (R138) -/
  has : BitVec 8 := 0
  deriving DecidableEq, Repr

/-- Core to home (R135). -/
inductive UpMsg where
  | req (r : HomeReq)
  | release (line : Nat) (words written : BitVec 32) (data : Cells 8)
  | evict (line : Nat)
  | invAck (line : Nat)
  | recallReply (line : Nat) (words written : BitVec 32) (data : Cells 8)
  | closeAck (billet : Nat)
  | killAck (page : Nat)
  deriving DecidableEq, Repr

/-- Home to core (R135). -/
inductive DownMsg where
  /-- chunks of a line: leased with an expiry, or tracked -/
  | fill (team iss lane line : Nat) (chunks : BitVec 8) (data : Cells 8) (lease : Option (BitVec 16))
  /-- the bytes of a WT load, from an address on -/
  | bytes (team iss lane base : Nat) (data : List Byte)
  | poison (team iss lane : Nat) (sb : Nat)
  /-- a perform's reply; whether it installs a filter entry (R50) -/
  | ack (sb : Nat) (old : List Byte) (opens : Bool)
  /-- ownership of words, with the data of some chunks of the line (R138); whether it installs a filter entry (R50) -/
  | grant (sb line : Nat) (words : BitVec 32) (chunks : BitVec 8) (data : Cells 8) (opens : Bool)
  | refuse (sb billet reserve : Nat) (cause : Cause)
  | inv (line : Nat)
  | recall (line : Nat) (words : BitVec 32) (forWrite : Bool)
  | close (billet : Nat)
  | kill (page : Nat)
  deriving DecidableEq, Repr

/-- A sharer or holder set (R121, R50). -/
inductive Sharers where
  | ptrs (cores : List Nat)
  | coarse (bits : BitVec 64)
  deriving DecidableEq, Repr

/-- What a home keeps for a line: L2 presence, the directory entry of R120, acknowledgements outstanding, its queue. -/
structure Line where
  present : Bool := false
  valid : BitVec 8 := 0
  dirty : Bool := false
  lv : Bool := false
  psn : Bool := false
  sharers : Sharers := .ptrs []
  wmask : BitVec 32 := 0
  owner : Nat := 0
  lexp : BitVec 16 := 0
  /-- cores whose invalidation acknowledgement is outstanding; BUSY is this list or recallFrom not empty -/
  invPend : List Nat := []
  recallPend : List Nat := []
  recallForWrite : Bool := false
  queue : List HomeReq := []
  /-- the head of the queue has sent its recalls and invalidations -/
  started : Bool := false
  /-- the head of the queue has been admitted -/
  admitted : Bool := false
  /-- bytes of a poisoned line written since it was marked (R26) -/
  written : BitVec 128 := 0
  deriving DecidableEq, Repr

/-- A billet descriptor (R36) and what the home keeps with it (R46, R50, R57). -/
structure Billet where
  poison : Bool := false
  cls : Nat := 0
  nsec : Nat := 0
  reloc : Nat := 0
  loc : Nat := 0
  stack : Nat := 0
  opened : Bool := false
  rctx : Nat := 0
  sect : BitVec 32 := 0
  closing : Bool := false
  /-- the close discards the billet and does not encode it (R63 step 4, R30, R418) -/
  discard : Bool := false
  /-- it was opened by a peer's exclusive grant of its page (R147) -/
  byGrant : Bool := false
  holders : Sharers := .ptrs []
  closePend : List Nat := []
  written : BitVec 256 := 0
  deriving DecidableEq, Repr

/-- A backed page (R37, R418), its access count (R89) and hot-until mark (R303). -/
structure Page where
  ctx : Nat
  fixed : Bool := false
  key : Nat := 0
  count : Nat := 0
  lastMs : Nat := 0
  hotUntil : Nat := 0
  tierBlock : Nat := 0
  tierLen : Nat := 0
  /-- runs of its descriptor block: stack, first sector of 8 (R37) -/
  desc : List (Nat × Nat) := []
  /-- the shortage of R88 has been reported since the page was last promoted -/
  shortReported : Bool := false
  deriving DecidableEq, Repr

/-- Bytes as a store of the part holds them, encrypted under a key and a tweak (R28, R85): reading them with the same key and tweak gives
the bytes back, with others the XTS unit's answer (log 66). -/
structure Sealed where
  key : BitVec 256
  tweak : Nat
  plain : List Byte
  deriving DecidableEq, Repr

/-- An entry of the memory-side cache (R69, R79). -/
structure MscEntry where
  dirty : Bool
  run : Sealed
  deriving DecidableEq, Repr

/-- A migration of Chipper's in progress (R90, R91). -/
structure Migration where
  page : Nat
  up : Bool
  stage : Nat := 0
  retries : Nat := 0
  dirty : Bool := false
  frozen : Bool := false
  /-- the runs that a promotion has written, for the page's billets in order: stack, first sector (R91) -/
  runs : List (Nat × Nat) := []
  deriving DecidableEq, Repr

/-- A page record (R143) and a change in progress (R144, R145). -/
structure PageRec where
  pstate : Nat := 0
  xdev : Nat := 0
  devs : List Nat := []
  coarse : Bool := false
  pend : List Nat := []
  /-- for a demotion only, the peer keeps clean copies -/
  demote : Bool := false
  /-- when the change in progress began (R148) -/
  since : Nat := 0
  /-- its entry of the page-record table (R420) -/
  slot : Nat := 0
  /-- the device that asked for the change and gives nothing back (R144) -/
  stays : Option Nat := none
  /-- the number of the change in progress, which its acknowledgements bear (R148) -/
  change : Nat := 0
  deriving DecidableEq, Repr

/-- A cached translation: leaf entry or walk-cache pointer entry (R19). -/
structure Tlb where
  ctx : Nat
  lvl : Nat
  vpn : Nat
  pte : DWord
  lines : List Nat
  leaf : Bool
  deriving DecidableEq, Repr

/-- What a walk ends with (R18). -/
inductive WalkEnd where
  | ok (pte : DWord) (lvl : Nat)
  | fault (c : Cause) (lvl ea : Nat)
  | refused (c : Cause) (billet reserve : Nat)
  deriving DecidableEq, Repr

/-- A translation walk in progress (R18). -/
structure Walker where
  ctx : Nat
  va : Nat
  /-- 0 read, 1 write, 2 rmw, 3 fetch, 4 hint -/
  kind : Nat
  sys : Bool
  lvl : Nat := 4
  table : Nat
  /-- the root table (R17) -/
  root : Nat := 0
  lines : List Nat := []
  got : Option DWord := none
  poisoned : Bool := false
  /-- the A/D update still to be made: entry address, value read -/
  cas : Option (Nat × DWord) := none
  ended : Option WalkEnd := none
  deriving DecidableEq, Repr

/-- A command in a copy channel's queue (R321 to R327). -/
structure CopyCmd where
  id : Nat
  team : Nat
  tid : Nat
  word : DWord
  /-- 0 cpy, 1 tsr, 2 cpfill, 3 cpcancel, 4 the stream of an xdrain to memory -/
  op : Nat
  fn : Nat
  dst : Nat
  src : Nat
  len : Nat
  rcd : Nat := 0
  flag : Option Nat
  grp : Nat
  iss : Nat := 0
  started : Bool := false
  done : Nat := 0
  shape : List DWord := []
  /-- the bytes of a drain's stream, from the matrix engine (R346, R347); its fn is 1 for .add.f32, dst and src are the two values of
  the origin offset, rcd the numeric version -/
  stream : List Byte := []
  addOn : Bool := false
  ctx : Nat := 0
  suspended : Bool := false
  /-- the handle of an allocation it names that has been freed (R107) -/
  freed : Option Nat := none
  /-- the billet that it has written a part of and is still to write on (R55) -/
  inside : Option Nat := none
  /-- its thread issued it in handler mode (R18, R321, R392) -/
  sys : Bool := false
  deriving DecidableEq, Repr

/-- Per team and channel (R322, R328, R330). -/
structure ChanState where
  wp : Word := 0
  stopped : Bool := false
  cause : Nat := 0
  disc : Nat := 0
  cpfa : DWord := 0
  cprsv : DWord := 0
  shape : List DWord := []
  shapeAddr : Nat := 0
  deriving DecidableEq, Repr

/-- A command in the matrix engine's queue (R340). -/
structure MatCmd where
  team : Nat
  grp : Nat
  iss : Nat
  insn : Instr
  /-- operand values read at issue -/
  a : Nat := 0
  b : Nat := 0
  /-- v values of an xwr, lane-major -/
  vals : List (List Word) := []
  bundle : LaneMask := 0
  nvr : Nat := 1
  /-- the group's lanes and their threads when the command issued (R334, R345, R346) -/
  owners : List (Nat × Nat) := []
  deriving DecidableEq, Repr

/-- One token queue (R316); the waiting bundles are lists of thread numbers with the destination's code. -/
structure TokQ where
  slots : Nat := 0
  perm : Nat := 0
  ppend : Nat := 0
  tok : Nat := 0
  fpend : Nat := 0
  pidx : Nat := 0
  tidx : Nat := 0
  pwait : List (List Nat × Nat) := []
  twait : List (List Nat × Nat) := []
  deriving DecidableEq, Repr

/-- A scratchpad allocation (R102). -/
structure Alloc where
  n : Nat
  life : Nat
  gran : Nat
  deriving DecidableEq, Repr

/-- A team (R169 to R174, R322, R387, R402). -/
structure Team where
  ctx : Nat
  queue : Nat
  pidx : Nat
  index : Nat
  core : Nat
  packet : List DWord
  groups : List Group
  threads : List Thread
  vb : Nat
  gb : Nat
  spg : Nat
  block : Nat
  acc : Bool
  rst : Bool
  lko : Nat
  allocs : Map Alloc := []
  pmark : Word := 0
  arrived : List Nat := []
  queues : List TokQ := []
  chans : List ChanState := [{}, {}, {}, {}]
  rgAddr : Option Nat := none
  rgGen : Nat := 0
  iw : List Inflight := []
  lookout : Nat := 0
  relaunches : Nat := 0
  stopping : Bool := false
  stopStart : Nat := 0
  stopReported : Bool := false
  /-- the deschedule may use keep-alive (R382): granules and store wanted are known to be free -/
  mayKeep : Bool := false
  drained : Bool := false
  kept : Bool := false
  keptSince : Nat := 0
  renewTick : Nat := 0
  kill : Option FaultInfo := none
  killer : Option Nat := none
  /-- priority of the team's queue (R376) -/
  prio : Nat := 0
  /-- its deschedule has been decided (R376, R380, R414, R427) -/
  asked : Bool := false
  /-- the store-buffer entries that the release of a drain, kill or retirement waits for (R168) -/
  snap : Option (List Nat) := none
  /-- the kill has begun (R400 steps 1 to 5) -/
  killing : Bool := false
  /-- its save record's directory entry, while it is kept alive -/
  entry : Nat := 0
  deriving DecidableEq, Repr

/-- How a core's L1 holds a 16-byte chunk (R123). -/
inductive Holding where
  | empty | tracked | leased (e : BitVec 16)
  deriving DecidableEq, Repr

/-- A line of a core's L1 (R69, R123). -/
structure L1Line where
  chunks : List Holding := List.replicate 8 .empty
  owned : BitVec 32 := 0
  written : BitVec 32 := 0
  data : Cells 8 := []
  deriving DecidableEq, Repr

/-- A scratchpad row access that has not performed (R149, SP). -/
structure PortOp where
  team : Nat
  iss : Nat
  /-- the lanes of the instruction that name the row: they share the access (R96) -/
  lanes : List Nat
  row : Nat
  deriving DecidableEq, Repr

/-- A scratchpad row's metadata (R101). -/
structure Row where
  stamp : BitVec 16 := 0
  exp : Bool := false
  deriving DecidableEq, Repr

/-- A core (INVENTORY, Per core). -/
structure Core where
  l1 : Map L1Line := []
  kc : Map (Cells 8) := []
  sb : List SbEntry := []
  filter : List Nat := []
  tlb : List Tlb := []
  walkers : Map Walker := []
  up : Map (List UpMsg) := []
  down : Map (List DownMsg) := []
  /-- invalidations and close messages taken and not yet acknowledged (R20, R50) -/
  owedInv : List Nat := []
  owedClose : List Nat := []
  cycles : Nat := 0
  rtick : BitVec 16 := 0
  lclk : BitVec 16 := 0
  /-- retention ticks since reset, for sleeps (R364) and keep-alive -/
  rtotal : Nat := 0
  tret : Word := 0x00060050
  firstReading : Bool := true
  /-- band boundaries that the sensor has been 2 degrees below: the band above the boundary, since when (R100) -/
  belowSince : Map Nat := []
  temp : Nat := 0
  rows : Map Row := []
  pad : Cells 8 := []
  port : List PortOp := []
  acc : Cells 32 := []
  accOwner : Option Nat := none
  matq : List MatCmd := []
  copyq : Map (List CopyCmd) := []
  subPowered : Bool := true
  subIdleSince : Nat := 0
  asleep : Bool := false
  /-- an emergency sleep (R110) -/
  emergency : Bool := false
  /-- the core has been sent to sleep by a power cap or a trip (R110, R436) -/
  sleepAsked : Bool := false
  /-- the governor lets a core that it sent to sleep wake (R111, R436) -/
  wakeAllowed : Bool := false
  clockKHz : Nat := 1250000
  /-- per issue slot: the last 256 memory issues, 1 for a miss (R378) -/
  missWindow : Map (List Bool) := []
  holders : Map (List Nat) := []
  /-- the cycle from which each of them has been a holder (R378) -/
  heldSince : Map (List Nat) := []
  issueClock : Nat := 0
  deriving DecidableEq, Repr

/-- A team that waits to be placed again after a kill (R402), or that a bind restored as not yet placed (R429): its number, its relaunches, its
mark, the core to avoid, since when. -/
structure Relaunch where
  team : Nat
  count : Nat
  mark : Word
  avoid : Option Nat
  since : Nat
  deriving DecidableEq, Repr

/-- What R384 and R385 give no place in a save record, kept by the part beside it (DESIGN CHOICE, log 14). -/
structure Beside where
  /-- threads in handler mode that are parked for the debugger -/
  dbg : List Nat := []
  /-- threads whose trap being handled was a fetch fault (R362) -/
  fetchTraps : List Nat := []
  /-- ranks of an issue refused as a replay (R295, R399) -/
  origins : Map Nat := []
  /-- ranks of issues that are to come as replays (R295, R380) -/
  replays : Map Nat := []
  /-- where each channel's shape register was loaded from (R347) -/
  shapeAddrs : List Nat := []
  /-- commands by channel × 64 + place: the handle freed under one (R107) -/
  frees : Map Nat := []
  /-- the commands issued in handler mode (R18) -/
  sys : List Nat := []
  deriving DecidableEq, Repr

/-- A team whose save record stands in the save area (R383): its packet, its number, its relaunches, the core it was on. -/
structure Saved where
  queue : Nat
  idx : Nat
  team : Nat
  relaunches : Nat
  core : Nat
  beside : Beside := {}
  /-- a bind found the record, and the team has not resumed since (R429) -/
  restored : Bool := false
  deriving DecidableEq, Repr

/-- A running packet (R372, R415). -/
structure Running where
  queue : Nat
  index : Nat
  packet : List DWord
  /-- its entry of the running-packet table (R415) -/
  slot : Nat
  prio : Nat
  depMet : Bool := false
  /-- cores that have taken the packet's acquire (R374) -/
  acquired : List Nat := []
  /-- the next team to be placed for the first time -/
  next : Nat := 0
  /-- teams placed and not retired -/
  placed : Nat := 0
  /-- names of the packet's teams, for a sys-scope release -/
  members : List Nat := []
  /-- teams to place again (R402) -/
  again : List Relaunch := []
  killed : Bool := false
  /-- a bind restored the packet (R429) -/
  restored : Bool := false
  /-- since when its teams wait for placement (R376) -/
  since : Nat := 0
  deriving DecidableEq, Repr

/-- What the PF driver gives a virtual device (R425): its cores, its window, its share of the pool and its key slots. -/
structure Division where
  cores : List Nat
  base : Nat
  count : Nat
  share : Nat
  keyBase : Nat
  keyCount : Nat
  deriving DecidableEq, Repr

/-- A context (INVENTORY, Per context). -/
structure Ctx where
  vd : Nat
  loc : Nat
  key : Nat
  ccb : Nat
  qtable : Nat := 0
  qcount : Nat := 0
  hqbase : Nat := 0
  hqlog : Nat := 4
  hqtail : Nat := 0
  hqlost : Nat := 0
  savebase : Nat := 0
  nvr : Word := 1
  lease : Word := 256
  xidle : Word := 4096
  xwake : Word := 192
  hintdrop : Word := 0
  privbase : DWord := 0
  privstride : Word := 0
  privslots : Word := 0
  lnkspill : DWord := 0
  ptroot : DWord := 0
  acap : DWord := 0
  keepalive : Word := 0
  tvec : DWord := 0
  tarea : DWord := 0
  dbgctl : Word := 0
  reserve : Nat := 0
  rsvcap : DWord := 0
  rsvadd : DWord := 0
  balloon : DWord := 0
  /-- private slots in use (R12) -/
  usedSlots : List Nat := []
  /-- queues stopped until their notify register is written with ERR = 0 (R372) -/
  stopped : List Nat := []
  running : List Running := []
  /-- completed packets with a gap below them: queue × 2^64 + index -/
  completed : List Nat := []
  backed : Nat := 0
  lastKind10 : Option Nat := none
  lastKind14 : Option Nat := none
  saveFullReported : Bool := false
  /-- a destroy command is under way (R414) -/
  destroying : Bool := false
  /-- save records in use, by directory entry (R383) -/
  saved : Map Saved := []
  deriving DecidableEq, Repr

/-- A virtual device (R425 to R427). -/
structure Vd where
  base : Nat := 0
  count : Nat := 0
  share : Nat := 0
  keyBase : Nat := 0
  keyCount : Nat := 0
  /-- local context number to package number (R425) -/
  ctxs : Map Nat := []
  ctxarg0 : DWord := 0
  ctxarg1 : DWord := 0
  ctxcmd : DWord := 0
  bmcmd : DWord := 0
  lmctl : Word := 0
  /-- QNOTIFY of local context n and queue q, at n × 4,096 + q (R369) -/
  notify : Map (BitVec 64) := []
  dirty : Map (BitVec 64) := []
  /-- for each PRIO the queue that placed a team last, context × 4,096 + queue: the dispatcher rotates from it (R375) -/
  placed : Map Nat := []
  /-- what the PF driver has asked for the virtual device and the part has still to take: an input, like the agenda (R425, log 110) -/
  asked : Option Division := none
  deriving DecidableEq, Repr

/-- A Barhatal port (R421, R422, R424). -/
structure Port where
  state : Nat := 0
  width : Nat := 0
  spared : Bool := false
  peer : Nat := 0
  retry : Nat := 0
  rxSeq : BitVec 12 := 0
  txSeq : BitVec 12 := 0
  replayBuf : List Flit := []
  out : List Flit := []
  replays : Map Nat := []
  nakSent : Bool := false
  /-- the far end has asked for a replay from this number (R422) -/
  nakFrom : Option Nat := none
  recoverySince : Option Nat := none
  deriving DecidableEq, Repr

/-- The Slovi complex's state (R29, R430 to R434). -/
structure Slovi where
  /-- next boot step, 1 to 6; 6 is released -/
  step : Nat := 1
  failedStep : Option Nat := none
  linkUp : Bool := false
  /-- the board strap of the last power-on: false 0, true 1 (R430) -/
  strap : Bool := false
  /-- the root key that boot has found to have the ROM's digest (R430) -/
  rootKey : List Byte := []
  /-- the public half of the device identity key, derived at first boot (R434) -/
  identity : List Byte := []
  measure : List Byte := List.replicate 64 0
  fuses : List Nat := [0, 0, 0, 0]
  baseRecord : List Byte := []
  disabledCores : List Nat := []
  slotMap : List (Nat × Nat) := []
  /-- the stack temperature above which each pseudo-channel goes to half width, as the record gives it (R83, R433) -/
  hotAt : Map Nat := []
  deviceNumber : Nat := 0
  tierBlocks : Nat := Config.tierBlocks
  /-- amendments: (kind 0 core, 1 slice, 2 pseudo-channel, 3 port spared, 4 threshold, 5 port narrowed; unit, for a threshold pseudo-channel × 1,024 + degrees) -/
  amendments : List (Nat × Nat) := []
  /-- the complex's signature of each amendment, in their order (R433) -/
  amendSigs : List (List Byte) := []
  /-- the record's lane repairs: pseudo-channel and lane (R433) -/
  laneRepairs : List (Nat × Nat) := []
  recordDigest : List Byte := []
  evidence : List Byte := []
  signature : List Byte := []
  peerKey : List Byte := []
  migKey : Option (BitVec 256) := none
  draws : Nat := 0
  /-- key slots: none free, the key otherwise -/
  keys : Map (BitVec 256) := []
  metadataKey : BitVec 256 := 0
  deriving DecidableEq, Repr

/-- The device registers of BAR2 and the management port (R414 to R420, R435 to R437). -/
structure Regs where
  chctl : Word := 0x020003E8
  chcmd : DWord := 0
  prtbase : DWord := 0
  prtsize : DWord := 0
  hrbase : DWord := 0
  hrlog : DWord := 0
  hrtail : DWord := 0
  hrhead : DWord := 0
  hrlost : DWord := 0
  pwrstat : Word := 0x00064000
  pcapl : Word := 0x00000640
  pcapr : Word := 0x00000640
  /-- when the effective cap last changed, in ns (R436) -/
  capSince : Nat := 0
  /-- the highest arithmetic clock, in kHz, that the power cap leaves the cores (R436) -/
  clockCap : Nat := 1500000
  age : List Word := [0, 0, 0, 0, 0, 0]
  /-- the 30-day step last reported for each die -/
  ageStep : List Nat := [4, 4, 4, 4, 4, 4]
  corrections : Nat := 0
  poisonings : Nat := 0
  withdrawn : Nat := 0
  deriving DecidableEq, Repr

/-- Which bundle's instruction is being run: core, team, group slot of the team. -/
structure Issuer where
  core : Nat
  team : Nat
  grp : Nat
  word : DWord
  deriving DecidableEq, Repr

/-- A write the part makes itself (R438). -/
inductive PartWrite where
  /-- a health record for a context's ring (R416) -/
  | health (ctx : Nat) (bytes : List Byte)
  /-- a health record for the device ring (R417) -/
  | device (bytes : List Byte)
  /-- bytes at a device address (CCB) -/
  | bytes (ctx da : Nat) (bytes : List Byte)
  deriving DecidableEq, Repr

/-- What the host port has sent, in its order (R167). -/
inductive HostMsg where
  | write (ea : Nat) (data : List Byte)
  /-- a PCIe AtomicOp (R299): operation, type, operands -/
  | atomic (ea op ty : Nat) (data : List Byte)
  | read (ea n : Nat)
  deriving DecidableEq, Repr

/-- A host write that is not acknowledged yet (R156, sys scope): its core, its store-buffer entry, its issue. -/
structure HostPend where
  core : Nat
  entry : Nat
  team : Nat
  iss : Nat
  /-- the host address and the context, for a record of an error (R412, R416) -/
  ea : Nat := 0
  ctx : Nat := 4096
  /-- when it went out, in ns (R412) -/
  since : Nat := 0
  deriving DecidableEq, Repr

/-- An access of a host page, or of a peer's page without a record, by a requester that is no lane: a clause fetch, a constant-path load, a
private-stack access, a record, a copy command (R143, R167): its name, its requester, the bytes once the answer has come. -/
structure HostRead where
  id : Nat
  core : Nat
  ea : Nat
  n : Nat
  /-- when it went out, in ns (R412) -/
  since : Nat := 0
  data : Option (List Byte) := none
  /-- the bytes of a write (R143) -/
  put : Option (List Byte) := none
  /-- how a peer's device has answered: 0 performed, 1 poisoned, 2 refused, 3 refused for want of pool; its reserve -/
  status : Nat := 0
  reserve : Nat := 0
  /-- the context it is made for (R412); 4096 for none -/
  ctx : Nat := 4096
  /-- operation and type of a read-modify-write that a peer's device makes in one step (R143, R346) -/
  atom : Option (Nat × Nat) := none
  /-- billets of the same store that have been admitted and stay open until the answer comes (R276) -/
  holds : List Nat := []
  deriving DecidableEq, Repr

/-- The whole package. -/
structure State where
  /-- model's own: the steps to take next, oldest first (log 2) -/
  agenda : List Instr
  /-- model's own: the bundle whose instruction is being run (log 2) -/
  issuer : Option Issuer
  /-- model's own: steps taken with an empty agenda, which say what kind of step comes next (log 2) -/
  turn : Nat
  /-- model's own: issue slots that were found to wait since the last other step (log 2) -/
  stalled : List Nat
  /-- model's own: index of the next free value (log 3) -/
  free : Nat
  /-- model's own: next name for an issue, entry, command or team (log 2) -/
  nextId : Nat
  /-- model's own: the value the last host-side or management read returned -/
  hostRd : DWord
  /-- model's own: bytes the last host-side read returned -/
  hostBytes : List Byte
  /-- model's own: uncorrectable errors that a read of the array will meet (log 4): (array, where) -/
  errors : List (Nat × Nat)
  /-- device memory at the homes, one byte per extended device address -/
  mem : Cells 8
  lines : Map Line
  billets : Map Billet
  pages : Map Page
  /-- used sectors of each frame, key stack × 2^28 + frame -/
  frames : Map (BitVec 8)
  pool : Nat
  /-- the memory-side cache, by billet (R69, R79) -/
  msc : Map MscEntry
  /-- stored runs in HBM4, at stack × 2^31 + first sector (R34, R40) -/
  hbm : Map Sealed
  /-- billets whose descriptors are cached, oldest first (R69, R78) -/
  descs : List Nat
  migrations : List Migration
  tier : Map Nat
  /-- stored blocks of the capacity tier, by block number (R85) -/
  tierData : Map Sealed
  /-- home lease ticks run with lclk 0 of every home (R128) -/
  homeClk : BitVec 16
  halfWidth : Map Bool
  prt : Map PageRec
  /-- proxy grants held from peers: extended page to kind, 1 shared, 2 exclusive (R142) -/
  proxy : Map Nat
  cores : Map Core
  teams : Map Team
  ctxs : Map Ctx
  coreVd : Map Nat
  vds : Map Vd
  ports : Map Port
  slovi : Slovi
  regs : Regs
  ns : Nat
  /-- writes the part has still to make to rings, CCBs and trap areas, oldest first (R438) -/
  posts : List PartWrite
  /-- what the host port has taken, in its order (R167) -/
  hostOut : List HostMsg
  /-- host writes not yet acknowledged -/
  hostPend : List HostPend
  /-- host reads by requesters that are no lane -/
  hostReads : List HostRead
  /-- messages to peers not yet put in a flit: device, message -/
  fabricOut : List (Nat × FabricMsg)
  /-- lines of peer pages, and of own pages that a peer holds, that some access waits for: line, whether to write (R144) -/
  peerAsks : List (Nat × Bool)
  /-- requests and revocations of peers that have arrived and wait: device, message (R144, R145) -/
  peerReqs : List (Nat × FabricMsg)
  /-- lease kills under way: page, cores that have still to acknowledge (R134) -/
  kills : Map (List Nat)
  deriving DecidableEq, Repr

/-- Sectors of the whole package: 8 stacks of 64 GiB in 32-byte sectors (00, R40). -/
def totalSectors : Nat := Config.numStacks * Config.framesPerStack * 8

/-- Right after package reset. Registers hold the values the spec states; what it states no value for is empty or zero
(log 1); VD 0 owns every core, page, sector and key slot (log 5); the unpromised pool is what R43 leaves. -/
def State.reset : State where
  agenda := []
  issuer := none
  turn := 0
  stalled := []
  free := 0
  nextId := 1
  hostRd := 0
  hostBytes := []
  errors := []
  mem := []
  lines := []
  billets := []
  pages := []
  frames := []
  pool := totalSectors - Config.relocMargin
  msc := []
  hbm := []
  descs := []
  migrations := []
  tier := []
  tierData := []
  homeClk := 0
  halfWidth := []
  prt := []
  proxy := []
  cores := []
  teams := []
  ctxs := []
  coreVd := []
  vds := [(0, { base := 0, count := 4294967296, share := totalSectors - Config.relocMargin, keyBase := 0, keyCount := 1024 })]
  ports := []
  slovi := {}
  regs := {}
  ns := 0
  posts := []
  hostOut := []
  hostPend := []
  hostReads := []
  fabricOut := []
  peerAsks := []
  peerReqs := []
  kills := []

end Sys2Proof.Machine
end

