-- ==== Sys2Proof/Machine/Cells.lean ====
section
/-! DEFINITION. Sparse arrays and finite maps, the accessors of the state, and byte order. Every read and write of a piece of
state that holds many goes through these. -/

namespace Sys2Proof.Machine

/-- The value at an index; zero where none is listed. -/
def cellGet {w : Nat} : Cells w → Nat → BitVec w
  | [], _ => 0
  | (k, v) :: rest, i => if i = k then v else cellGet rest i

/-- Removes an index. -/
def cellErase {w : Nat} (c : Cells w) (i : Nat) : Cells w := c.filter fun p => p.1 != i
/-- Puts a value at an index, before the first greater one. -/
def cellPut {w : Nat} : Cells w → Nat → BitVec w → Cells w
  | [], i, x => [(i, x)]
  | (k, v) :: rest, i, x => if i = k then (i, x) :: rest else if i < k then (i, x) :: (k, v) :: rest else (k, v) :: cellPut rest i x
/-- Writes an index, keeping the canonical form: zero removes the entry. -/
def cellSet {w : Nat} (c : Cells w) (i : Nat) (x : BitVec w) : Cells w := if x = 0 then cellErase c i else cellPut c i x

/-- The canonical form: every index is at least lo, indices strictly rise, no value is zero. -/
def cellsWfFrom {w : Nat} : Nat → Cells w → Bool
  | _, [] => true
  | lo, (k, v) :: rest => decide (lo ≤ k) && decide (v ≠ 0) && cellsWfFrom (k + 1) rest

/-- The canonical form of a sparse array. -/
def cellsWf {w : Nat} (c : Cells w) : Bool := cellsWfFrom 0 c

/-- Zero at every index of a range. -/
def cellsZero {w : Nat} (c : Cells w) (start : Nat) : Nat → Cells w
  | 0 => c
  | n + 1 => cellsZero (cellSet c (start + n) 0) start n

/-- Consecutive values. -/
def cellsGet {w : Nat} (c : Cells w) (start n : Nat) : List (BitVec w) :=
  (List.range n).map fun i => cellGet c (start + i)

/-- Writes consecutive values. -/
def cellsSet {w : Nat} (c : Cells w) (start : Nat) : List (BitVec w) → Cells w
  | [] => c
  | x :: xs => cellsSet (cellSet c start x) (start + 1) xs

/-- The entry of a map. -/
def mapGet? {α : Type} : Map α → Nat → Option α
  | [], _ => none
  | (k, v) :: rest, i => if i = k then some v else mapGet? rest i

/-- Writes an entry, keys kept in rising order. -/
def mapSet {α : Type} : Map α → Nat → α → Map α
  | [], i, x => [(i, x)]
  | (k, v) :: rest, i, x =>
    if i = k then (i, x) :: rest else if i < k then (i, x) :: (k, v) :: rest else (k, v) :: mapSet rest i x

/-- Removes an entry. -/
def mapErase {α : Type} (m : Map α) (i : Nat) : Map α := m.filter fun p => p.1 != i

/-- Whether a bit of a mask is set. -/
def bit {w : Nat} (b : BitVec w) (i : Nat) : Bool := b.getLsbD i
/-- Sets or clears a bit. -/
def setBit {w : Nat} (b : BitVec w) (i : Nat) (x : Bool) : BitVec w :=
  if x then b ||| (1#w <<< i) else b &&& ~~~(1#w <<< i)
/-- The mask of a list of positions. -/
def maskOf {w : Nat} (l : List Nat) : BitVec w := l.foldl (fun b i => setBit b i true) 0
/-- The positions set in a mask, ascending. -/
def bitsOf {w : Nat} (b : BitVec w) : List Nat := (List.range w).filter (bit b)

/-- A field of a 64-bit word, bits [hi:lo]. -/
def fld (w : DWord) (hi lo : Nat) : Nat := w.toNat / 2 ^ lo % 2 ^ (hi + 1 - lo)
/-- A field of a number. -/
def nfld (w hi lo : Nat) : Nat := w / 2 ^ lo % 2 ^ (hi + 1 - lo)

/-- Sign extension of the low w bits of a number to an integer. -/
def sext (w : Nat) (n : Nat) : Int :=
  let m := n % 2 ^ w
  if m < 2 ^ (w - 1) then (m : Int) else (m : Int) - (2 ^ w : Nat)

/-- A sum of a 64-bit address and a signed offset, modulo 2^64. -/
def addrPlus (a : Nat) (off : Int) (bits : Nat := 64) : Nat := (((a : Int) + off) % ((2 ^ bits : Nat) : Int)).toNat

/-- The first element that a function maps to something, with its position dropped. -/
def firstSome {α β : Type} (f : α → Option β) : List α → Option β
  | [] => none
  | x :: xs => match f x with
    | some y => some y
    | none => firstSome f xs

/-- Removes the first element that satisfies a test. -/
def removeFirst {α : Type} (p : α → Bool) : List α → List α
  | [] => []
  | x :: xs => if p x then xs else x :: removeFirst p xs

/-- Duplicates removed, first occurrences kept. -/
def dedup (l : List Nat) : List Nat := l.foldl (fun acc x => if acc.contains x then acc else acc ++ [x]) []

/-- Updates position i of a list. -/
def listUpd {α : Type} (l : List α) (i : Nat) (f : α → α) : List α :=
  l.mapIdx fun j x => if j = i then f x else x

/-- A core that nothing has touched since reset: only its clocks have run (R99, R128, log 13). -/
def State.freshCore (s : State) : Core :=
  { rtick := BitVec.ofNat 16 (s.ns / 1000), rtotal := s.ns / 1000, lclk := s.homeClk, cycles := s.ns / 64 * 80 }
/-- A core; one that is not listed is as reset leaves it. -/
def State.core (s : State) (c : Nat) : Core := (mapGet? s.cores c).getD s.freshCore
/-- The metadata of a scratchpad row (R101). -/
def Core.row (c : Core) (p : Nat) : Row := (mapGet? c.rows p).getD {}
def State.updCore (s : State) (c : Nat) (f : Core → Core) : State := { s with cores := mapSet s.cores c (f (s.core c)) }
def State.team (s : State) (t : Nat) : Option Team := mapGet? s.teams t
def State.updTeam (s : State) (t : Nat) (f : Team → Team) : State :=
  match mapGet? s.teams t with
  | some x => { s with teams := mapSet s.teams t (f x) }
  | none => s
def State.updThread (s : State) (t tid : Nat) (f : Thread → Thread) : State :=
  s.updTeam t fun x => { x with threads := listUpd x.threads tid f }
def State.updGroup (s : State) (t g : Nat) (f : Group → Group) : State :=
  s.updTeam t fun x => { x with groups := listUpd x.groups g f }
def State.thread (s : State) (t tid : Nat) : Option Thread := (s.team t).bind fun x => x.threads[tid]?
def State.group (s : State) (t g : Nat) : Option Group := (s.team t).bind fun x => x.groups[g]?
def State.line (s : State) (l : Nat) : Line := (mapGet? s.lines l).getD {}
def State.updLine (s : State) (l : Nat) (f : Line → Line) : State := { s with lines := mapSet s.lines l (f (s.line l)) }
def State.billet (s : State) (b : Nat) : Billet := (mapGet? s.billets b).getD {}
def State.updBillet (s : State) (b : Nat) (f : Billet → Billet) : State :=
  { s with billets := mapSet s.billets b (f (s.billet b)) }
def State.page (s : State) (p : Nat) : Option Page := mapGet? s.pages p
def State.updPage (s : State) (p : Nat) (f : Page → Page) : State :=
  match mapGet? s.pages p with
  | some x => { s with pages := mapSet s.pages p (f x) }
  | none => s
def State.ctx (s : State) (x : Nat) : Option Ctx := mapGet? s.ctxs x
def State.updCtx (s : State) (x : Nat) (f : Ctx → Ctx) : State :=
  match mapGet? s.ctxs x with
  | some c => { s with ctxs := mapSet s.ctxs x (f c) }
  | none => s
def State.vd (s : State) (v : Nat) : Vd := (mapGet? s.vds v).getD {}
def State.updVd (s : State) (v : Nat) (f : Vd → Vd) : State := { s with vds := mapSet s.vds v (f (s.vd v)) }
def State.port (s : State) (p : Nat) : Port := (mapGet? s.ports p).getD {}
def State.updPort (s : State) (p : Nat) (f : Port → Port) : State := { s with ports := mapSet s.ports p (f (s.port p)) }
def State.updReg (s : State) (f : Regs → Regs) : State := { s with regs := f s.regs }

/-- A fresh name. -/
def State.fresh (s : State) : Nat × State := (s.nextId, { s with nextId := s.nextId + 1 })
/-- A free 32-bit value, and the state in which the next one is drawn (log 3). -/
def State.freeWord (s : State) : Word × State := (Config.freeWord s.free, { s with free := s.free + 1 })

/-- Extended device addresses below this are the part's own (R14); a peer device's follow (log 6). -/
def daLimit : Nat := 2 ^ 48
/-- The extended address of a peer device's address (TGT 2). -/
def peerEa (dev pa : Nat) : Nat := (dev + 1) * 2 ^ 54 + pa
def isPeer (ea : Nat) : Bool := 2 ^ 54 ≤ ea
def peerDev (ea : Nat) : Nat := ea / 2 ^ 54 - 1

def lineOf (ea : Nat) : Nat := ea / 128
def billetOf (ea : Nat) : Nat := ea / 256
def pageOf (ea : Nat) : Nat := ea / 65536
def billetOfLine (l : Nat) : Nat := l / 2
def pageOfBillet (b : Nat) : Nat := b / 256
def pageOfLine (l : Nat) : Nat := l / 512
/-- The lines an access of n bytes touches. -/
def linesOf (ea n : Nat) : List Nat :=
  if n = 0 then [] else (List.range (lineOf (ea + n - 1) - lineOf ea + 1)).map (lineOf ea + ·)

/-- R70: the home slot of a device address. -/
def homeSlot (da : Nat) : Nat :=
  (nfld da 16 8) ^^^ (nfld da 25 17) ^^^ (nfld da 34 26) ^^^ (nfld da 43 35) ^^^ (nfld da 47 44)
/-- The slice that homes an address: the record's slot map, slot h on slice h where the map names none (R70). -/
def State.slice (s : State) (ea : Nat) : Nat :=
  let h := homeSlot (ea % daLimit)
  ((s.slovi.slotMap.find? fun p => p.1 == h).map Prod.snd).getD h

/-- The bytes at the homes. -/
def State.readMem (s : State) (ea n : Nat) : List Byte := cellsGet s.mem ea n
def State.writeMem (s : State) (ea : Nat) (bs : List Byte) : State := { s with mem := cellsSet s.mem ea bs }
/-- The canonical form of memory. -/
def State.memWf (s : State) : Bool := cellsWf s.mem

/-- The threads of a bundle: lane and thread number, in ascending lane order. -/
def tidAt (t : Team) (g l : Nat) : Option Nat :=
  (List.range t.threads.length).find? fun i =>
    match t.threads[i]? with
    | some th => th.grp == g && th.lane == l && th.st != .exited
    | none => false
def lanesOf (t : Team) (g : Nat) (m : LaneMask) : List (Nat × Nat) :=
  (bitsOf m).filterMap fun l => (tidAt t g l).map fun i => (l, i)

/-- A thread counts as parked (R175, R390). -/
def Thread.isParked (t : Thread) : Bool := t.handler || t.st == .parked
/-- Every state other than exited is live (R175). -/
def Thread.live (t : Thread) : Bool := t.st != .exited

/-- Whether a core is disabled (R1, R433). -/
def State.coreEnabled (s : State) (c : Nat) : Bool := c < 640 && !s.slovi.disabledCores.contains c
/-- The enabled cores. -/
def State.enabledCores (s : State) : List Nat := (List.range 640).filter s.coreEnabled

/-- Takes an error the log of physical causes holds for an array and a place (log 4). A correctable one, named by the array's number
plus 100, is corrected and counted (R93). -/
def State.takeError (s : State) (array place : Nat) : Bool × State :=
  let s : State := if s.errors.contains (100 + array, place) then { s with errors := removeFirst (· == (100 + array, place)) s.errors, regs := { s.regs with corrections := s.regs.corrections + 1 } } else s
  if s.errors.contains (array, place) then (true, { s with errors := removeFirst (· == (array, place)) s.errors })
  else (false, s)

/-- The numbers of the causes (R397). -/
def Cause.number : Cause → Nat
  | .illinsn => 0x01 | .badclause => 0x02 | .trapi => 0x03 | .brkpt => 0x04
  | .noncanon => 0x10 | .notmapped => 0x11 | .permission => 0x12 | .format => 0x13 | .xpoison => 0x14 | .privbound => 0x15
  | .caprefuse => 0x20 | .bpoison => 0x21 | .unbacked => 0x22 | .tiershort => 0x23
  | .sstale => 0x30 | .sbound => 0x31 | .spoison => 0x32
  | .illconv => 0x40 | .rgflags => 0x41 | .rgaddr => 0x42 | .lnkovf => 0x43 | .lnkunf => 0x44 | .lnkorder => 0x45
  | .qbad => 0x46 | .lookout => 0x47 | .nested => 0x48 | .tarea => 0x49 | .drvkill => 0x4A
  | .misalign => 0x50 | .hostatom => 0x51 | .cpyarg => 0x60
  | .apoison => 0x70 | .rpoison => 0x71 | .rgerr => 0x72

/-- The handling of each cause (R389, R397). -/
inductive Handling where
  | handler | recordKill | kill | channel
  deriving DecidableEq, Repr

def Cause.handling : Cause → Handling
  | .xpoison | .bpoison => .recordKill
  | .spoison | .lookout | .nested | .tarea | .drvkill | .apoison | .rpoison | .rgerr => .kill
  | .cpyarg => .channel
  | .illinsn | .badclause | .trapi | .brkpt | .noncanon | .notmapped | .permission | .format | .privbound | .caprefuse
  | .unbacked | .tiershort | .sstale | .sbound | .illconv | .rgflags | .rgaddr | .lnkovf | .lnkunf | .lnkorder | .qbad
  | .misalign | .hostatom => .handler

/-- Whether a restartable team is placed again after a kill with this cause (R397, R402). -/
def Cause.relaunch : Cause → Bool
  | .xpoison | .bpoison | .spoison | .apoison | .rpoison | .rgerr => true
  | _ => false

end Sys2Proof.Machine
end

