-- ==== Sys2Proof/Machine/Store.lean ====
section
/-! DEFINITION. What the part stores: the encoder and its check (R32 to R35), runs as they stand encrypted in HBM4 and in the
memory-side cache (R28, R34), and the capacity tier's page images (R85, R86). -/

namespace Sys2Proof.Machine

/-! ## The encoder (R32 to R35) -/

/-- The 32-bit words of bytes, little-endian (R31). -/
def toWords : List Byte → List Word
  | a :: b :: c :: d :: rest => BitVec.ofNat 32 (leNat [a, b, c, d]) :: toWords rest
  | _ => []
/-- Bytes of a word. -/
def wordBytes (w : Word) : List Byte := leBytes 4 w.toNat

def deltasFit (ws : List Word) (lo hi : Int) : Bool :=
  ws.all fun w => let d := (w - ws.headD 0).toInt; decide (lo ≤ d) && decide (d ≤ hi)
/-- Words that are not zero. -/
def nonzeroWords (ws : List Word) : Nat := (ws.filter (· != 0)).length
/-- Sectors of class SW. -/
def swSectors (n : Nat) : Nat := (8 + 4 * n + 31) / 32

/-- The candidates of R32 in their order: class code and sectors. -/
def candidates (ws : List Word) : List (Nat × Nat) :=
  let n := nonzeroWords ws
  (if n = 0 then [(0, 0)] else []) ++
  (if ws.headD 0 != 0 && ws.all (· == ws.headD 0) then [(1, 0)] else []) ++
  (if deltasFit ws (-128) 127 then [(2, 3)] else []) ++
  (if 1 ≤ n ∧ n ≤ 54 then [(3, swSectors n)] else []) ++
  (if deltasFit ws (-32768) 32767 then [(4, 5)] else []) ++ [(5, 8)]

/-- R33: the candidate with fewest sectors, the first in order among equals. -/
def encodeClass (ws : List Word) : Nat × Nat :=
  (candidates ws).foldl (fun best c => if c.2 < best.2 then c else best) (5, 9)

/-- The class's payload without padding (R34, R85). -/
def payload (cls : Nat) (ws : List Word) : List Byte :=
  match cls with
  | 1 => wordBytes (ws.headD 0)
  | 2 => wordBytes (ws.headD 0) ++ ws.map fun w => BitVec.ofNat 8 (w - ws.headD 0).toNat
  | 3 => leBytes 8 ((maskOf ((List.range 64).filter fun i => ws.getD i 0 != 0) : BitVec 64)).toNat ++
      (ws.filter (· != 0)).flatMap wordBytes
  | 4 => wordBytes (ws.headD 0) ++ ws.flatMap fun w => leBytes 2 (w - ws.headD 0).toNat
  | 5 => ws.flatMap wordBytes
  | _ => []

/-- The words rebuilt from a payload, and the bytes left over; none where it fails R35. -/
def decodePayload (cls : Nat) (bs : List Byte) : Option (List Word × List Byte) :=
  match cls with
  | 0 => some (List.replicate 64 0, bs)
  | 1 => if bs.length < 4 then none else some (List.replicate 64 (BitVec.ofNat 32 (leNat (bs.take 4))), bs.drop 4)
  | 2 => if bs.length < 68 then none else
      let base := BitVec.ofNat 32 (leNat (bs.take 4))
      some (((bs.drop 4).take 64).map fun b => base + (b.signExtend 32), bs.drop 68)
  | 3 => if bs.length < 8 then none else
      let m := leNat (bs.take 8)
      let n := ((List.range 64).filter fun i => m.testBit i).length
      if n = 0 ∨ 54 < n ∨ bs.length < 8 + 4 * n then none else
      let ws := toWords ((bs.drop 8).take (4 * n))
      let r := (List.range 64).foldl (fun (acc : List Word × List Word) i =>
        if m.testBit i then (acc.1 ++ [acc.2.headD 0], acc.2.drop 1) else (acc.1 ++ [0], acc.2)) ([], ws)
      some (r.1, bs.drop (8 + 4 * n))
  | 4 => if bs.length < 132 then none else
      let base := BitVec.ofNat 32 (leNat (bs.take 4))
      let ds := (List.range 64).map fun i => BitVec.ofNat 16 (leNat (((bs.drop 4).drop (2 * i)).take 2))
      some (ds.map fun d => base + d.signExtend 32, bs.drop 132)
  | 5 => if bs.length < 256 then none else some (toWords (bs.take 256), bs.drop 256)
  | _ => none

/-- What a class needs no payload for: the bytes of a Z or K billet (R32). -/
def plainBytes (cls : Nat) (kval : Word) : List Byte :=
  if cls = 0 then List.replicate 256 0 else (List.replicate 64 (wordBytes kval)).flatten
/-- The stored run of n sectors: the payload, and zero bytes up to the end of the last sector (R34). -/
def runBytes (cls n : Nat) (ws : List Word) : List Byte :=
  let p := payload cls ws
  p ++ List.replicate (32 * n - p.length) 0
/-- R35 for a class that has sectors: the billet's bytes from its stored run; none where descriptor and payload disagree. -/
def decodeRun (cls n : Nat) (run : List Byte) : Option (List Byte) :=
  if cls < 2 || 5 < cls || 8 < n then none else
  (decodePayload cls (run.take (32 * n))).bind fun (ws, rest) =>
    let used := 32 * n - rest.length
    if (used + 31) / 32 = n && rest.all (· == 0) then some (ws.flatMap wordBytes) else none

/-! ## Encryption (R28, R85) -/

/-- Encrypting: the key and the tweak stay with the bytes. -/
def encrypt (key : BitVec 256) (tweak : Nat) (bs : List Byte) : Sealed := { key := key, tweak := tweak, plain := bs }
/-- Decrypting: with the key and tweak of the encryption the bytes come back; with others the XTS unit gives what it gives. -/
def decrypt (key : BitVec 256) (tweak : Nat) (x : Sealed) : List Byte :=
  if x.key = key && x.tweak = tweak then x.plain
  else Config.xtsDecrypt key (BitVec.ofNat 128 tweak) (Config.xtsEncrypt x.key (BitVec.ofNat 128 x.tweak) x.plain)
/-- The key a page's contents are stored under: that of the context's key slot (R28, R29); a zeroised slot holds zero. -/
def State.keyOf (s : State) (p : Nat) : BitVec 256 := (mapGet? s.slovi.keys (((s.page p).map Page.key).getD 0)).getD 0
/-- The key of a run in HBM4 or the memory-side cache, and its place: the tweak of a billet's unit is DA[47:8] (R28). -/
def State.sealRun (s : State) (b : Nat) (bs : List Byte) : Sealed := encrypt (s.keyOf (pageOfBillet b)) b bs
/-- Where a run stands. -/
def runPlace (stack sect : Nat) : Nat := stack * 2 ^ 31 + sect
/-- A run is written to HBM4 (R82: whole runs). -/
def State.hbmWrite (s : State) (stack sect : Nat) (x : Sealed) : State := { s with hbm := mapSet s.hbm (runPlace stack sect) x }

/-! ## The tier's page image (R85, R86) -/

/-- The tier image of 256 billets' words, up to a 4 KiB boundary. -/
def tierImage (bs : List (List Word)) : List Byte :=
  let r := (List.range 256).foldl (fun (acc : List Byte × List Byte) i =>
    let ws := bs.getD i []
    let cls := (encodeClass ws).1
    match (if cls = 0 then none else (bs.take i).findIdx? (· == ws)) with
    | some j => (acc.1 ++ leBytes 2 (6 * 8192 + j), acc.2)
    | none => (acc.1 ++ leBytes 2 (cls * 8192), acc.2 ++ (if cls = 0 then [] else payload cls ws))) ([], [])
  let img := r.1 ++ r.2
  img ++ List.replicate ((4096 - img.length % 4096) % 4096) 0
/-- Its decoding; none where R86 finds a fault. -/
def tierDecode (img : List Byte) : Option (List (List Word)) :=
  let entry := fun i => leNat ((img.drop (2 * i)).take 2)
  let r := (List.range 256).foldl (fun (acc : Option (List (List Word) × List Byte)) i =>
    acc.bind fun (ws, body) =>
      let code := entry i / 8192
      if nfld (entry i) 12 8 ≠ 0 || code = 7 then none
      else if code = 6 then
        let j := entry i % 256
        if i ≤ j || entry j / 8192 = 0 || entry j / 8192 = 6 then none else some (ws ++ [ws.getD j []], body)
      else (decodePayload code body).map fun (x, rest) => (ws ++ [x], rest)) (some ([], img.drop 512))
  r.bind fun (ws, rest) => if rest.all (· == 0) then some ws else none
/-- Blocks of 4 KiB. -/
def blocksOf : Nat → List Byte → List (List Byte)
  | 0, _ => []
  | fuel + 1, l => if l.isEmpty then [] else l.take 4096 :: blocksOf fuel (l.drop 4096)
/-- The tier stores a page's image, block by block, under the page's key, with tweak DA[47:16] × 32 + block (R85). -/
def State.tierWrite (s : State) (p block : Nat) (img : List Byte) : State :=
  let bs := blocksOf (img.length / 4096 + 1) img
  { s with tierData := (bs.mapIdx fun i b => (i, b)).foldl (fun m (i, b) => mapSet m (block + i) (encrypt (s.keyOf p) (p * 32 + i) b)) s.tierData }
/-- The image of a page as it stands in n blocks of the tier. -/
def State.tierRead (s : State) (p block n : Nat) : List Byte :=
  (List.range n).flatMap fun i => match mapGet? s.tierData (block + i) with
    | some x => decrypt (s.keyOf p) (p * 32 + i) x
    | none => []
/-- SECT of a page in the tier (R86): bit 31 is 0 for a block of the on-carrier tier and 1 for one of CXL-attached memory, whose blocks
follow the on-carrier ones (log 67). -/
def tierSect (block : Nat) : BitVec 32 :=
  if block < Config.tierBlocks then BitVec.ofNat 32 block else BitVec.ofNat 32 (2 ^ 31 + (block - Config.tierBlocks))

end Sys2Proof.Machine
end

