-- ==== Sys2Proof/Machine/Home.lean ====
section
/-! DEFINITION. The homes: the sector pool (02), L2 and the memory-side cache (03), the directory's recalls and invalidations (05),
admission and closing, and the operations that a requester that is no core's load or store path makes at a home in one step
(log 7). -/

namespace Sys2Proof.Machine

/-! ## Health records (R401, R416, R417) -/

/-- A health record in the layout of R401. -/
def healthRecord (kind : Nat) (cause code relaunch fate queue team pidx pmark core addr time : Nat) : List Byte :=
  leBytes 4 kind ++ leBytes 1 cause ++ leBytes 1 code ++ leBytes 1 relaunch ++ leBytes 1 fate ++ leBytes 2 queue ++ leBytes 2 0 ++
  leBytes 4 team ++ leBytes 8 pidx ++ leBytes 4 pmark ++ leBytes 2 core ++ leBytes 2 0 ++ leBytes 8 addr ++ leBytes 8 time ++
  List.replicate 16 0

/-- A record of a kind with only an address. -/
def simpleRecord (s : State) (kind addr : Nat) : List Byte := healthRecord kind 0 0 0 0 0 0 0 0 0 addr s.ns

def State.post (s : State) (p : PartWrite) : State := { s with posts := s.posts ++ [p] }
def State.postCtx (s : State) (ctx : Nat) (r : List Byte) : State := s.post (.health ctx r)
def State.postDevice (s : State) (r : List Byte) : State := s.post (.device r)

/-- The page's owner (R438). -/
def State.ownerOf (s : State) (ea : Nat) : Nat := ((s.page (pageOf ea)).map Page.ctx).getD 4096
/-- The context of a team; 4096 where there is none. -/
def State.teamCtx (s : State) (tk : Nat) : Nat := ((s.team tk).map Team.ctx).getD 4096
/-- Kind 14, at most once in a millisecond per context (R438). -/
def State.postRefused (s : State) (ea : Nat) : State :=
  let o := s.ownerOf ea
  match s.ctx o with
  | none => s
  | some c =>
    let recent : Bool := match c.lastKind14 with | some t => decide (s.ns < t + 1000000) | none => false
    if recent then s
    else (s.updCtx o fun c => { c with lastKind14 := some s.ns }).postCtx o (simpleRecord s 14 (ea / 256 * 256))

/-! ## The sector pool (R40 to R43) -/

/-- The first offset at which n sectors of a frame are free. -/
def runFits (used : BitVec 8) (n : Nat) : Option Nat :=
  (List.range (9 - n)).find? fun o => (List.range n).all fun i => !bit used (o + i)
/-- The first frame of a stack, from frame f on, with n free sectors in a row; frames not listed are free. -/
def findRun (stack n : Nat) : Map (BitVec 8) → Nat → Option (Nat × Nat)
  | [], f => if f < Config.framesPerStack then some (f, 0) else none
  | (k, used) :: rest, f =>
    if f ≥ Config.framesPerStack then none
    else if k < stack * Config.framesPerStack + f then findRun stack n rest f
    else if k = stack * Config.framesPerStack + f then
      match runFits used n with
      | some o => some (f, o)
      | none => findRun stack n rest (f + 1)
    else some (f, 0)
/-- R42: the stack that serves the billet's home slice, then the others in rising order (log 8). -/
def stackOrder (s : State) (b : Nat) : List Nat :=
  let p := s.slice (b * 256) / 64
  p :: (List.range Config.numStacks).filter (· != p)
/-- A new run of n sectors for a billet: stack and first sector. -/
def allocRun (s : State) (b n : Nat) : Option (Nat × Nat × State) :=
  firstSome (fun st =>
    (findRun st n s.frames 0).map fun (f, o) =>
      let k := st * Config.framesPerStack + f
      let used := (List.range n).foldl (fun u i => setBit u (o + i) true) ((mapGet? s.frames k).getD 0)
      (st, f * 8 + o, { s with frames := mapSet s.frames k used })) (stackOrder s b)
/-- Frees n sectors from a first sector. -/
def freeRun (s : State) (stack sect n : Nat) : State :=
  if n = 0 then s else
  let k := stack * Config.framesPerStack + sect / 8
  let used := (List.range n).foldl (fun u i => setBit u (sect % 8 + i) false) ((mapGet? s.frames k).getD 0)
  { s with frames := if used = 0 then mapErase s.frames k else mapSet s.frames k used }

/-- R57: the sectors a descriptor counts for; an out-of-range poisoned one counts none. -/
def Billet.count (b : Billet) : Nat := if b.poison && (b.cls ≥ 6 || b.nsec ≥ 9) then 0 else b.nsec
/-- R57: the sectors that an out-of-range descriptor appeared to name are never freed; they leave the pool and are counted when the
descriptor gives them up. -/
def withdraw (s : State) (b : Nat) : State :=
  let d := s.billet b
  if d.poison && d.loc = 0 && (d.cls ≥ 6 || d.nsec ≥ 9) then { s with regs := { s.regs with withdrawn := s.regs.withdrawn + d.nsec } } else s
/-- The sectors a billet's run holds in the sector pool. -/
def Billet.held (b : Billet) : Nat := if b.loc = 0 then b.count else 0

/-- Sectors to and from the unpromised pool and a virtual device's share of it (R43, R425). -/
def State.poolTake (s : State) (vd n : Nat) : State :=
  { s.updVd vd fun v => { v with share := v.share - n } with pool := s.pool - n }
def State.poolGive (s : State) (vd n : Nat) : State :=
  { s.updVd vd fun v => { v with share := v.share + n } with pool := s.pool + n }
/-- What the contexts of a virtual device may take (R425). -/
def State.poolOf (s : State) (vd : Nat) : Nat := min s.pool (s.vd vd).share
/-- The virtual device whose window holds a page (R425). -/
def State.vdOfPage (s : State) (p : Nat) : Nat :=
  ((s.vds.find? fun (_, v) => v.base ≤ p && p < v.base + v.count).map Prod.fst).getD 0
/-- R47: a writeback credit; to the pool where the context is gone. -/
def State.credit (s : State) (ctx n page : Nat) : State :=
  match s.ctx ctx with
  | some _ => s.updCtx ctx fun c => { c with reserve := c.reserve + n }
  | none => s.poolGive (s.vdOfPage page) n

/-! ## Sharer sets (R121, R50) -/

/-- Adds a core. -/
def Sharers.add (sh : Sharers) (c : Nat) : Sharers :=
  match sh with
  | .ptrs l => if l.contains c then sh else if l.length < 4 then .ptrs (l ++ [c])
      else .coarse (maskOf ((l ++ [c]).map (· / 10)))
  | .coarse b => .coarse (setBit b (c / 10) true)
/-- Removes a core's pointer; a coarse bit stays. -/
def Sharers.remove (sh : Sharers) (c : Nat) : Sharers :=
  match sh with
  | .ptrs l => .ptrs (l.filter (· != c))
  | .coarse _ => sh
/-- The cores a set stands for (R137: enabled ones). -/
def State.sharerCores (s : State) (sh : Sharers) : List Nat :=
  match sh with
  | .ptrs l => l
  | .coarse b => ((bitsOf b).flatMap fun i => (List.range 10).map (10 * i + ·)).filter s.coreEnabled
/-- Whether a pointer names the core. -/
def Sharers.names (sh : Sharers) (c : Nat) : Bool := match sh with | .ptrs l => l.contains c | .coarse _ => false
/-- Whether a core is recorded. -/
def Sharers.records (sh : Sharers) (c : Nat) : Bool :=
  match sh with | .ptrs l => l.contains c | .coarse b => bit b (c / 10)

/-! ## A core's L1 (R71, R123, R125, R129) -/

def chunkOf (off : Nat) : Nat := off / 16
/-- Chunks an access of n bytes at an offset of a line touches. -/
def chunksOf (off n : Nat) : BitVec 8 := maskOf ((List.range 8).filter fun i => i * 16 < off + n && off < (i + 1) * 16)
/-- Words an access touches. -/
def wordsMask (off n : Nat) : BitVec 32 := maskOf ((List.range 32).filter fun i => i * 4 < off + n && off < (i + 1) * 4)
/-- Words of chunks. -/
def chunkWords (c : BitVec 8) : BitVec 32 := maskOf ((List.range 32).filter fun i => bit c (i / 4))

/-- R129: a lease with expiry e is live at tick t. -/
def leaseLive (e t : BitVec 16) : Bool := let d := (e - t).toNat; 2 ≤ d && d ≤ 32767
/-- Whether an expiry is later than another. -/
def laterTick (a b : BitVec 16) : Bool := let d := (a - b).toNat; 1 ≤ d && d ≤ 32767
/-- Whether a holding is tracked. -/
def Holding.isTracked : Holding → Bool | .tracked => true | _ => false
/-- Whether a holding is a lease. -/
def Holding.isLeased : Holding → Bool | .leased _ => true | _ => false
/-- A core is added to a line's sharers (R122). -/
def Line.share (l : Line) (core : Nat) : Line := { l with sharers := l.sharers.add core }
/-- A line with nothing held leaves L1. -/
def L1Line.isEmpty (l : L1Line) : Bool := l.owned == 0 && l.chunks.all (· == .empty)
def Core.l1Line (c : Core) (l : Nat) : L1Line := (mapGet? c.l1 l).getD {}
def Core.setL1 (c : Core) (l : Nat) (x : L1Line) : Core :=
  { c with l1 := if x.isEmpty then mapErase c.l1 l else mapSet c.l1 l x }
/-- An invalidation drops tracked chunks; owned words and leases stay (R123). -/
def L1Line.dropTracked (x : L1Line) : L1Line :=
  { x with chunks := x.chunks.map fun h => if h.isTracked then .empty else h }
/-- Drops leased chunks. -/
def L1Line.dropLeased (x : L1Line) : L1Line :=
  { x with chunks := x.chunks.map fun h => if h.isLeased then .empty else h }
/-- The core holds a tracked copy of the line (HELD, R124). -/
def L1Line.held (x : L1Line) : Bool := x.chunks.any Holding.isTracked
/-- Every leased chunk of the core ends (R132). -/
def Core.dropLeases (c : Core) : Core :=
  { c with l1 := (c.l1.map fun (k, x) => (k, x.dropLeased)).filter fun (_, x) => !x.isEmpty }
/-- A walk begins again from the root. -/
def Walker.restart (w : Walker) : Walker :=
  { w with lvl := 4, table := w.root, lines := [], got := none, poisoned := false, cas := none, ended := none }
/-- Translation entries derived from a line go, and walks that have read it begin again (R20, R22). -/
def Core.dropTlb (c : Core) (line : Nat) : Core :=
  { c with tlb := c.tlb.filter (fun e => !e.lines.contains line), walkers := c.walkers.map fun (k, w) => (k, if w.lines.contains line || w.got.isSome then w.restart else w) }
/-- An invalidation takes effect at a core. -/
def Core.invalidate (c : Core) (line : Nat) : Core := (c.setL1 line (c.l1Line line).dropTracked).dropTlb line
/-- Bytes of words from a line's data. -/
def dataOfWords (d : Cells 8) (words : BitVec 32) : List (Nat × Byte) :=
  (List.range 128).filterMap fun i => if bit words (i / 4) then some (i, cellGet d i) else none
def mergeBytes (d : Cells 8) (bs : List (Nat × Byte)) : Cells 8 := bs.foldl (fun d (i, b) => cellSet d i b) d
/-- A recall takes effect at the owner (R125). What a leased chunk of the owner shows afterwards is not stated: it keeps the bytes the
owner last had, readable under SIS until the lease ends (R123, log 68). -/
def L1Line.recalled (x : L1Line) (words : BitVec 32) (forWrite : Bool) : L1Line :=
  let x := { x with owned := x.owned &&& ~~~words, written := x.written &&& ~~~words }
  if forWrite then { x with chunks := x.chunks.mapIdx fun i h =>
      -- R126: no tracked copy of a word another core is about to write; the chunk stays only where none of its words was recalled
      if h.isTracked && (words &&& chunkWords (setBit 0 i true)) != 0 then .empty else h }
  else x

/-- R150: every copy of the bytes in L1(c) is updated. -/
def updateCopies (c : Core) (ea : Nat) (bs : List Byte) : Core :=
  let line := lineOf ea
  match mapGet? c.l1 line with
  | none => c
  | some x => c.setL1 line { x with data := cellsSet x.data (ea % 128) bs }
/-- Chunks from the home; words the core owns keep their values (R123). -/
def installChunks (x : L1Line) (chunks : BitVec 8) (data : Cells 8) (h : Holding) : L1Line :=
  let bs := (dataOfWords data (chunkWords chunks)).filter fun (i, _) => !bit x.owned (i / 4)
  { x with data := mergeBytes x.data bs, chunks := x.chunks.mapIdx fun i old => if bit chunks i then (if old.isTracked then .tracked else h) else old }

/-! ## A line's quiet (log 7) -/

def ReqKind.isFill : ReqKind → Bool | .fill pol _ _ => pol != 2 | _ => false
def ReqKind.isSis : ReqKind → Bool | .fill pol _ _ => pol == 2 | _ => false
def ReqKind.isWtLoad : ReqKind → Bool | .wtLoad => true | _ => false
def ReqKind.isOwn : ReqKind → Bool | .own _ => true | _ => false
def ReqKind.isWrite : ReqKind → Bool | .write => true | _ => false
def ReqKind.isAtom : ReqKind → Bool | .atom _ _ _ => true | _ => false
def ReqKind.isStore (k : ReqKind) : Bool := k.isOwn || k.isWrite || k.isAtom

def upTouches (line : Nat) : UpMsg → Bool
  | .release l _ _ _ => l == line
  | .evict l => l == line
  | .invAck l => l == line
  | .recallReply l _ _ _ => l == line
  | _ => false
def downTouches (sb : List SbEntry) (line : Nat) : DownMsg → Bool
  | .fill _ _ _ l _ _ _ => l == line
  | .grant _ l _ _ _ _ => l == line
  | .ack id _ _ => sb.any fun e => e.id == id && e.tgt != 1 && lineOf e.ea == line
  | .inv l => l == line
  | .recall l _ _ => l == line
  | _ => false
/-- BUSY (R120). -/
def Line.busy (l : Line) : Bool := !l.invPend.isEmpty || !l.recallPend.isEmpty
/-- A page that a migration has frozen (R90 step 4, R91 step 3): its homes hold every request they have not begun. -/
def State.frozen (s : State) (p : Nat) : Bool := s.migrations.any fun m => m.page == p && m.frozen
/-- Nothing about the line is in flight; requests may wait at its home. -/
def State.calm (s : State) (line : Nat) : Bool :=
  let l := s.line line
  !l.busy && !l.started &&
  s.cores.all fun (_, c) =>
    !c.owedInv.contains line && c.up.all (fun (_, q) => q.all fun m => !upTouches line m) &&
    c.down.all fun (_, q) => q.all fun m => !downTouches c.sb line m
/-- Nothing of a core is under way to the home of a line, so that a request of the core that is made there in one step keeps the
order of their channel (R135). -/
def State.channelClear (s : State) (core line : Nat) : Bool :=
  ((mapGet? (s.core core).up (s.slice (line * 128))).getD []).isEmpty
/-- The requests of a requester that is a core find its channel clear. -/
def State.inTurn (s : State) (core : Option Nat) (line : Nat) : Bool :=
  match core with
  | some c => s.channelClear c line
  | none => true
/-- The set of a line in its home's L2: 512 sets to a slice, two to a billet (R69, log 69). -/
def State.l2Set (s : State) (line : Nat) : Nat := s.slice (line * 128) * 512 + line / 1024 % 256 * 2 + line % 2
/-- A line is in L2, or its set has a way free (R69). -/
def State.l2Way (s : State) (line : Nat) : Bool :=
  (s.line line).present || (s.lines.filter fun (l, x) => x.present && s.l2Set l == s.l2Set line).length < 16
/-- L2 can take what a fill of a line may bring: both lines of the billet (R74). -/
def State.l2Room (s : State) (line : Nat) : Bool :=
  s.l2Way (2 * billetOfLine line) && s.l2Way (2 * billetOfLine line + 1)
/-- Nothing about the line is in flight, nothing waits for it and L2 has room for it, so that an operation may be made at its home at
once. -/
def State.quiet (s : State) (line : Nat) : Bool :=
  (s.line line).queue.isEmpty && !s.frozen (pageOfLine line) && s.calm line && s.l2Room line

/-- A pgyield of the core whose write of V := 0 has been made has still to surrender the page that it was translated to through a line (R20,
R63). A lane before that write holds no translation: it is translated in the step that makes the write (log 102). -/
def State.yieldsOn (s : State) (c line : Nat) : Bool :=
  s.teams.any fun (_, t) => t.core == c && t.groups.any fun g =>
    (g.bundle.map fun b => b.yields.any fun y => y.stage == 1 && y.ptes.contains line).getD false
/-- An access of the core that was translated through a line is still under way (R20). -/
def State.dependsOn (s : State) (c line : Nat) : Bool :=
  s.yieldsOn c line || (s.core c).sb.any (fun e => e.ptes.contains line) ||
  s.teams.any fun (_, t) => t.core == c && t.iw.any fun i => i.lanes.any fun l =>
    l.ptes.contains line && (l.stage == .ready || l.stage == .sent || l.stage == .entered)

/-! ## Poison (R25, R26, R56, R57, R94) -/

/-- A kind 2 record to the rings of R417. -/
def State.reportPoison (s : State) (ea : Nat) : State :=
  let key := (s.page (pageOf ea)).map Page.key
  let r := simpleRecord s 2 ea
  let s := (s.ctxs.filter fun (_, c) => some c.key == key).foldl (fun s (x, _) => s.postCtx x r) s
  { s.postDevice r with regs := { s.regs with poisonings := s.regs.poisonings + 1 } }
/-- Every core's translations and tracked copies of a line go. -/
def State.dropCopies (s : State) (line : Nat) (except : Option Nat := none) : State :=
  (s.sharerCores (s.line line).sharers).foldl (fun s c => if some c == except then s else s.updCore c (·.invalidate line)) s
/-- A line of L2 is marked poisoned (R25). -/
def State.poisonLine (s : State) (line : Nat) : State :=
  if (s.line line).psn then s else
  (((s.dropCopies line).updLine line fun l => { l with present := true, psn := true, written := 0 }).reportPoison (line * 128))
/-- POISON is set in a billet's descriptor and whichever of its lines are in L2 are marked (R56). -/
def State.markPoison (s : State) (b : Nat) : State :=
  let s := (s.dropCopies (2 * b)).dropCopies (2 * b + 1)
  let s := s.updBillet b fun d => { d with poison := true, written := 0 }
  (s.updLine (2 * b) fun l => { l with psn := l.present }).updLine (2 * b + 1) fun l => { l with psn := l.present }
/-- A billet is poisoned; reported once (R56). -/
def State.poisonBillet (s : State) (b : Nat) : State :=
  if (s.billet b).poison then s else (s.markPoison b).reportPoison (b * 256)
/-- Every billet of a page is poisoned; reported once (R86, R148). -/
def State.poisonPage (s : State) (p : Nat) : State :=
  if (List.range 256).all fun i => (s.billet (p * 256 + i)).poison then s else
  ((List.range 256).foldl (fun s i => if (s.billet (p * 256 + i)).poison then s else s.markPoison (p * 256 + i)) s).reportPoison (p * 65536)
/-- Every billet of a page is poisoned, each reported (R84, R93: a descriptor block). -/
def State.poisonBillets (s : State) (p : Nat) : State := (List.range 256).foldl (fun s i => s.poisonBillet (p * 256 + i)) s
def State.isPoisoned (s : State) (line : Nat) : Bool := (s.line line).psn || (s.billet (billetOfLine line)).poison

/-! ## Errors in L1 (R93; array 4, a chunk's place is its number and its core, log 4) -/

/-- An uncorrectable error in a chunk: the chunk is dropped; words of it that the core owns go back to the home, which poisons the line. -/
def l1Lose (s : State) (core ea : Nat) : State :=
  let line := lineOf ea
  let c : BitVec 8 := setBit 0 (chunkOf (ea % 128)) true
  let x := (s.core core).l1Line line
  let w := x.owned &&& chunkWords c
  let s := s.updCore core fun k => k.setL1 line { x with owned := x.owned &&& ~~~w, written := x.written &&& ~~~w, chunks := x.chunks.mapIdx fun i h => if bit c i then .empty else h }
  if w = 0 then s else (s.updLine line fun l => let m := l.wmask &&& ~~~w; { l with wmask := m, owner := if m = 0 then 0 else l.owner }).poisonLine line
/-- L1 reads the chunk of an address: whether it was lost. -/
def l1Read (s : State) (core ea : Nat) : Bool × State :=
  -- a request for ownership that names its line rests on the chunks the core holds (R138): the error is met by a later read
  if (s.core core).sb.any (fun x => x.sent && x.pol == 0 && x.tgt != 1 && lineOf x.ea == lineOf ea) then (false, s) else
  let (bad, s) := s.takeError 4 (ea / 16 * 1024 + core)
  if bad then (true, l1Lose s core ea) else (false, s)
/-- L1 reads the chunks of owned words that it gives up. -/
def l1ReadOwned (s : State) (core line : Nat) (words : BitVec 32) : State :=
  if s.errors.isEmpty then s else
  (List.range 8).foldl (fun s i =>
    if ((s.core core).l1Line line).owned &&& words &&& chunkWords (setBit 0 i true) = 0 then s else (l1Read s core (line * 128 + 16 * i)).2) s

/-! ## The memory-side cache (R69, R79, R80) -/

/-- The entry of a billet goes, without being written (R80). -/
def mscDrop (s : State) (b : Nat) : State := { s with msc := mapErase s.msc b }
/-- A dirty entry is written to the billet's run in HBM4 (R79); one with an uncorrectable error poisons its billet (R93; array 2, log 4). -/
def mscWrite (s : State) (b : Nat) : State :=
  match mapGet? s.msc b with
  | some e =>
    if !e.dirty then s else
    let (bad, s) := s.takeError 2 b
    if bad then (mscDrop s b).poisonBillet b
    else ({ s with msc := mapSet s.msc b { e with dirty := false } }).hbmWrite (s.billet b).stack (s.billet b).sect.toNat e.run
  | none => s
/-- The entry goes, written first where it is dirty (R74, R80). -/
def mscRemove (s : State) (b : Nat) : State := mscDrop (mscWrite s b) b
/-- The set of a billet (R69): the I/O die of its stack (R79), and of the die's 131,072 sets the one its address names (log 8). -/
def mscSet (s : State) (b : Nat) : Nat := (s.billet b).stack / 4 * 131072 + b % 131072
def mscRoom (s : State) (b n : Nat) : Bool :=
  let es := s.msc.filter fun (k, _) => mscSet s k == mscSet s b && k != b
  es.length < 16 && (es.foldl (fun a (k, _) => a + (s.billet k).nsec) 0) + n ≤ 32
/-- Evicts from the billet's set until the run fits, lowest address first (R80, log 8). -/
def mscEvict (s : State) (b n : Nat) : Nat → State
  | 0 => s
  | fuel + 1 => if mscRoom s b n then s else
    match s.msc.find? fun (k, _) => mscSet s k == mscSet s b && k != b with
    | some (k, _) => mscEvict (mscRemove s k) b n fuel
    | none => s
/-- An insertion, for a billet that has sectors. -/
def mscInsert (s : State) (b n : Nat) (e : MscEntry) : State :=
  if n = 0 then s else let s := mscEvict s b n 16; { s with msc := mapSet s.msc b e }

/-! ## L2 fill (R74, R77, R79, R80, R87, R93) -/

/-- The descriptor is cached at its home (R69, R78): 2,048 to a slice, the one cached longest leaves; an uncorrectable error in the cache
makes the home read it from its block again, and one in the block poisons the page's billets (R93; arrays 12 and 14, log 4). -/
def touchDesc (s : State) (b : Nat) : State :=
  let (again, s) := s.takeError 12 b
  let (bad, s) := if again || !s.descs.contains b then s.takeError 14 (pageOfBillet b) else (false, s)
  let s := if bad then s.poisonBillets (pageOfBillet b) else s
  let mine := s.descs.filter fun x => x != b && s.slice (x * 256) == s.slice (b * 256)
  let out := if 2048 ≤ mine.length then mine.head? else none
  { s with descs := (s.descs.filter fun x => x != b && some x != out) ++ [b] }
/-- The descriptor alone shows that the billet fails R35. -/
def Billet.bad (d : Billet) : Bool :=
  5 < d.cls || 8 < d.nsec || (d.cls ≤ 1 && d.nsec != 0) || (d.cls == 2 && d.nsec != 3) || (d.cls == 4 && d.nsec != 5) || (d.cls == 5 && d.nsec != 8)
/-- The bytes a run decodes to (R74, R35). A run that was never written is met in no run of the machine; the bytes at the home stand. -/
def runValue (s : State) (b : Nat) (x : Option Sealed) : Option (List Byte) :=
  let d := s.billet b
  if d.bad then none else
  match x with
  | some r => decodeRun d.cls d.nsec (decrypt (s.keyOf (pageOfBillet b)) b r)
  | none => some (s.readMem (b * 256) 256)
/-- The bytes of a closed or partly present billet in its stored form: the descriptor's for Z and K, else the entry's of the memory-side
cache or the run's (R46 step 4, R75). -/
def storedValue (s : State) (b : Nat) : Option (List Byte) :=
  let d := s.billet b
  if d.bad then none
  else if d.cls ≤ 1 then some (plainBytes d.cls d.sect)
  else runValue s b (match mapGet? s.msc b with | some e => some e.run | none => mapGet? s.hbm (runPlace d.stack d.sect.toNat))
/-- The same read at the arrays, with the errors it meets (R93; arrays 1 and 2, log 4): a clean entry that fails is dropped and the run read
instead; none where the billet is to be poisoned. -/
def readStored (s : State) (b : Nat) : Option (List Byte) × State :=
  let d := s.billet b
  if d.bad || d.cls ≤ 1 then (storedValue s b, s) else
  let run := fun (s : State) => let (bad, s) := s.takeError 1 b; (if bad then none else storedValue s b, s)
  match mapGet? s.msc b with
  | some e =>
    let (bad, s) := s.takeError 2 b
    if !bad then (storedValue s b, s) else if e.dirty then (none, mscDrop s b) else run (mscDrop s b)
  | none => run s
/-- The billets of a page in the tier (R87); none where R86 finds a fault. -/
def tierValue (s : State) (p : Nat) : Option (List (List Word)) :=
  match s.page p with
  | some g => tierDecode (s.tierRead p g.tierBlock g.tierLen)
  | none => none
/-- Chunks of a line take their bytes from the billet's 256. -/
def putChunks (s : State) (line : Nat) (chunks : BitVec 8) (bs : List Byte) : State :=
  (bitsOf chunks).foldl (fun s i =>
    let x := (bs.drop (line % 2 * 128 + 16 * i)).take 16
    if s.readMem (line * 128 + 16 * i) 16 = x then s else s.writeMem (line * 128 + 16 * i) x) s
/-- The bytes of a billet that are not valid in L2 are those of its stored form. -/
def fillBytes (s : State) (b : Nat) (bs : List Byte) : State :=
  putChunks (putChunks s (2 * b) (~~~(s.line (2 * b)).valid) bs) (2 * b + 1) (~~~(s.line (2 * b + 1)).valid) bs
/-- Both lines of a billet are in L2; what is valid there already is kept (R74). -/
def installBoth (s : State) (b : Nat) (bs : List Byte) : State :=
  ((fillBytes s b bs).updLine (2 * b) fun l => { l with present := true, valid := 0xFF }).updLine (2 * b + 1) fun l =>
    { l with present := true, valid := 0xFF }
/-- Both lines of a poisoned billet are in L2, marked poisoned (R74). -/
def installPoisoned (s : State) (b : Nat) : State :=
  (s.updLine (2 * b) fun l => { l with present := true, valid := 0xFF, psn := true }).updLine (2 * b + 1) fun l =>
    { l with present := true, valid := 0xFF, psn := true }
/-- The billet fails its check: it is poisoned (R56), and its lines are installed so. -/
def fillPoison (s : State) (b : Nat) : State := installPoisoned (s.poisonBillet b) b
/-- An uncorrectable error in a line of L2 (R93; array 5, log 4): a clean line is dropped and fetched again, a dirty one poisoned. -/
def l2Error (s : State) (line : Nat) : State :=
  if !(s.line line).present then s else
  let (bad, s) := s.takeError 5 line
  if !bad then s
  else if (s.line line).dirty then s.poisonLine line
  else s.updLine line fun l => { l with valid := 0 }
/-- R74 from HBM4: the whole run, or for RAW the chunks asked for. -/
def hbmFill (s : State) (line : Nat) (chunks : BitVec 8) : State :=
  let b := billetOfLine line
  let d := s.billet b
  let (bad, s) := s.takeError 1 b
  match if bad then none else runValue s b (mapGet? s.hbm (runPlace d.stack d.sect.toNat)) with
  | none => fillPoison s b
  | some bs =>
    if d.cls = 5 then (putChunks s line (chunks &&& ~~~(s.line line).valid) bs).updLine line fun l => { l with present := true, valid := l.valid ||| chunks }
    else installBoth s b bs
/-- R74: fills the chunks of a line that are not valid; the arrays are 1 HBM4, 2 memory-side cache, 3 tier (log 4). -/
def l2Fill (s : State) (line : Nat) (chunks : BitVec 8) : State :=
  let s := l2Error s line
  let l := s.line line
  if l.valid &&& chunks = chunks then s.updLine line fun l => { l with present := true }
  else if isPeer (line * 128) then s.updLine line fun l => { l with present := true, valid := 0xFF }
  else
  let b := billetOfLine line
  let s := touchDesc s b
  let d := s.billet b
  if d.poison then installPoisoned s b
  else if d.loc = 1 then
    let (bad, s) := s.takeError 3 (pageOfBillet b)
    match if bad then none else tierValue s (pageOfBillet b) with
    | none => installPoisoned (s.poisonPage (pageOfBillet b)) b
    | some ws => installBoth s b ((ws.getD (b % 256) []).flatMap wordBytes)
  else if d.bad then fillPoison s b
  else if d.cls ≤ 1 then installBoth s b (plainBytes d.cls d.sect)
  else match mapGet? s.msc b with
    | some e =>
      let (bad, s) := s.takeError 2 b
      if bad then (if e.dirty then fillPoison (mscDrop s b) b else hbmFill (mscDrop s b) line chunks)
      else
        let s := mscRemove s b
        match runValue s b (some e.run) with
        | none => fillPoison s b
        | some bs => installBoth s b bs
    | none => hbmFill s line chunks

/-! ## What every store-class perform marks (R57, R75, R90, R426) -/

def markDirtyPage (s : State) (p : Nat) : State :=
  let v := s.vdOfPage p
  if bit (s.vd v).lmctl 0 then
    let i := p - (s.vd v).base
    s.updVd v fun x => { x with dirty := mapSet x.dirty (i / 64) (setBit ((mapGet? x.dirty (i / 64)).getD 0) (i % 64) true) }
  else s
def markMigration (s : State) (p : Nat) : State :=
  { s with migrations := s.migrations.map fun m => if m.page == p && !m.up then { m with dirty := true } else m }
/-- One access of a page is counted (R89). -/
def touchPage (s : State) (p : Nat) : State := s.updPage p fun x => { x with count := x.count + 1, lastMs := s.ns / 1000000 }

/-- The written-byte records of a poisoned line and billet (R26, R57). -/
def markWritten (s : State) (line off n : Nat) : State :=
  let b := billetOfLine line
  if (s.billet b).poison then
    let s := s.updBillet b fun d =>
      { d with written := (List.range n).foldl (fun w i => setBit w ((line % 2) * 128 + off + i) true) d.written }
    if (s.billet b).written = BitVec.allOnes 256 then
      let bad := (s.billet b).cls ≥ 6 || (s.billet b).nsec ≥ 9
      let s := withdraw s b
      let s := s.updBillet b fun d =>
        { d with poison := false, written := 0, nsec := if bad then 0 else d.nsec, cls := if bad then 0 else d.cls }
      (s.updLine (2 * b) fun l => { l with psn := false, valid := 0xFF }).updLine (2 * b + 1) fun l => { l with psn := false, valid := 0xFF }
    else s
  else if (s.line line).psn then
    let s := s.updLine line fun l => { l with written := (List.range n).foldl (fun w i => setBit w (off + i) true) l.written }
    if (s.line line).written = BitVec.allOnes 128 then s.updLine line fun l => { l with psn := false, written := 0, valid := 0xFF } else s
  else s

/-- The old bytes at a home; those of a poisoned line or billet that nothing has written since are free values (R57, log 3). -/
def oldAt (s : State) (ea n : Nat) : List Byte × State :=
  let line := lineOf ea
  let old := s.readMem ea n
  if !s.isPoisoned line then (old, s)
  else
    let b := s.billet (billetOfLine line)
    let written := fun i => if b.poison then bit b.written ((line % 2) * 128 + ea % 128 + i) else bit (s.line line).written (ea % 128 + i)
    let k := (n + 3) / 4
    let free := (List.range k).flatMap fun i => leBytes 4 (Config.freeWord (s.free + i)).toNat
    (old.mapIdx fun i x => if written i then x else free.getD i 0, { s with free := s.free + k })

/-- A write performs at the home of one line: the bytes, and everything R75, R57, R90 and R426 attach to it. -/
def performWrite (s : State) (ea : Nat) (bs : List Byte) : State :=
  let line := lineOf ea
  let off := ea % 128
  let cs := chunksOf off bs.length
  let part := maskOf ((bitsOf cs).filter fun i => !(off ≤ i * 16 && (i + 1) * 16 ≤ off + bs.length))
  let s := mscRemove (l2Fill s line part) (billetOf ea)
  let s := s.writeMem ea bs
  let s := s.updLine line fun l => { l with present := true, valid := l.valid ||| cs, dirty := true }
  let s := markWritten s line off bs.length
  if isPeer ea then s else touchPage (markDirtyPage (markMigration s (pageOf ea)) (pageOf ea)) (pageOf ea)

/-! ## Channels (R135) -/

/-- Appends a message of a core to its channel to a home. -/
def sendUp (s : State) (core ea : Nat) (m : UpMsg) : State :=
  let h := s.slice ea
  s.updCore core fun c => { c with up := mapSet c.up h (((mapGet? c.up h).getD []) ++ [m]) }
/-- Appends a message of a home to its channel to a core. -/
def sendDown (s : State) (core ea : Nat) (m : DownMsg) : State :=
  let h := s.slice ea
  s.updCore core fun c => { c with down := mapSet c.down h (((mapGet? c.down h).getD []) ++ [m]) }

/-! ## Recalls and invalidations made at once -/

/-- The written words of a release or recall merge at the home (R125, R72). -/
def mergeAtHome (s : State) (line : Nat) (written : BitVec 32) (data : Cells 8) : State :=
  if written = 0 then s else
  let cs : BitVec 8 := maskOf ((bitsOf written).map (· / 4))
  let s := l2Fill s line cs
  let s := (dataOfWords data written).foldl (fun s (i, b) => s.writeMem (line * 128 + i) [b]) s
  let s := s.updLine line fun l => { l with present := true, valid := l.valid ||| cs, dirty := true }
  let s := (bitsOf written).foldl (fun s i => markWritten s line (4 * i) 4) s
  if isPeer (line * 128) then s else markDirtyPage (markMigration s (pageOfLine line)) (pageOfLine line)

/-- The owner's named words come home now (R125). -/
def recallNow (s : State) (line : Nat) (words : BitVec 32) (forWrite : Bool) : State :=
  let s := l1ReadOwned s (s.line line).owner line ((s.line line).wmask &&& words)
  let l := s.line line
  let w := l.wmask &&& words
  if w = 0 then s else
  let x := (s.core l.owner).l1Line line
  let s := mergeAtHome s line (x.written &&& w) x.data
  let s := s.updCore l.owner fun c => c.setL1 line (x.recalled w forWrite)
  s.updLine line fun l =>
    let l := if forWrite then l else l.share l.owner
    { l with wmask := l.wmask &&& ~~~w, owner := if l.wmask &&& ~~~w = 0 then 0 else l.owner }

/-- Every recorded sharer but one is invalidated now; that one stays recorded where it holds a tracked copy (R122, R124). -/
def invalidateNow (s : State) (line : Nat) (except : Option Nat) : State :=
  let keep := except.filter fun c => ((s.core c).l1Line line).held && (s.line line).sharers.records c
  (s.dropCopies line except).updLine line fun l => { l with sharers := .ptrs keep.toList }

/-- An uncorrectable error in a directory entry (R93; array 11, log 4), met by an operation made at the home in one step: every core is
invalidated and the owned words come home. -/
def dirErrorNow (s : State) (line : Nat) : State :=
  let (bad, s) := s.takeError 11 line
  if !bad then s else
  let s := recallNow s line (BitVec.allOnes 32) true
  (s.enabledCores.foldl (fun s c => s.updCore c (·.invalidate line)) s).updLine line fun l => { l with sharers := .ptrs [] }

/-! ## Admission (R45, R57, R88, R116, R438) -/

/-- The reserve home's decision, or a reason the request must wait. -/
inductive Adm where
  | grant (s : State)
  | refuse (s : State) (cause : Cause) (reserve : Nat)
  | wait (s : State)

/-- The sectors a promotion of the page needs (R88). -/
def promotionNeed (s : State) (p : Nat) : Nat := (List.range 256).foldl (fun a i => a + (s.billet (p * 256 + i)).count) 0
/-- Whether a promotion is under way. -/
def promoting (s : State) (p : Nat) : Bool := s.migrations.any fun m => m.page == p && m.up
/-- A promotion begins; at most 8 pages are in migration at once (R89). -/
def startPromotion (s : State) (p : Nat) : State :=
  if 8 ≤ s.migrations.length || s.migrations.any (fun m => m.page == p) then s else { s with migrations := s.migrations ++ [{ page := p, up := true }] }

/-- R45 against the reserve of a context. A page in the tier is first promoted (R87), or refused for want of pool (R88). A page that is
not backed has no descriptors: the lane is UNBACKED (R38). -/
def admission (s : State) (b ctx : Nat) : Adm :=
  let d := s.billet b
  let p := pageOfBillet b
  if (s.page p).isNone then .refuse s .unbacked 0
  else if d.closing || s.frozen p then .wait s
  else if d.loc = 1 then
    if promoting s p then .wait s
    else if s.poolOf (s.vdOfPage p) < promotionNeed s p then
      let first := !(((s.page p).map Page.shortReported).getD false)
      let s := if first then (s.updPage p fun x => { x with shortReported := true }).postCtx (s.ownerOf (b * 256)) (simpleRecord s 5 (p * 65536)) else s
      .refuse s .tiershort (((s.ctx ctx).map Ctx.reserve).getD 0)
    else .wait (startPromotion s p)
  else if d.opened then .grant s
  else
    let s := touchDesc s b
    let debit := 8 - d.count
    let r := ((s.ctx ctx).map Ctx.reserve).getD 0
    if debit ≤ r then
      .grant ((markMigration (s.updCtx ctx fun c => { c with reserve := c.reserve - debit }) p).updBillet b fun d =>
        { d with opened := true, rctx := ctx, holders := .ptrs [] })
    else .refuse (markMigration s p) .caprefuse r

/-! ## Closing (R41, R46, R47, R50, R57, R94) -/

/-- A close serves the write-backs sent for the billet; one with an older store of its core to the billet still in flight waits on. -/
def servedBy (b : Nat) (sb : List SbEntry) (e : SbEntry) : Bool :=
  e.n == 0 && e.sent && e.tgt != 1 && billetOf e.ea == b && !((sb.takeWhile fun x => x.id != e.id).any fun x => x.n != 0 && x.tgt != 1 && billetOf x.ea == b)
def noteClosed (s : State) (b : Nat) : State :=
  { s with cores := s.cores.map fun ((i, c) : Nat × Core) => if c.sb.any (servedBy b c.sb) then (i, { c with sb := c.sb.map fun e => if servedBy b c.sb e then { e with closed := true } else e }) else (i, c) }
/-- R41: where the run of n' sectors stands; none where no frame offers one (R42). -/
def placeRun (s : State) (b n' : Nat) : Option (State × Nat × Nat × Nat) :=
  let d := s.billet b
  let n := d.count
  if n' = n then some (s, d.stack, d.sect.toNat, d.reloc)
  else if n' < n then some (freeRun s d.stack (d.sect.toNat + n') (n - n'), d.stack, d.sect.toNat, d.reloc)
  else (allocRun s b n').map fun (st, f, s) => (freeRun s d.stack d.sect.toNat n, st, f, if n = 0 then d.reloc else min 15 (d.reloc + 1))
/-- A line leaves L2, and its directory entry with it; the next fill installs the entry's reset values (R120). -/
def leaveL2 (s : State) (line : Nat) : State :=
  s.updLine line fun l => { l with present := false, valid := 0, dirty := false, lv := false, lexp := 0, psn := false, written := 0 }
/-- The billet is no longer open, and its lines are clean. -/
def shutBillet (s : State) (b : Nat) : State :=
  let s := s.updBillet b fun d => { d with opened := false, closing := false, discard := false, byGrant := false, holders := .ptrs [], closePend := [] }
  (s.updLine (2 * b) fun l => { l with dirty := false }).updLine (2 * b + 1) fun l => { l with dirty := false }
/-- The run of a close is stored: in the memory-side cache, dirty, where the close lets the last line of the billet leave L2; else
straight in HBM4, as R80 lets it be (log 8). -/
def storeRun (s : State) (b n' : Nat) (x : Sealed) (leave : Option Nat) : State :=
  let d := s.billet b
  match leave with
  | some l =>
    let other := if l % 2 = 0 then l + 1 else l - 1
    if !(s.line other).present && (s.sharerCores (s.line l).sharers).isEmpty && (s.line l).wmask = 0 && s.calm l then
      mscInsert (leaveL2 s l) b n' { dirty := true, run := x }
    else (mscDrop s b).hbmWrite d.stack d.sect.toNat x
  | none => (mscDrop s b).hbmWrite d.stack d.sect.toNat x
/-- R46 steps 4 and 5: the billet is encoded and stored, the credit made. None where its run must wait for compaction (R42). -/
def finishClose (s : State) (b : Nat) (leave : Option Nat := none) : Option State :=
  let s := touchDesc (noteClosed s b) b
  let s := recallNow (recallNow s (2 * b) (BitVec.allOnes 32) false) (2 * b + 1) (BitVec.allOnes 32) false
  let s := l2Error (l2Error s (2 * b)) (2 * b + 1)
  let d := s.billet b
  let p := pageOfBillet b
  let whole := (s.line (2 * b)).valid == 0xFF && (s.line (2 * b + 1)).valid == 0xFF
  let (value, s) := if d.poison || (s.line (2 * b)).psn || (s.line (2 * b + 1)).psn then (none, s)
    else if whole then (some (s.readMem (b * 256) 256), s) else readStored s b
  match value with
  | none =>
    let marked := (s.line (2 * b)).psn || (s.line (2 * b + 1)).psn
    some (shutBillet ((if marked && !d.poison then s.markPoison b else s.poisonBillet b).credit d.rctx (8 - d.count) p) b)
  | some bs =>
    let s := if whole then s else fillBytes s b bs
    let fixed := ((s.page p).map Page.fixed).getD false
    let ws := toWords (s.readMem (b * 256) 256)
    let (cls, n') := if fixed then (5, 8) else encodeClass ws
    (placeRun s b n').map fun (s, stk, sec, rel) =>
      let s := s.updBillet b fun d => { d with cls := cls, nsec := n' , reloc := rel, loc := 0, stack := (if n' = 0 then 0 else stk), sect := (if cls = 1 then ws.headD 0 else if n' = 0 then 0 else BitVec.ofNat 32 sec) }
      let s := if n' = 0 then mscDrop s b else storeRun s b n' (s.sealRun b (runBytes cls n' ws)) leave
      markMigration ((shutBillet s b).credit d.rctx (8 - n') p) p

/-- A lane of the billet that shares a grant has still to perform (R49). -/
def grantOpen (s : State) (b : Nat) : Bool :=
  s.teams.any fun (_, t) => t.iw.any fun i => i.lanes.any fun l =>
    l.granted && (l.stage == .ready || l.stage == .entered) && l.tgt != 1 && billetOf l.ea == b
/-- A store-buffer entry's lane has been granted in a request that another lane of its issue made (R49). -/
def SbEntry.granted (s : State) (e : SbEntry) : Bool :=
  match s.team e.team with
  | some t => t.iw.any fun i => i.id == e.iss && i.lanes.any fun l => l.lane == e.lane && l.granted
  | none => false
/-- Every store-class request that a holder sent without a mark, or that has been granted, has performed (R46 step 2, R49, R50). -/
def closeClear (s : State) (b : Nat) : Bool :=
  !grantOpen s b && s.cores.all fun (_, c) => c.sb.all fun e => !(billetOf e.ea == b && e.tgt != 1 && e.n != 0 && e.admitted)
/-- A page that a peer holds exclusively closes no billet, nor one whose record is changing; what the grant opened closes once the page is
local again (R147). -/
def closeBarred (s : State) (b : Nat) : Bool :=
  match mapGet? s.prt (pageOfBillet b) with
  | some r => r.pstate == 2 || !r.pend.isEmpty || ((s.billet b).byGrant && r.pstate != 0)
  | none => false
/-- R46 steps 1 and 2: the close messages go to the holders. -/
def startClose (s : State) (b : Nat) (discard : Bool) : State :=
  let cs := s.sharerCores (s.billet b).holders
  let s := cs.foldl (fun s c => sendDown s c (b * 256) (.close b)) s
  s.updBillet b fun d => { d with closing := true, discard := discard, closePend := cs, holders := .ptrs [] }
/-- A copy or drain has written a part of the billet and has not left it: the billet stays open, so that no refusal comes behind a byte of
it that has been written (R55). So does one that a private-stack store has been admitted to while another part of it is under way at a peer's
device (R276). -/
def engineInside (s : State) (b : Nat) : Bool :=
  (s.cores.any fun (_, c) => c.copyq.any fun (_, q) => q.any fun x => x.inside == some b) || s.hostReads.any fun r => r.holds.contains b
/-- A close may begin: no request of the billet has begun at its home. -/
def mayClose (s : State) (b : Nat) : Bool :=
  !closeBarred s b && !engineInside s b && !(s.line (2 * b)).busy && !(s.line (2 * b + 1)).busy && !(s.line (2 * b)).started && !(s.line (2 * b + 1)).started
/-- Every request that need not wait for the close has been performed, and nothing of the billet is in flight (R46 step 3). -/
def closeReady (s : State) (b : Nat) : Bool :=
  (s.billet b).closePend.isEmpty && s.calm (2 * b) && s.calm (2 * b + 1) && closeClear s b &&
  ((s.line (2 * b)).queue ++ (s.line (2 * b + 1)).queue).all fun r => r.mark || !r.kind.isStore
/-- A close as far as it can go; none where nothing can be done yet. -/
def closeStep (s : State) (b : Nat) (leave : Option Nat := none) : Option State :=
  let d := s.billet b
  if !d.opened || d.discard then none
  else if !d.closing then
    if !mayClose s b then none
    else
      let s := startClose s b false
      if closeReady s b then some ((finishClose s b leave).getD s) else some s
  else if closeReady s b then finishClose s b leave else none
/-- The open billets of a page close without being encoded (R63 step 4, R30, R418): none where every acknowledgement is in, else the
state in which the closes have gone on as far as they can. -/
def discardCloses (s : State) (p : Nat) : Option State :=
  let bs := (s.billets.filter fun (b, d) => pageOfBillet b == p && d.opened).map Prod.fst
  if bs.all fun b => (s.billet b).discard && closeReady s b then none
  else some (bs.foldl (fun s b =>
    if (s.billet b).discard then s
    else if (s.billet b).closing then (closeStep s b).getD s
    else if mayClose s b then startClose s b true else s) s)

/-! ## Operations made at a home in one step (log 7) -/

/-- A lease of a length granted at a line's home: its expiry, and the directory entry after (R124). -/
def leaseGrant (s : State) (line lease : Nat) : BitVec 16 × State :=
  let e := s.homeClk + BitVec.ofNat 16 lease
  (e, s.updLine line fun l => { l with lv := true, lexp := if !l.lv || laterTick e l.lexp then e else l.lexp })
/-- What such an operation answers. -/
inductive Home (α : Type) where
  | ok (a : α) (s : State)
  | wait (s : State)
  | poisoned (ea : Nat) (s : State)
  | refused (c : Cause) (b reserve : Nat) (s : State)

def Home.bind {α β : Type} (x : Home α) (f : α → State → Home β) : Home β :=
  match x with
  | .ok a s => f a s
  | .wait s => .wait s
  | .poisoned e s => .poisoned e s
  | .refused c b r s => .refused c b r s

/-- A line that this device may not act on yet is asked for, once until an answer comes: a peer page's line from the owning
device, an own page that a peer holds by a change of its record (R142, R144). -/
def askGrant (s : State) (ea : Nat) (store : Bool) : State :=
  let m : Nat × Bool := (lineOf ea, store)
  if s.peerAsks.contains m then s
  else if isPeer ea then { s with peerAsks := s.peerAsks ++ [m], fabricOut := s.fabricOut ++ [(peerDev ea, .want (lineOf (ea % 2 ^ 54)) store)] }
  else { s with peerAsks := s.peerAsks ++ [m] }
/-- R147: a refusal of the exclusive grant, for the next store-class access of the page: cause and the owner's reserve. -/
def grantRefused (s : State) (ea : Nat) : Option (Cause × Nat × State) :=
  if !isPeer ea then none else
  let v := (mapGet? s.proxy (pageOf ea)).getD 0
  if v / 8 % 8 = 0 then none
  else some (if v / 8 % 8 = 2 then .tiershort else .caprefuse, v / 64, { s with proxy := mapSet s.proxy (pageOf ea) (v % 8) })
/-- This device may act on the address at this moment (R142, R144, R146). A proxy home needs the grant and the line. -/
def grantHeld (s : State) (ea : Nat) (store : Bool) : Bool :=
  if isPeer ea then
    let k := (mapGet? s.proxy (pageOf ea)).getD 0 % 8
    (if store then k == 2 else k == 1 || k == 2) && ((s.line (lineOf ea)).valid == 0xFF || (s.line (lineOf ea)).psn)
  else match mapGet? s.prt (pageOf ea) with
    | none => true
    | some r => r.pend.isEmpty && (if store then r.pstate == 0 else r.pstate != 2)

/-! ## Routes to peers (R148, R387, R422, R423) -/

/-- The link-recovery timeout of 16 ms, in ns (R148, R422). -/
def linkTimeout : Nat := 16000000
/-- A port that is up and leads to a device. -/
def portTo (s : State) (dev : Nat) : Option Nat := (s.ports.find? fun (_, p) => p.state == 2 && p.peer == dev).map Prod.fst
/-- No route to the device but through ports in recovery, 16 ms not yet over (R387, R423). -/
def recovering (s : State) (dev : Nat) : Bool :=
  (portTo s dev).isNone && s.ports.any fun (_, p) => p.peer == dev && p.state == 3 &&
    (match p.recoverySince with | some t => decide (s.ns < t + linkTimeout) | none => false)
/-- No route, and no recovery that may still give one. -/
def routeLost (s : State) (dev : Nat) : Bool := (portTo s dev).isNone && !recovering s dev
/-- R143: an access of a peer's page for which no record was free, made at its owning device, uncached here; none where the page has a
grant, or one is still to be asked for. Its requester finds the answer when it tries again; the next access asks for a record anew. An operation
makes the access a read-modify-write in one step there; billets that are held stay open meanwhile (R276). -/
def peerAccess (s : State) (core : Option Nat) (ea n : Nat) (put : Option (List Byte)) (atom : Option (Nat × Nat) := none) (holds : List Nat := []) : Option (Home (List Byte)) :=
  if !isPeer ea then none else
  match s.hostReads.find? fun r => r.core == core.getD 640 && r.ea == ea && r.n == n && r.put == put && r.atom == atom with
  | some r => some (match r.data with
    | none => .wait s
    | some bs =>
      let s : State := { s with hostReads := s.hostReads.filter (· != r) }
      match r.status with
      | 0 => .ok bs s
      | 1 => .poisoned ea s
      | k => .refused (if k = 2 then .caprefuse else .tiershort) (billetOf ea) r.reserve s)
  | none =>
    if mapGet? s.proxy (pageOf ea) != some 3 then none else
    let m : FabricMsg := .access 0 s.nextId 0 0 (ea % 2 ^ 54) n put.isSome atom (put.getD [])
    some (.wait { s with hostReads := s.hostReads ++ [{ id := s.nextId, core := core.getD 640, ea := ea, n := n, put := put, atom := atom, holds := holds }], fabricOut := s.fabricOut ++ [(peerDev ea, m)], proxy := mapErase s.proxy (pageOf ea), nextId := s.nextId + 1 })
/-- R423: an access of no thread's lane that no route can carry is given up: the line is asked for no more, and a record is posted. -/
def lostAccess (s : State) (ea : Nat) : State :=
  let wanted := fun (m : Nat × FabricMsg) => match m.2 with | .want l _ => m.1 == peerDev ea && l == lineOf (ea % 2 ^ 54) | _ => false
  let s := { s with hostReads := s.hostReads.filter fun r => lineOf r.ea != lineOf ea, peerAsks := s.peerAsks.filter fun (l, _) => l != lineOf ea, fabricOut := s.fabricOut.filter fun m => !wanted m }
  s.postDevice (simpleRecord s 12 (((s.ports.find? fun (_, p) => p.peer == peerDev ea).map Prod.fst).getD 0))

/-- No grant allows the access here, and no route leads to the page's owner. -/
def unroutable (s : State) (ea : Nat) (store : Bool) : Bool := !grantHeld s ea store && isPeer ea && routeLost s (peerDev ea)

/-- A read of bytes of one line, for a core or for the part itself; one that no route to its owner can carry meets poison (R423). Words
that the requester itself owns stay with it where it asks for a copy (R127). -/
def readLine (s : State) (ea n : Nat) (core : Option Nat := none) (copy : Bool := false) : Home (List Byte) :=
  let line := lineOf ea
  if unroutable s ea false then .poisoned ea (lostAccess s ea) else
  match peerAccess s core ea n none with
  | some r => r
  | none =>
  if !grantHeld s ea false then .wait (askGrant s ea false)
  else if !s.quiet line || !s.inTurn core line then .wait s
  else
    let s := dirErrorNow s line
    let s := if copy && core == some (s.line line).owner then s else recallNow s line (wordsMask (ea % 128) n) false
    let s := l2Fill s line (chunksOf (ea % 128) n)
    if s.isPoisoned line then .poisoned ea s else .ok (s.readMem ea n) (touchPage s (pageOf ea))
/-- A store-class operation on n bytes of one line, admitted against a context: what stands before its own effect. -/
def storeAtHome {α : Type} (s : State) (ctx ea n : Nat) (core : Option Nat) (act : State → Home α) : Home α :=
  let line := lineOf ea
  match grantRefused s ea with
  | some (c, r, s) => .refused c (billetOf ea) r s
  | none =>
  if !grantHeld s ea true then .wait (askGrant s ea true)
  else if !s.quiet line || !s.inTurn core line then .wait s
  else if s.cores.any fun (c, _) => s.dependsOn c line then .wait s
  else
    -- the requester's own translations from the line go with the others (R20, R124)
    let own := fun (s : State) => match core with | some c => s.updCore c (·.dropTlb line) | none => s
    let go := fun (s : State) => act (own (invalidateNow (recallNow (dirErrorNow s line) line (wordsMask (ea % 128) n) true) line core))
    if isPeer ea then go s else
    match admission s (billetOf ea) ctx with
    | .grant s => go s
    | .refuse s c r => .refused c (billetOf ea) r s
    | .wait s => .wait s
/-- A write of bytes of one line; one that no route can carry is discarded (R423). -/
def writeLine (s : State) (ctx ea : Nat) (bs : List Byte) (core : Option Nat := none) : Home Unit :=
  if unroutable s ea true then .ok () (lostAccess s ea) else
  match peerAccess s core ea bs.length (some bs) with
  | some r => r.bind fun _ s => .ok () s
  | none => storeAtHome s ctx ea bs.length core fun s => .ok () (performWrite s ea bs)
/-- A read-modify-write of n bytes of one line in one step (R92), of a peer's page without a record in two accesses (R143, log 78): the old
bytes. -/
def rmwLine (s : State) (ctx ea n : Nat) (f : List Byte → List Byte) (core : Option Nat := none) : Home (List Byte) :=
  let line := lineOf ea
  if unroutable s ea true then .poisoned ea (lostAccess s ea) else
  match peerAccess s core ea n none with
  | some r => r.bind fun old s => (writeLine s ctx ea (f old) core).bind fun _ s => .ok old s
  | none =>
  if s.quiet line && s.isPoisoned line then .poisoned ea s
  else storeAtHome s ctx ea n core fun s =>
    let s := l2Fill s line (chunksOf (ea % 128) n)
    if s.isPoisoned line then .poisoned ea s
    else let old := s.readMem ea n; .ok old (performWrite s ea (f old))

/-- Splits bytes at line boundaries. -/
def splitLines (ea : Nat) (bs : List Byte) : Nat → List (Nat × List Byte)
  | 0 => []
  | fuel + 1 =>
    if bs.isEmpty then [] else
    let k := 128 - ea % 128
    (ea, bs.take k) :: splitLines (ea + (bs.take k).length) (bs.drop k) fuel
/-- The parts of a read, each at its home, in ascending order. -/
def readParts : List (Nat × List Byte) → State → Home (List Byte)
  | [], s => .ok [] s
  | (a, seg) :: rest, s => (readLine s a seg.length).bind fun bs s => (readParts rest s).bind fun more s => .ok (bs ++ more) s
/-- A read that may cross lines. -/
def readAt (s : State) (ea n : Nat) : Home (List Byte) :=
  readParts (splitLines ea (List.replicate n 0) (n / 128 + 2)) s
/-- A write that may cross lines, line by line. -/
def writeAt (s : State) (ctx ea : Nat) (bs : List Byte) : Home Unit :=
  (splitLines ea bs (bs.length / 128 + 2)).foldl (fun acc (a, seg) => acc.bind fun _ s => writeLine s ctx a seg) (.ok () s)

/-- A read of a host page, for a context, by a requester that is no lane (R167, R412): the host port takes it, and its bytes are there once the
host has answered. -/
def hostFetch (s : State) (core ctx ea n : Nat) : Home (List Byte) :=
  match s.hostReads.find? fun r => r.core == core && r.ctx == ctx && r.ea == ea && r.n == n with
  | some r => match r.data with
    | some bs => .ok bs { s with hostReads := s.hostReads.filter (· != r) }
    | none => .wait s
  | none => .wait { s with hostReads := s.hostReads ++ [{ id := s.nextId, core := core, ea := ea, n := n, since := s.ns, ctx := ctx }], hostOut := s.hostOut ++ [.read ea n], nextId := s.nextId + 1 }

/-- What the host has been asked for on a core's constant path, clauses among it, is not used: a read taken anew sees what has been written
since (R161, R374). -/
def dropConstReads (s : State) (core : Nat) : State := { s with hostReads := s.hostReads.filter fun r => r.core != core || r.put.isSome }

end Sys2Proof.Machine
end

