-- ==== Sys2Proof/Machine/Walk.lean ====
section
/-! DEFINITION. Address translation: the private window (R11), the page-table entry (R15, R16), the walk (R18), the
translation caches (R19 to R21), the causes of R24 and R38. -/

namespace Sys2Proof.Machine

/-- Access kinds of R18. -/
def kRead : Nat := 0
def kWrite : Nat := 1
def kRmw : Nat := 2
def kFetch : Nat := 3
def kHint : Nat := 4

/-- Bits below a leaf of a level (R14). -/
def levelBits : Nat → Nat
  | 0 => 16
  | 1 => 21
  | 2 => 30
  | 3 => 39
  | _ => 48
/-- The index of a level (R14). -/
def levelIndex (va lvl : Nat) : Nat :=
  match lvl with
  | 0 => nfld va 20 16
  | 1 => nfld va 29 21
  | 2 => nfld va 38 30
  | 3 => nfld va 47 39
  | _ => nfld va 56 48

def pteV (p : DWord) : Bool := bit p 0
def pteLeaf (p : DWord) : Bool := bit p 1
def pteRd (p : DWord) : Bool := bit p 5
def pteWr (p : DWord) : Bool := bit p 6
def pteEx (p : DWord) : Bool := bit p 7
def pteSys (p : DWord) : Bool := bit p 8
def pteUc (p : DWord) : Bool := bit p 9
def pteA (p : DWord) : Bool := bit p 10
def pteD (p : DWord) : Bool := bit p 11
def pteTgt (p : DWord) : Nat := fld p 63 62

/-- R16: the entry breaks the format. -/
def formatBad (p : DWord) (lvl : Nat) : Bool :=
  if pteLeaf p then
    lvl ≥ 3 || fld p 15 12 != 0 || fld p 4 2 != 0 || pteTgt p == 3 || (pteTgt p != 2 && fld p 61 54 != 0) ||
    (pteTgt p == 0 && fld p 53 48 != 0) || (lvl == 1 && fld p 20 16 != 0) || (lvl == 2 && fld p 29 16 != 0)
  else lvl == 0 || fld p 63 54 != 0 || fld p 7 2 != 0 || fld p 53 48 != 0 || (lvl != 1 && fld p 11 8 != 0)

/-- R18: permitted. -/
def permitted (p : DWord) (kind : Nat) (sys : Bool) : Bool :=
  (match kind with
   | 0 => pteRd p
   | 1 => pteWr p
   | 2 => pteRd p && pteWr p
   | 3 => pteEx p
   | _ => pteRd p) && (!pteSys p || sys)

/-- The target of a leaf (R15): kind of address and extended address. -/
def pteTarget (p : DWord) (lvl va : Nat) : Nat × Nat :=
  let a := fld p 53 16 * 65536 + va % 2 ^ levelBits lvl
  (pteTgt p, if pteTgt p = 2 then peerEa (fld p 61 54) a else a)

/-- Whether the entry needs its A or D bit set for the access (R18). -/
def needsUpdate (p : DWord) (kind : Nat) : Bool :=
  kind != kHint && (!pteA p || ((kind == kWrite || kind == kRmw) && !pteD p))
/-- The updated entry. -/
def updatedPte (p : DWord) (kind : Nat) : DWord :=
  let p := setBit p 10 true
  if kind == kWrite || kind == kRmw then setBit p 11 true else p

/-- A walk at its start (R18). -/
def walkStart (c : Ctx) (x va kind : Nat) (sys : Bool) : Walker :=
  let w : Walker := { ctx := x, va := va, kind := kind, sys := sys, table := fld c.ptroot 47 12 * 4096, root := fld c.ptroot 47 12 * 4096 }
  if va ≥ 2 ^ 57 then { w with ended := some (.fault .noncanon 4 0) } else w
/-- The address of the entry the walk reads next. -/
def Walker.entry (w : Walker) : Nat := w.table + levelIndex w.va w.lvl * 8

/-- What the walk does with the entry it has read. -/
def walkTake (w : Walker) (pte : DWord) (poisoned : Bool) : Walker :=
  let ea := w.entry
  let w := { w with got := none, poisoned := false, lines := w.lines ++ [lineOf ea] }
  if poisoned then { w with ended := some (.fault .xpoison w.lvl ea) }
  else if !pteV pte then { w with ended := some (.fault .notmapped w.lvl ea) }
  else if formatBad pte w.lvl then { w with ended := some (.fault .format w.lvl ea) }
  else if pteLeaf pte then
    if !permitted pte w.kind w.sys then { w with ended := some (.fault .permission w.lvl ea) }
    else if needsUpdate pte w.kind then { w with cas := some (ea, pte) }
    else { w with ended := some (.ok pte w.lvl) }
  else { w with table := fld pte 53 8 * 256, lvl := w.lvl - 1 }

/-- The home serves a walk read (R124): every owned word of the line is recalled for writing, the core becomes a
translation sharer (R19). A page that is not backed is UNBACKED (R38). -/
def homeWalkRead (s : State) (core : Option Nat) (ea : Nat) : Home DWord :=
  let line := lineOf ea
  let l := s.line line
  if !grantHeld s ea false then .wait (askGrant s ea false)
  else if !s.quiet line || !s.inTurn core line then .wait s
  -- a request of the owner that is under way is served first: its grant may rest on chunks the recall would end (R138)
  else if l.wmask != 0 && !s.channelClear l.owner line then .wait s
  else
    let s := recallNow (dirErrorNow s line) line (BitVec.allOnes 32) true
    let s := l2Fill s line (chunksOf (ea % 128) 8)
    if s.isPoisoned line then .poisoned ea s
    else
      let s := match core with
        | some c => s.updLine line fun l => l.share c
        | none => s
      .ok (BitVec.ofNat 64 (leNat (s.readMem ea 8))) (touchPage s (pageOf ea))

/-- R18: the compare-and-swap of A and D, a store-class operation of the walking context (R44) in one step at the entry's home (R92).
The walker's own core keeps a copy that follows the write, and keeps being a translation sharer of the entry it goes on to install. -/
def homeWalkCas (s : State) (core : Option Nat) (ctx ea : Nat) (old new : DWord) : Home Bool :=
  let line := lineOf ea
  let swap := fun (cur : List Byte) => if leNat cur = old.toNat then leBytes 8 new.toNat else cur
  (rmwLine s ctx ea 8 swap core).bind fun cur s =>
    let s := match core with
      | some c => (s.updCore c fun k => (updateCopies k ea (swap cur)).dropTlb line).updLine line fun l => l.share c
      | none => s
    .ok (leNat cur == old.toNat) s

/-- One step of a walk that reads and updates at the homes at once. -/
def walkStep (s : State) (core : Option Nat) (w : Walker) : Home Walker :=
  match w.ended with
  | some _ => .ok w s
  | none =>
    match w.cas with
    | some (ea, pte) =>
      match homeWalkCas s core w.ctx ea pte (updatedPte pte w.kind) with
      | .ok true s => .ok { w with cas := none, ended := some (.ok (updatedPte pte w.kind) w.lvl) } s
      | .ok false s => .ok w.restart s
      | .wait s => .wait s
      | .poisoned ea s => .ok { w with ended := some (.fault .xpoison w.lvl ea) } s
      | .refused c b r s => .ok { w with ended := some (.refused c b r) } s
    | none =>
      if (s.page (pageOf w.entry)).isNone then .ok { w with ended := some (.fault .unbacked w.lvl (w.entry / 256 * 256)) } s
      else match homeWalkRead s core w.entry with
        | .ok pte s => .ok (walkTake w pte false) s
        | .wait s => .wait s
        | .poisoned _ s => .ok (walkTake w 0 true) s
        | .refused c b r s => .refused c b r s

/-- The entries that share a set of a core's translation caches: of the 512 sets of the 8-way core cache for a leaf, the whole walk cache for
a pointer entry (R19). The micro caches hold copies of the core cache's entries. -/
def Tlb.sameSet (a b : Tlb) : Bool := a.leaf == b.leaf && (!a.leaf || a.vpn % 512 == b.vpn % 512)
/-- Cached translations (R19), newest first; a full set gives up the entry installed first. -/
def tlbInstall (c : Core) (w : Walker) (pte : DWord) (lvl : Nat) : Core :=
  let e : Tlb := { ctx := w.ctx, lvl := lvl, vpn := w.va / 2 ^ levelBits lvl, pte := pte, lines := w.lines, leaf := pteLeaf pte }
  let rest := c.tlb.filter fun x => !(x.ctx == e.ctx && x.lvl == e.lvl && x.vpn == e.vpn)
  let mine := rest.filter e.sameSet
  let out := if (if e.leaf then 8 else 256) ≤ mine.length then mine.getLast? else none
  { c with tlb := e :: rest.filter fun x => some x != out }
/-- The cached leaf for an address. -/
def tlbFind (c : Core) (ctx va : Nat) : Option Tlb :=
  c.tlb.find? fun e => e.leaf && e.ctx == ctx && e.vpn == va / 2 ^ levelBits e.lvl
/-- The cached pointer entry for a level of a walk. -/
def tlbPointer (c : Core) (w : Walker) : Option Tlb :=
  c.tlb.find? fun e => !e.leaf && e.ctx == w.ctx && e.lvl == w.lvl && e.vpn == w.va / 2 ^ levelBits e.lvl

/-- What a translation answers. -/
inductive Xlate where
  | ok (tgt ea : Nat) (pte : DWord) (lines : List Nat)
  /-- cause, the addresses and AUX of the trap record (R396) -/
  | fault (c : Cause) (addrs : List Nat) (aux : Nat)
  | refused (c : Cause) (billet reserve : Nat)
  | miss
  deriving DecidableEq, Repr

/-- A finished walk, or a cached leaf, read as an answer; a device page that is not backed is UNBACKED (R38). -/
def xlateEnd (s : State) (shown va : Nat) (pte : DWord) (lvl : Nat) (lines : List Nat) : Xlate :=
  let (tgt, ea) := pteTarget pte lvl va
  if tgt = 0 && (s.page (pageOf ea)).isNone then .fault .unbacked [shown, ea / 256 * 256] 0 else .ok tgt ea pte lines
/-- The record's addresses for a walk that faulted (R396). -/
def walkFault (shown : Nat) (c : Cause) (lvl ea : Nat) : Xlate :=
  match c with
  | .notmapped | .format | .xpoison => .fault c [shown, ea] lvl
  | .unbacked => .fault c [shown, ea] 0
  | _ => .fault c [shown] 0

/-- R11: relocation of the private window; n bytes. none is a private-bound fault. -/
def relocate (c : Ctx) (pslot va n : Nat) : Option Nat :=
  if va < 2 ^ 57 && 0x01FF000000000000 ≤ va then
    let o := va % 2 ^ 48
    let stride := (c.privstride.toNat % 2 ^ 24) * 256
    let g := fld c.privbase 56 16 * 65536 + pslot * stride + o
    if o + n > stride then none else if g ≥ 0x01FF000000000000 then none else some g
  else some va

/-- Translation of an access of a thread on a core, from the translation caches and ended walks (R18, R23). -/
def xlate (s : State) (core ctx pslot va n kind : Nat) (sys : Bool) : Xlate :=
  match s.ctx ctx with
  | none => .fault .notmapped [va] 0
  | some x =>
    if va ≥ 2 ^ 57 then .fault .noncanon [va] 0 else
    match relocate x pslot va n with
    | none => .fault .privbound [va] 0
    | some g =>
      let k := s.core core
      match tlbFind k ctx g with
      | some e =>
        if !permitted e.pte kind sys then .fault .permission [va] 0
        else if needsUpdate e.pte kind then .miss
        else xlateEnd s va g e.pte e.lvl e.lines
      | none => .miss

/-- The walk that answers, or is to answer, a miss. -/
def findWalker (c : Core) (ctx g kind : Nat) (sys : Bool) : Option (Nat × Walker) :=
  c.walkers.find? fun (_, w) => w.ctx == ctx && w.va / 65536 == g / 65536 && w.kind == kind && w.sys == sys

/-- The answer for a miss whose walk has ended. -/
def xlateWalk (s : State) (core ctx pslot va n kind : Nat) (sys : Bool) : Xlate :=
  match xlate s core ctx pslot va n kind sys with
  | .miss =>
    match (s.ctx ctx).bind fun x => relocate x pslot va n with
    | none => .miss
    | some g =>
      match findWalker (s.core core) ctx g kind sys with
      | some (_, w) =>
        match w.ended with
        | some (.ok pte lvl) => if permitted pte kind sys then xlateEnd s va g pte lvl w.lines else .fault .permission [va] 0
        | some (.fault c lvl ea) => walkFault va c lvl ea
        | some (.refused c b r) => .refused c b r
        | none => .miss
      | none => .miss
  | r => r

/-- Starts the walk a miss needs, if none is under way (R18). -/
def startWalk (s : State) (core ctx pslot va n kind : Nat) (sys : Bool) : State :=
  match s.ctx ctx with
  | none => s
  | some x => match relocate x pslot va n with
    | none => s
    | some g =>
      if (findWalker (s.core core) ctx g kind sys).isSome then s else
      let (k, s) := s.fresh
      s.updCore core fun c => { c with walkers := mapSet c.walkers k (walkStart x ctx g kind sys) }
/-- Drops ended walks once their answers have been used; a walk that succeeded has its entry in the caches already. -/
def dropEnded (s : State) (core ctx : Nat) : State :=
  s.updCore core fun c => { c with walkers := c.walkers.filter fun (_, w) => !(w.ctx == ctx && w.ended.isSome) }

/-- A translation made at once, for a requester that is no load or store of a core (log 7). -/
inductive XlateNow where
  | ok (tgt ea : Nat) (pte : DWord) (s : State)
  | fault (c : Cause) (addrs : List Nat) (aux : Nat) (s : State)
  | refused (c : Cause) (billet reserve : Nat) (s : State)
  | wait (s : State)

def walkRun (core : Option Nat) : Nat → State → Walker → Home Walker
  | 0, s, _ => .wait s
  | fuel + 1, s, w => if w.ended.isSome then .ok w s else (walkStep s core w).bind fun w s => walkRun core fuel s w

/-- R18 run to its end; a core that fetches caches the leaf. -/
def xlateNow (s : State) (core : Option Nat) (ctx pslot va n kind : Nat) (sys : Bool) : XlateNow :=
  match s.ctx ctx with
  | none => .fault .notmapped [va] 0 s
  | some x =>
    if va ≥ 2 ^ 57 then .fault .noncanon [va] 0 s else
    match relocate x pslot va n with
    | none => .fault .privbound [va] 0 s
    | some g =>
      let cached : Xlate := match core with
        | some c => xlate s c ctx pslot va n kind sys
        | none => .miss
      let give := fun (s : State) (r : Xlate) => match r with
        | .ok t e p _ => XlateNow.ok t e p s
        | .fault c a u => .fault c a u s
        | .refused c b r => .refused c b r s
        | .miss => .wait s
      match cached with
      | .miss =>
        match walkRun core 16 s (walkStart x ctx g kind sys) with
        | .ok w s => match w.ended with
          | some (.ok pte lvl) =>
            let s := match core with | some c => s.updCore c fun k => tlbInstall k w pte lvl | none => s
            give s (xlateEnd s va g pte lvl w.lines)
          | some (.fault c lvl ea) => give s (walkFault va c lvl ea)
          | some (.refused c b r) => .refused c b r s
          | none => .wait s
        | .wait s => .wait s
        | .poisoned _ s => .wait s
        | .refused c b r s => .refused c b r s
      | r => give s r

/-- What reading or writing virtual bytes at once answers. -/
inductive Virt (α : Type) where
  | ok (a : α) (s : State)
  | wait (s : State)
  | fault (c : Cause) (addrs : List Nat) (aux reserve : Nat) (s : State)

def Virt.bind {α β : Type} (x : Virt α) (f : α → State → Virt β) : Virt β :=
  match x with
  | .ok a s => f a s
  | .wait s => .wait s
  | .fault c a u r s => .fault c a u r s
/-- A home's answer, for the virtual address that led to it. -/
def Home.toVirt {α : Type} (va : Nat) : Home α → Virt α
  | .ok a s => .ok a s
  | .wait s => .wait s
  | .poisoned ea s => .fault .bpoison [va, ea / 256 * 256] 0 0 s
  | .refused c b r s => .fault c [b * 256] 0 r s

/-- A part of a virtual access within one line: virtual address, kind of target, extended address, bytes. -/
structure Part where
  va : Nat
  tgt : Nat
  ea : Nat
  bytes : List Byte
  /-- its page is uncached (R118) -/
  uc : Bool := false
  deriving DecidableEq, Repr

/-- The parts' targets, in ascending order. -/
def partTargets (core : Option Nat) (ctx pslot kind : Nat) (sys : Bool) : List (Nat × List Byte) → State → Virt (List Part)
  | [], s => .ok [] s
  | (a, seg) :: rest, s => match xlateNow s core ctx pslot a seg.length kind sys with
    | .ok tgt ea pte s => (partTargets core ctx pslot kind sys rest s).bind fun more s => .ok ({ va := a, tgt := tgt, ea := ea, bytes := seg, uc := pteUc pte } :: more) s
    | .fault c x u s => .fault c x u 0 s
    | .refused c b r s => .fault c [b * 256] 0 r s
    | .wait s => .wait s
/-- Every part of a virtual access is translated before any is made (R23); a private-bound fault is never split (R11). -/
def virtTargets (s : State) (core : Option Nat) (ctx pslot va : Nat) (bs : List Byte) (kind : Nat) (sys : Bool) : Virt (List Part) :=
  if bs != [] && va < 2 ^ 57 && (match s.ctx ctx with | some c => (relocate c pslot va bs.length).isNone | none => false) then .fault .privbound [va] 0 0 s
  else partTargets core ctx pslot kind sys (splitLines va bs (bs.length / 128 + 2)) s
/-- The parts of a read, each at its home or at the host. -/
def readTargets (core : Option Nat) (ctx : Nat) : List Part → State → Virt (List Byte)
  | [], s => .ok [] s
  | p :: rest, s =>
    (Home.toVirt p.va (if p.tgt = 1 then hostFetch s (core.getD 640) ctx p.ea p.bytes.length else readLine s p.ea p.bytes.length)).bind fun bs s =>
      (readTargets core ctx rest s).bind fun more s => .ok (bs ++ more) s
/-- Every part of a write is admitted, in ascending order, one request for each billet (R49, R276): a refusal does not keep the later billets
from being asked for, and what was granted stays granted. It names up to four refused billets, and the reserve at the last refusal (R53). The
answer is the parts that are still to be written. -/
def admitParts (f : State → Part → Home (List Part)) : List Part → List (Cause × Nat × Nat) → List Part → State → Virt (List Part)
  | [], [], out, s => .ok out s
  | [], r :: refs, _, s =>
    let rs := r :: refs
    let cause : Cause := if rs.any (fun x => x.1 == .caprefuse) then .caprefuse else r.1
    .fault cause (((dedup (rs.map fun x => x.2.1)).take 4).map (· * 256)) 0 ((rs.getLast?.map fun x => x.2.2).getD 0) s
  | p :: rest, refs, out, s =>
    if refs.any (fun x => x.2.1 == billetOf p.ea) && p.tgt != 1 then admitParts f rest refs out s
    else match f s p with
      | .ok more s => admitParts f rest refs (out ++ more) s
      | .wait s => .wait s
      | .poisoned ea s => .fault .bpoison [p.va, ea / 256 * 256] 0 0 s
      | .refused c b r s => admitParts f rest (refs ++ [(c, b, r)]) out s
/-- A part of a write made at its home in one step is admitted; one to a peer's page without a record is made there at once (R143). -/
def admitTarget (adm : Nat) (s : State) (p : Part) : Home (List Part) :=
  if p.tgt = 1 then .ok [p] s
  else if (peerAccess s none p.ea p.bytes.length (some p.bytes)).isSome then (writeLine s adm p.ea p.bytes).bind fun _ s => .ok [] s
  else storeAtHome s (if adm = 4096 then s.ownerOf p.ea else adm) p.ea p.bytes.length none fun s => .ok [p] s
/-- A part that has been admitted is written, at its home or at the host. -/
def putTarget (s : State) (p : Part) : State :=
  if p.tgt = 1 then { s with hostOut := s.hostOut ++ [.write p.ea p.bytes] } else performWrite s p.ea p.bytes
/-- Virtual bytes that may cross lines, read at their homes. -/
def virtRead (s : State) (core : Option Nat) (ctx pslot va n kind : Nat) (sys : Bool) : Virt (List Byte) :=
  (virtTargets s core ctx pslot va (List.replicate n 0) kind sys).bind fun ps s => readTargets core ctx ps s
/-- Virtual bytes written at their homes, all or none; admission context 4096 is the page's owner (R438). -/
def virtWrite (s : State) (core : Option Nat) (ctx admCtx pslot va : Nat) (bs : List Byte) (kind : Nat) (sys : Bool) : Virt Unit :=
  (virtTargets s core ctx pslot va bs kind sys).bind fun ps s => (admitParts (admitTarget admCtx) ps [] [] s).bind fun ps s => .ok () (ps.foldl putTarget s)

/-- The leaf of an address as the page tables stand at the homes: the entry, its level, its address, and the lines that lead to it. -/
structure Leaf where
  pte : DWord
  lvl : Nat
  entry : Nat
  lines : List Nat
  deriving DecidableEq, Repr
/-- From a level of the tables down (R18). -/
def leafFrom (s : State) (va : Nat) : Nat → Nat → List Nat → Option Leaf
  | lvl, table, lines =>
    let ea := table + levelIndex va lvl * 8
    let pte := BitVec.ofNat 64 (leNat (s.readMem ea 8))
    if !pteV pte then none
    else if pteLeaf pte then some { pte := pte, lvl := lvl, entry := ea, lines := lines ++ [lineOf ea] }
    else match lvl with
      | 0 => none
      | l + 1 => leafFrom s va l (fld pte 53 8 * 256) (lines ++ [lineOf ea])
def homeLeaf (s : State) (c : Ctx) (va : Nat) : Option Leaf := leafFrom s va 4 (fld c.ptroot 47 12 * 4096) []

/-! ## OWN accesses made in one step (R276) -/

/-- Two byte ranges of one kind of address overlap. -/
def overlaps (t1 a1 n1 t2 a2 n2 : Nat) : Bool := t1 == t2 && a1 < a2 + n2 && a2 < a1 + n1
/-- The filter takes a billet (R48); the entry installed first goes when all 256 are in use. -/
def filterAdd (c : Core) (b : Nat) : Core :=
  if c.filter.contains b then c else { c with filter := (if 256 ≤ c.filter.length then c.filter.drop 1 else c.filter) ++ [b] }
/-- Lines on their way to a core's L1: fills under OWN, SIS and WIS, and grants. -/
def l1Coming (s : State) (core : Nat) : List Nat :=
  ((s.core core).sb.filter fun e => e.sent && e.pol == 0 && e.kind == .store && e.tgt != 1 && e.n != 0).map (fun e => lineOf e.ea) ++
  (s.teams.filter fun (_, t) => t.core == core).flatMap fun (_, t) => t.iw.flatMap fun i =>
    (i.lanes.filter fun l => l.kind == .load && l.stage == .sent && l.tgt != 1 && l.pol != 1 && !i.scratch).map fun l => lineOf l.ea
/-- A line is in the core's L1 or on its way, or a way of its set is free: 128 sets of 16 (R69). -/
def l1Way (s : State) (core line : Nat) : Bool :=
  let set := dedup (((s.core core).l1.map Prod.fst ++ l1Coming s core).filter fun l => l % 128 == line % 128)
  set.contains line || set.length < 16

/-- The words a part writes, and whether its core owns them all. -/
def Part.words (p : Part) : BitVec 32 := wordsMask (p.ea % 128) p.bytes.length
def Part.owned (p : Part) (s : State) (core : Nat) : Bool := !p.uc && ((s.core core).l1Line (lineOf p.ea)).owned &&& p.words == p.words
/-- A part of an OWN store is admitted; words its core owns need no admission (R49, R152). -/
def admitOwn (core ctx : Nat) (s : State) (p : Part) : Home (List Part) :=
  if p.tgt = 1 || p.owned s core then .ok [p] s
  else if !p.uc && !l1Way s core (lineOf p.ea) then .wait s
  else storeAtHome s ctx p.ea p.bytes.length (some core) fun s => .ok [p] s
/-- The home grants the core ownership of words, which it then writes (R124, R138, R152). -/
def ownWrite (s : State) (core : Nat) (p : Part) : State :=
  let line := lineOf p.ea
  let s := if p.owned s core then s else
    let s := if (s.line line).owner = core then s else recallNow s line (BitVec.allOnes 32) true
    let s := l2Fill s line (chunksOf (p.ea % 128) p.bytes.length)
    let s := s.updLine line fun l => { l with wmask := p.words ||| (if l.owner = core then l.wmask else 0), owner := core, sharers := .ptrs [core] }
    let data := cellsSet [] 0 (s.readMem (line * 128) 128)
    let x := installChunks ((s.core core).l1Line line) (chunksOf (p.ea % 128) p.bytes.length) data .tracked
    let s := s.updCore core fun c => c.setL1 line { x with owned := x.owned ||| p.words }
    if isPeer p.ea then s else ((touchPage (markDirtyPage (markMigration s (pageOf p.ea)) (pageOf p.ea)) (pageOf p.ea)).updBillet (billetOf p.ea) fun b => { b with holders := b.holders.add core }).updCore core fun c => filterAdd c (billetOf p.ea)
  s.updCore core fun c =>
    let x := c.l1Line line
    c.setL1 line { x with data := cellsSet x.data (p.ea % 128) p.bytes, written := x.written ||| p.words }
/-- A part that has been admitted is stored: at the host, at its home where its page is uncached, else in words that the core owns. -/
def putOwn (s : State) (core team : Nat) (p : Part) : State :=
  if p.tgt = 1 then
    { s with hostOut := s.hostOut ++ [.write p.ea p.bytes], hostPend := s.hostPend ++ [{ core := core, entry := s.nextId, team := team, iss := s.nextId, ea := p.ea, ctx := s.teamCtx team, since := s.ns }], nextId := s.nextId + 1 }
  else if p.uc then (performWrite s p.ea p.bytes).updCore core fun c => updateCopies c p.ea p.bytes
  else ownWrite s core p
/-- Whether the core's L1 supplies the bytes to an OWN load (R123). -/
def ownHit (s : State) (core : Nat) (p : Part) : Bool :=
  let c := s.core core
  let x := c.l1Line (lineOf p.ea)
  let w := wordsMask (p.ea % 128) p.bytes.length
  x.owned &&& w = w || ((List.range 8).all fun i => !bit (chunksOf (p.ea % 128) p.bytes.length) i || ((x.chunks[i]?).getD .empty).isTracked)
/-- An OWN load: from L1, or filled from the home as a tracked copy (R124); from the host, or uncached (R118). -/
def ownRead (s : State) (core ctx : Nat) (p : Part) : Home (List Byte) :=
  let line := lineOf p.ea
  if p.tgt = 1 then hostFetch s core ctx p.ea p.bytes.length
  else if p.uc then readLine s p.ea p.bytes.length (some core)
  else
    let cs := chunksOf (p.ea % 128) p.bytes.length
    -- L1 reads the chunks it would supply the bytes from, and loses one that fails (R93)
    let s := if ownHit s core p then (bitsOf cs).foldl (fun s i => (l1Read s core (line * 128 + 16 * i)).2) s else s
    if ownHit s core p then .ok (cellsGet ((s.core core).l1Line line).data (p.ea % 128) p.bytes.length) s
    else if !l1Way s core line then .wait s
    else
      if (peerAccess s (some core) p.ea p.bytes.length none).isSome then readLine s p.ea p.bytes.length (some core) else
      let a := p.ea / 16 * 16
      (readLine s a ((p.ea + p.bytes.length - a + 15) / 16 * 16) (some core) true).bind fun bs s =>
        let s := s.updLine line fun l => l.share core
        let s := s.updCore core fun c => c.setL1 line (installChunks (c.l1Line line) cs (cellsSet [] (a % 128) bs) .tracked)
        .ok (cellsGet ((s.core core).l1Line line).data (p.ea % 128) p.bytes.length) s
/-- The parts of an OWN load, in ascending order. -/
def ownReads (core ctx : Nat) : List Part → State → Virt (List Byte)
  | [], s => .ok [] s
  | p :: rest, s => (Home.toVirt p.va (ownRead s core ctx p)).bind fun bs s => (ownReads core ctx rest s).bind fun more s => .ok (bs ++ more) s
/-- A part is to be stored at a peer's device that has no record for its page, or is on its way there (R143). -/
def Part.bare (p : Part) (s : State) (core : Nat) : Bool :=
  p.tgt == 2 && (mapGet? s.proxy (pageOf p.ea) == some 3 || s.hostReads.any fun r => r.core == core && r.put.isSome && r.ea ≤ p.ea && p.ea + p.bytes.length ≤ r.ea + r.n)
/-- The bytes of such parts, page by page: address and bytes. -/
def bareStores (ps : List Part) : List (Nat × List Byte) :=
  ps.foldl (fun (acc : List (Nat × List Byte)) p => match acc.getLast? with
    | some (a, bs) => if a + bs.length = p.ea && pageOf a = pageOf p.ea then acc.dropLast ++ [(a, bs ++ p.bytes)] else acc ++ [(p.ea, p.bytes)]
    | none => [(p.ea, p.bytes)]) []
/-- They are made as one store of each page, with the billets that the other parts have been admitted to held open meanwhile; of two pages
the lower one's comes first (log 104). -/
def sendBare (core : Nat) (holds : List Nat) : List (Nat × List Byte) → State → Home Unit
  | [], s => .ok () s
  | (a, bs) :: rest, s => match peerAccess s (some core) a bs.length (some bs) none holds with
    | some r => r.bind fun _ s => sendBare core holds rest s
    | none => .wait (askGrant s a true)
/-- The parts of an OWN store: every billet is admitted before any part is stored (R276). -/
def ownWrites (core ctx team : Nat) (ps : List Part) (s : State) : Virt Unit :=
  let far := ps.filter fun p => p.bare s core
  (admitParts (admitOwn core ctx) (ps.filter fun p => !p.bare s core) [] [] s).bind fun ps s =>
    (Home.toVirt ((far.head?.map Part.va).getD 0) (sendBare core ((ps.filter fun p => p.tgt == 0).map fun p => billetOf p.ea) (bareStores far) s)).bind fun _ s =>
      .ok () (ps.foldl (fun s p => putOwn s core team p) s)

end Sys2Proof.Machine
end

