-- ==== Sys2Proof/Machine/Flags.lean ====
section
/-! DEFINITION. The flags of the machine: the completion flags cf0 to cf11 of a group (R165, R200, R290, R365), the header fields
that name them (R212), and the mask registers (R182). -/

namespace Sys2Proof.Machine

/-- Header fields (R212). -/
def hdrMarker (h : DWord) : Nat := fld h 63 60
def hdrClass (h : DWord) : Nat := fld h 59 57
def hdrCount (h : DWord) : Nat := fld h 56 53 + 1
def hdrLitw (h : DWord) : Nat := fld h 52 50
def hdrWait (h : DWord) : Nat := fld h 49 38
def hdrSetA (h : DWord) : Nat := fld h 37 34
def hdrSetB (h : DWord) : Nat := fld h 33 30
def hdrSafe (h : DWord) : Bool := bit h 29
def hdrPrio (h : DWord) : Nat := fld h 28 21
/-- Words of the clause (R211). -/
def hdrWords (h : DWord) : Nat := 1 + hdrCount h + hdrLitw h + (if hdrSafe h then 1 else 0)
/-- The header's own part of R213. -/
def hdrBad (h : DWord) : Bool :=
  hdrMarker h != 0xC || hdrClass h == 7 || (12 ≤ hdrSetA h && hdrSetA h ≤ 14) || (12 ≤ hdrSetB h && hdrSetB h ≤ 14) || fld h 20 0 != 0

/-- The flag that a FLG bit names under a header; none for slot value 15 (R200, R232). -/
def flagOf (h : DWord) (flg : BitVec 1) : Option Nat :=
  let k := if flg = 0 then hdrSetA h else hdrSetB h
  if k < 12 then some k else none

/-- A completion flag's count. -/
def Group.flag (g : Group) (k : Nat) : Nat := (mapGet? g.cf k).getD 0
def Group.setFlag (g : Group) (k n : Nat) : Group := { g with cf := if n = 0 then mapErase g.cf k else mapSet g.cf k n }
/-- Counts an issue (R290). -/
def Group.incFlag (g : Group) (k : Option Nat) : Group := match k with | some k => g.setFlag k (g.flag k + 1) | none => g
/-- Counts a completion (R290). -/
def Group.decFlag (g : Group) (k : Option Nat) : Group := match k with | some k => g.setFlag k (g.flag k - 1) | none => g
/-- Every flag named by a wait mask is zero (R181). -/
def Group.flagsClear (g : Group) (mask : Nat) : Bool := (List.range 12).all fun k => !mask.testBit k || g.flag k == 0
/-- Flags that are not zero, as a mask (R187, AUX of R396). -/
def Group.flagMask (g : Group) : Nat := (List.range 12).foldl (fun m k => if g.flag k != 0 then m + 2 ^ k else m) 0

/-- A mask register (R182). -/
def Group.mask (g : Group) (k : Nat) : LaneMask := cellGet g.m k
def Group.setMask (g : Group) (k : Nat) (x : LaneMask) : Group := { g with m := cellSet g.m k x }
/-- Clears lanes from every mask register (R182, R282). -/
def Group.clearLanes (g : Group) (x : LaneMask) : Group :=
  (List.range 12).foldl (fun g k => g.setMask k (g.mask k &&& ~~~x)) g

end Sys2Proof.Machine
end

