-- ==== Sys2Proof/Machine/Operands.lean ====
section
/-! DEFINITION. Every operand form: the bundle an instruction runs for, the operand codes of R216 to R218 read for a lane or for
the group, the predicate (R239), the destinations, and the checks of R172, R214 and R219 that need the team or the clause. -/

namespace Sys2Proof.Machine

/-- What an instruction runs for: the core, team key, group slot, the team and the bundle. -/
structure Env where
  core : Nat
  tk : Nat
  g : Nat
  team : Team
  grp : Group
  b : Bundle
  word : DWord
  deriving DecidableEq, Repr

/-- The clause header. -/
def Env.hdr (e : Env) : DWord := e.b.words.headD 0
/-- The bundle's threads: lane, thread number. -/
def Env.lanes (e : Env) : List (Nat × Nat) := lanesOf e.team e.g e.b.lanes
def Env.thread (e : Env) (tid : Nat) : Thread := (e.team.threads[tid]?).getD {}
/-- A literal half (R199, R214). -/
def Env.lit (e : Env) (j : Nat) : Word :=
  let w := e.b.words.getD (1 + hdrCount e.hdr + j / 2) 0
  if j % 2 = 0 then w.extractLsb' 0 32 else w.extractLsb' 32 32
def Env.lit64 (e : Env) (j : Nat) : DWord := e.b.words.getD (1 + hdrCount e.hdr + j / 2) 0

/-- R218: the float inline table, FP32 bits. -/
def inlineFloats : List Nat :=
  [0x00000000, 0x3F800000, 0x40000000, 0x40400000, 0x40800000, 0x40A00000, 0x40C00000, 0x40E00000,
   0x41000000, 0x41200000, 0x41800000, 0x42000000, 0x42800000, 0x42FE0000, 0x43000000, 0x437F0000,
   0x43800000, 0x3F000000, 0x3E800000, 0x3E000000, 0x3D800000, 0x3FC00000, 0x3F400000, 0x40490FDB,
   0x40C90FDB, 0x3E22F983, 0x402DF854, 0x3F317218, 0x3FB8AA3B, 0x3FB504F3, 0x3F3504F3, 0x7F800000]
/-- An inline code in a float position: its FP32 bits. -/
def inlineFloat (c : Nat) : Word :=
  let i := c - 1536
  BitVec.ofNat 32 (inlineFloats.getD (i % 32) 0 + (if 32 ≤ i then 0x80000000 else 0))
/-- An inline code in an integer or raw-bits position, sign-extended. -/
def inlineInt (c : Nat) : Int := (c : Int) - 1792

/-- sr.grp (R190). -/
def Group.ident (g : Group) : Word := BitVec.ofNat 32 (g.gen * 64 + g.idx)

/-- A group-wide special register (R217). -/
def srGroup (s : State) (e : Env) (k : Nat) : Word :=
  match k with
  | 5 => e.grp.ident
  | 6 => if e.grp.mixed then 1 else 0
  | 7 => BitVec.ofNat 32 e.team.index
  | 8 => BitVec.ofNat 32 e.core
  | 9 => BitVec.ofNat 32 (s.core e.core).cycles
  | 10 => (s.core e.core).rtick.zeroExtend 32
  | 11 => (s.core e.core).lclk.zeroExtend 32
  | _ => BitVec.ofNat 32 e.team.threads.length
/-- A per-thread special register (R190, R217). -/
def srThread (e : Env) (tid k : Nat) : Word :=
  match k with
  | 0 => BitVec.ofNat 32 (e.thread tid).lane
  | 1 => BitVec.ofNat 32 tid
  | 2 => BitVec.ofNat 32 (tid / 32)
  | 3 => BitVec.ofNat 32 (tid % 32)
  | _ => BitVec.ofNat 32 (e.thread tid).pslot

/-- A 32-bit source for a thread; float says the position is a float one (R218). -/
def src32 (s : State) (e : Env) (tid : Nat) (c : BitVec 11) (float : Bool := false) : Word :=
  match opKind c with
  | .v n => cellGet (e.thread tid).v n
  | .g n => cellGet e.grp.g n
  | .m k => e.grp.mask k
  | .lit j => e.lit j
  | .srT k => srThread e tid k
  | .srG k => srGroup s e k
  | .inl c => if float then inlineFloat c else BitVec.ofInt 32 (inlineInt c)
  | .reserved => 0
/-- A 64-bit source: a pair, a whole literal word, or a sign-extended inline value. -/
def src64 (e : Env) (tid : Nat) (c : BitVec 11) : DWord :=
  match opKind c with
  | .v n => cellGet (e.thread tid).v (n + 1) ++ cellGet (e.thread tid).v n
  | .g n => cellGet e.grp.g (n + 1) ++ cellGet e.grp.g n
  | .lit j => e.lit64 j
  | .inl c => BitVec.ofInt 64 (inlineInt c)
  | _ => 0
/-- A 128-bit source: a v quad, or four g registers (R222). -/
def src128 (e : Env) (tid : Nat) (c : BitVec 11) : QWord :=
  match opKind c with
  | .v n => let r := fun i => cellGet (e.thread tid).v (n + i); r 3 ++ r 2 ++ r 1 ++ r 0
  | .g n => let r := fun i => cellGet e.grp.g (n + i); r 3 ++ r 2 ++ r 1 ++ r 0
  | _ => 0
/-- A source of k registers as a number. -/
def srcNat (s : State) (e : Env) (tid : Nat) (c : BitVec 11) (k : Nat) (float : Bool := false) : Nat :=
  if k = 4 then (src128 e tid c).toNat else if k = 2 then (src64 e tid c).toNat else (src32 s e tid c float).toNat
/-- A uniform source (R219): the thread plays no part. -/
def uni32 (s : State) (e : Env) (c : BitVec 11) (float : Bool := false) : Word := src32 s e 0 c float
def uni64 (e : Env) (c : BitVec 11) : DWord := src64 e 0 c

/-- R239: the lanes a predicate selects. -/
def selMask (g : Group) (pm : BitVec 4) (pn : BitVec 1) : LaneMask :=
  let m := if pm.toNat = 12 then BitVec.allOnes 32 else g.mask pm.toNat
  if pn = 1 then ~~~m else m
/-- bundle ∧ sel: lane, thread number, ascending. -/
def Env.sel (e : Env) (pm : BitVec 4) (pn : BitVec 1) : List (Nat × Nat) :=
  e.lanes.filter fun (l, _) => bit (selMask e.grp pm pn) l

/-- Writes k registers of a thread from a number, little-endian by register. -/
def Thread.setV (t : Thread) (n k x : Nat) : Thread :=
  { t with v := cellsSet t.v n ((List.range k).map fun i => BitVec.ofNat 32 (x / 2 ^ (32 * i))) }
def Group.setG (g : Group) (n k x : Nat) : Group :=
  { g with g := cellsSet g.g n ((List.range k).map fun i => BitVec.ofNat 32 (x / 2 ^ (32 * i))) }
/-- Writes a destination of a thread: k registers of a v code. -/
def writeV (s : State) (e : Env) (tid : Nat) (c : BitVec 11) (k x : Nat) : State :=
  match opKind c with
  | .v n => s.updThread e.tk tid fun t => t.setV n k x
  | _ => s
/-- Writes a destination of the group: k registers of a g code. -/
def writeG (s : State) (e : Env) (c : BitVec 11) (k x : Nat) : State :=
  match opKind c with
  | .g n => s.updGroup e.tk e.g fun g => g.setG n k x
  | _ => s
/-- Writes a bit of an m destination. -/
def writeM (s : State) (e : Env) (c : BitVec 11) (lane : Nat) (x : Bool) : State :=
  match opKind c with
  | .m k => s.updGroup e.tk e.g fun g => g.setMask k (setBit (g.mask k) lane x)
  | _ => s
/-- A result for the whole bundle: every lane of a v destination, or the g destination (R313, R317, R352). -/
def writeAll (s : State) (e : Env) (c : BitVec 11) (k x : Nat) : State :=
  match opKind c with
  | .v _ => e.lanes.foldl (fun s (_, tid) => writeV s e tid c k x) s
  | _ => writeG s e c k x

/-- R172, R214, R219: an operand lies in the team's footprint and the clause's literals. -/
def useFits (e : Env) (u : Use) : Bool :=
  match opKind u.code with
  | .v n => n + u.span ≤ 16 * e.team.vb
  | .g n => n + u.span ≤ 64 * e.team.gb
  | .lit j => if u.span = 1 then j < 2 * hdrLitw e.hdr else j / 2 < hdrLitw e.hdr
  | _ => true
/-- The instruction may issue as the encodings stand (R172, R219, R232). -/
def legal (e : Env) (i : Instr) : Bool := i.wellFormed && i.form.uses.all (useFits e)

/-- The registers an operand names: v registers as n, g registers as 1000 + n. -/
def useRegs (u : Use) : List Nat :=
  match opKind u.code with
  | .v n => (List.range u.span).map (n + ·)
  | .g n => (List.range u.span).map (1000 + n + ·)
  | _ => []

end Sys2Proof.Machine
end

