-- ==== Sys2Proof/Machine/Ops.lean ====
section
/-! DEFINITION. The operations every instruction is made of: raising a fault, taking an exception and returning from one (17),
fetching clauses (R180, R211 to R213), the frontier and the bundle (R180, R181, R284), the gate before an instruction runs
(R51, R153, R232, R290, R392), the release condition (R156) and the end of a clause (R272). -/

namespace Sys2Proof.Machine

/-- The outcomes of this machine. -/
abbrev Out := Host.Outcome State Fault Refusal

/-! ## Progress, parking, killing -/

/-- A progress event of the team (R387). -/
def progress (s : State) (tk : Nat) : State := s.updTeam tk fun t => { t with lookout := 0 }
/-- The team is to be killed with a fault; the first cause stands (R400). -/
def killTeam (s : State) (tk : Nat) (f : FaultInfo) (killer : Option Nat) : State :=
  s.updTeam tk fun t => if t.kill.isSome then t else { t with kill := some f, killer := killer }

/-- A fault that ends in a kill with another cause: its masks, addresses and reserve are no part of it (R392, R396, R398). -/
def FaultInfo.killedBy (f : FaultInfo) (c : Cause) : FaultInfo := { f with cause := c, code := 0, addrs := [], aux := 0, done := 0, refused := 0, reserve := 0 }
/-- The parts of a trap record that the machine knows at the moment of a fault (R395). -/
def faultNow (s : State) (t : Team) (tid : Nat) (f : FaultInfo) : FaultInfo :=
  let th := (t.threads[tid]?).getD {}
  { f with lane := th.lane, pmark := t.pmark, grp := ((t.groups[th.grp]?).map Group.ident).getD 0, time := s.ns, core := t.core }
/-- The fault of an instruction of a bundle. -/
def insnFault (e : Env) (c : Cause) : FaultInfo :=
  { cause := c, word := e.word, clause := e.b.clause, index := e.b.index, prio := e.b.prio, bundle := e.b.lanes }

/-- Takes threads out of the running bundle of a group; an empty bundle ends. -/
def leaveBundle (s : State) (tk g : Nat) (lanes : LaneMask) : State :=
  s.updGroup tk g fun gr =>
    match gr.bundle with
    | none => gr
    | some b => { gr with bundle := if b.lanes &&& ~~~lanes = 0 then none else some { b with lanes := b.lanes &&& ~~~lanes } }

/-- A thread in handler mode ends its team: it stays at the instruction that did, with the fault for its retire record (R392, R400). -/
def killHandler (s : State) (tk tid : Nat) (f : FaultInfo) : State :=
  killTeam (s.updThread tk tid fun th => { th with st := .parked, fault := some f, rp := { prio := f.prio, clause := f.clause, index := f.index }, safe := none }) tk f (some tid)
/-- One thread takes a fault: it parks with the fault pending (R389); in handler mode the team is killed with NESTED (R392);
a cause handled by a kill kills the team. -/
def parkThread (s : State) (tk tid : Nat) (f : FaultInfo) : State :=
  match s.team tk with
  | none => s
  | some t =>
    let th := (t.threads[tid]?).getD {}
    let f := faultNow s t tid f
    let s := leaveBundle s tk th.grp (maskOf [th.lane])
    if th.handler then killHandler s tk tid (f.killedBy .nested)
    else
      let s := s.updThread tk tid fun th => { th with st := .parked, fault := some f, rp := { prio := f.prio, clause := f.clause, index := f.index }, safe := none, origin := th.replay, replay := none }
      if f.cause.handling = .kill then killTeam s tk f (some tid) else s
/-- Several threads take the same fault. -/
def parkAll (s : State) (e : Env) (ls : List (Nat × Nat)) (f : FaultInfo) : State :=
  ls.foldl (fun s (_, tid) => parkThread s e.tk tid f) s
/-- Every thread of the bundle takes the fault. -/
def faultBundle (s : State) (e : Env) (f : FaultInfo) : State := parkAll s e e.lanes f

/-! ## The trap record (R394 to R396) -/

/-- R395. -/
def trapRecord (f : FaultInfo) (killed : Bool) : List Byte :=
  leBytes 1 f.cause.number ++ leBytes 1 f.code ++ leBytes 1 (if killed then 1 else 0) ++ leBytes 1 (min 4 f.addrs.length) ++
  leBytes 4 f.word.toNat ++ leBytes 8 f.clause ++ leBytes 1 f.index ++ leBytes 1 f.prio ++ leBytes 1 f.lane ++ leBytes 1 0 ++
  leBytes 4 f.bundle.toNat ++ leBytes 4 f.done.toNat ++ leBytes 4 f.refused.toNat ++
  (List.range 4).flatMap (fun i => leBytes 8 (f.addrs.getD i 0)) ++
  leBytes 8 (f.reserve % 2 ^ 36) ++ leBytes 4 f.pmark.toNat ++ leBytes 4 f.aux ++ leBytes 4 (f.word.toNat / 2 ^ 32) ++
  leBytes 4 f.grp.toNat ++ leBytes 8 f.time ++ leBytes 2 f.core ++ List.replicate 30 0
/-- R394: where a thread's record lies. -/
def recordAddr (c : Ctx) (pslot : Nat) : Nat := fld c.tarea 56 7 * 128 + 128 * pslot
/-- R358: the handler's first clause. -/
def handlerEntry (c : Ctx) : Nat := fld c.tvec 56 3 * 8

/-- Writes a thread's record at its homes, admitted against the page's owner (R391 step 2, R438). -/
def writeRecord (s : State) (t : Team) (tid : Nat) (f : FaultInfo) (killed : Bool) : Virt Unit :=
  match s.ctx t.ctx with
  | none => .wait s
  | some c =>
    let ps := ((t.threads[tid]?).map Thread.pslot).getD 0
    virtWrite s (some t.core) t.ctx 4096 ps (recordAddr c ps) (trapRecord f killed) kWrite true

/-- TAKING AN EXCEPTION (R391, R393): the thread's trap record is written, the dev-scope acquire taken, and the thread's resume
point becomes the handler's first clause in handler mode. Where the record cannot be written the team is killed with TAREA; a cause of
record and kill then kills it with the cause. Where no handler is installed the team is killed with the cause. -/
def takeException (s : State) (tk tid : Nat) (f : FaultInfo) : Virt Unit :=
  match s.team tk with
  | none => .wait s
  | some t =>
    match s.ctx t.ctx with
    | none => .wait s
    | some c =>
      let debug := f.cause == .brkpt && bit c.dbgctl 0
      let kills := f.cause.handling == .recordKill
      if !kills && handlerEntry c == 0 && !debug then .ok () (killTeam s tk f (some tid)) else
      match writeRecord s t tid f kills with
      | .wait s => .wait s
      | .fault cause addrs _ _ s =>
        let s := if cause == .caprefuse || cause == .tiershort then s.postRefused (addrs.headD 0) else s
        .ok () (killTeam s tk (f.killedBy .tarea) (some tid))
      | .ok _ s =>
        if kills then .ok () (killTeam s tk f (some tid))
        else if debug then
          .ok () ((s.updThread tk tid fun th => { th with fault := none, dbg := true }).postCtx t.ctx
            (healthRecord 11 0 0 0 0 0 (((t.threads[tid]?).map Thread.pslot).getD 0) 0 0 t.core f.clause s.ns))
        else
          let s := s.updCore t.core Core.dropLeases
          .ok () (s.updThread tk tid fun th =>
            { th with fault := none, fetchTrap := f.fetch, handler := true, st := .runnable, fetch := true, setPrio := none, xfer := 0, safe := none, rp := { clause := handlerEntry c } })

/-- What a trap record says of the thread's program (R362, R395). -/
structure Record where
  cause : Nat
  clause : Nat
  index : Nat
  prio : Nat
  masks : LaneMask
  fetch : Bool
  deriving DecidableEq, Repr

/-- The record as it stands in memory. A fault of the clause has no instruction word; an ILLINSN without one was a fetch fault where
the trap was (R185), else the instruction's own. -/
def parseRecord (bs : List Byte) (fetchTrap : Bool) : Record :=
  let n := fun o k => leNat ((bs.drop o).take k)
  let noWord := n 4 4 == 0 && n 0x50 4 == 0
  { cause := n 0 1, clause := n 8 8, index := n 0x10 1, prio := n 0x11 1,
    masks := BitVec.ofNat 32 (n 0x18 4) ||| BitVec.ofNat 32 (n 0x1C 4),
    fetch := n 0 1 == 2 || (noWord && (n 0 1 != 1 || fetchTrap)) }

/-- A lane's rank among the lanes of a mask (R295). -/
def rankIn (m : LaneMask) (lane : Nat) : Nat := ((List.range lane).filter (bit m)).length
/-- A liveness word that names all that a thread of the team has: v blocks, g blocks, masks (R215). -/
def wholeFootprint (t : Team) : DWord := BitVec.ofNat 64 ((2 ^ t.vb - 1) + (2 ^ t.gb - 1) * 2 ^ 40 + 0xFFF * 2 ^ 48)
/-- RETURNING FROM AN EXCEPTION (R362): the thread resumes from its trap record, by replay or by skip, after the dev-scope acquire.
The faulting instruction's own fall-through is found when the clause is fetched again. A lane that was being replayed keeps the rank of its
first issue whatever fault it took (R295). In a team that is being stopped the thread stops here, before its program runs on, and all of its
footprint is saved (R380, R385, R403). -/
def returnFrom (s : State) (tk tid : Nat) (skip : Bool) : Virt Unit :=
  match s.team tk with
  | none => .wait s
  | some t =>
    match s.ctx t.ctx with
    | none => .wait s
    | some c =>
      let ps := ((t.threads[tid]?).map Thread.pslot).getD 0
      (virtRead s (some t.core) t.ctx ps (recordAddr c ps) 128 kRead true).bind fun bs s =>
        let r := parseRecord bs (((t.threads[tid]?).map Thread.fetchTrap).getD false)
        let capacity := r.cause == Cause.caprefuse.number || r.cause == Cause.tiershort.number
        let rp : Resume := if r.fetch then { prio := r.prio, clause := r.clause }
          else { prio := r.prio, clause := r.clause, index := if skip then r.index + 1 else r.index }
        let s := s.updCore t.core Core.dropLeases
        .ok () (progress (s.updThread tk tid fun th =>
          { th with handler := false, dbg := false, fault := none, st := .runnable, fetch := true, rp := rp, safe := (if t.stopping then some (wholeFootprint t) else none), setPrio := (if r.fetch then none else some r.prio), replay := (if skip || r.fetch then none else if capacity then some (th.origin.getD (rankIn r.masks th.lane)) else th.origin) }) tk)

/-! ## Fetching (R180, R211 to R213, R185) -/

/-- A line's place in the constant cache; lines of host pages stand apart from those of the device (log 70). -/
def kcKey (tgt line : Nat) : Nat := if tgt = 1 then 2 ^ 60 + line else line
/-- A line fills the constant cache, 64 sets of 8 ways (R69); the lowest line of a full set leaves (log 70). -/
def kcInstall (c : Core) (key : Nat) (bs : List Byte) : Core :=
  let mine := c.kc.filter fun (k, _) => k % 64 == key % 64 && k != key
  let kc := match (if 8 ≤ mine.length then mine.head? else none) with
    | some (k, _) => mapErase c.kc k
    | none => c.kc
  { c with kc := mapSet kc key (cellsSet [] 0 bs) }
/-- Bytes through the constant cache, filled from the home or from the host (R160, R167); a line with an uncorrectable error is filled
again (R93; array 13, log 4). -/
def kcRead (s : State) (core ctx tgt ea n : Nat) : Home (List Byte) :=
  let key := kcKey tgt (lineOf ea)
  let (bad, s) := if (mapGet? (s.core core).kc key).isSome then s.takeError 13 (key * 1024 + core) else (false, s)
  match (if bad then none else mapGet? (s.core core).kc key) with
  | some d => .ok (cellsGet d (ea % 128) n) s
  | none =>
    (if tgt = 1 then hostFetch s core ctx (lineOf ea * 128) 128 else readLine s (lineOf ea * 128) 128 (some core)).bind fun bs s =>
      .ok ((bs.drop (ea % 128)).take n) (s.updCore core fun k => kcInstall k key bs)
/-- One 64-bit word at a virtual address, over the constant path. -/
def kcWord (s : State) (core ctx pslot va kind : Nat) (sys : Bool) : Virt DWord :=
  match xlateNow s (some core) ctx pslot va 8 kind sys with
  | .ok tgt ea _ s => ((kcRead s core ctx tgt ea 8).bind fun bs s => .ok (BitVec.ofNat 64 (leNat bs)) s).toVirt va
  | .fault c a u s => .fault c a u 0 s
  | .refused c b r s => .fault c [b * 256] 0 r s
  | .wait s => .wait s
/-- n consecutive words. -/
def kcWords (s : State) (core ctx pslot va kind : Nat) (sys : Bool) : Nat → Virt (List DWord)
  | 0 => .ok [] s
  | n + 1 => (kcWords s core ctx pslot va kind sys n).bind fun ws s =>
      (kcWord s core ctx pslot (va + 8 * n) kind sys).bind fun w s => .ok (ws ++ [w]) s

/-- R185: the clause classes a role may fetch. -/
def roleAllows (role cls : Nat) : Bool :=
  match role with
  | 0 => true
  | 1 => cls == 0 || cls == 1 || cls == 2 || cls == 5 || cls == 6
  | 2 => cls == 4 || cls == 1 || cls == 5 || cls == 6
  | _ => cls == 3 || cls == 1 || cls == 5 || cls == 6

/-- R213 beyond the header: classes of assigned opcodes, clause-ending instructions last, the liveness word. -/
def clauseBad (ws : List DWord) : Bool :=
  let h := ws.headD 0
  let n := hdrCount h
  let ins := (ws.drop 1).take n
  hdrBad h ||
  (ins.mapIdx fun i w =>
    let op := w.extractLsb' 56 8
    (match opClass op with | some c => c != hdrClass h | none => false) || (opEnding op && i + 1 != n)).any id ||
  (hdrSafe h && fld (ws.getD (hdrWords h - 1) 0) 63 60 != 0)
/-- R172, R215: the liveness word names a block outside the footprint. -/
def liveBad (t : Team) (ws : List DWord) : Bool :=
  let h := ws.headD 0
  let l := ws.getD (hdrWords h - 1) 0
  hdrSafe h && (fld l 39 0 ≥ 2 ^ t.vb || fld l 47 40 ≥ 2 ^ t.gb)

/-- A fetch fault of a thread, charged to the transfer (R24, R272). -/
def fetchFault (th : Thread) (c : Cause) (addrs : List Nat) (aux reserve : Nat) : FaultInfo :=
  { cause := c, clause := th.rp.clause, index := 0, prio := th.setPrio.getD (if th.fetch then th.rp.prio else th.xprio), bundle := th.xfer, addrs := addrs, aux := aux, reserve := reserve, fetch := true }

/-! ## The frontier (R180, R181, R284, R390) -/

/-- The thread may be chosen into a bundle. -/
def Thread.ready (t : Thread) (stopping : Bool) : Bool :=
  t.st == .runnable && !t.fetch && t.fault.isNone && !t.dbg && !(stopping && t.safe.isSome)
/-- One resume point (R180). -/
def Resume.same (a b : Resume) : Bool := a.prio == b.prio && a.clause == b.clause && a.index == b.index
/-- A yield mark stands at the resume point (R284). -/
def marked (ms : List YieldMark) (r : Resume) : Bool := ms.any fun m => m.place.same r
/-- The order of the frontier: handler entries first, marked entries last, then priority, address, index. -/
def frontBefore (ms : List YieldMark) (a b : Thread) : Bool :=
  if a.handler != b.handler then a.handler
  else if marked ms a.rp != marked ms b.rp then marked ms b.rp
  else if a.rp.prio != b.rp.prio then b.rp.prio < a.rp.prio
  else if a.rp.clause != b.rp.clause then a.rp.clause < b.rp.clause
  else a.rp.index < b.rp.index
/-- The threads of a group that stand in its frontier: thread number and thread. -/
def frontier (t : Team) (g : Nat) : List (Nat × Thread) :=
  ((List.range t.threads.length).filterMap fun i => (t.threads[i]?).map fun th => (i, th)).filter fun (_, th) =>
    th.grp == g && th.ready t.stopping
/-- The head entry's threads. -/
def headThreads (t : Team) (g : Nat) : List (Nat × Thread) :=
  match frontier t g with
  | [] => []
  | x :: xs =>
    let ms := ((t.groups[g]?).map Group.marks).getD []
    let h := xs.foldl (fun (a : Nat × Thread) b => if frontBefore ms b.2 a.2 then b else a) x
    (frontier t g).filter fun (_, th) => th.handler == h.2.handler && th.rp.same h.2.rp
/-- R180: a header is learnt in the step in which its thread takes the resume point, so no bundle forms before it is. -/
def headersKnown (t : Team) (g : Nat) : Bool :=
  !(t.threads.any fun th => th.grp == g && th.st == .runnable && th.fetch && !th.dbg)
/-- An older instruction of the thread is still in the window. -/
def threadBusy (t : Team) (tid : Nat) : Bool :=
  t.iw.any fun i => if i.lanes.isEmpty then i.tids.contains tid else i.lanes.any fun l => l.tid == tid
/-- A pfence of the threads has not completed (R161). -/
def fencePending (t : Team) (tids : List Nat) : Bool := t.iw.any fun i => i.fence.isSome && i.tids.any tids.contains
/-- A trap of the group could be delivered now. -/
def trapDue (t : Team) (g : Nat) : Bool :=
  (List.range t.threads.length).any fun i => match t.threads[i]? with
    | some th => th.grp == g && th.fault.isSome && !threadBusy t i
    | none => false
/-- The group's head is a handler while a trap of the group is due: no bundle of handlers forms before it is delivered, so that threads refused
together run their handler together, which the one outcome of R404 needs (DEDUCED, log 100). -/
def handlerWaits (t : Team) (g : Nat) : Bool :=
  trapDue t g && match (t.groups[g]?).bind Group.bundle with
    | some _ => false
    | none => match headThreads t g with
      | [] => false
      | (_, th) :: _ => th.handler
/-- Whether a group may issue (R181, R377). -/
def groupReady (t : Team) (g : Nat) : Bool :=
  match t.groups[g]? with
  | none => false
  | some gr => !t.drained && !t.kept && gr.live &&
    match gr.bundle with
    -- a pgyield that has begun to surrender its pages goes on to its end before a kill begins (R63, R400)
    | some b => t.kill.isNone || !b.yields.isEmpty
    | none => t.kill.isNone && headersKnown t g && !handlerWaits t g && match headThreads t g with
      | [] => false
      | (_, th) :: _ => th.rp.index != 0 || gr.flagsClear (hdrWait th.hdr)
/-- The class of the clause the group would issue from. -/
def groupClass (t : Team) (g : Nat) : Nat :=
  match t.groups[g]? with
  | none => 7
  | some gr => match gr.bundle with
    | some b => hdrClass (b.words.headD 0)
    | none => match headThreads t g with
      | [] => 7
      | (_, th) :: _ => hdrClass th.hdr

/-- The groups bound to an issue slot that may issue now (R178, R377, R378), with their keys. -/
def readyGroups (s : State) (core slot : Nat) : List (Nat × Nat × Group) :=
  let k := s.core core
  if k.asleep || k.sleepAsked then [] else
  (s.teams.filter fun (_, t) => t.core == core).flatMap fun (tk, t) =>
    (List.range t.groups.length).filterMap fun g =>
      (t.groups[g]?).bind fun gr =>
        let barred : Bool := match mapGet? k.holders slot with
          | some hs => groupClass t g == 2 && !hs.contains (tk * 64 + g)
          | none => false
        if gr.slot % 4 == slot && groupReady t g && !s.stalled.contains (tk * 64 + g) && !barred then some (tk, g, gr) else none
/-- R377: the one that issued least recently, the lower group slot among equals. -/
def pickGroup (s : State) (core slot : Nat) : Option (Nat × Nat) :=
  match readyGroups s core slot with
  | [] => none
  | x :: xs =>
    let r := xs.foldl (fun (a : Nat × Nat × Group) b =>
      if b.2.2.lastIssue < a.2.2.lastIssue || (b.2.2.lastIssue == a.2.2.lastIssue && b.2.2.slot < a.2.2.slot) then b else a) x
    some (r.1, r.2.1)

/-! ## Forming a bundle (R181, R211) -/

/-- The resume point by which the marks know a thread: one whose priority is that of a clause still to be read stands at 256, above every
priority that an instruction can give (R180, R283, R284). -/
def Thread.entry (th : Thread) : Resume := if th.fetch && th.setPrio.isNone then { th.rp with prio := 256 } else th.rp
/-- The resume points of a group's runnable threads, fetched or not. -/
def groupEntries (t : Team) (g : Nat) : List Resume :=
  (t.threads.filter fun th => th.grp == g && th.st == .runnable).map Thread.entry
/-- The entries of a mark's set W that have been emptied leave it; a mark with none left clears (R284). -/
def Team.tidyMarks (t : Team) : Team :=
  if t.groups.all fun g => g.marks.isEmpty then t else
  { t with groups := t.groups.mapIdx fun g gr => if gr.marks.isEmpty then gr else
      { gr with marks := (gr.marks.map fun m => { m with wait := m.wait.filter fun r => (groupEntries t g).any r.same }).filter fun m => !m.wait.isEmpty } }
/-- An entry has issued: it leaves the sets W, and its own mark clears (R284). -/
def Group.issued (g : Group) (r : Resume) : Group :=
  { g with marks := ((g.marks.filter fun m => !m.place.same r).map fun m => { m with wait := m.wait.filter fun x => !x.same r }).filter fun m => !m.wait.isEmpty }
/-- A resume point whose priority was still to be read is known now: the marks name it so (R180, R284). -/
def YieldMark.learnt (m : YieldMark) (old new : Resume) : YieldMark :=
  let f := fun (r : Resume) => if r.same old then new else r
  { place := f m.place, wait := (m.wait.map f).filter fun r => !r.same (f m.place) }
def Group.learnt (g : Group) (old new : Resume) : Group :=
  if g.marks.isEmpty then g else { g with marks := (g.marks.map fun m => m.learnt old new).filter fun m => !m.wait.isEmpty }

/-- The header that a clause has now is learnt by the threads that are to run it. -/
def learnHeader (s : State) (tk : Nat) (ths : List (Nat × Thread)) (h : DWord) : State :=
  ths.foldl (fun s (i, _) => s.updThread tk i fun th => { th with hdr := h }) s
/-- The thread has an admission reply outstanding (R51); the lanes of one billet share one request, and so one reply (R49). -/
def unadmitted (t : Team) (tid : Nat) : Bool :=
  t.iw.any fun i => i.lanes.any fun l => l.unadmitted && (l.stage == .ready || l.stage == .entered || l.stage == .refused) &&
    i.lanes.any fun x => x.tid == tid && billetOf x.ea == billetOf l.ea && x.tgt == l.tgt
/-- A place in the log of errors of array 10: for a thread's registers its number, for a group's 512 more than its slot. v registers come
first, then g registers at 1000, m registers at 2000, completion flags at 2100, link entries at 2200, oldest first, operand latches at 2300
by source position (log 4). -/
def regPlace (tk owner reg : Nat) : Nat := (tk * 1024 + owner) * 4096 + reg
/-- A register of a thread, not of a group. -/
def threadReg (reg : Nat) : Bool := reg < 1000 || (2200 ≤ reg && reg < 2300)
/-- An uncorrectable error in a flag that a wait mask names (R397). -/
def waitError (s : State) (tk g mask : Nat) : Option Nat :=
  firstSome (fun (a, p) => if a == 10 && (List.range 12).any (fun k => mask.testBit k && p == regPlace tk (512 + g) (2100 + k)) then some p else none) s.errors
/-- Threads at a clause's end with an admission reply outstanding stay out of bundles until it comes (R51). A clause's wait mask is looked at
first: an entry whose thread is held later still keeps its place in the frontier until its flags are zero, as the order of R410 needs (R181;
DEDUCED, log 84). -/
def holdThreads (s : State) (tk : Nat) (tids : List Nat) : State :=
  tids.foldl (fun s i => s.updThread tk i fun th => { th with st := .held }) s
/-- The head entry's threads become the bundle; the whole clause is fetched and checked first (R180, R211, R213). A clause that has been
rewritten since its header was learnt runs as it now stands; one that now ends before the resume point is left for its fall-through. In the
private window R11 relocates by thread, and for the fetch of a bundle of several threads it names none: the fetch is relocated by the private
slot of the head entry's first thread, for the whole bundle (DESIGN CHOICE, log 86). -/
def formBundle (s : State) (tk g : Nat) : Virt Unit :=
  match s.team tk with
  | none => .wait s
  | some t =>
    match headThreads t g with
    | [] => .wait s
    | (tid, th) :: rest =>
      let ths := (tid, th) :: rest
      -- a clause fetch counts as a constant-path load (R301)
      if fencePending t (ths.map Prod.fst) then .wait s else
      let gr := (t.groups[g]?).getD {}
      let park := fun (s : State) (c : Cause) (a : List Nat) (u r : Nat) =>
        Virt.ok () (ths.foldl (fun s (i, th) => parkThread s tk i (fetchFault th c a u r)) s)
      match kcWord s t.core t.ctx th.pslot th.rp.clause kFetch th.handler with
      | .wait s => .wait s
      | .fault c a u r s => park s c a u r
      | .ok h s =>
        if hdrBad h then park s .badclause [] 0 0
        else if !roleAllows gr.role (hdrClass h) then park s .illinsn [] 0 0
        else match waitError s tk g (if th.rp.index = 0 then hdrWait h else 0) with
        | some p => park (s.takeError 10 p).2 .rpoison [] 0 0
        | none =>
        if th.rp.index = 0 && !gr.flagsClear (hdrWait h) then .wait (learnHeader s tk ths h)
        else if ths.any fun (i, _) => unadmitted t i then .ok () (holdThreads s tk ((ths.map Prod.fst).filter (unadmitted t)))
        else if hdrCount h ≤ th.rp.index then
          .ok () (ths.foldl (fun s (i, _) => s.updThread tk i fun th => { th with fetch := true, rp := { th.rp with clause := th.rp.clause + 8 * hdrWords h, index := 0 } }) s)
        else match kcWords s t.core t.ctx th.pslot th.rp.clause kFetch th.handler (hdrWords h) with
          | .wait s => .wait s
          | .fault c a u r s => park s c a u r
          | .ok ws s =>
            if clauseBad ws then park s .badclause [] 0 0
            else
              let lanes : LaneMask := maskOf (ths.map fun (_, th) => th.lane)
              let b : Bundle := { lanes := lanes, clause := th.rp.clause, prio := th.rp.prio, index := th.rp.index, words := ws, handler := th.handler }
              let s := s.updGroup tk g fun gr => { gr.issued th.rp with bundle := some b }
              .ok () (ths.foldl (fun s (i, _) => s.updThread tk i fun th => { th with st := .inBundle, safe := none, setPrio := none }) s)

/-! ## Order within a thread (R51, R153, R156, R290) -/

/-- Instructions that may issue while an admission reply is outstanding: younger loads of any space, and hints (R51). -/
def loadLike : Instr → Bool
  | .ld _ | .ldp _ | .ldk _ | .sld _ | .binfo _ | .pref _ | .resid _ => true
  | _ => false
/-- A load lane that has not returned. -/
def LaneOp.openLoad (l : LaneOp) : Bool := l.kind == .load && (l.stage == .ready || l.stage == .sent)
/-- A store-class lane that has not performed. -/
def LaneOp.openStore (l : LaneOp) : Bool := l.kind != .load && (l.stage == .ready || l.stage == .entered || l.stage == .sent)
/-- Lanes of some threads. -/
def openLanes (t : Team) (tids : List Nat) (p : Inflight → LaneOp → Bool) : Bool :=
  t.iw.any fun i => i.lanes.any fun l => tids.contains l.tid && p i l
/-- The lane keeps a core-scope release waiting: a load that has not returned, a scratchpad access that has not performed, a store-class
lane that has not entered or is not admitted (R156). -/
def holdsRelease (i : Inflight) (l : LaneOp) : Bool :=
  l.openLoad || (i.scratch && l.stage != .performed && l.stage != .returned) ||
  (l.kind != .load && !i.scratch && (l.stage == .ready || (l.unadmitted && l.stage == .entered)))
/-- The core-scope part of R156, and a pfence before it (R153). -/
def coreReleased (t : Team) (tids : List Nat) : Bool := !openLanes t tids holdsRelease && !fencePending t tids
/-- The same for what is older than the issue of a copy command (R162). -/
def releasedBefore (t : Team) (tid id : Nat) : Bool :=
  !openLanes t [tid] (fun i l => i.id < id && holdsRelease i l) && !t.iw.any fun i => i.id < id && i.fence.isSome && i.tids.contains tid
/-- Every older access of the threads is complete. -/
def allPerformed (t : Team) (tids : List Nat) : Bool := !openLanes t tids fun _ l => l.openLoad || l.openStore
/-- An acquire of the threads' older instructions is still to be taken (R153). -/
def acquirePending (t : Team) (tids : List Nat) : Bool :=
  t.iw.any fun i => i.acq.isSome && i.lanes.any fun l => tids.contains l.tid

/-- What a release of a core covers: the entries that SB(c) holds, and at sys scope the host's acknowledgements still to come of
stores that have left it (R156). -/
def releaseSet (s : State) (core scope : Nat) : List Nat :=
  (s.core core).sb.map SbEntry.id ++ (if scope < 3 then [] else (s.hostPend.filter fun h => h.core == core).map HostPend.entry)
/-- Whether everything a release covers has performed, and at sys scope been acknowledged (R156, R167). -/
def setReleased (s : State) (core scope : Nat) (ids : List Nat) : Bool :=
  (s.core core).sb.all (fun x => !ids.contains x.id) && (scope < 3 || s.hostPend.all fun h => h.core != core || !ids.contains h.entry)
/-- The release condition of R156 for threads of the bundle; at dev and sys scope what the release covers is named once, when their
older loads have returned. -/
def releasedBy (s : State) (e : Env) (tids : List Nat) (scope : Nat) : Bool × State :=
  if !coreReleased e.team tids then (false, s)
  else if scope < 2 then (true, s)
  else
    match e.b.snap with
    | none =>
      let ids := releaseSet s e.core scope
      let s := s.updGroup e.tk e.g fun g => { g with bundle := g.bundle.map fun b => { b with snap := some ids } }
      (ids.isEmpty, s)
    | some ids => (setReleased s e.core scope ids, s)
/-- The release of the whole bundle. -/
def released (s : State) (e : Env) (scope : Nat) : Bool × State := releasedBy s e (e.lanes.map Prod.snd) scope
/-- An acquire of a scope (R132, R156). -/
def acquire (s : State) (core scope : Nat) : State := if scope < 2 then s else s.updCore core Core.dropLeases

/-- Registers that incomplete issues will write (R290): v registers of the threads, in whichever group they issued, and registers of the
group. -/
def pendingRegs (t : Team) (g : Nat) (tids : List Nat) : List Nat :=
  t.iw.flatMap fun i =>
    let regs := (i.insn.form.uses.filter Use.dst).flatMap useRegs
    let mine := i.lanes.any (fun l => tids.contains l.tid) || ((i.lanes.isEmpty || i.engine) && i.tids.any tids.contains)
    regs.filter fun r => if r < 1000 then mine else i.grp == g
/-- R290: the instruction names a register that an incomplete load will write. -/
def interlocked (e : Env) (i : Instr) : Bool :=
  let p := pendingRegs e.team e.g (e.lanes.map Prod.snd)
  i.form.uses.any fun u => (useRegs u).any p.contains
/-- The instruction has an effect that other threads of the group see: it writes a g or m register, or reads v registers of other
lanes. -/
def groupEffect (i : Instr) : Bool :=
  match i with
  | .mbegin _ | .mleave _ | .shfl _ | .bcast _ | .lred _ | .lscan _ | .vote _ => true
  -- its result is held until it completes (R261)
  | .gldk _ => false
  | _ => i.form.uses.any fun u => u.dst && (match opKind u.code with | .g _ | .m _ => true | _ => false)
/-- A load of the threads may still find poison at its home (R56). -/
def maybePoisoned (t : Team) (tids : List Nat) : Bool := openLanes t tids fun i l => l.openLoad && !i.scratch && l.tgt != 1

/-! ## Errors in the register files (R174; array 10, log 4) -/

/-- The completion-flag slot an instruction names (R200, R290). -/
def flgOf : Instr → Option (BitVec 1)
  | .ld f | .st f | .ldk f | .ldp f | .stp f | .pref f | .fence f | .pfence f | .wback f | .binfo f | .rsvq f | .pgyield f
  | .mark f | .resid f | .sld f | .sst f => some f.flg
  | .atom f | .red f | .satom f => some f.flg
  | .salloc f | .srenew f | .sage f => some f.flg
  | .cpy f | .cpfill f | .cpcancel f => some f.flg
  | .xmma f | .xzero f | .xdrain f | .xfill f | .xrd f | .xwr f | .xquant f | .xscale f => some f.flg
  | .launch f => some f.flg
  | _ => none
/-- The predicate register of an instruction (R239); formats X and C have none. -/
def predicate (e : Env) (i : Instr) : Option Nat :=
  match i.opcode.bind opClass with
  | some 3 | some 4 | none => none
  | _ => let k := (e.word.extractLsb' 4 4).toNat; if k < 12 then some k else none
/-- bundle ∧ sel of an instruction, read from its word: PM 12 with PN selects no lane (R200, R239). -/
def chosen (e : Env) (i : Instr) : List (Nat × Nat) :=
  match i.opcode.bind opClass with
  | some 3 | some 4 | none => e.lanes
  | _ => e.sel (e.word.extractLsb' 4 4) (e.word.extractLsb' 3 1)
/-- Registers an instruction reads as sources. -/
def readRegs (i : Instr) : List Nat :=
  (i.form.uses.filter fun u => !u.dst).flatMap fun u => match opKind u.code with | .m k => [2000 + k] | _ => useRegs u
/-- Link entries that a thread's instruction reads (R277 to R279). -/
def readLinks (i : Instr) (n : Nat) : List Nat :=
  match i with
  | .ret _ => if n = 0 then [] else [2200 + (n - 1)]
  | .call _ | .calli _ => if n < 4 then [] else [2200]
  | .pushm _ => (List.range n).map (2200 + ·)
  | _ => []
/-- What an instruction reads of its group beside its sources: the mask registers and flags that it names, and the latches that a vector
instruction may take an operand from (R220, R397). -/
def readGroup (e : Env) (i : Instr) : List Nat :=
  (match i with
    | .brm f => [2000 + f.mreg.toNat]
    | .mleave f | .mwait f => [2000 + f.mreg.toNat]
    | .waitf f => [2100 + f.cf.toNat]
    | _ => []) ++
  (match (flgOf i).bind (flagOf e.hdr) with | some k => [2100 + k] | none => []) ++
  (if i.opcode.bind opClass == some 0 then e.grp.hold.map fun h => 2300 + h.1 else [])
/-- The threads of the bundle that consume an error at a place: all of them for the predicate, those of bundle ∧ sel for what else the
instruction reads. -/
def consumers (e : Env) (i : Instr) (p : Nat) : List (Nat × Nat) :=
  let at' := fun (owner : Nat) (rs : List Nat) => rs.any fun r => p == regPlace e.tk owner r
  if (predicate e i).any fun k => p == regPlace e.tk (512 + e.g) (2000 + k) then e.lanes
  else (chosen e i).filter fun (_, tid) =>
    at' (512 + e.g) ((readRegs i).filter (1000 ≤ ·) ++ readGroup e i) ||
    at' tid ((readRegs i).filter (· < 1000) ++ readLinks i (e.thread tid).link.length)
/-- An error in a register that the bundle's instruction reads: whether it can be corrected, its place, and the threads that consume it. -/
def regError (s : State) (e : Env) (i : Instr) : Option (Bool × Nat × List (Nat × Nat)) :=
  firstSome (fun (a, p) =>
    if a != 10 && a != 110 then none else
    let hit := consumers e i p
    if hit.isEmpty then none else some (a == 110, p, hit)) s.errors

/-! ## The gate -/

/-- What stands before an instruction's own effect. -/
inductive Gate where
  /-- no bundle issues -/
  | none
  | wait (s : State)
  | illegal (e : Env)
  | nested (e : Env)
  /-- a register that the instruction reads holds an uncorrectable error -/
  | poison (s : State)
  | go (e : Env)

/-- R392: instructions that kill the team when a handler issues them. -/
def nestedInsn : Instr → Bool
  | .bar _ | .mwait _ | .regroup _ | .qperm _ | .qtake _ | .launch _ | .salloc _ => true
  | .xmma _ | .xzero _ | .xdrain _ | .xfill _ | .xrd _ | .xwr _ | .xquant _ | .xscale _ => true
  | _ => false

/-- Instructions that no younger one of a thread may precede a pfence's completion with (R161). -/
def afterFence : Instr → Bool
  | .ldk _ | .gldk _ | .cpy _ | .cpfill _ | .tsr _ | .pfence _ => true
  | _ => false
/-- The group flag an issue counts in. -/
def Env.flag (e : Env) (i : Instr) : Option Nat := (flgOf i).bind (flagOf e.hdr)

/-- The environment of the issuing bundle. -/
def envOf (s : State) : Option Env :=
  match s.issuer with
  | Option.none => Option.none
  | some is =>
    match s.team is.team with
    | Option.none => Option.none
    | some t =>
      match t.groups[is.grp]? with
      | Option.none => Option.none
      | some gr => gr.bundle.map fun b => { core := is.core, tk := is.team, g := is.grp, team := t, grp := gr, b := b, word := is.word }

def HostMsg.isRead : HostMsg → Bool | .read _ _ => true | _ => false
/-- The billets that a request to a peer's device holds are opened as its admission found them (R276). -/
def holdBillets (s s' : State) : State :=
  ((s'.hostReads.filter fun r => s.nextId ≤ r.id).flatMap HostRead.holds).foldl (fun s b =>
    if (s.billet b).opened then s else match admission s b (s'.billet b).rctx with | .grant s => s | _ => s) s
/-- What a wait has set going (a promotion, a request to a peer with the billets it holds, a read of the host) stays going; answers of the host
are kept for the next try. -/
def keepWaits (s s' : State) : State :=
  { holdBillets s s' with migrations := s'.migrations, fabricOut := s'.fabricOut, peerAsks := s'.peerAsks, nextId := s'.nextId, proxy := s'.proxy, hostReads := s.hostReads ++ s'.hostReads.filter (fun r => s.nextId ≤ r.id), hostOut := s.hostOut ++ (s'.hostOut.drop s.hostOut.length).filter HostMsg.isRead }
/-- A hardware step that the rules do not enable. -/
def notNow (why : String) : Out := .refused (.notEnabled why)
/-- A step that must wait: what the wait has set going stays going; where nothing is, the step is not enabled. -/
def waitsFor (s s' : State) (why : String) : Out := if keepWaits s s' = s then notNow why else .next (keepWaits s s')
/-- The issue is put off: the bundle stays as it is. -/
def stallAt (s : State) (e : Env) : State :=
  { s with stalled := if s.stalled.contains (e.tk * 64 + e.g) then s.stalled else (e.tk * 64 + e.g) :: s.stalled }

/-- Admission (R51), acquires (R153), registers (R290), a full flag (R365) and a load that may be poisoned (R56) put an issue off; an
illegal use traps (R232), and so does the first instruction of a bundle whose liveness word names a block outside the footprint (R172;
which instruction takes it is not stated: DEDUCED, log 71); R392 names what a handler may not issue. -/
def gate (s : State) (i : Instr) : Gate :=
  match envOf s with
  | none => .none
  | some e =>
    let tids := e.lanes.map Prod.snd
    if tids.any (unadmitted e.team) && !loadLike i then .wait (stallAt s e)
    else if acquirePending e.team tids || (afterFence i && fencePending e.team tids) then .wait (stallAt s e)
    else if !legal e i || liveBad e.team e.b.words then .illegal e
    else if e.b.handler && nestedInsn i then .nested e
    else if interlocked e i then .wait (stallAt s e)
    else if (match e.flag i with | some k => decide (63 ≤ e.grp.flag k) | Option.none => false) then .wait (stallAt s e)
    else if groupEffect i && maybePoisoned e.team tids then .wait (stallAt s e)
    else match regError s e i with
      -- a correctable error is corrected, and the instruction is tried again (R93)
      | some (true, p, _) => .wait (s.takeError 10 p).2
      | some (false, p, ls) => .poison (parkAll (s.takeError 10 p).2 e ls (insnFault e .rpoison))
      | Option.none => .go e

/-! ## Moving on -/

/-- The fall-through of a clause (R272). -/
def fallThrough (b : Bundle) : Nat := b.clause + 8 * hdrWords (b.words.headD 0)
/-- The bundle's clause has ended: each thread takes its next resume point (R272, R180). -/
def endClause (s : State) (e : Env) : State :=
  match s.group e.tk e.g with
  | none => s
  | some gr =>
    match gr.bundle with
    | none => s
    | some b =>
      let h := b.words.headD 0
      let safe := if hdrSafe h && gr.flagMask == 0 then some (b.words.getD (hdrWords h - 1) 0) else none
      let t := (s.team e.tk).getD e.team
      let s := (lanesOf t e.g b.lanes).foldl (fun s (l, tid) =>
        s.updThread e.tk tid fun th =>
          let rp := (mapGet? b.next l).getD { prio := hdrPrio h, clause := fallThrough b }
          { th with st := .runnable, rp := rp, fetch := true, xfer := b.lanes, safe := safe, replay := none }) s
      s.updGroup e.tk e.g fun gr => { gr with bundle := none }
/-- A replay ends with the instruction it was for (R295, R399). -/
def endReplay (s : State) (tk g : Nat) : State :=
  s.updTeam tk fun t =>
    if t.threads.any fun th => th.grp == g && th.st == .inBundle && th.replay.isSome then
      { t with threads := t.threads.map fun th => if th.grp == g && th.st == .inBundle then { th with replay := none } else th }
    else t
/-- The next instruction of the clause, or its end. -/
def advance (s : State) (e : Env) : State :=
  let s := endReplay s e.tk e.g
  match s.group e.tk e.g with
  | none => s
  | some gr =>
    match gr.bundle with
    | none => s
    | some b =>
      if b.index + 1 < hdrCount (b.words.headD 0) then
        s.updGroup e.tk e.g fun gr => { gr with bundle := some { b with index := b.index + 1, snap := none } }
      else endClause (s.updGroup e.tk e.g fun gr => { gr with bundle := some { b with snap := none } }) e
/-- A thread of the bundle starts to wait; it resumes at the fall-through of its clause (R175). The header of that fall-through is fetched, and a
fault of the fetch taken, once the wait has ended (R180, R181 and R272 can be read as at the clause's end: DESIGN CHOICE, log 98). -/
def waitThreads (s : State) (e : Env) (ls : List (Nat × Nat)) (w : Wait) : State :=
  let s := ls.foldl (fun s (_, tid) => s.updThread e.tk tid fun th =>
    { th with st := .waiting w, rp := { prio := hdrPrio e.hdr, clause := fallThrough e.b }, fetch := true, xfer := e.b.lanes, safe := none, replay := none }) s
  leaveBundle s e.tk e.g (maskOf (ls.map Prod.fst))
/-- The threads of bundle ∧ sel take the fault; the others go on (R23, R398, R403; that every thread of bundle ∧ sel takes it, and not
only those whose own lanes faulted, is DEDUCED, log 72). -/
def faultSel (s : State) (e : Env) (ls : List (Nat × Nat)) (f : FaultInfo) : State := advance (parkAll s e ls f) e
/-- A thread of the bundle is to take a resume point at the clause's end. -/
def transfer (s : State) (e : Env) (lane : Nat) (r : Resume) : State :=
  s.updGroup e.tk e.g fun gr => { gr with bundle := gr.bundle.map fun b => { b with next := mapSet b.next lane r } }

/-- An instruction's meaning behind its gate. -/
def withGate (s : State) (i : Instr) (k : Env → State → Out) : Out :=
  match gate s i with
  | .none => .refused (.notEnabled "no bundle issues this instruction")
  | .wait s => .next s
  | .illegal e => .next (faultBundle s e (insnFault e .illinsn))
  | .nested e => .next (faultBundle s e (insnFault e .nested))
  | .poison s => .next s
  | .go e => k e s
/-- An instruction that only changes the state and moves on. -/
def simple (s : State) (i : Instr) (k : Env → State → State) : Out := withGate s i fun e s => .next (advance (k e s) e)

/-! ## Issuing (R150, R181, R377) -/

/-- Threads with an admission reply outstanding leave the bundle at an instruction they may not issue yet (R51). -/
def holdBack (s : State) (tk g : Nat) : State :=
  match s.team tk with
  | none => s
  | some t => match (t.groups[g]?).bind Group.bundle with
    | none => s
    | some b =>
      let w := b.words.getD (1 + b.index) 0
      if (decode w).any loadLike then s else
      let hs := (lanesOf t g b.lanes).filter fun (_, tid) => unadmitted t tid
      let s := hs.foldl (fun s (_, tid) => s.updThread tk tid fun th =>
        { th with st := .held, rp := { prio := b.prio, clause := b.clause, index := b.index }, fetch := false, hdr := b.words.headD 0 }) s
      leaveBundle s tk g (maskOf (hs.map Prod.fst))

/-- The word the group's bundle is to issue. -/
def nextWord (s : State) (tk g : Nat) : Option DWord :=
  ((s.group tk g).bind Group.bundle).map fun b => b.words.getD (1 + b.index) 0

/-- Everything up to the instruction itself: the bundle is formed, held threads leave it, the issuer is set. -/
def prepare (s : State) (core tk g : Nat) : Option DWord × State :=
  let formed : Virt Unit := match (s.group tk g).bind Group.bundle with
    | some _ => .ok () s
    | none => formBundle s tk g
  match formed with
  | .wait s => (none, { s with stalled := (tk * 64 + g) :: s.stalled })
  | .fault _ _ _ _ s => (none, s)
  | .ok _ s =>
    let s := holdBack s tk g
    match nextWord s tk g with
    | none => (none, s)
    | some w =>
      let s := s.updCore core fun k => { k with issueClock := k.issueClock + 1 }
      (some w, { s with issuer := some { core := core, team := tk, grp := g, word := w } })

/-- A word that is no instruction: every thread of the bundle takes ILLINSN (R232). -/
def illegalWord (s : State) : State :=
  match envOf s with
  | some e => faultBundle s e (insnFault e .illinsn)
  | none => s

end Sys2Proof.Machine
end

