-- ==== Sys2Proof/Machine/Settle.lean ====
section
/-! DEFINITION. What comes about inside a step, after the instruction or event itself: acknowledgements owed (R20, R50), threads
whose admission replies are in (R51), yield marks that have run out (R284), a complete regroup set (R187 to R190), writes the part still has to make (R416, R417, R438),
and last the waits whose condition has come true (R182, R281, R314, R365). -/

namespace Sys2Proof.Machine

/-! ## Acknowledgements owed -/

/-- Nothing of the core still rests on an admission of the billet that has not been sent (R50). -/
def coreCloseClear (s : State) (core b : Nat) : Bool :=
  !((s.core core).sb.any fun e => billetOf e.ea == b && e.tgt != 1 && (e.admitted || e.granted s) && e.n != 0 && !e.sent) &&
  !(s.teams.any fun (_, t) => t.core == core && t.iw.any fun i => i.lanes.any fun l =>
      l.kind != .load && l.stage == .ready && (l.granted || !l.unadmitted) && !i.scratch && l.n != 0 && billetOf l.ea == b)
/-- A core's invalidation and close acknowledgements that may go now. -/
def payAcks (s : State) (core : Nat) : State :=
  let c := s.core core
  let s := c.owedInv.foldl (fun s l =>
    if s.dependsOn core l then s
    else sendUp (s.updCore core fun c => { c with owedInv := c.owedInv.filter (· != l) }) core (l * 128) (.invAck l)) s
  c.owedClose.foldl (fun s b =>
    if coreCloseClear s core b then
      sendUp (s.updCore core fun c => { c with owedClose := c.owedClose.filter (· != b) }) core (b * 256) (.closeAck b)
    else s) s

/-! ## Threads held (R51) -/

/-- Held threads whose replies have all come. -/
def unhold (t : Team) : Team :=
  { t with threads := t.threads.mapIdx fun i th => if th.st == .held && !unadmitted t i then { th with st := .runnable } else th }

/-! ## Regroup (R187 to R190, R193) -/

/-- The set of flagged group slots, in index order. -/
def regroupSet (t : Team) : List Nat := (List.range t.groups.length).filter fun g => ((t.groups[g]?).map Group.flagged).getD false
/-- Every live thread of the set has arrived. -/
def regroupDone (t : Team) : Bool :=
  let set := regroupSet t
  let ms := t.threads.filter fun th => set.contains th.grp && th.live
  !ms.isEmpty && ms.all fun th => th.st == .waiting .regroup
/-- R188: key, then pre-regroup group index, then lane. -/
def regroupBefore (t : Team) (a b : Nat × Thread) : Bool :=
  let gi := fun (th : Thread) => ((t.groups[th.grp]?).map Group.idx).getD 0
  if a.2.key != b.2.key then a.2.key < b.2.key
  else if gi a.2 != gi b.2 then gi a.2 < gi b.2 else a.2.lane < b.2.lane
/-- Insertion into a sorted list. -/
def insertBy {α : Type} (lt : α → α → Bool) (x : α) : List α → List α
  | [] => [x]
  | y :: ys => if lt x y then x :: y :: ys else y :: insertBy lt x ys
def sortBy {α : Type} (lt : α → α → Bool) (l : List α) : List α := l.foldr (insertBy lt) []
/-- R188: the surplus, packed densely. -/
def packDense {α : Type} : Nat → List α → List (List α)
  | 0, _ => []
  | fuel + 1, l => if l.isEmpty then [] else l.take 32 :: packDense fuel (l.drop 32)
/-- R188. -/
def pack (P : Nat) : Nat → Nat → List (Nat × Thread) → List (List (Nat × Thread))
  | 0, _, _ => []
  | fuel + 1, made, l =>
    match l with
    | [] => []
    | x :: _ =>
      let n := (l.takeWhile fun y => y.2.key == x.2.key).length
      let k := min 32 n
      if made + 1 + (l.length - k + 31) / 32 ≤ P then l.take k :: pack P fuel (made + 1) (l.drop k)
      else packDense (l.length + 1) l

/-- R189, R190: the new groups and the threads in their places. -/
def regroupTeam (t : Team) : Team :=
  let set := regroupSet t
  let ms := sortBy (regroupBefore t) (((List.range t.threads.length).filterMap fun i => (t.threads[i]?).map fun th => (i, th)).filter fun (_, th) =>
    set.contains th.grp && th.live)
  let packs := pack set.length (ms.length + 1) 0 ms
  let gen := if t.rgGen ≥ 1023 then 1 else t.rgGen + 1
  let groups := t.groups.mapIdx fun g gr =>
    match set.findIdx? (· == g) with
    | none => gr
    | some j =>
      match packs[j]? with
      | none => { ({} : Group) with live := false, flagged := true, slot := gr.slot }
      | some ts =>
        let old := (t.groups[(ts.head?.map fun x => x.2.grp).getD 0]?).getD {}
        let m := (List.range 12).foldl (fun (c : Cells 32) k =>
          cellSet c k (maskOf ((List.range ts.length).filter fun i =>
            match ts[i]? with
            | some (_, th) => bit (((t.groups[th.grp]?).getD {}).mask k) th.lane
            | none => false))) []
        { ({} : Group) with live := true, flagged := true, slot := gr.slot, idx := j, gen := gen, role := old.role, g := old.g, m := m, lastIssue := gr.lastIssue, mixed := !(ts.all fun x => x.2.key == ((ts.head?.map fun y => y.2.key).getD 0)) }
  let place := fun (i : Nat) => firstSome (fun (j : Nat) => ((packs[j]?).bind fun ts => ts.findIdx? fun x => x.1 == i).map fun p => (j, p)) (List.range packs.length)
  let threads := t.threads.mapIdx fun i th =>
    match place i with
    | some (j, p) => { th with grp := set.getD j 0, lane := p, st := .runnable }
    | none => th
  { t with groups := groups, threads := threads, rgGen := gen, rgAddr := none, lookout := 0 }

/-- An uncorrectable error in what relocation reads: array 9, or a register of the set's threads and groups, in array 10 (R193, log 4). -/
def regroupError (s : State) (tk : Nat) (t : Team) : Option (Nat × Nat) :=
  let set := regroupSet t
  s.errors.find? fun (a, p) =>
    (a == 9 && p == tk) ||
    (a == 10 && p / 4096 / 1024 == tk &&
      let o := p / 4096 % 1024
      if threadReg (p % 4096) then (t.threads[o]?).any fun th => th.live && set.contains th.grp else set.contains (o - 512))
/-- Regroup where the set is complete; an uncorrectable error met in it kills the team (R193). -/
def regroupCheck (s : State) (tk : Nat) : State :=
  match s.team tk with
  | none => s
  | some t =>
    if regroupDone t && t.kill.isNone then
      match regroupError s tk t with
      | some (a, p) => killTeam (s.takeError a p).2 tk { cause := .rgerr, time := s.ns, core := t.core, pmark := t.pmark } none
      | none => s.updTeam tk regroupTeam
    else s

/-! ## Writes the part has still to make (R416, R417, R438) -/

/-- Bytes at a device address, admitted against the page's owner; a page that is not backed takes none (log 9). -/
def partWrite (s : State) (da : Nat) (bs : List Byte) : Home Unit :=
  if (s.page (pageOf da)).isNone then .ok () s
  else (splitLines da bs (bs.length / 128 + 2)).foldl (fun acc (a, seg) => acc.bind fun _ s => writeLine s (s.ownerOf a) a seg) (.ok () s)
/-- The structure a write is for: a context's CCB and health ring, the page-record table (4096), the device ring (4097). Writes to one
structure keep their order. -/
def PartWrite.target : PartWrite → Nat
  | .health x _ => x
  | .bytes x _ _ => x
  | .device _ => 4097
/-- No write to the structure is still to be made: what the operations that make such writes wait for (R438). -/
def State.posted (s : State) (target : Nat) : Bool := s.posts.all fun p => p.target != target

/-- The record of a context's ring, where HQHEAD leaves room, and HQTAIL after it; else HQLOST (R415, R416). -/
def writeHealth (s : State) (x : Nat) (c : Ctx) (bs : List Byte) : Virt Unit :=
  let lost := fun (s : State) => (Home.toVirt 0 (partWrite s (c.ccb + 0x2C) (leBytes 4 (c.hqlost + 1)))).bind fun _ s =>
    Virt.ok () (s.updCtx x fun c => { c with hqlost := c.hqlost + 1 })
  (Home.toVirt 0 (readAt s (c.ccb + 0x38) 8)).bind fun head s =>
    if c.hqtail - leNat head ≥ 2 ^ c.hqlog then lost s
    else match virtWrite s none x 4096 0 (c.hqbase + 64 * (c.hqtail % 2 ^ c.hqlog)) bs kWrite true with
      | .fault cause a u r s => if cause == .caprefuse || cause == .tiershort then .fault cause a u r s else lost s
      | .wait s => .wait s
      | .ok _ s => (Home.toVirt 0 (partWrite s (c.ccb + 0x30) (leBytes 8 (c.hqtail + 1)))).bind fun _ s =>
          .ok () (s.updCtx x fun c => { c with hqtail := c.hqtail + 1 })
/-- One of those writes: made, or to be tried again (R438). -/
def partStep (s : State) (p : PartWrite) : Virt Unit :=
  match p with
  | .bytes _ da bs => Home.toVirt 0 (partWrite s da bs)
  | .device bs =>
    let n := fld s.regs.hrlog 4 0
    if n = 0 ∨ s.regs.hrtail - s.regs.hrhead = BitVec.ofNat 64 (2 ^ n) then .ok () (s.updReg fun r => { r with hrlost := r.hrlost + 1 })
    else (Home.toVirt 0 (partWrite s (s.regs.hrbase.toNat + 64 * (s.regs.hrtail.toNat % 2 ^ n)) bs)).bind fun _ s =>
      .ok () (s.updReg fun r => { r with hrtail := r.hrtail + 1 })
  | .health x bs =>
    match s.ctx x with
    | none => .ok () s
    | some c => writeHealth s x c bs
/-- As many as can be made; one that must wait holds back the later ones to its structure only. -/
def flushPosts (s : State) : State :=
  let r := s.posts.foldl (fun (acc : State × List PartWrite) p =>
    if acc.2.any fun q => q.target == p.target then (acc.1, acc.2 ++ [p])
    else match partStep acc.1 p with
      | .ok _ s => (s, acc.2)
      | .wait s' => (keepWaits acc.1 s', acc.2 ++ [p])
      | .fault _ _ _ _ _ => (acc.1, acc.2 ++ [p])) ({ s with posts := [] }, [])
  { r.1 with posts := r.2 ++ r.1.posts }

/-- Everything but the waits. -/
def flush (s : State) : State :=
  let s := (s.cores.map Prod.fst).foldl payAcks s
  let s := { s with teams := s.teams.map fun (k, t) => (k, (unhold t).tidyMarks) }
  let s := (s.teams.map Prod.fst).foldl regroupCheck s
  if s.posts.isEmpty then s else flushPosts s

/-! ## Waits whose condition holds (R182, R281, R314, R365) -/

/-- R182: every thread that mK names waits at an mwait on mK. -/
def mwaitDone (t : Team) (g k : Nat) : Bool :=
  match t.groups[g]? with
  | none => false
  | some gr => t.threads.all fun th => !(th.grp == g && th.live && bit (gr.mask k) th.lane) || th.st == .waiting (.mwait k)
/-- R314: every live thread has arrived. -/
def barDone (t : Team) : Bool :=
  (List.range t.threads.length).all fun i =>
    match t.threads[i]? with
    | some th => !th.live || t.arrived.contains i
    | none => true
/-- The thread's wait ends. -/
def wakes (t : Team) (th : Thread) : Bool :=
  match th.st with
  | .waiting .bar => barDone t
  | .waiting (.mwait k) => mwaitDone t th.grp k
  | .waiting (.waitf k n) => match t.groups[th.grp]? with
    | some gr => gr.flag k ≤ n
    | none => false
  | _ => false
/-- A barrier or an mwait ends: progress (R387). -/
def wakesProgress (t : Team) (th : Thread) : Bool :=
  wakes t th && (match th.st with | .waiting (.waitf _ _) => false | _ => true)
/-- The waits of one team. -/
def settleTeam (t : Team) : Team :=
  { t with
    threads := t.threads.map fun th => if wakes t th then { th with st := .runnable } else th
    arrived := if (t.threads.any fun th => th.st == .waiting .bar) && barDone t then [] else t.arrived
    lookout := if t.threads.any (wakesProgress t) then 0 else t.lookout }
/-- The waits of every team. -/
def settle (s : State) : State := { s with teams := s.teams.map fun (k, t) => (k, settleTeam t) }

/-- The end of every step. -/
def finish (o : Out) : Out :=
  match o with
  | .next s => .next (settle (flush s))
  | .fault r => .fault r
  | .refused r => .refused r

end Sys2Proof.Machine
end

