-- ==== Sys2Proof/Machine/Loader.lean ====
section
/-! DEFINITION. One bundle that is about to issue one word: what the host's question needs (log 10). The word stands in the
bundle's copy of its clause, from which a step takes its next instruction (R211). -/

namespace Sys2Proof.Machine

/-- The header of a clause of one instruction of a word's class, with seven literal words, flag slots cf0 and cf1 (R212). -/
def probeHeader (w : DWord) : DWord :=
  let cls := (opClass (w.extractLsb' 56 8)).getD 0
  BitVec.ofNat 64 (0xC * 2 ^ 60 + cls * 2 ^ 57 + 7 * 2 ^ 50 + 1 * 2 ^ 30 + 16 * 2 ^ 21)
/-- The bundle. -/
def probeBundle (w : DWord) : Bundle :=
  { lanes := BitVec.allOnes 32, clause := 0x10000, prio := 16, index := 0, words := probeHeader w :: w :: List.replicate 7 0 }
/-- A team of one group of 32 threads on core 0, every thread in the bundle. -/
def probeTeam (w : DWord) : Team :=
  { ctx := 0, queue := 0, pidx := 0, index := 0, core := 0, packet := List.replicate 8 0, groups := [{ bundle := some (probeBundle w) }]
    threads := (List.range 32).map fun l => { st := .inBundle, fetch := false, lane := l, rp := { prio := 16, clause := 0x10000 } }
    vb := 40, gb := 8, spg := 0, block := 0, acc := true, rst := false, lko := 255, queues := [{}] }
/-- The context it runs in, where the state has none. -/
def probeCtx : Ctx := { vd := 0, loc := 0, key := 0, ccb := 0, privslots := 32 }
/-- The probe's team is the part's only one and nothing else is to be done first. -/
def placeProbe (s : State) (w : DWord) : State :=
  { s with agenda := [], turn := 0, stalled := [], issuer := none, teams := [(0, probeTeam w)], ctxs := if (s.ctx 0).isSome then s.ctxs else mapSet s.ctxs 0 probeCtx }

end Sys2Proof.Machine
end

