-- ==== Sys2Proof/Machine/Float.lean ====
section
/-! DEFINITION. Binary floating point (R234 to R237): formats, one rounding of an exact value, the arithmetic of R249 to R257, and
the special functions of R252 by integer arithmetic with far more bits than any format needs. -/

namespace Sys2Proof.Machine

/-- A binary format: exponent bits, fraction bits. -/
structure Fmt where
  ebits : Nat
  fbits : Nat
  deriving DecidableEq, Repr

def fmtF32 : Fmt := ⟨8, 23⟩
def fmtF16 : Fmt := ⟨5, 10⟩
def fmtBF16 : Fmt := ⟨8, 7⟩
/-- FN[1:0] of a float instruction (R229). -/
def fmtOf (n : Nat) : Fmt := if n = 0 then fmtF32 else if n = 1 then fmtF16 else fmtBF16
/-- The exponent of the least subnormal. -/
def Fmt.qmin (f : Fmt) : Int := 2 - (2 ^ (f.ebits - 1) : Nat) - f.fbits
def Fmt.inf (f : Fmt) : Nat := (2 ^ f.ebits - 1) * 2 ^ f.fbits
def Fmt.sign (f : Fmt) : Nat := 2 ^ (f.ebits + f.fbits)
/-- The canonical NaN (R234). -/
def Fmt.nan (f : Fmt) : Nat := f.inf + 2 ^ (f.fbits - 1)
/-- 1.0. -/
def Fmt.one (f : Fmt) : Nat := (2 ^ (f.ebits - 1) - 1) * 2 ^ f.fbits

/-- What an encoding stands for: a finite value is ±m × 2^e. -/
inductive FVal where
  | nan
  | inf (neg : Bool)
  | fin (neg : Bool) (m : Nat) (e : Int)
  deriving DecidableEq, Repr

/-- R234. -/
def Fmt.val (f : Fmt) (x : Nat) : FVal :=
  let neg := decide (x / f.sign % 2 = 1)
  let fr := x % 2 ^ f.fbits
  let ex := x / 2 ^ f.fbits % 2 ^ f.ebits
  if ex = 2 ^ f.ebits - 1 then (if fr = 0 then .inf neg else .nan)
  else if ex = 0 then .fin neg fr f.qmin
  else .fin neg (fr + 2 ^ f.fbits) (f.qmin + (ex - 1 : Nat))

/-- Bits of a number. -/
def bitLen (n : Nat) : Nat := if n = 0 then 0 else Nat.log2 n + 1
/-- Whether a magnitude n, with a remainder that compares with a half as given, moves up (R236): 0 .rne, 1 .rz, 2 .rup, 3 .rdn. -/
def roundsUp (mode : Nat) (neg odd : Bool) (rem : Bool) (half : Ordering) : Bool :=
  match mode with
  | 0 => half == .gt || (half == .eq && odd)
  | 1 => false
  | 2 => rem && !neg
  | _ => rem && neg

/-- A magnitude m × 2^e, or a little more where sticky says so, brought to whole units of 2^q by the mode. -/
def toUnits (mode : Nat) (neg : Bool) (m : Nat) (e q : Int) (sticky : Bool) : Nat :=
  if q ≤ e then m * 2 ^ (e - q).toNat
  else
    let k := min (q - e).toNat (bitLen m + 2)
    let n := m / 2 ^ k
    let r := m % 2 ^ k
    let h := 2 ^ (k - 1)
    let half : Ordering := if r < h then .lt else if r = h then (if sticky then .gt else .eq) else .gt
    if roundsUp mode neg (n % 2 == 1) (r != 0 || sticky) half then n + 1 else n

/-- One rounding of ±m × 2^e, or a little more, to a format (R236). -/
def Fmt.round (f : Fmt) (mode : Nat) (neg : Bool) (m : Nat) (e : Int) (sticky : Bool := false) : Nat :=
  let s := if neg then f.sign else 0
  if m = 0 && !sticky then s
  else
    let top : Int := e + bitLen m - 1
    let q := max (top - f.fbits) f.qmin
    let n := toUnits mode neg m e q sticky
    let bits := (q - f.qmin).toNat * 2 ^ f.fbits + n
    if bits < f.inf then s + bits
    else if mode = 0 || (mode = 2 && !neg) || (mode = 3 && neg) then s + f.inf else s + f.inf - 1

def Fmt.infOf (f : Fmt) (neg : Bool) : Nat := (if neg then f.sign else 0) + f.inf
def Fmt.zeroOf (f : Fmt) (neg : Bool) : Nat := if neg then f.sign else 0

/-- A + B, exact, then one rounding (R237, R249). -/
def addVal (f : Fmt) (mode : Nat) (a b : FVal) : Nat :=
  match a, b with
  | .nan, _ => f.nan
  | _, .nan => f.nan
  | .inf x, .inf y => if x = y then f.infOf x else f.nan
  | .inf x, .fin _ _ _ => f.infOf x
  | .fin _ _ _, .inf y => f.infOf y
  | .fin n1 m1 e1, .fin n2 m2 e2 =>
    if m1 = 0 && m2 = 0 then f.zeroOf (if n1 = n2 then n1 else mode == 3)
    else
      let e := if m1 = 0 then e2 else if m2 = 0 then e1 else min e1 e2
      let x : Int := (if m1 = 0 then 0 else m1 * 2 ^ (e1 - e).toNat : Nat)
      let y : Int := (if m2 = 0 then 0 else m2 * 2 ^ (e2 - e).toNat : Nat)
      let t := (if n1 then -x else x) + (if n2 then -y else y)
      if t = 0 then f.zeroOf (mode == 3) else f.round mode (decide (t < 0)) t.natAbs e
def FVal.neg : FVal → FVal
  | .nan => .nan
  | .inf s => .inf (!s)
  | .fin s m e => .fin (!s) m e
/-- The exact product. -/
def mulVal (a b : FVal) : FVal :=
  match a, b with
  | .nan, _ => .nan
  | _, .nan => .nan
  | .inf x, .inf y => .inf (x != y)
  | .inf x, .fin y m _ => if m = 0 then .nan else .inf (x != y)
  | .fin x m _, .inf y => if m = 0 then .nan else .inf (x != y)
  | .fin x m1 e1, .fin y m2 e2 => .fin (x != y) (m1 * m2) (e1 + e2)
/-- Rounds a value. -/
def packVal (f : Fmt) (mode : Nat) : FVal → Nat
  | .nan => f.nan
  | .inf s => f.infOf s
  | .fin s m e => f.round mode s m e

def fAdd (f : Fmt) (mode x y : Nat) : Nat := addVal f mode (f.val x) (f.val y)
def fSub (f : Fmt) (mode x y : Nat) : Nat := addVal f mode (f.val x) (f.val y).neg
def fMul (f : Fmt) (mode x y : Nat) : Nat := packVal f mode (mulVal (f.val x) (f.val y))
/-- A × B + C, rounded once. -/
def fFma (f : Fmt) (mode x y z : Nat) : Nat := addVal f mode (mulVal (f.val x) (f.val y)) (f.val z)
/-- A / B. -/
def divVal (f : Fmt) (mode : Nat) (a b : FVal) : Nat :=
  match a, b with
  | .nan, _ => f.nan
  | _, .nan => f.nan
  | .inf _, .inf _ => f.nan
  | .inf x, .fin y _ _ => f.infOf (x != y)
  | .fin x _ _, .inf y => f.zeroOf (x != y)
  | .fin x m1 e1, .fin y m2 e2 =>
    if m2 = 0 then (if m1 = 0 then f.nan else f.infOf (x != y))
    else if m1 = 0 then f.zeroOf (x != y)
    else
      let k := f.fbits + 4 + bitLen m2
      let n := m1 * 2 ^ k
      f.round mode (x != y) (n / m2) (e1 - e2 - k) (n % m2 != 0)
def fDiv (f : Fmt) (mode x y : Nat) : Nat := divVal f mode (f.val x) (f.val y)
def fRcp (f : Fmt) (mode x : Nat) : Nat := divVal f mode (.fin false 1 0) (f.val x)

/-- The integer square root, bit by bit from the top. -/
def isqrtGo (n : Nat) : Nat → Nat → Nat
  | 0, r => r
  | k + 1, r => let t := r + 2 ^ k
    isqrtGo n k (if t * t ≤ n then t else r)
def isqrt (n : Nat) : Nat := isqrtGo n (bitLen n / 2 + 1) 0
/-- √A. -/
def fSqrt (f : Fmt) (mode x : Nat) : Nat :=
  match f.val x with
  | .nan => f.nan
  | .inf n => if n then f.nan else f.inf
  | .fin n m e =>
    if m = 0 then f.zeroOf n else if n then f.nan
    else
      let k : Nat := 2 * f.fbits + 8 + (if e % 2 = 0 then 0 else 1)
      let a := m * 2 ^ k
      let r := isqrt a
      f.round mode false r ((e - k) / 2) (r * r != a)
/-- 1 / √A, to nearest. -/
def fRsq (f : Fmt) (x : Nat) : Nat :=
  match f.val x with
  | .nan => f.nan
  | .inf n => if n then f.nan else 0
  | .fin n m e =>
    if m = 0 then f.infOf n else if n then f.nan
    else
      let m := if e % 2 = 0 then m else 2 * m
      let e := if e % 2 = 0 then e else e - 1
      let k : Nat := 64
      let r := isqrt (2 ^ (2 * k) / m)
      f.round 0 false r (-(k : Int) - e / 2) (m * r * r != 2 ^ (2 * k))

/-- The order of two finite or infinite values: −0 below +0. -/
def fKey (f : Fmt) (x : Nat) : Int := if x / f.sign % 2 = 1 then -(x % f.sign : Nat) - 1 else (x % f.sign : Nat)
def isNan (f : Fmt) (x : Nat) : Bool := decide (f.inf < x % f.sign)
/-- R250. -/
def fMinMax (f : Fmt) (max : Bool) (x y : Nat) : Nat :=
  if isNan f x && isNan f y then f.nan
  else if isNan f x then y else if isNan f y then x
  else if decide (fKey f x ≤ fKey f y) != max then x else y
def fMin (f : Fmt) (x y : Nat) : Nat := fMinMax f false x y
def fMax (f : Fmt) (x y : Nat) : Nat := fMinMax f true x y
/-- The value's key with the two zeros equal. -/
def fOrd (f : Fmt) (x : Nat) : Int := if x % f.sign = 0 then 0 else if x / f.sign % 2 = 1 then -(x % f.sign : Nat) else (x % f.sign : Nat)
/-- R251. -/
def fCmp (f : Fmt) (cnd x y : Nat) : Bool :=
  let u := isNan f x || isNan f y
  let a := fOrd f x
  let b := fOrd f y
  match cnd with
  | 0 => !u && a == b
  | 1 => u || a != b
  | 2 => !u && decide (a < b)
  | 3 => !u && decide (a ≤ b)
  | 4 => !u && decide (b < a)
  | 5 => !u && decide (b ≤ a)
  | 6 => !u
  | _ => u
/-- R253. -/
def fClass (f : Fmt) (x : Nat) : Nat :=
  let neg := decide (x / f.sign % 2 = 1)
  let m := x % f.sign
  let k := if f.inf < m then (if m < f.nan then 8 else 9)
    else if m = f.inf then (if neg then 0 else 7)
    else if m = 0 then (if neg then 3 else 4)
    else if m < 2 ^ f.fbits then (if neg then 2 else 5)
    else if neg then 1 else 6
  2 ^ k
/-- A finite value as an integer by the mode. -/
def toInt (mode : Nat) (neg : Bool) (m : Nat) (e : Int) : Int :=
  let n := toUnits mode neg m e 0 false
  if neg then -(n : Int) else n
/-- R253. -/
def fRnd (f : Fmt) (mode x : Nat) : Nat :=
  match f.val x with
  | .nan => f.nan
  | .inf n => f.infOf n
  | .fin n m e => if 0 ≤ e then x % (2 * f.sign) else f.round mode n (toUnits mode n m e 0 false) 0
/-- R255. -/
def fCvt (src dst : Fmt) (mode x : Nat) : Nat := packVal dst mode (src.val x)
/-- R256: the rounded integer, clamped; lo and hi are the destination's range. -/
def fCvtI (f : Fmt) (mode : Nat) (lo hi : Int) (x : Nat) : Int :=
  match f.val x with
  | .nan => 0
  | .inf n => if n then lo else hi
  | .fin n m e => max lo (min hi (toInt mode n m e))
/-- R257. -/
def iCvtF (f : Fmt) (mode : Nat) (x : Int) : Nat := f.round mode (decide (x < 0)) x.natAbs 0
/-- R241: SAT on a float result. -/
def fSat (f : Fmt) (x : Nat) : Nat :=
  if isNan f x then 0 else if x / f.sign % 2 = 1 then 0 else if f.one < x then f.one else x

/-! ## The special functions (R252): fixed point with 384 fraction bits -/

/-- ln 2 × 2^384. -/
def ln2Fix : Nat := 0xb17217f7d1cf79abc9e3b39803f2f6af40f343267298b62d8a0d175b8baafa2be7b876206debac98559552fb4afa1b10
/-- π/2 × 2^768. -/
def halfPiFix : Nat := 0x1921fb54442d18469898cc51701b839a252049c1114cf98e804177d4c76273644a29410f31c6809bbdf2a33679a748636605614dbe4be286e9fc26adadaa3848bc90b6aecc4bcfd8de89885d34c6fdad617feb96de80d6fdbdc70d7f6b5133f4b
/-- Σ y^k / k! from a term on. -/
def expSeries (y : Nat) : Nat → Nat → Nat → Nat → Nat
  | 0, _, _, acc => acc
  | fuel + 1, k, t, acc => let t := t * y / (k * 2 ^ 384)
    expSeries y fuel (k + 1) t (acc + t)
/-- 2^x for x below 1. -/
def exp2Fix (x : Nat) : Nat := expSeries (x * ln2Fix / 2 ^ 384) 96 1 (2 ^ 384) (2 ^ 384)
/-- z + z³/3 + z⁵/5 + …; z2 is z². -/
def atanhSeries (z2 : Nat) : Nat → Nat → Nat → Nat → Nat
  | 0, _, _, acc => acc
  | fuel + 1, k, t, acc => let t := t * z2 / 2 ^ 384
    atanhSeries z2 fuel (k + 2) t (acc + t / k)
/-- ln of a number from 1 up to 2. -/
def lnFix (m : Nat) : Nat :=
  let z := (m - 2 ^ 384) * 2 ^ 384 / (m + 2 ^ 384)
  2 * atanhSeries (z * z / 2 ^ 384) 130 3 z z
/-- The alternating series of sine (k from 1) and cosine (k from 0): term, then term × x² / ((k+1)(k+2)) taken off. -/
def trigSeries (x2 : Nat) : Nat → Nat → Int → Int → Int
  | 0, _, _, acc => acc
  | fuel + 1, k, t, acc => let t := -(t * x2 / ((k + 1) * (k + 2) * 2 ^ 384 : Nat))
    trigSeries x2 fuel (k + 2) t (acc + t)
def sinFix (x : Nat) : Nat := (trigSeries (x * x / 2 ^ 384) 48 1 x x).toNat
def cosFix (x : Nat) : Nat := (trigSeries (x * x / 2 ^ 384) 48 0 (2 ^ 384 : Nat) (2 ^ 384 : Nat)).toNat
/-- A magnitude as fixed point with w fraction bits, whole. -/
def fixOf (w m : Nat) (e : Int) : Nat := if 0 ≤ e + w then m * 2 ^ (e + w).toNat else m / 2 ^ (-(e + w)).toNat

/-- 2^A, to nearest. -/
def fEx2 (f : Fmt) (x : Nat) : Nat :=
  match f.val x with
  | .nan => f.nan
  | .inf n => if n then 0 else f.inf
  | .fin n m e =>
    if m = 0 then f.one
    else if 1024 * 2 ^ 384 ≤ fixOf 384 m (min e 1024) then (if n then 0 else f.inf)
    else
      let v : Int := if n then -(fixOf 384 m e : Int) else fixOf 384 m e
      let i := v / (2 ^ 384 : Nat)
      let r := (v % (2 ^ 384 : Nat)).toNat
      if r = 0 then f.round 0 false 1 i else f.round 0 false (exp2Fix r) (i - 384) true
/-- log2 A, to nearest. -/
def fLg2 (f : Fmt) (x : Nat) : Nat :=
  match f.val x with
  | .nan => f.nan
  | .inf n => if n then f.nan else f.inf
  | .fin n m e =>
    if m = 0 then f.infOf true else if n then f.nan
    else
      let k := bitLen m - 1
      let i : Int := e + k
      let z := m * 2 ^ (384 - k)
      if z = 2 ^ 384 then (if i = 0 then 0 else f.round 0 (decide (i < 0)) i.natAbs 0)
      else
        let v : Int := i * (2 ^ 384 : Nat) + (lnFix z * 2 ^ 384 / ln2Fix : Nat)
        f.round 0 (decide (v < 0)) v.natAbs (-384) true
/-- The quadrant and what is left of the argument, 384 fraction bits. -/
def reduce (m : Nat) (e : Int) : Nat × Nat :=
  let v := fixOf 768 m e
  (v / halfPiFix % 4, v % halfPiFix / 2 ^ 384)
def fSin (f : Fmt) (x : Nat) : Nat :=
  match f.val x with
  | .nan => f.nan
  | .inf _ => f.nan
  | .fin n m e =>
    if m = 0 then f.zeroOf n
    else
      let (q, r) := reduce m e
      f.round 0 (n != decide (2 ≤ q)) (if q % 2 = 0 then sinFix r else cosFix r) (-384) true
def fCos (f : Fmt) (x : Nat) : Nat :=
  match f.val x with
  | .nan => f.nan
  | .inf _ => f.nan
  | .fin _ m e =>
    if m = 0 then f.one
    else
      let (q, r) := reduce m e
      f.round 0 (q == 1 || q == 2) (if q % 2 = 0 then cosFix r else sinFix r) (-384) true
def fTanh (f : Fmt) (x : Nat) : Nat :=
  match f.val x with
  | .nan => f.nan
  | .inf n => (if n then f.sign else 0) + f.one
  | .fin n m e =>
    if m = 0 then f.zeroOf n
    else if 32 * 2 ^ 384 ≤ fixOf 384 m (min e 1024) then (if n then f.sign else 0) + f.one
    else
      let t := 2 * fixOf 384 m e * 2 ^ 384 / ln2Fix
      let g := exp2Fix (t % 2 ^ 384) * 2 ^ (t / 2 ^ 384)
      f.round 0 n ((g - 2 ^ 384) * 2 ^ 384 / (g + 2 ^ 384)) (-384) true

end Sys2Proof.Machine
end

