-- ==== Sys2Proof/Machine/Pages.lean ====
section
/-! DEFINITION. What becomes of a whole page: lease kills (R134), the closes and discards of R63 steps 2 to 4, the surrender of R63 and
R64, and what a migration of the page holds of the capacity tier (R88 to R90). -/

namespace Sys2Proof.Machine

/-! ## The tier's part of a page (R85, R88 to R90, R419) -/

/-- CHCMD as a command leaves it (R419). -/
def setChcmd (s : State) (op p status : Nat) : State := s.updReg fun r => { r with chcmd := BitVec.ofNat 64 (op * 2 ^ 62 + p % 2 ^ 32 * 2 ^ 16 + status) }
/-- The driver's command on the page, if one is under way, ends with a status. -/
def endChcmd (s : State) (op p status : Nat) : State := if s.regs.chcmd = BitVec.ofNat 64 (op * 2 ^ 62 + p % 2 ^ 32 * 2 ^ 16 + 1) then setChcmd s op p status else s
/-- The page is in the capacity tier. -/
def inTier (s : State) (p : Nat) : Bool := (mapGet? s.tier p).isSome
/-- The page's tier blocks are free again. -/
def freeTier (s : State) (p : Nat) : State := { s.updPage p fun g => { g with tierBlock := 0, tierLen := 0 } with tier := mapErase s.tier p }
/-- A demotion of the page is abandoned: its blocks are freed, and the page stays in HBM4 (R90 step 8). -/
def abandonMigration (s : State) (p : Nat) : State :=
  if s.migrations.any fun m => m.page == p && !m.up then
    endChcmd (freeTier { s with migrations := s.migrations.filter fun m => !(m.page == p && !m.up) } p) 1 p 3
  else s

/-! ## Lease kills (R134) -/

/-- A kill is omitted only where every line of the page is in L2 with LV = 0. -/
def killNeeded (s : State) (p : Nat) : Bool :=
  (List.range 512).any fun i => let l := s.line (p * 512 + i); !l.present || l.lv
/-- A lease kill goes to every enabled core, on the channel of the home of the page's first billet (which home sends it is not stated:
DESIGN CHOICE, log 75). -/
def sendKills (s : State) (p : Nat) : State :=
  let cs := s.enabledCores
  let s := cs.foldl (fun s c => sendDown s c (p * 65536) (.kill p)) s
  { s with kills := mapSet s.kills p cs }
/-- A lease of the page is on its way to a core, or being served: the kill would pass it by, since it travels on another channel. -/
def leaseComing (s : State) (p : Nat) : Bool :=
  (s.lines.any fun (l, x) => pageOfLine l == p && x.started && x.queue.any fun r => r.kind.isSis) ||
  s.cores.any fun (_, c) => c.down.any fun (_, q) => q.any fun m => match m with
    | .fill _ _ _ l _ _ (some _) => pageOfLine l == p
    | _ => false
/-- A kill of the page's leases is under way or done, and no lease of the page is granted meanwhile. -/
def killing (s : State) (p : Nat) : Bool := (mapGet? s.kills p).isSome

/-! ## Ending a page's contents (R30, R63 steps 2 to 4, R418) -/

/-- Whether the page's copies can be ended now. -/
inductive PageEnd where
  | ready (s : State)
  /-- what has been set going, as far as it goes -/
  | waits (s : State)
/-- A demotion is abandoned, a promotion waited for, peers give their grants back (R144), the open billets are closed by close messages
(R50), leases are killed (R134; behind the last lease on its way), and nothing of the page's lines is in flight. -/
def pageEnds (s : State) (p : Nat) : PageEnd :=
  let s := abandonMigration s p
  if promoting s p then .waits s
  else if !grantHeld s (p * 65536) true then .waits (askGrant s (p * 65536) true)
  else
    match discardCloses s p with
    | some s => .waits s
    | none =>
      if killNeeded s p && !killing s p then .waits (if leaseComing s p then s else sendKills s p)
      else if (match mapGet? s.kills p with | some cs => cs.isEmpty | none => true) && s.lines.all (fun (l, _) => pageOfLine l != p || s.calm l) then
        .ready { s with kills := mapErase s.kills p }
      else .waits s
/-- Cached copies and owned words of the page go, unwritten; requests that wait at its homes stay. -/
def discardPage (s : State) (p : Nat) : State :=
  ((s.lines.filter fun (l, _) => pageOfLine l == p).map Prod.fst).foldl (fun s l =>
    let s := s.dropCopies l
    let o := (s.line l).owner
    let s := if (s.line l).wmask = 0 then s else s.updCore o fun c => c.setL1 l ((c.l1Line l).recalled (BitVec.allOnes 32) true)
    s.updLine l fun x => { queue := x.queue }) s
/-- The page's bytes read zero. -/
def zeroPage (s : State) (p : Nat) : State := { s with mem := s.mem.filter fun (a, _) => pageOf a != p }
/-- The runs of a page's billets return to their frames, its entries of the memory-side cache go unwritten (R80), its tier blocks are
freed. -/
def freePageRuns (s : State) (p : Nat) : State :=
  let bs := s.billets.filter fun (b, _) => pageOfBillet b == p
  freeTier (bs.foldl (fun s (b, x) => mscDrop (if x.loc = 0 && x.count > 0 then freeRun s x.stack x.sect.toNat x.nsec else withdraw s b) b) s) p
/-- The debits of the page's open billets are credited, every billet is class Z again and the bytes are zero: the sectors they held. -/
def emptyPage (s : State) (p : Nat) : Nat × State :=
  let s := discardPage s p
  let bs := s.billets.filter fun (b, _) => pageOfBillet b == p
  let s := bs.foldl (fun s (_, d) => if d.opened then s.credit d.rctx (8 - d.count) p else s) s
  let n := bs.foldl (fun a (_, d) => a + d.held) 0
  let s := zeroPage (freePageRuns s p) p
  (n, { s with billets := s.billets.filter fun (b, _) => pageOfBillet b != p }.updPage p fun g => { g with shortReported := false })
/-- Every run of a fixed-size page holds zeros. -/
def zeroRuns (s : State) (p : Nat) : State :=
  (List.range 256).foldl (fun s i =>
    let d := s.billet (p * 256 + i)
    (mscDrop s (p * 256 + i)).hbmWrite d.stack d.sect.toNat (s.sealRun (p * 256 + i) (List.replicate 256 0))) s
/-- A fixed-size page keeps its runs; its billets are RAW at 8 sectors and zero (R30, R63). -/
def clearFixed (s : State) (p : Nat) : State :=
  let s := zeroPage (discardPage s p) p
  zeroRuns { s with billets := s.billets.map fun (b, d) => (b, if pageOfBillet b == p then { d with cls := 5, nsec := 8, opened := false, discard := false, byGrant := false, poison := false, closing := false, written := 0, holders := .ptrs [], closePend := [] } else d) } p

/-! ## Surrender (R62 to R64) -/

/-- What a surrendered page gives to the driver's request: what is left for the context, the mailbox after, whether it is met. -/
def answerRequest (m : DWord) (sectors : Nat) : Nat × DWord × Bool :=
  let left := fld m 35 0
  if !bit m 47 then (sectors, m, false)
  else
    let (rest, left') := if bit m 46 then (0, left - 1) else (sectors - min sectors left, left - min sectors left)
    let m' := BitVec.ofNat 64 (m.toNat - left + left')
    if left' = 0 then (rest, setBit m' 47 false, true) else (rest, m', false)
/-- A mailbox word without its reserved bits (R62). -/
def mailbox (m : DWord) : DWord := m &&& ~~~(BitVec.ofNat 64 (1023 * 2 ^ 36))
/-- The mailbox in csr.balloon and in the CCB (R62). -/
def setMailbox (s : State) (x : Nat) (m : DWord) : State :=
  match s.ctx x with
  | none => s
  | some c => (s.updCtx x fun c => { c with balloon := mailbox m }).post (.bytes x c.ccb (leBytes 8 (mailbox m).toNat))
/-- The driver is notified with SEQ, in bytes 0x08-0x09 (kind 4, R416). -/
def notifyThinned (s : State) (x : Nat) (m : DWord) : State := s.postCtx x (healthRecord 4 0 0 0 0 (fld m 63 48) 0 0 0 0 0 s.ns)
/-- csr.reserve as rsvq and csrr read it (R58). -/
def reserveOf (s : State) (ctx : Nat) : Nat := ((s.ctx ctx).map Ctx.reserve).getD 0
/-- R63 step 5: surrender of one page for a context. -/
def surrender (s : State) (p x : Nat) : State :=
  if ((s.page p).map Page.fixed).getD false then clearFixed s p
  else
    let (sectors, s) := emptyPage s p
    match s.ctx x with
    | none => s.poolGive (s.vdOfPage p) sectors
    | some c =>
      let (rest, m, done) := answerRequest c.balloon sectors
      let s := if bit c.balloon 47 then setMailbox s x m else s
      let s := if done then notifyThinned s x m else s
      let credit := min rest (c.rsvcap.toNat % 2 ^ 36 - reserveOf s x)
      (s.updCtx x fun c => { c with reserve := c.reserve + credit }).poolGive (s.vdOfPage p) (sectors - credit)

end Sys2Proof.Machine
end

