-- ==== Sys2Proof/Machine/Stream.lean ====
section
/-! DEFINITION. The streams of the copy channels: the tensor shape record (R325, R326), the sides of a command (R321, R324), and what a command
has still to write to memory, which the issuing thread's younger accesses follow (R153). -/

namespace Sys2Proof.Machine

/-! ## The shape record (R325, R326) -/

structure Shape where
  base : Nat
  fill : Nat
  esz : Nat
  ext : List Nat
  box : List Nat
  org : List Int
  pitch1 : Nat
  pitch2 : Nat
  reserved : Bool
  deriving DecidableEq, Repr

def shapeOf (ws : List DWord) : Shape :=
  let w := fun i => ws.getD i 0
  { base := (w 0).toNat, fill := fld (w 1) 63 32, esz := fld (w 1) 1 0
    ext := [fld (w 2) 31 0, fld (w 2) 63 32, fld (w 3) 31 0], box := [fld (w 3) 47 32, fld (w 3) 63 48, fld (w 7) 47 32]
    org := [sext 32 (fld (w 6) 31 0), sext 32 (fld (w 6) 63 32), sext 32 (fld (w 7) 31 0)]
    pitch1 := (w 4).toNat, pitch2 := (w 5).toNat, reserved := fld (w 1) 31 2 != 0 || fld (w 7) 63 48 != 0 }
/-- Bytes of an element. -/
def Shape.e (h : Shape) : Nat := 2 ^ h.esz
/-- Bytes of the stream. -/
def Shape.len (h : Shape) : Nat := h.box.foldl (· * ·) h.e
def Shape.wellFormed (h : Shape) : Bool :=
  !h.reserved && h.esz != 3 && h.ext.all (1 ≤ ·) && h.box.all (1 ≤ ·) && h.base % h.e == 0 && h.pitch1 % h.e == 0 && h.pitch2 % h.e == 0 &&
  h.ext.getD 0 0 * h.e ≤ h.pitch1 && h.ext.getD 1 0 * h.pitch1 ≤ h.pitch2 && h.len % 4 == 0 && h.len ≤ 2 ^ 24
/-- R326: the address of stream byte k; none where its element is clipped. -/
def Shape.addr (h : Shape) (k : Nat) : Option Nat :=
  let b := fun i => h.box.getD i 1
  let el := k / h.e
  let x := fun i (v : Nat) => h.org.getD i 0 + (v : Int)
  let xs := [x 0 (el % b 0), x 1 (el / b 0 % b 1), x 2 (el / (b 0 * b 1))]
  if (List.range 3).all fun i => decide (0 ≤ xs.getD i 0) && decide (xs.getD i 0 < (h.ext.getD i 0 : Int)) then
    some ((h.base + (xs.getD 0 0).toNat * h.e + (xs.getD 1 0).toNat * h.pitch1 + (xs.getD 2 0).toNat * h.pitch2 + k % h.e) % 2 ^ 64)
  else none

/-! ## Sides (R321, R324) -/

inductive Side where
  | mem (a : Nat)
  | shaped (h : Shape)
  | pad (a : Nat)
  /-- a fill value, repeated every n bytes -/
  | fill (v n : Nat)
  | stream
  deriving DecidableEq, Repr

def CopyCmd.shapedBit (c : CopyCmd) : Bool := c.fn / 2 % 2 == 1
def CopyCmd.dstSide (c : CopyCmd) : Side :=
  if c.op = 4 then .shaped (shapeOf c.shape)
  else if c.op = 2 then (if c.fn / 4 % 2 = 1 then .pad c.dst else if c.shapedBit then .shaped (shapeOf c.shape) else .mem c.dst)
  else if c.fn / 4 % 4 % 2 = 1 then .pad c.dst
  else if c.shapedBit then .shaped (shapeOf c.shape) else .mem c.dst
def CopyCmd.srcSide (c : CopyCmd) : Side :=
  if c.op = 4 then .stream
  else if c.op = 2 then .fill c.src (if c.shapedBit then (shapeOf c.shape).e else 4)
  else if c.fn / 4 % 4 / 2 = 1 then .pad c.src
  else if c.shapedBit then .shaped (shapeOf c.shape) else .mem c.src
/-- Memory address of a stream byte. -/
def Side.addr : Side → Nat → Option Nat
  | .mem a, k => some ((a + k) % 2 ^ 64)
  | .shaped h, k => h.addr k
  | _, _ => none

/-! ## What is still to be written (R153, R162, R164) -/

/-- One row of a shaped stream from byte k of the stream on: the address and length of what is not clipped. -/
def Shape.rowRun (h : Shape) (k r : Nat) : Nat × Nat :=
  let b := fun i => h.box.getD i 1
  let lo := max (-(h.org.getD 0 0)).toNat ((k - r * (b 0 * h.e)) / h.e)
  let hi := min (b 0) ((h.ext.getD 0 0 : Int) - h.org.getD 0 0).toNat
  match (if lo < hi then h.addr ((r * b 0 + lo) * h.e) else none) with
  | some a => (a, (hi - lo) * h.e)
  | none => (0, 0)
/-- The memory that a command is still to write, as virtual addresses and lengths; none where its shape record is still to be read. -/
def CopyCmd.toWrite (c : CopyCmd) : Option (List (Nat × Nat)) :=
  if c.op = 1 then some [] else
  match c.dstSide with
  | .mem a => some [((a + c.done) % 2 ^ 64, c.len - c.done)]
  | .shaped h => if !c.started then none else some ((List.range (h.box.getD 1 1 * h.box.getD 2 1)).map (h.rowRun c.done))
  | _ => some []
/-- A run cut at the boundaries of 64 KiB pages. -/
def cutPages (a n : Nat) : Nat → List (Nat × Nat)
  | 0 => []
  | fuel + 1 => if n = 0 then [] else let k := min n (65536 - a % 65536); (a, k) :: cutPages ((a + k) % 2 ^ 64) (n - k) fuel
/-- A run within a 64 KiB page reaches bytes of a target: as the page tables at the homes translate it; where they do not, any bytes at the same
places of a page. -/
def runReaches (s : State) (c : Ctx) (pslot va k tgt ea n : Nat) : Bool :=
  match (relocate c pslot va k).bind fun g => (homeLeaf s c g).map fun x => (g, x) with
  | some (g, x) => let (t, a) := pteTarget x.pte x.lvl g; overlaps t a k tgt ea n
  | none => (ea + 65536 - va % 65536) % 65536 < k || (va + 65536 - ea % 65536) % 65536 < n
/-- A command has still to write some of a target's bytes. -/
def CopyCmd.reaches (s : State) (c : CopyCmd) (tgt ea n : Nat) : Bool :=
  match s.ctx c.ctx, s.thread c.team c.tid with
  | some x, some th => match c.toWrite with
    | none => true
    | some rs => rs.any fun (a, k) => (cutPages a k (k / 65536 + 2)).any fun (a, k) => runReaches s x th.pslot a k tgt ea n
  | _, _ => false
/-- A drain to memory that the matrix engine has still to take. -/
def MatCmd.toMemory (m : MatCmd) : Bool := match m.insn with | .xdrain f => f.fn.toNat % 4 == 2 | _ => false
/-- An engine write of a thread that has not been made and that an access of the thread overlaps: the access follows it (R153; that it waits at
its issue, also behind a command whose addresses are not known yet, is DEDUCED, log 103). -/
def engineAhead (s : State) (core tk tid tgt ea n : Nat) : Bool :=
  let c := s.core core
  c.matq.any (fun m => m.team == tk && m.toMemory && m.owners.head?.map Prod.snd == some tid) ||
  c.copyq.any fun (_, q) => q.any fun x => x.team == tk && x.tid == tid && !x.suspended && x.reaches s tgt ea n
/-- The same for a write of a command of the thread, behind its older commands; a drain's stream is followed by streams alone, since a copy
that writes memory is not issued while a drain of its thread is open. -/
def commandAhead (s : State) (core : Nat) (c : CopyCmd) (tgt ea n : Nat) : Bool :=
  (s.core core).copyq.any fun (_, q) => q.any fun x =>
    x.team == c.team && x.tid == c.tid && x.id < c.id && (x.op != 4 || c.op == 4) && !x.suspended && x.reaches s tgt ea n

end Sys2Proof.Machine
end

