-- ==== Sys2Proof/Machine/Memory.lean ====
section
/-! DEFINITION. Loads, stores, atomics, fences, hints and capacity instructions at issue (R287 to R308): the lanes are checked,
translated and enter the issue window; what becomes of them is in Machine/Window.lean and Machine/Coherence.lean. -/

namespace Sys2Proof.Machine

/-! ## Checking the lanes (R23, R287) -/

/-- A lane with its target. -/
structure Target where
  lane : Nat
  tid : Nat
  va : Nat
  tgt : Nat
  ea : Nat
  pte : DWord
  lines : List Nat
  deriving DecidableEq, Repr

/-- What checking the lanes answers. -/
inductive Checked where
  | ok (ts : List Target)
  | wait (s : State)
  | fault (f : FaultInfo) (s : State)

/-- One lane's answer. A lane that is misaligned counts with MISALIGN, as alignment is checked before translation; that it is not translated as
well, for a lower code, is the model's choice (R287; DESIGN CHOICE, log 94). -/
def checkLane (s : State) (e : Env) (tid va n kind : Nat) (aligned : Bool) : Xlate :=
  if aligned && va % n != 0 then .fault .misalign [va] 0
  else xlateWalk s e.core e.team.ctx (e.thread tid).pslot va n kind e.b.handler

/-- A write of the core to one of the lines is on its way: what is translated through the line waits for it at its issue, so that nothing
translated so performs after the write (R20). -/
def writesComing (s : State) (core : Nat) (lines : List Nat) : Bool :=
  ((s.core core).sb.any fun x => x.n != 0 && x.tgt != 1 && lines.contains (lineOf x.ea)) ||
  s.teams.any fun (_, t) => t.core == core && t.iw.any fun i => !i.scratch && i.lanes.any fun l =>
    l.kind != .load && l.stage == .ready && l.n != 0 && l.tgt != 1 && lines.contains (lineOf l.ea)
/-- The order of causes among the lanes of one instruction: the lowest code, XPOISON among the faults of translation (R23, R24, R287, the first
row of R403; that its row on uncorrectable errors does not bring XPOISON forward is DEDUCED, log 101). -/
def Cause.rank (c : Cause) : Nat := c.number
/-- All lanes are checked before any performs; the lowest cause decides, its first lane gives the addresses (R23, R287, R403). A walk that
was refused refuses the instruction as a whole (R18). -/
def checkLanes (s : State) (e : Env) (ls : List (Nat × Nat × Nat)) (n kind : Nat) (aligned : Bool) : Checked :=
  let rs := ls.map fun (l, tid, va) => (l, tid, va, checkLane s e tid va n kind aligned)
  if rs.any fun (_, _, _, r) => r == .miss then
    .wait (stallAt (rs.foldl (fun s (_, tid, va, r) => if r == .miss then startWalk s e.core e.team.ctx (e.thread tid).pslot va n kind e.b.handler else s) s) e)
  else
    let s' := dropEnded s e.core e.team.ctx
    let faults := rs.filterMap fun (_, _, _, r) => match r with | .fault c a u => some (c, a, u) | _ => none
    match faults with
    | x :: xs =>
      let (c, a, u) := xs.foldl (fun (m : Cause × List Nat × Nat) y => if y.1.rank < m.1.rank then y else m) x
      .fault { insnFault e c with addrs := a, aux := u } s'
    | [] =>
      match firstSome (fun (x : Nat × Nat × Nat × Xlate) => match x.2.2.2 with | .refused c b r => some (c, b, r) | _ => none) rs with
      | some (c, b, r) => .fault { insnFault e c with addrs := [b * 256], reserve := r, refused := maskOf (ls.map Prod.fst) } s'
      | none =>
        let ts := rs.filterMap fun (l, tid, va, r) => match r with
          | .ok tgt ea pte lines => some ({ lane := l, tid := tid, va := va, tgt := tgt, ea := ea, pte := pte, lines := lines } : Target)
          | _ => none
        if writesComing s e.core (ts.flatMap Target.lines) then .wait (stallAt s e) else .ok ts

/-- An older engine write of its thread stands before a lane that reads or writes n bytes (R153). -/
def engineHolds (s : State) (e : Env) (n : Nat) (ts : List Target) : Bool := ts.any fun t => engineAhead s e.core e.tk t.tid t.tgt t.ea n
/-- The whole billets of targets, as binfo and wback reach them (R304, R305). -/
def wholeBillets (ts : List Target) : List Target := ts.map fun t => { t with ea := t.ea / 256 * 256 }
/-- The threads of bundle ∧ sel. -/
def lanesIn (ls : List (Nat × Nat × Nat)) : List (Nat × Nat) := ls.map fun (l, tid, _) => (l, tid)
/-- The lease length a context asks for (R130). -/
def leaseLen (s : State) (ctx : Nat) : Nat := ((s.ctx ctx).map fun c => c.lease.toNat % 8192).getD 256
/-- R117, R118, R130: the policy an access takes. -/
def effectivePol (s : State) (ctx pol tgt : Nat) (pte : DWord) : Nat :=
  if tgt = 1 || pteUc pte then 1
  else if pol = 2 && leaseLen s ctx = 0 then 1 else pol

/-! ## Issue -/

/-- The chunk of an access of at most 16 naturally aligned bytes. -/
def chunkHeld (c : Core) (x : L1Line) (pol ea : Nat) : Bool :=
  match (x.chunks[ea % 128 / 16]?).getD .empty with
  | .tracked => true
  | .leased e => pol == 2 && leaseLive e c.lclk
  | .empty => false
/-- L1 holds the bytes of a load under its policy, or all words of an OWN store (R123, R152). -/
def LaneOp.l1Hit (l : LaneOp) (c : Core) : Bool :=
  let x := c.l1Line (lineOf l.ea)
  let w := wordsMask (l.ea % 128) l.n
  l.pol != 1 && l.tgt != 1 && (x.owned &&& w == w || (l.kind == .load && chunkHeld c x l.pol l.ea))
/-- Memory instructions whose lanes may be served by L1; the constant path and descriptor reads are none (R160, R305). -/
def usesL1 : Instr → Bool
  | .ld _ | .ldp _ | .st _ | .stp _ | .atom _ | .red _ => true
  | _ => false
/-- What a team has issued since names went up to n has a lane that missed in L1 (R378). -/
def missedSince (s : State) (core tk n : Nat) : Bool :=
  match s.team tk with
  | none => false
  | some t => t.iw.any fun i => n ≤ i.id && usesL1 i.insn && i.lanes.any fun l => !l.l1Hit (s.core core)
/-- The two groups of an issue slot that issued a memory instruction most recently. -/
def lastTwo (s : State) (core slot : Nat) : List Nat :=
  let recent := (s.teams.filter fun (_, t) => t.core == core).flatMap fun (tk, t) =>
    (List.range t.groups.length).filterMap fun g => (t.groups[g]?).bind fun gr =>
      if gr.slot % 4 == slot && gr.lastMem != 0 then some (tk * 64 + g, gr.lastMem) else none
  ((sortBy (fun (a b : Nat × Nat) => b.2 < a.2) recent).take 2).map Prod.fst
/-- R378: a memory-class issue is counted with whether a lane missed L1; the throttle follows the last 256. -/
def countMemory (s : State) (core tk g : Nat) (miss : Bool) : State :=
  let s := s.updGroup tk g fun gr => { gr with lastMem := (s.core core).issueClock }
  match s.group tk g with
  | none => s
  | some gr =>
    let k := s.core core
    let slot := gr.slot % 4
    let w := (miss :: (mapGet? k.missWindow slot).getD []).take 256
    let n := (w.filter id).length
    let s := s.updCore core fun k => { k with missWindow := mapSet k.missWindow slot w }
    match mapGet? k.holders slot with
    | some _ => if n ≤ 64 then s.updCore core fun k => { k with holders := mapErase k.holders slot, heldSince := mapErase k.heldSince slot } else s
    | none =>
      if n ≤ 192 then s
      else
        let hs := lastTwo s core slot
        s.updCore core fun k => { k with holders := mapSet k.holders slot hs, heldSince := mapSet k.heldSince slot (hs.map fun _ => k.cycles) }
/-- Where a group's bundle stands. -/
def bundlePlace (s : State) (tk g : Nat) : Option (Nat × Nat × LaneMask) :=
  ((s.group tk g).bind Group.bundle).map fun b => (b.clause, b.index, b.lanes)
/-- The bundle has issued an instruction, where it has moved: the issue is stamped (R377), and counted if it is of the memory class
(R378). -/
def countIssue (old : State) (i : Instr) (s : State) : State :=
  match s.issuer with
  | none => s
  | some is =>
    if bundlePlace old is.team is.grp == bundlePlace s is.team is.grp then s
    else
      let s := s.updGroup is.team is.grp fun g => { g with lastIssue := (s.core is.core).issueClock }
      if i.opcode.bind opClass == some 2 then countMemory s is.core is.team is.grp (missedSince s is.core is.team old.nextId) else s

/-- The issue enters the window and counts in its flag (R150, R290). -/
def enterWindow (s : State) (e : Env) (i : Instr) (lanes : List LaneOp) (acq : Option Nat) (scratch engine : Bool) : State :=
  let (id, s) := s.fresh
  let fl : Inflight := { id := id, grp := e.g, insn := i, word := e.word, clause := e.b.clause, index := e.b.index, prio := e.b.prio, bundle := e.b.lanes, lanes := lanes, flag := e.flag i, acq := acq, scratch := scratch, engine := engine, tids := e.lanes.map Prod.snd, replays := e.lanes.filterMap fun (_, tid) => ((e.thread tid).replay).map fun r => (tid, r) }
  let s := s.updTeam e.tk fun t => { t with iw := t.iw ++ [fl] }
  s.updGroup e.tk e.g fun g => g.incFlag (e.flag i)
/-- A memory-class issue: it enters the window, and the bundle moves on. -/
def memIssue (s : State) (e : Env) (i : Instr) (lanes : List LaneOp) (acq : Option Nat) : Out :=
  .next (advance (enterWindow s e i lanes acq false false) e)

/-- The addresses of a format-M instruction (R287). -/
def mAddrs (e : Env) (f : MF) : List (Nat × Nat × Nat) :=
  (e.sel f.pm f.pn).map fun (l, tid) => (l, tid, addrPlus (src64 e tid f.base).toNat f.imm.toInt)
/-- The packed addresses of ldp and stp (R295); a replayed lane keeps the rank of its first issue. -/
def packedAddrs (e : Env) (f : MF) (w : Nat) : List (Nat × Nat × Nat) :=
  let sel := e.sel f.pm f.pn
  let m : LaneMask := maskOf (sel.map Prod.fst)
  sel.map fun (l, tid) =>
    let rank := ((e.thread tid).replay).getD (rankIn m l)
    (l, tid, addrPlus (addrPlus (uni64 e f.base).toNat f.imm.toInt) (w * rank : Nat))

/-- Loads under OWN, WT, SIS or WIS: the lanes stand ready in the window. -/
def loadIssue (s : State) (i : Instr) (f : MF) (addrs : Env → List (Nat × Nat × Nat)) : Out :=
  withGate s i fun e s =>
    let n := tyBytes f.ty
    match checkLanes s e (addrs e) n kRead true with
    | .wait s => .next s
    | .fault g s => .next (faultSel s e (lanesIn (addrs e)) g)
    | .ok ts =>
      let s := dropEnded s e.core e.team.ctx
      if ts.isEmpty then .next (advance s e) else if engineHolds s e n ts then .next (stallAt s e) else
      let lanes := ts.map fun t =>
        ({ lane := t.lane, tid := t.tid, va := t.va, ea := t.ea, tgt := t.tgt, n := n, kind := .load, pol := effectivePol s e.team.ctx f.coh.toNat t.tgt t.pte, ptes := t.lines, lease := leaseLen s e.team.ctx } : LaneOp)
      memIssue s e i lanes (if f.ord == 1 || f.ord == 3 then some f.scope.toNat else none)

def execLd (f : MF) (s : State) : Out := loadIssue s (.ld f) f fun e => mAddrs e f
def execLdp (f : MF) (s : State) : Out := loadIssue s (.ldp f) f fun e => packedAddrs e f (tyBytes f.ty)

/-- The lanes of a store-class issue: admission is asked for where the billet misses in the filter (R49); a peer's page is admitted by
its grant (R147). -/
def storeLane (s : State) (e : Env) (t : Target) (n pol : Nat) (kind : LaneKind) (data : List Byte) : LaneOp :=
  { lane := t.lane, tid := t.tid, va := t.va, ea := t.ea, tgt := t.tgt, n := n, kind := kind, pol := pol, data := data, ptes := t.lines,
    unadmitted := t.tgt == 2 || (t.tgt == 0 && !(s.core e.core).filter.contains (billetOf t.ea)) }

/-- Stores (R293): the release first, then every lane ready to enter SB(c). -/
def storeIssue (s : State) (i : Instr) (f : MF) (addrs : Env → List (Nat × Nat × Nat)) : Out :=
  withGate s i fun e s =>
    let n := tyBytes f.ty
    let (ok, s) := if f.ord == 2 then released s e f.scope.toNat else (true, s)
    if !ok then .next (stallAt s e) else
    match checkLanes s e (addrs e) n kWrite true with
    | .wait s => .next s
    | .fault g s => .next (faultSel s e (lanesIn (addrs e)) g)
    | .ok ts =>
      let s := dropEnded s e.core e.team.ctx
      if ts.isEmpty then .next (advance s e) else if engineHolds s e n ts then .next (stallAt s e) else
      let lanes := ts.map fun t =>
        storeLane s e t n (effectivePol s e.team.ctx f.coh.toNat t.tgt t.pte) .store (leBytes n (srcNat s e t.tid f.d (tySpan f.ty)))
      memIssue s e i lanes none

def execSt (f : MF) (s : State) : Out := storeIssue s (.st f) f fun e => mAddrs e f
def execStp (f : MF) (s : State) : Out := storeIssue s (.stp f) f fun e => packedAddrs e f (tyBytes f.ty)

/-- The operand bytes of an atomic: s, and for .cas the swap value behind it (R222, R297). -/
def atomBytes (s : State) (e : Env) (f : MAF) (tid : Nat) : List Byte :=
  let k := tySpan f.ty.toNat
  let n := tyBytes f.ty.toNat
  let a := leBytes n (srcNat s e tid f.s k (f.ty == 13))
  if f.fn == 7 then a ++ leBytes n (srcNat s e tid (f.s + BitVec.ofNat 11 k) k) else a
/-- R299: what a PCIe AtomicOp carries. -/
def hostAtomOk (op ty : Nat) : Bool :=
  (op == 0 && (ty == 0 || ty == 1 || ty == 2 || ty == 3)) || (op == 6 && (ty == 8 || ty == 9)) || op == 7

/-- atom and red (R297, R298). -/
def atomIssue (s : State) (i : Instr) (f : MAF) (ret : Bool) : Out :=
  withGate s i fun e s =>
    let n := tyBytes f.ty.toNat
    let rel := f.ord == 2 || f.ord == 3
    let (ok, s) := if rel then released s e f.scope.toNat else (true, s)
    if !ok then .next (stallAt s e) else
    let addrs := (e.sel f.pm f.pn).map fun (l, tid) => (l, tid, (src64 e tid f.base).toNat)
    match checkLanes s e addrs n kRmw true with
    | .wait s => .next s
    | .fault g s => .next (faultSel s e (lanesIn addrs) g)
    | .ok ts =>
      let s := dropEnded s e.core e.team.ctx
      match ts.find? fun t => t.tgt == 1 && !hostAtomOk f.fn.toNat f.ty.toNat with
      | some t => .next (faultSel s e (lanesIn addrs) { insnFault e .hostatom with addrs := [t.va] })
      | none =>
        if ts.isEmpty then .next (advance s e) else if engineHolds s e n ts then .next (stallAt s e) else
        let lanes := ts.map fun t => storeLane s e t n 1 (.atom f.fn.toNat f.ty.toNat ret) (atomBytes s e f t.tid)
        let acq := if f.ord == 1 || f.ord == 3 then some f.scope.toNat else none
        memIssue s e i lanes (if ret then acq else none)

def execAtom (f : MAF) (s : State) : Out := atomIssue s (.atom f) f true
def execRed (f : MAF) (s : State) : Out := atomIssue s (.red f) f false

/-! ## The constant path (R160, R296, R261) -/

/-- Lanes through KC(c), each with its bytes as a result that is held (R51, R53); none where one must wait for a line. -/
def kcLanes (s : State) (e : Env) (n : Nat) (ts : List Target) : Option (List LaneOp) × State :=
  ts.foldl (fun acc t =>
    match acc.1 with
    | none => acc
    | some ls =>
      let lane : LaneOp := { lane := t.lane, tid := t.tid, va := t.va, ea := t.ea, tgt := t.tgt, n := n, kind := .load, pol := 1, ptes := t.lines, stage := .returned }
      match kcRead acc.2 e.core e.team.ctx t.tgt t.ea n with
      | .ok bs s => (some (ls ++ [{ lane with result := bs }]), s)
      | .poisoned _ s => (some (ls ++ [{ lane with stage := .poisoned }]), s)
      | .wait s => (none, s)
      | .refused _ _ _ s => (none, s)) (some [], s)
/-- R235: a loaded value as its registers hold it. -/
def extendTo (ty n : Nat) : Nat :=
  if ty = 6 then (BitVec.ofInt 32 (sext 8 n)).toNat else if ty = 4 then (BitVec.ofInt 32 (sext 16 n)).toNat else n

/-- ldk performs at issue, in the constant cache; its results are held until the issue completes. -/
def execLdk (f : MF) (s : State) : Out :=
  withGate s (.ldk f) fun e s =>
    let n := tyBytes f.ty
    match checkLanes s e (mAddrs e f) n kRead true with
    | .wait s => .next s
    | .fault g s => .next (faultSel s e (lanesIn (mAddrs e f)) g)
    | .ok ts =>
      let s := dropEnded s e.core e.team.ctx
      if ts.isEmpty then .next (advance s e) else
      match kcLanes s e n ts with
      | (some lanes, s) => memIssue s e (.ldk f) lanes none
      | (none, s) => .next (stallAt s e)

/-! ## Fences (R158, R161, R300, R301) -/

def execFence (f : MF) (s : State) : Out :=
  withGate s (.fence f) fun e s =>
    let ord := if f.ord == 0 then 3 else f.ord.toNat
    let tids := e.lanes.map Prod.snd
    let (ok, s) := if ord ≥ 2 then released s e f.scope.toNat else (true, s)
    let acqOk := !openLanes e.team tids fun i l => l.openLoad || (i.scratch && l.stage != .performed && l.stage != .returned)
    if !ok || (ord % 2 == 1 && !acqOk) then .next (stallAt s e)
    else .next (advance (if ord % 2 == 1 then acquire s e.core f.scope.toNat else s) e)

/-- Engine commands that write memory: copies and fills of memory, drains to memory (R162, R164). -/
def engineStores : Instr → Bool
  | .cpy f => f.fn.toNat / 4 % 2 = 0
  | .cpfill f => f.fn.toNat / 4 % 2 = 0
  | .xdrain f => f.fn.toNat % 4 = 2
  | _ => false
/-- Engine commands that write memory or the scratchpad: copies and fills, drains to either, quantising (R161). -/
def engineWrites : Instr → Bool
  | .cpy _ | .cpfill _ | .xquant _ => true
  | .xdrain f => f.fn.toNat % 4 ≠ 0
  | _ => false
/-- A store-class access of the threads among some issues has not performed, their lanes' or their engine commands' (R44, R162). -/
def storesOpen (is : List Inflight) (tids : List Nat) : Bool :=
  is.any fun i => i.lanes.any (fun l => tids.contains l.tid && l.openStore) || (i.engine && engineStores i.insn && i.tids.any tids.contains)
/-- The same, or an engine write of the threads to the scratchpad has not been made (R161). -/
def writesOpen (is : List Inflight) (tids : List Nat) : Bool :=
  storesOpen is tids || is.any fun i => i.engine && engineWrites i.insn && i.tids.any tids.contains
/-- pfence notes what SB(c) holds; what it waits for, and its effect, are met when it completes (R161). -/
def execPfence (f : MF) (s : State) : Out :=
  withGate s (.pfence f) fun e s =>
    let id := s.nextId
    let s := enterWindow s e (.pfence f) [] none false false
    .next (advance (s.updTeam e.tk fun t => { t with iw := t.iw.map fun i => if i.id == id then { i with fence := some ((s.core e.core).sb.map SbEntry.id) } else i }) e)

/-! ## Hints (R27, R302, R303) -/

/-- Hint lanes that translate, and the state with the bad ones counted; a miss makes the issue wait. -/
def hintLanes (s : State) (e : Env) (ls : List (Nat × Nat × Nat)) : Option (List Target) × State :=
  let rs := ls.map fun (l, tid, va) => (l, tid, va, checkLane s e tid va 1 kHint false)
  if rs.any fun (_, _, _, r) => r == .miss then
    (none, stallAt (rs.foldl (fun s (_, tid, va, r) => if r == .miss then startWalk s e.core e.team.ctx (e.thread tid).pslot va 1 kHint e.b.handler else s) s) e)
  else
    let s := dropEnded s e.core e.team.ctx
    let bad := (rs.filter fun (_, _, _, r) => match r with | .ok _ _ _ _ => false | _ => true).length
    let s := s.updCtx e.team.ctx fun c => { c with hintdrop := BitVec.ofNat 32 (min 0xFFFFFFFF (c.hintdrop.toNat + bad)) }
    (some (rs.filterMap fun (l, tid, va, r) => match r with
      | .ok tgt ea pte lines => some { lane := l, tid := tid, va := va, tgt := tgt, ea := ea, pte := pte, lines := lines }
      | _ => none), s)

/-- A prefetch of a line into L2 alone (R302). It is dropped where something of the line is in flight (R27). -/
def prefetchL2 (s : State) (core line : Nat) : State :=
  if grantHeld s (line * 128) false && s.quiet line && s.inTurn (some core) line then touchPage (l2Fill s line 0xFF) (pageOfLine line) else s
/-- A prefetch into L1 under OWN, SIS or WIS, which fills as a load of the whole line would; dropped for want of resources (R27, R302). -/
def prefetchL1 (s : State) (e : Env) (pol line : Nat) : State :=
  if !l1Way s e.core line || (pol == 2 && killing s (pageOfLine line)) then s else
  match readLine s (line * 128) 128 (some e.core) (pol == 0) with
  | .ok bs s =>
    let (h, s) := if pol = 2 then (let x := leaseGrant s line (leaseLen s e.team.ctx); (Holding.leased x.1, x.2)) else (Holding.tracked, s.updLine line fun l => l.share e.core)
    s.updCore e.core fun k => k.setL1 line (installChunks (k.l1Line line) 0xFF (cellsSet [] 0 bs) h)
  | .wait _ => s
  | .poisoned _ s => s
  | .refused _ _ _ _ => s
/-- One line's hint: the level, and the policy that the access would take (R118). -/
def prefetch (s : State) (e : Env) (l1 : Bool) (pol line : Nat) : State :=
  if l1 && pol != 1 then prefetchL1 s e pol line else prefetchL2 s e.core line

/-- R302. A line of a peer's page (TGT 2) is dropped and not counted: whether its hint fills the proxy home's L2 is not stated (DESIGN CHOICE,
log 96). -/
def execPref (f : MF) (s : State) : Out :=
  withGate s (.pref f) fun e s =>
    match hintLanes s e (mAddrs e f) with
    | (none, s) => .next s
    | (some ts, s) =>
      let ts := ts.filter fun t => t.tgt == 0
      let lines := dedup (ts.map fun t => lineOf t.ea)
      .next (advance (lines.foldl (fun s line =>
        let pol := ((ts.find? fun t => lineOf t.ea == line).map fun t => effectivePol s e.team.ctx f.coh.toNat t.tgt t.pte).getD 1
        prefetch s e (f.fn == 1) pol line) s) e)

/-- R303. A hint whose promotion the pool does not meet is dropped, and does nothing. -/
def hintPage (s : State) (hot : Bool) (p : Nat) : State :=
  if hot then
    let s' := s.updPage p fun x => { x with hotUntil := s.ns + 1000000 }
    if (s.billet (p * 256)).loc ≠ 1 then s' else if promotionNeed s p ≤ s.poolOf (s.vdOfPage p) then startPromotion s' p else s
  else s.updPage p fun x => { x with count := 0 }
def execResid (f : MF) (s : State) : Out :=
  withGate s (.resid f) fun e s =>
    match hintLanes s e (mAddrs e f) with
    | (none, s) => .next s
    | (some ts, s) =>
      let ps := dedup ((ts.filter fun t => t.tgt == 0).map fun t => pageOf t.ea)
      .next (advance (ps.foldl (fun s p => hintPage s (f.fn == 0) p) s) e)

/-! ## Capacity instructions (R58, R65 to R67, R304 to R308) -/

/-- wback's entries go through SB(c) and carry no bytes (R304). -/
def execWback (f : MF) (s : State) : Out :=
  withGate s (.wback f) fun e s =>
    match checkLanes s e (mAddrs e f) 1 kWrite false with
    | .wait s => .next s
    | .fault g s => .next (faultSel s e (lanesIn (mAddrs e f)) g)
    | .ok ts =>
      let s := dropEnded s e.core e.team.ctx
      let ts := ts.filter fun t => t.tgt == 0
      if ts.isEmpty then .next (advance s e) else if engineHolds s e 256 (wholeBillets ts) then .next (stallAt s e) else
      let lanes := ts.map fun t => ({ lane := t.lane, tid := t.tid, va := t.va, ea := t.ea / 256 * 256, n := 0, kind := .store, pol := 1, ptes := t.lines } : LaneOp)
      memIssue s e (.wback f) lanes none

/-- R66. -/
def billetWord (b : Billet) : Word :=
  BitVec.ofNat 32 ((if b.poison then 2 ^ 31 else 0) + (if b.opened then 2 ^ 30 else 0) + (if b.loc = 1 then 2 ^ 29 else 0) +
    b.reloc * 256 + b.nsec * 16 + b.cls)
/-- What binfo reads of a target: the descriptor, or 7 (R305). -/
def infoWord (s : State) (t : Target) : Word := if t.tgt == 0 then billetWord (s.billet (billetOf t.ea)) else 7
/-- binfo reads the descriptor at the home, after the thread's older accesses of the billet, as a load of all its bytes would (R153); its results
are held (R51, R305). -/
def execBinfo (f : MF) (s : State) : Out :=
  withGate s (.binfo f) fun e s =>
    match checkLanes s e (mAddrs e f) 1 kRead false with
    | .wait s => .next s
    | .fault g s => .next (faultSel s e (lanesIn (mAddrs e f)) g)
    | .ok ts =>
      let s := dropEnded s e.core e.team.ctx
      let busy := ts.any fun t => e.team.iw.any fun i => i.lanes.any fun l => l.tid == t.tid && (l.openStore || l.openLoad) && !i.scratch && l.tgt == 0 && billetOf l.ea == billetOf t.ea
      if ts.isEmpty then .next (advance s e)
      else if busy || engineHolds s e 256 (wholeBillets (ts.filter fun t => t.tgt == 0)) then .next (stallAt s e)
      else
        let s := ts.foldl (fun s t => if t.tgt == 0 then touchDesc s (billetOf t.ea) else s) s
        let lanes := ts.map fun t => ({ lane := t.lane, tid := t.tid, va := t.va, ea := t.ea, tgt := t.tgt, n := 4, kind := .load, pol := 1, ptes := t.lines, stage := .returned, result := leBytes 4 (infoWord s t).toNat } : LaneOp)
        memIssue s e (.binfo f) lanes none

def execRsvq (f : MF) (s : State) : Out :=
  withGate s (.rsvq f) fun e s =>
    let r := reserveOf s e.team.ctx
    match opKind f.d with
    | .g _ => .next (advance (writeG s e f.d 2 r) e)
    | _ => .next (advance ((e.sel f.pm f.pn).foldl (fun s (_, tid) => writeV s e tid f.d 2 r) s) e)

/-- mark waits for the threads' older store-class accesses (R308). -/
def execMark (f : MF) (s : State) : Out :=
  withGate s (.mark f) fun e s =>
    if storesOpen e.team.iw (e.lanes.map Prod.snd) then .next (stallAt s e)
    else .next (advance (progress (s.updTeam e.tk fun t => { t with pmark := uni32 s e f.d }) e.tk) e)

/-! ## pgyield (R63, R64, R307) -/

/-- The level 0 leaf entry of an address and the lines that lead to it, as the page tables stand at the homes (R63). -/
def leafEntry (s : State) (c : Ctx) (va : Nat) : Option (Nat × List Nat) := ((homeLeaf s c va).filter fun x => x.lvl == 0).map fun x => (x.entry, x.lines)
/-- A lane at its start. -/
def yieldStart (t : Target) : YieldLane := { lane := t.lane, tid := t.tid, va := t.va, page := pageOf t.ea, entry := none }
/-- V := 0 at the entry's home, for the context of the pgyield. -/
def clearValid (s : State) (ctx entry : Nat) : Home Unit :=
  storeAtHome s ctx entry 8 none fun s =>
    let s := l2Fill s (lineOf entry) (chunksOf (entry % 128) 8)
    .ok () (performWrite s entry [setBit ((s.readMem entry 1).headD 0) 0 false])
/-- The write of V := 0 of a lane whose page and entry are known, behind the lanes below it. -/
def yieldWrite (s : State) (e : Env) (lower : List YieldLane) (y : YieldLane) (entry : Nat) : YieldLane × State × Bool :=
  if lower.any fun x => x.page == y.page && x.stage == 2 && (x.status == 0 || x.status == 3) then ({ y with stage := 2, status := 2 }, s, false)
  else match lower.find? fun x => x.stage == 3 && x.entry.map billetOf == some (billetOf entry) with
    | some x => ({ y with stage := 3, cause := x.cause, reserve := x.reserve }, s, false)
    | none =>
      if !s.channelClear e.core (lineOf entry) then (y, s, true) else
      match clearValid s e.team.ctx entry with
      | .ok _ s => ({ y with stage := 1 }, progress s e.tk, false)
      | .refused c _ r s => ({ y with stage := 3, cause := c, reserve := r }, s, false)
      | .wait s' => (y, keepWaits s s', true)
      | .poisoned _ _ => (y, s, true)
/-- One step of a lane behind the lanes below it: what has become of it, and whether it must wait. Its turn may come long after the issue: it is
translated again then, in the step that makes its write, so that it acts on no translation that a write has ended since (R20; DEDUCED,
log 102). A lower lane that wrote V := 0 for the same page has left no translation: the lane repeats that lane's page (R63). -/
def yieldStep (s : State) (e : Env) (lower : List YieldLane) (y : YieldLane) : YieldLane × State × Bool :=
  match y.stage with
  | 0 =>
    let ps := (e.thread y.tid).pslot
    let place := fun (x : YieldLane) => ((s.ctx e.team.ctx).bind fun c => relocate c (e.thread x.tid).pslot x.va 1).map (· / 65536)
    match lower.find? fun x => place x == place y && x.stage == 2 && (x.status == 0 || x.status == 3) with
    | some x => ({ y with entry := x.entry, stage := 2, status := 2 }, s, false)
    | none =>
    match xlateNow s (some e.core) e.team.ctx ps y.va 1 kWrite e.b.handler with
    | .wait s' => (y, keepWaits s s', true)
    | .fault c a u s => ({ y with stage := 3, cause := c, addrs := a, aux := u }, s, false)
    | .refused c b r s => ({ y with stage := 3, cause := c, reserve := r, addrs := [b * 256] }, s, false)
    | .ok tgt ea _ s =>
      match if tgt ≠ 0 then none else (s.ctx e.team.ctx).bind fun c => (relocate c ps y.va 1).bind fun g => leafEntry s c g with
      | none => ({ y with page := pageOf ea, stage := 2, status := 1 }, s, false)
      | some (entry, ptes) => yieldWrite s e lower { y with page := pageOf ea, entry := some entry, ptes := ptes } entry
  | 1 =>
    match pageEnds s y.page with
    | .waits s => (y, s, true)
    | .ready s =>
      let fixed := ((s.page y.page).map Page.fixed).getD false
      ({ y with stage := 2, status := if fixed then 3 else 0 }, surrender s y.page e.team.ctx, false)
  | _ => (y, s, false)
/-- The lanes in ascending order, as far as they go; whether all have come to their ends. -/
def yieldRun : Nat → State → Env → List YieldLane → List YieldLane → List YieldLane × State × Bool
  | 0, s, _, done, rest => (done ++ rest, s, false)
  | _, s, _, done, [] => (done, s, true)
  | fuel + 1, s, e, done, y :: rest =>
    if y.stage == 2 || y.stage == 3 then yieldRun fuel s e (done ++ [y]) rest
    else
      let (y, s, waits) := yieldStep s e done y
      if waits then (done ++ y :: rest, s, false) else yieldRun fuel s e done (y :: rest)
/-- The billet that a lane was refused in: its entry's, or that of an A/D update of its translation. -/
def YieldLane.billet (y : YieldLane) : Option Nat := if y.addrs.isEmpty then y.entry.map billetOf else y.addrs.head?.map billetOf
/-- The fault of the lanes that have come to one: a fault of translation with the lowest code (R23); else the refusal, CAPREFUSE where any lane has
it, and the reserve of the refusal decided last (R53). -/
def yieldFault (e : Env) (ys : List YieldLane) : FaultInfo :=
  let bad := ys.filter fun y => y.stage == 3
  let done := maskOf ((ys.filter fun y => y.stage == 2).map YieldLane.lane)
  match bad.filter fun y => y.cause != .caprefuse && y.cause != .tiershort with
  | x :: xs =>
    let m := xs.foldl (fun (m : YieldLane) y => if y.cause.rank < m.cause.rank then y else m) x
    { insnFault e m.cause with done := done, addrs := m.addrs, aux := m.aux }
  | [] =>
    let cause := if bad.any fun y => y.cause == .caprefuse then Cause.caprefuse else .tiershort
    let billets := dedup (bad.filterMap YieldLane.billet)
    let last := (billets.getLast?.bind fun b => bad.find? fun y => y.billet == some b).map YieldLane.reserve
    { insnFault e cause with done := done, refused := maskOf (bad.map YieldLane.lane), addrs := (billets.take 4).map (· * 256), reserve := last.getD 0 }
def setYields (s : State) (e : Env) (ys : List YieldLane) : State :=
  s.updGroup e.tk e.g fun g => { g with bundle := g.bundle.map fun b => { b with yields := ys } }
/-- The pgyield under way: it completes once what it told the driver is to be seen (R64). -/
def yieldOn (s : State) (e : Env) (f : MF) (ys : List YieldLane) : Out :=
  let (ys, s, done) := yieldRun (4 * ys.length + 4) (setYields s e []) e [] ys
  if !done || !s.posted e.team.ctx then .next (stallAt (setYields s e ys) e)
  else
    let s := (ys.filter fun y => y.stage == 2).foldl (fun s y => writeV s e y.tid f.d 1 y.status) (setYields s e [])
    let refs := (ys.filter fun y => y.stage == 3).map fun y => (y.lane, y.tid)
    .next (if refs.isEmpty then advance s e else faultSel s e refs (yieldFault e ys))

def execPgyield (f : MF) (s : State) : Out :=
  withGate s (.pgyield f) fun e s =>
    if !e.b.yields.isEmpty then yieldOn s e f e.b.yields else
    let (ok, s) := released s e 2
    if !ok || !allPerformed e.team (e.lanes.map Prod.snd) then .next (stallAt s e) else
    match checkLanes s e (mAddrs e f) 1 kWrite false with
    | .wait s => .next s
    | .fault g s => .next (faultSel s e (lanesIn (mAddrs e f)) g)
    | .ok ts =>
      let s := dropEnded s e.core e.team.ctx
      if ts.isEmpty then .next (advance s e) else yieldOn s e f (ts.map yieldStart)

end Sys2Proof.Machine
end

