-- ==== Sys2Proof/Machine/Arith.lean ====
section
/-! DEFINITION. The vector integer, vector float, packed-half, conversion, mask and lane instructions and the uniform instructions
(R239 to R271). -/

namespace Sys2Proof.Machine

/-! ## Number types (R228, R235, R241) -/

/-- Bits of a value of a type code. -/
def tyBits (t : Nat) : Nat := 8 * tyBytes t
/-- Whether a type is signed. -/
def tySigned (t : Nat) : Bool := t == 0 || t == 2 || t == 4 || t == 6
def tyLo (t : Nat) : Int := if tySigned t then -(2 ^ (tyBits t - 1) : Nat) else 0
def tyHi (t : Nat) : Int := if tySigned t then (2 ^ (tyBits t - 1) : Nat) - 1 else (2 ^ tyBits t : Nat) - 1
/-- A source read under its type. -/
def readTy (t x : Nat) : Int := if tySigned t then sext (tyBits t) x else (x % 2 ^ tyBits t : Nat)
def clampTy (t : Nat) (x : Int) : Int := max (tyLo t) (min (tyHi t) x)
/-- An exact result as it is written: clamped under SAT, else modulo the width; narrow types extended to 32 bits. -/
def writeTy (t : Nat) (sat : Bool) (x : Int) : Nat :=
  let x := if sat then clampTy t x else x
  let y := readTy t (x % (2 ^ tyBits t : Nat)).toNat
  (y % (2 ^ (if wideTy t then 64 else 32) : Nat)).toNat
/-- Modulo 2^32 as the bits of an integer. -/
def low32 (x : Int) : Nat := (x % (2 ^ 32 : Nat)).toNat

/-! ## The shape of a vector instruction (R239) and of a uniform one (R240) -/

/-- R220: the operand latches of the group after a vector instruction. -/
def latch (hold : BitVec 2) (g : Group) : Group :=
  let old : List (Nat × Nat) := g.hold.filterMap fun p => if p.2 ≤ 1 then none else some (p.1, p.2 - 1)
  { g with hold := if hold = 0 then old else (hold.toNat, 2) :: old }
/-- A vector instruction: every source is read in the state the instruction starts in, then every selected lane is written. -/
def vector (s : State) (i : Instr) (f : VF) (k : Nat) (val : Env → Nat → Nat → Nat) : Out :=
  simple s i fun e s =>
    let rs : List (Nat × Nat) := (e.sel f.pm f.pn).map fun p => (p.2, val e p.1 p.2)
    let s := rs.foldl (fun s p => writeV s e p.1 f.d k p.2) s
    s.updGroup e.tk e.g (latch f.hold)
/-- A vector instruction whose result is a truth value: 1 or 0 to a v register, or bit L of an m register (R246). -/
def vectorBool (s : State) (i : Instr) (f : VF) (val : Env → Nat → Nat → Bool) : Out :=
  simple s i fun e s =>
    let rs : List (Nat × Nat × Bool) := (e.sel f.pm f.pn).map fun p => (p.1, p.2, val e p.1 p.2)
    let s : State := match opKind f.d with
      | .m _ => rs.foldl (fun s p => writeM s e f.d p.1 p.2.2) s
      | _ => rs.foldl (fun s p => writeV s e p.2.1 f.d 1 (if p.2.2 then 1 else 0)) s
    s.updGroup e.tk e.g (latch f.hold)
/-- A uniform instruction executes once for the bundle. -/
def uniform (s : State) (i : Instr) (d : BitVec 11) (k : Nat) (val : Env → Nat) : Out :=
  simple s i fun e s => writeG s e d k (val e)

/-- Sources of k registers, of 32 bits, and read under a type. -/
def sN (s : State) (e : Env) (tid : Nat) (c : BitVec 11) (t : Nat) : Nat := srcNat s e tid c (tySpan t)
def sI (s : State) (e : Env) (tid : Nat) (c : BitVec 11) (t : Nat) : Int := readTy t (srcNat s e tid c (tySpan t))
def s32 (s : State) (e : Env) (tid : Nat) (c : BitVec 11) : Nat := (src32 s e tid c).toNat
/-- A float source of a format; an inline entry is rounded to the format (R218). -/
def sF (s : State) (e : Env) (tid : Nat) (c : BitVec 11) (f : Fmt) : Nat :=
  match opKind c with
  | .inl k => fCvt fmtF32 f 0 (inlineFloat k).toNat
  | _ => (src32 s e tid c).toNat % (2 * f.sign)
/-- An element of a packed pair (R235, R254). -/
def sH (s : State) (e : Env) (tid : Nat) (c : BitVec 11) (f : Fmt) (el : Nat) : Nat :=
  match opKind c with
  | .inl k => fCvt fmtF32 f 0 (inlineFloat k).toNat
  | _ => (src32 s e tid c).toNat / 2 ^ (16 * el) % 2 ^ 16

/-! ## The operations -/

/-- R244. -/
def shiftL (w x k : Nat) : Nat := if w ≤ k then 0 else x * 2 ^ k % 2 ^ w
def shiftR (t x k : Nat) : Nat :=
  let w := tyBits t
  ((readTy t x / (2 ^ min k w : Nat)) % (2 ^ w : Nat)).toNat
def rotL (x k : Nat) : Nat := let k := k % 32
  (x * 2 ^ k + x / 2 ^ (32 - k)) % 2 ^ 32
/-- R245. -/
def bitField (signed : Bool) (a b : Nat) : Nat :=
  let pos := b % 256
  let len := min (b / 256 % 256) 32
  if len = 0 then 0
  else
    let x : Int := if signed then sext 32 a else (a : Int)
    let y := ((x / (2 ^ min pos 32 : Nat)) % (2 ^ len : Nat)).toNat
    if signed then low32 (sext len y) else y
def bitInsert (a b c : Nat) : Nat :=
  let pos := c % 256
  let len := min (c / 256 % 256) 32
  let m := (2 ^ len - 1) * 2 ^ min pos 32 % 2 ^ 32
  (b &&& (2 ^ 32 - 1 - m)) ||| (a % 2 ^ len * 2 ^ min pos 32 % 2 ^ 32 &&& m)
def popCount (w x : Nat) : Nat := ((List.range w).filter x.testBit).length
def leadZeros (w x : Nat) : Nat := w - bitLen x
def bitReverse (w x : Nat) : Nat := (List.range w).foldl (fun n i => if x.testBit i then n + 2 ^ (w - 1 - i) else n) 0
def permute (a b c : Nat) : Nat :=
  leNat ((List.range 4).map fun i =>
    let f := c / 2 ^ (8 * i) % 256
    let p := (a + b * 2 ^ 32) / 2 ^ (8 * (f % 8)) % 256
    BitVec.ofNat 8 (match f / 8 % 4 with
      | 0 => p
      | 1 => 0
      | 2 => if 128 ≤ p then 255 else 0
      | _ => bitReverse 8 p))
/-- R230. -/
def cmpInt (cnd : Nat) (a b : Int) : Bool :=
  match cnd with
  | 0 => a == b
  | 1 => a != b
  | 2 => decide (a < b)
  | 3 => decide (a ≤ b)
  | 4 => decide (b < a)
  | _ => decide (b ≤ a)
/-- R248. -/
def dot4 (signed : Bool) (a b : Nat) : Int :=
  let el := fun (x i : Nat) => let y := x / 2 ^ (8 * i) % 256
    if signed then sext 8 y else (y : Int)
  (List.range 4).foldl (fun (n : Int) i => n + el a i * el b i) 0
/-- SAT on a float result. -/
def satF (f : Fmt) (sat : BitVec 1) (x : Nat) : Nat := if sat = 1 then fSat f x else x
/-- The condition of sel (R246). -/
def selCond (s : State) (e : Env) (l tid : Nat) (c : BitVec 11) : Bool :=
  match opKind c with
  | .m k => bit (e.grp.mask k) l
  | _ => src32 s e tid c != 0
/-- The format of a float type code (R228). -/
def fmtTy (t : Nat) : Fmt := fmtOf (t - 13)

/-! ## Vector integer (R243 to R248) -/

def execIadd (f : VF) (s : State) : Out :=
  vector s (.iadd f) f 1 fun e _ tid => writeTy f.ty (f.sat == 1) (sI s e tid f.a f.ty + sI s e tid f.b f.ty)
def execIsub (f : VF) (s : State) : Out :=
  vector s (.isub f) f 1 fun e _ tid => writeTy f.ty (f.sat == 1) (sI s e tid f.a f.ty - sI s e tid f.b f.ty)
def execImul (f : VF) (s : State) : Out :=
  vector s (.imul f) f 1 fun e _ tid => writeTy f.ty (f.sat == 1) (sI s e tid f.a f.ty * sI s e tid f.b f.ty)
def execImulh (f : VF) (s : State) : Out :=
  vector s (.imulh f) f 1 fun e _ tid => low32 (sI s e tid f.a f.ty * sI s e tid f.b f.ty / (2 ^ 32 : Nat))
def execImad (f : VF) (s : State) : Out :=
  vector s (.imad f) f 1 fun e _ tid => writeTy f.ty (f.sat == 1) (sI s e tid f.a f.ty * sI s e tid f.b f.ty + sI s e tid f.c f.ty)
def execImin (f : VF) (s : State) : Out :=
  vector s (.imin f) f 1 fun e _ tid => writeTy f.ty false (min (sI s e tid f.a f.ty) (sI s e tid f.b f.ty))
def execImax (f : VF) (s : State) : Out :=
  vector s (.imax f) f 1 fun e _ tid => writeTy f.ty false (max (sI s e tid f.a f.ty) (sI s e tid f.b f.ty))
def execIabs (f : VF) (s : State) : Out :=
  vector s (.iabs f) f 1 fun e _ tid => writeTy f.ty (f.sat == 1) (sI s e tid f.a f.ty).natAbs
def execIneg (f : VF) (s : State) : Out :=
  vector s (.ineg f) f 1 fun e _ tid => writeTy f.ty (f.sat == 1) (-sI s e tid f.a f.ty)
def execAnd (f : VF) (s : State) : Out :=
  vector s (.and f) f (tySpan f.ty) fun e _ tid => sN s e tid f.a f.ty &&& sN s e tid f.b f.ty
def execOr (f : VF) (s : State) : Out :=
  vector s (.or f) f (tySpan f.ty) fun e _ tid => sN s e tid f.a f.ty ||| sN s e tid f.b f.ty
def execXor (f : VF) (s : State) : Out :=
  vector s (.xor f) f (tySpan f.ty) fun e _ tid => sN s e tid f.a f.ty ^^^ sN s e tid f.b f.ty
def execNot (f : VF) (s : State) : Out :=
  vector s (.not f) f (tySpan f.ty) fun e _ tid => 2 ^ tyBits f.ty - 1 - sN s e tid f.a f.ty
def execShl (f : VF) (s : State) : Out :=
  vector s (.shl f) f (tySpan f.ty) fun e _ tid => shiftL (tyBits f.ty) (sN s e tid f.a f.ty) (s32 s e tid f.b % 256)
def execShr (f : VF) (s : State) : Out :=
  vector s (.shr f) f (tySpan f.ty) fun e _ tid => shiftR f.ty (sN s e tid f.a f.ty) (s32 s e tid f.b % 256)
def execRot (f : VF) (s : State) : Out :=
  vector s (.rot f) f 1 fun e _ tid => rotL (s32 s e tid f.a) (s32 s e tid f.b % 256)
def execBfx (f : VF) (s : State) : Out :=
  vector s (.bfx f) f 1 fun e _ tid => bitField (tySigned f.ty) (s32 s e tid f.a) (s32 s e tid f.b)
def execBfi (f : VF) (s : State) : Out :=
  vector s (.bfi f) f 1 fun e _ tid => bitInsert (s32 s e tid f.a) (s32 s e tid f.b) (s32 s e tid f.c)
def execPopc (f : VF) (s : State) : Out :=
  vector s (.popc f) f 1 fun e _ tid => popCount (tyBits f.ty) (sN s e tid f.a f.ty)
def execClz (f : VF) (s : State) : Out :=
  vector s (.clz f) f 1 fun e _ tid => leadZeros (tyBits f.ty) (sN s e tid f.a f.ty)
def execBrev (f : VF) (s : State) : Out :=
  vector s (.brev f) f 1 fun e _ tid => bitReverse 32 (s32 s e tid f.a)
def execPrmt (f : VF) (s : State) : Out :=
  vector s (.prmt f) f 1 fun e _ tid => permute (s32 s e tid f.a) (s32 s e tid f.b) (s32 s e tid f.c)
def execSel (f : VF) (s : State) : Out :=
  vector s (.sel f) f (tySpan f.ty) fun e l tid => if selCond s e l tid f.c then sN s e tid f.a f.ty else sN s e tid f.b f.ty
def execIcmp (f : VF) (s : State) : Out :=
  vectorBool s (.icmp f) f fun e _ tid => cmpInt f.cnd (sI s e tid f.a f.ty) (sI s e tid f.b f.ty)
def execIadd64 (f : VF) (s : State) : Out :=
  vector s (.iadd64 f) f 2 fun e _ tid => writeTy f.ty (f.sat == 1) (sI s e tid f.a f.ty + sI s e tid f.b f.ty)
def execIsub64 (f : VF) (s : State) : Out :=
  vector s (.isub64 f) f 2 fun e _ tid => writeTy f.ty (f.sat == 1) (sI s e tid f.a f.ty - sI s e tid f.b f.ty)
def execImad64 (f : VF) (s : State) : Out :=
  vector s (.imad64 f) f 2 fun e _ tid => writeTy f.ty (f.sat == 1) (readTy (f.ty - 2) (s32 s e tid f.a) * readTy (f.ty - 2) (s32 s e tid f.b) + sI s e tid f.c f.ty)
def execLea (f : VF) (s : State) : Out :=
  vector s (.lea f) f 2 fun e _ tid => (((srcNat s e tid f.a 2 : Int) + readTy f.ty (s32 s e tid f.b) * (2 ^ (s32 s e tid f.c % 32) : Nat)) % (2 ^ 64 : Nat)).toNat
def execMov (f : VF) (s : State) : Out :=
  vector s (.mov f) f (tySpan f.ty) fun e _ tid => sN s e tid f.a f.ty
def execIdot4 (f : VF) (s : State) : Out :=
  vector s (.idot4 f) f 1 fun e _ tid => writeTy (f.ty - 6) (f.sat == 1) (readTy (f.ty - 6) (s32 s e tid f.c) + dot4 (f.ty == 6) (s32 s e tid f.a) (s32 s e tid f.b))
def execIsat (f : VF) (s : State) : Out :=
  vector s (.isat f) f 1 fun e _ tid => writeTy f.ty true (sext 32 (s32 s e tid f.a))

/-! ## Vector float (R249 to R253) -/

def execFadd (f : VF) (s : State) : Out :=
  vector s (.fadd f) f 1 fun e _ tid => satF (fmtOf f.fty) f.sat (fAdd (fmtOf f.fty) f.rnd (sF s e tid f.a (fmtOf f.fty)) (sF s e tid f.b (fmtOf f.fty)))
def execFsub (f : VF) (s : State) : Out :=
  vector s (.fsub f) f 1 fun e _ tid => satF (fmtOf f.fty) f.sat (fSub (fmtOf f.fty) f.rnd (sF s e tid f.a (fmtOf f.fty)) (sF s e tid f.b (fmtOf f.fty)))
def execFmul (f : VF) (s : State) : Out :=
  vector s (.fmul f) f 1 fun e _ tid => satF (fmtOf f.fty) f.sat (fMul (fmtOf f.fty) f.rnd (sF s e tid f.a (fmtOf f.fty)) (sF s e tid f.b (fmtOf f.fty)))
def execFfma (f : VF) (s : State) : Out :=
  vector s (.ffma f) f 1 fun e _ tid => satF (fmtOf f.fty) f.sat (fFma (fmtOf f.fty) f.rnd (sF s e tid f.a (fmtOf f.fty)) (sF s e tid f.b (fmtOf f.fty)) (sF s e tid f.c (fmtOf f.fty)))
def execFdiv (f : VF) (s : State) : Out :=
  vector s (.fdiv f) f 1 fun e _ tid => satF (fmtOf f.fty) f.sat (fDiv (fmtOf f.fty) f.rnd (sF s e tid f.a (fmtOf f.fty)) (sF s e tid f.b (fmtOf f.fty)))
def execFsqrt (f : VF) (s : State) : Out :=
  vector s (.fsqrt f) f 1 fun e _ tid => fSqrt (fmtOf f.fty) f.rnd (sF s e tid f.a (fmtOf f.fty))
def execFrcp (f : VF) (s : State) : Out :=
  vector s (.frcp f) f 1 fun e _ tid => fRcp (fmtOf f.fty) f.rnd (sF s e tid f.a (fmtOf f.fty))
def execFmin (f : VF) (s : State) : Out :=
  vector s (.fmin f) f 1 fun e _ tid => fMin (fmtOf f.fty) (sF s e tid f.a (fmtOf f.fty)) (sF s e tid f.b (fmtOf f.fty))
def execFmax (f : VF) (s : State) : Out :=
  vector s (.fmax f) f 1 fun e _ tid => fMax (fmtOf f.fty) (sF s e tid f.a (fmtOf f.fty)) (sF s e tid f.b (fmtOf f.fty))
def execFcmp (f : VF) (s : State) : Out :=
  vectorBool s (.fcmp f) f fun e _ tid => fCmp (fmtOf f.fty) f.cnd (sF s e tid f.a (fmtOf f.fty)) (sF s e tid f.b (fmtOf f.fty))
def execFrsq (f : VF) (s : State) : Out :=
  vector s (.frsq f) f 1 fun e _ tid => fRsq (fmtOf f.fty) (sF s e tid f.a (fmtOf f.fty))
def execFex2 (f : VF) (s : State) : Out :=
  vector s (.fex2 f) f 1 fun e _ tid => fEx2 (fmtOf f.fty) (sF s e tid f.a (fmtOf f.fty))
def execFlg2 (f : VF) (s : State) : Out :=
  vector s (.flg2 f) f 1 fun e _ tid => fLg2 (fmtOf f.fty) (sF s e tid f.a (fmtOf f.fty))
def execFsin (f : VF) (s : State) : Out :=
  vector s (.fsin f) f 1 fun e _ tid => fSin (fmtOf f.fty) (sF s e tid f.a (fmtOf f.fty))
def execFcos (f : VF) (s : State) : Out :=
  vector s (.fcos f) f 1 fun e _ tid => fCos (fmtOf f.fty) (sF s e tid f.a (fmtOf f.fty))
def execFtanh (f : VF) (s : State) : Out :=
  vector s (.ftanh f) f 1 fun e _ tid => fTanh (fmtOf f.fty) (sF s e tid f.a (fmtOf f.fty))
def execFclass (f : VF) (s : State) : Out :=
  vector s (.fclass f) f 1 fun e _ tid => fClass (fmtOf f.fty) (sF s e tid f.a (fmtOf f.fty))
def execFrnd (f : VF) (s : State) : Out :=
  vector s (.frnd f) f 1 fun e _ tid => fRnd (fmtOf f.fty) f.rnd (sF s e tid f.a (fmtOf f.fty))

/-! ## Packed halves (R254) -/

/-- Both elements. -/
def pair (x : Nat → Nat) : Nat := x 0 + x 1 * 2 ^ 16
def execHadd2 (f : VF) (s : State) : Out :=
  vector s (.hadd2 f) f 1 fun e _ tid => pair fun n => satF (fmtOf f.fty) f.sat (fAdd (fmtOf f.fty) f.rnd (sH s e tid f.a (fmtOf f.fty) n) (sH s e tid f.b (fmtOf f.fty) n))
def execHmul2 (f : VF) (s : State) : Out :=
  vector s (.hmul2 f) f 1 fun e _ tid => pair fun n => satF (fmtOf f.fty) f.sat (fMul (fmtOf f.fty) f.rnd (sH s e tid f.a (fmtOf f.fty) n) (sH s e tid f.b (fmtOf f.fty) n))
def execHfma2 (f : VF) (s : State) : Out :=
  vector s (.hfma2 f) f 1 fun e _ tid => pair fun n => satF (fmtOf f.fty) f.sat (fFma (fmtOf f.fty) f.rnd (sH s e tid f.a (fmtOf f.fty) n) (sH s e tid f.b (fmtOf f.fty) n) (sH s e tid f.c (fmtOf f.fty) n))
def execHmin2 (f : VF) (s : State) : Out :=
  vector s (.hmin2 f) f 1 fun e _ tid => pair fun n => fMin (fmtOf f.fty) (sH s e tid f.a (fmtOf f.fty) n) (sH s e tid f.b (fmtOf f.fty) n)
def execHmax2 (f : VF) (s : State) : Out :=
  vector s (.hmax2 f) f 1 fun e _ tid => pair fun n => fMax (fmtOf f.fty) (sH s e tid f.a (fmtOf f.fty) n) (sH s e tid f.b (fmtOf f.fty) n)

/-! ## Conversions (R255 to R258) -/

def execFcvt (f : VF) (s : State) : Out :=
  vector s (.fcvt f) f 1 fun e _ tid => fCvt (fmtTy f.cvtSrc) (fmtTy f.cvtDst) f.rnd (sF s e tid f.a (fmtTy f.cvtSrc))
def execFcvti (f : VF) (s : State) : Out :=
  vector s (.fcvti f) f (tySpan f.cvtDst) fun e _ tid => writeTy f.cvtDst false (fCvtI (fmtTy f.cvtSrc) f.rnd (tyLo f.cvtDst) (tyHi f.cvtDst) (sF s e tid f.a (fmtTy f.cvtSrc)))
def execIcvtf (f : VF) (s : State) : Out :=
  vector s (.icvtf f) f 1 fun e _ tid => iCvtF (fmtTy f.cvtDst) f.rnd (sI s e tid f.a f.cvtSrc)
def execIcvt (f : VF) (s : State) : Out :=
  vector s (.icvt f) f (tySpan f.cvtDst) fun e _ tid => writeTy f.cvtDst (f.sat == 1) (sI s e tid f.a f.cvtSrc)

/-! ## Masks and lanes (R263 to R271) -/

/-- R263: bit(X, L). -/
def laneBit (s : State) (e : Env) (l tid : Nat) (c : BitVec 11) : Bool :=
  match opKind c with
  | .v _ => src32 s e tid c != 0
  | .srT _ => src32 s e tid c != 0
  | _ => bit (src32 s e tid c) l
/-- Lanes of P, with what a function gives for each. -/
def participants (s : State) (e : Env) (f : VF) : List (Nat × Nat) := (e.sel f.pm f.pn).map fun (l, tid) => (l, s32 s e tid f.a)
/-- Lanes of P whose bit of A is 1. -/
def votes (s : State) (e : Env) (f : VF) : List Nat := ((e.sel f.pm f.pn).filter fun (l, tid) => laneBit s e l tid f.a).map Prod.fst
/-- Lane S's value of A where it is in P, else the lane's own. -/
def laneValue (ps : List (Nat × Nat)) (src l : Nat) : Nat :=
  ((ps.find? fun p => p.1 == src).getD ((ps.find? fun p => p.1 == l).getD (0, 0))).2
/-- R267: the source lane. -/
def shuffleFrom (ps : List (Nat × Nat)) (mode l b : Nat) : Nat :=
  let lanes := ps.map Prod.fst
  let k := min (b % 8) 5
  match mode with
  | 0 => b % 32
  | 1 => lanes.getD (((((lanes.filter (· < l)).length : Int) + sext 32 b) % (lanes.length : Int)).toNat) l
  | 2 => (lanes.find? fun x => x / 2 ^ k == l / 2 ^ k).getD l
  | _ => l ^^^ (2 ^ k - 1)
/-- R269, R270: one combination; op as lred, t the type. -/
def foldOp (op t x y : Nat) : Nat :=
  match op with
  | 0 => (x + y) % 2 ^ 32
  | 1 => low32 (min (readTy t x) (readTy t y))
  | 2 => low32 (max (readTy t x) (readTy t y))
  | 3 => x &&& y
  | 4 => x ||| y
  | 5 => x ^^^ y
  | _ => fAdd fmtF32 0 x y
/-- R270: the identity of an exclusive scan. -/
def foldId (op t : Nat) : Nat :=
  match op with
  | 1 => low32 (tyHi t)
  | 2 => low32 (tyLo t)
  | 3 => 2 ^ 32 - 1
  | _ => 0
/-- The fold over the values in ascending lane order. Of a single value .fadd makes no addition, so a NaN keeps its bits (R269 speaks of the
additions only: DESIGN CHOICE, log 115). -/
def foldAll (op t : Nat) : List Nat → Nat
  | [] => foldId op t
  | x :: xs => xs.foldl (foldOp op t) x
/-- The value operand of lred and lscan. -/
def foldValue (s : State) (e : Env) (f : VF) (op tid : Nat) : Nat := (src32 s e tid f.a (op == 6)).toNat

def execMand (f : VF) (s : State) : Out :=
  vectorBool s (.mand f) f fun e l tid => laneBit s e l tid f.a && laneBit s e l tid f.b
def execMor (f : VF) (s : State) : Out :=
  vectorBool s (.mor f) f fun e l tid => laneBit s e l tid f.a || laneBit s e l tid f.b
def execMxor (f : VF) (s : State) : Out :=
  vectorBool s (.mxor f) f fun e l tid => laneBit s e l tid f.a != laneBit s e l tid f.b
def execMnot (f : VF) (s : State) : Out :=
  vectorBool s (.mnot f) f fun e l tid => !laneBit s e l tid f.a
def execMmov (f : VF) (s : State) : Out :=
  vectorBool s (.mmov f) f fun e l tid => laneBit s e l tid f.a
def execMpop (f : VF) (s : State) : Out := vector s (.mpop f) f 1 fun e _ _ => (votes s e f).length
def execMfirst (f : VF) (s : State) : Out := vector s (.mfirst f) f 1 fun e _ _ => (votes s e f).headD 32
def execVote (f : VF) (s : State) : Out :=
  vector s (.vote f) f 1 fun e _ _ =>
    let v := votes s e f
    match f.fn.toNat with
    | 0 => if v.isEmpty then 0 else 1
    | 1 => if v.length = (e.sel f.pm f.pn).length then 1 else 0
    | _ => (maskOf v : LaneMask).toNat
def execShfl (f : VF) (s : State) : Out :=
  vector s (.shfl f) f 1 fun e l tid =>
    let ps := participants s e f
    laneValue ps (shuffleFrom ps f.fn.toNat l (s32 s e tid f.b)) l
def execBcast (f : VF) (s : State) : Out :=
  vector s (.bcast f) f 1 fun e l _ => laneValue (participants s e f) ((uni32 s e f.b).toNat % 32) l
def execLred (f : VF) (s : State) : Out :=
  vector s (.lred f) f 1 fun e _ _ => foldAll f.ty f.redTy ((e.sel f.pm f.pn).map fun (_, t) => foldValue s e f f.ty t)
def execLscan (f : VF) (s : State) : Out :=
  vector s (.lscan f) f 1 fun e l _ =>
    let op := f.ty % 8
    foldAll op f.redTy (((e.sel f.pm f.pn).filter fun (x, _) => if f.ty < 8 then x ≤ l else decide (x < l)).map fun (_, t) => foldValue s e f op t)

/-! ## Group arithmetic (R259 to R261) -/

def execGadd (f : VF) (s : State) : Out :=
  uniform s (.gadd f) f.d 1 fun e => writeTy f.ty (f.sat == 1) (sI s e 0 f.a f.ty + sI s e 0 f.b f.ty)
def execGsub (f : VF) (s : State) : Out :=
  uniform s (.gsub f) f.d 1 fun e => writeTy f.ty (f.sat == 1) (sI s e 0 f.a f.ty - sI s e 0 f.b f.ty)
def execGmul (f : VF) (s : State) : Out :=
  uniform s (.gmul f) f.d 1 fun e => writeTy f.ty (f.sat == 1) (sI s e 0 f.a f.ty * sI s e 0 f.b f.ty)
def execGand (f : VF) (s : State) : Out :=
  uniform s (.gand f) f.d (tySpan f.ty) fun e => sN s e 0 f.a f.ty &&& sN s e 0 f.b f.ty
def execGor (f : VF) (s : State) : Out :=
  uniform s (.gor f) f.d (tySpan f.ty) fun e => sN s e 0 f.a f.ty ||| sN s e 0 f.b f.ty
def execGxor (f : VF) (s : State) : Out :=
  uniform s (.gxor f) f.d (tySpan f.ty) fun e => sN s e 0 f.a f.ty ^^^ sN s e 0 f.b f.ty
def execGshl (f : VF) (s : State) : Out :=
  uniform s (.gshl f) f.d (tySpan f.ty) fun e => shiftL (tyBits f.ty) (sN s e 0 f.a f.ty) (s32 s e 0 f.b % 256)
def execGshr (f : VF) (s : State) : Out :=
  uniform s (.gshr f) f.d (tySpan f.ty) fun e => shiftR f.ty (sN s e 0 f.a f.ty) (s32 s e 0 f.b % 256)
def execGcmp (f : VF) (s : State) : Out :=
  uniform s (.gcmp f) f.d 1 fun e => if cmpInt f.cnd (sI s e 0 f.a f.ty) (sI s e 0 f.b f.ty) then 1 else 0
def execGmov (f : VF) (s : State) : Out :=
  uniform s (.gmov f) f.d (tySpan f.ty) fun e => sN s e 0 f.a f.ty
def execGsel (f : VF) (s : State) : Out :=
  uniform s (.gsel f) f.d (tySpan f.ty) fun e => if uni32 s e f.c != 0 then sN s e 0 f.a f.ty else sN s e 0 f.b f.ty
def execGadd64 (f : VF) (s : State) : Out :=
  uniform s (.gadd64 f) f.d 2 fun e => writeTy f.ty (f.sat == 1) (sI s e 0 f.a f.ty + sI s e 0 f.b f.ty)
def execGmin (f : VF) (s : State) : Out :=
  uniform s (.gmin f) f.d (tySpan f.ty) fun e => writeTy f.ty false (min (sI s e 0 f.a f.ty) (sI s e 0 f.b f.ty))
def execGmax (f : VF) (s : State) : Out :=
  uniform s (.gmax f) f.d (tySpan f.ty) fun e => writeTy f.ty false (max (sI s e 0 f.a f.ty) (sI s e 0 f.b f.ty))
/-- R260. -/
def groupFloat (op a b c : Nat) : Nat :=
  match op with
  | 0 => fAdd fmtF32 0 a b
  | 1 => fSub fmtF32 0 a b
  | 2 => fMul fmtF32 0 a b
  | 3 => fFma fmtF32 0 a b c
  | 4 => fMin fmtF32 a b
  | _ => fMax fmtF32 a b
def execGfop (f : VF) (s : State) : Out :=
  uniform s (.gfop f) f.d 1 fun e => groupFloat f.ty (uni32 s e f.a true).toNat (uni32 s e f.b true).toNat (uni32 s e f.c true).toNat

/-- gldk performs at issue, through the constant cache; its result is held, as ldk's is, until the older instructions of the bundle's threads
let it be written (R56, R150, R160), and every thread of the bundle takes its faults (R261). An address in the private window is relocated by the
lowest lane's slot (which thread's is not stated for a uniform address: DESIGN CHOICE, log 76). -/
def execGldk (f : VF) (s : State) : Out :=
  withGate s (.gldk f) fun e s =>
    let n := tyBytes f.ty
    let va := addrPlus (uni64 e f.a).toNat (sext 32 (s32 s e 0 f.b)) / n * n
    match e.lanes.head? with
    | none => .next (advance s e)
    | some (l, tid) =>
      match checkLanes s e [(l, tid, va)] n kRead false with
      | .wait s => .next s
      | .fault g s => .next (faultBundle s e (if g.refused = 0 then g else { g with refused := e.b.lanes }))
      | .ok ts =>
        let s := dropEnded s e.core e.team.ctx
        match ts.head? with
        | none => .next (advance s e)
        | some t =>
          match kcRead s e.core e.team.ctx t.tgt t.ea n with
            | .ok bs s => memIssue s e (.gldk f) (e.lanes.map fun (l, tid) => ({ lane := l, tid := tid, va := va, ea := t.ea, tgt := t.tgt, n := n, kind := .load, pol := 1, ptes := t.lines, stage := .returned, result := bs } : LaneOp)) none
            | .wait s' => .next (stallAt (keepWaits s s') e)
            | .refused _ _ _ s' => .next (stallAt (keepWaits s s') e)
            | .poisoned ea s => .next (faultBundle s e { insnFault e .bpoison with addrs := [va, ea / 256 * 256] })

end Sys2Proof.Machine
end

