-- ==== Sys2Proof/Machine/Launch.lean ====
section
/-! DEFINITION. Queue descriptors and rings as the part reads and writes them (R368 to R370), and the posting of a packet (R366).
The part's own accesses to these structures translate in the context with SYS permitted and are admitted against the page's owner
(R438, log 12). -/

namespace Sys2Proof.Machine

/-- The bytes of a 64-bit word i of a block. -/
def wordAt (bs : List Byte) (i : Nat) : Nat := leNat ((bs.drop (8 * i)).take 8)
/-- The descriptor of a queue (R368). -/
def readDesc (s : State) (x : Nat) (c : Ctx) (q : Nat) : Virt (List Byte) := virtRead s none x 0 (c.qtable + 64 * q) 64 kRead true
/-- A write of a descriptor's bytes. -/
def writeDesc (s : State) (x : Nat) (c : Ctx) (q off : Nat) (bs : List Byte) : Virt Unit :=
  virtWrite s none x 4096 0 (c.qtable + 64 * q + off) bs kWrite true
def descRing (d : List Byte) : Nat := wordAt d 0
def descErr (d : List Byte) : Nat := nfld (wordAt d 1) 31 24
def descDevOk (d : List Byte) : Bool := (wordAt d 1).testBit 16
def descPrio (d : List Byte) : Nat := nfld (wordAt d 1) 9 8
def descLog (d : List Byte) : Nat := nfld (wordAt d 1) 3 0
def descWidx (d : List Byte) : Nat := wordAt d 2
def descRidx (d : List Byte) : Nat := wordAt d 3
def descCidx (d : List Byte) : Nat := wordAt d 4
/-- A refused write of the part to one of its structures waits, with what it is part of: it is tried again at each later credit (R438). -/
def Virt.retried {α : Type} (r : Virt α) (s : State) : Virt α :=
  match r with
  | .fault .caprefuse _ _ _ _ => .wait s
  | .fault .tiershort _ _ _ _ => .wait s
  | r => r
/-- The ring is full (R368). -/
def ringFull (d : List Byte) : Bool := (descWidx d + 2 ^ 64 - descRidx d) % 2 ^ 64 == 2 ^ descLog d
/-- The address of a packet's slot (R368). -/
def slotAddr (d : List Byte) (i : Nat) : Nat := (descRing d + 64 * (i % 2 ^ descLog d)) % 2 ^ 64

/-- Sets VALID in a packet's bytes (R366, R370). -/
def setValid (pkt : List Byte) (v : Bool) : List Byte := pkt.mapIdx fun i b => if i = 4 then setBit b 0 v else b
/-- The queue's notify register (R369): the largest value ever written is kept. -/
def notifyOf (s : State) (vd n q : Nat) : Nat := ((mapGet? (s.vd vd).notify (n * 4096 + q)).getD 0).toNat
def ringNotify (s : State) (vd n q v : Nat) : State :=
  s.updVd vd fun d => { d with notify := mapSet d.notify (n * 4096 + q) (BitVec.ofNat 64 (max (notifyOf s vd n q) v)) }

/-- R366 from the moment the packet's bytes are known: status and index. The slot is written as store-class lanes of the issuing thread, in
its private slot and without SYS. A descriptor or a slot that does not translate, or a slot whose write is refused, ends the step with nothing
changed; the rule gives a fault for the check and the read of the packet alone, and the model lets the bundle take this one too (DESIGN
CHOICE, log 93). A refused write of WIDX, the part's own, leaves the whole step to be tried again (R438). -/
def launchStep (s : State) (x core pslot : Nat) (pkt : List Byte) : Virt (Nat × Nat) :=
  match s.ctx x with
  | none => .ok (2, 0) s
  | some c =>
    let q := nfld (wordAt pkt 0) 63 52
    if c.qcount ≤ q then .ok (2, 0) s
    else (readDesc s x c q).bind fun d s =>
      if !descDevOk d || descLog d = 0 then .ok (2, 0) s
      else if ringFull d then .ok (1, 0) s
      else
        (virtWrite s (some core) x x pslot (slotAddr d (descWidx d)) (setValid pkt true) kWrite false).bind fun _ s =>
          ((writeDesc s x c q 16 (leBytes 8 (descWidx d + 1))).retried s).bind fun _ s =>
            .ok (0, descWidx d) (ringNotify s c.vd c.loc q (descWidx d + 1))
/-- The pair a launch writes (R366). -/
def launchResult (r : Nat × Nat) : Nat := r.1 + r.2 % 2 ^ 32 * 2 ^ 32

end Sys2Proof.Machine
end

