-- ==== Sys2Proof/Machine/Window.lean ====
section
/-! DEFINITION. What becomes of an issued memory instruction at its core: forwarding and L1 (R151), requests, the store buffer
(R150), replies, completion (R53, R56, R290), and the walks of translation (R18). -/

namespace Sys2Proof.Machine

/-! ## Issues and their lanes -/

def findIss (t : Team) (iss : Nat) : Option Inflight := t.iw.find? fun i => i.id == iss
def findLane (i : Inflight) (lane : Nat) : Option LaneOp := i.lanes.find? fun l => l.lane == lane
def State.updIss (s : State) (tk iss : Nat) (f : Inflight → Inflight) : State :=
  s.updTeam tk fun t => { t with iw := t.iw.map fun i => if i.id == iss then f i else i }
def State.updLane (s : State) (tk iss lane : Nat) (f : LaneOp → LaneOp) : State :=
  s.updIss tk iss fun i => { i with lanes := i.lanes.map fun l => if l.lane == lane then f l else l }
/-- A team, one of its issues and one of the issue's lanes. -/
def laneOf (s : State) (tk iss lane : Nat) : Option (Team × Inflight × LaneOp) :=
  (s.team tk).bind fun t => (findIss t iss).bind fun i => (findLane i lane).map fun l => (t, i, l)

/-- Issues older than one, oldest first. -/
def olderThan (t : Team) (iss : Nat) : List Inflight := t.iw.takeWhile fun i => i.id != iss
/-- R153: an older access of the thread that overlaps the lane has not got to where the lane must follow it. -/
def mustFollow (t : Team) (iss : Nat) (l : LaneOp) : Bool :=
  (olderThan t iss).any fun i => !i.scratch && i.lanes.any fun o =>
    o.tid == l.tid && overlaps o.tgt o.ea o.n l.tgt l.ea l.n && (o.openLoad || (o.kind != .load && o.stage == .ready))

/-! ## l1_lookup (R123, R151) -/

inductive Lookup where
  | hit (bs : List Byte)
  | miss
  | wait

/-- The core's bytes of a line. -/
def l1Bytes (x : L1Line) (ea n : Nat) : List Byte := cellsGet x.data (ea % 128) n
/-- The store-buffer entry that decides a load: the newest that overlaps it. -/
def newestOverlap (c : Core) (l : LaneOp) : Option SbEntry := (c.sb.filter fun e => overlaps e.tgt e.ea e.n l.tgt l.ea l.n).getLast?
def l1Lookup (s : State) (core : Nat) (l : LaneOp) : Lookup :=
  let c := s.core core
  match newestOverlap c l with
  | some e => if e.ea ≤ l.ea && l.ea + l.n ≤ e.ea + e.n && e.admitted && e.kind == .store then .hit ((e.data.drop (l.ea - e.ea)).take l.n) else .wait
  | none => if l.l1Hit c then .hit (l1Bytes (c.l1Line (lineOf l.ea)) l.ea l.n) else .miss

/-- A load lane takes the bytes that the store buffer or L1 holds for it; a chunk that fails is lost instead (R93). -/
def takeLocal (s : State) (tk iss core : Nat) (l : LaneOp) : State :=
  match l1Lookup s core l with
  | .hit bs =>
    let (lost, s) := if (newestOverlap (s.core core) l).isSome then (false, s) else l1Read s core l.ea
    if lost then s else s.updLane tk iss l.lane fun l => { l with stage := .returned, result := bs }
  | _ => s

def execLocalLoad (xTeam xIss xLane : Nat) (s : State) : Out :=
  match laneOf s xTeam xIss xLane with
  | none => notNow "no such lane"
  | some (t, i, l) =>
    if !(l.kind == .load && l.stage == .ready && !i.scratch) then notNow "not a load lane that is ready"
    else if mustFollow t xIss l then notNow "follows an older access of the thread"
    else match l1Lookup s t.core l with
      | .hit _ => .next (takeLocal s xTeam xIss t.core l)
      | _ => notNow "not held here"

/-! ## Requests (R150, R289) -/

/-- The load lanes of an issue that touch the line of one of them. -/
def lineLanes (i : Inflight) (l : LaneOp) : List LaneOp := i.lanes.filter fun o => o.kind == .load && o.tgt == l.tgt && lineOf o.ea == lineOf l.ea
/-- Those that are still ready. -/
def lineMates (i : Inflight) (l : LaneOp) : List LaneOp := (lineLanes i l).filter fun o => o.stage == .ready
/-- A ready lane of the line follows an older access, or waits for the store buffer: the line's one request waits with it (R289). -/
def lineWaits (s : State) (t : Team) (i : Inflight) (l : LaneOp) : Bool :=
  (lineMates i l).any fun o => mustFollow t i.id o || (match l1Lookup s t.core o with | .wait => true | _ => false)
/-- R289: the grain for bytes lo to hi: base and size. -/
def grainOf (lo hi : Nat) : Nat × Nat :=
  match [16, 32, 64].find? fun g => lo / g == hi / g with
  | some g => (lo / g * g, g)
  | none => (lo / 128 * 128, 128)
def lanesGrain (ls : List LaneOp) (l : LaneOp) : Nat × Nat :=
  grainOf (ls.foldl (fun m o => min m o.ea) l.ea) (ls.foldl (fun m o => max m (o.ea + o.n - 1)) (l.ea + l.n - 1))
/-- R119: the core gives up owned words with their data. -/
def releaseWords (s : State) (core line : Nat) (words : BitVec 32) : State :=
  let s := l1ReadOwned s core line words
  let x := (s.core core).l1Line line
  let w := x.owned &&& words
  if w = 0 then s
  else
    let s := sendUp s core (line * 128) (.release line w (x.written &&& w) x.data)
    s.updCore core fun c => c.setL1 line { x with owned := x.owned &&& ~~~w, written := x.written &&& ~~~w }
/-- The chunks of a line that the core holds as tracked. -/
def L1Line.tracked (x : L1Line) : BitVec 8 := maskOf ((List.range 8).filter fun i => ((x.chunks[i]?).getD .empty).isTracked)
/-- A tracked copy of the line is on its way to the core: a fill or a grant. HELD of a request is the core's holding when it is sent
(R124), so a store-class request waits for it, as the recorded sharers of R122 need (log 19). -/
def copyComing (s : State) (core line : Nat) : Bool :=
  ((s.core core).sb.any fun x => x.sent && x.pol == 0 && x.kind == .store && x.tgt != 1 && x.n != 0 && lineOf x.ea == line) ||
  s.teams.any fun (_, t) => t.core == core && t.iw.any fun i => !i.scratch && i.lanes.any fun l =>
    l.kind == .load && l.stage == .sent && l.tgt != 1 && l.pol != 1 && lineOf l.ea == line

def execSend (xTeam xIss xLane : Nat) (s : State) : Out :=
  match laneOf s xTeam xIss xLane with
  | none => notNow "no such lane"
  | some (t, i, l) =>
    if !(l.kind == .load && l.stage == .ready && !i.scratch) then notNow "not a load lane that is ready"
    else if mustFollow t xIss l then notNow "follows an older access of the thread"
    else match l1Lookup s t.core l with
      | .miss =>
        if l.tgt = 1 then .next { s.updLane xTeam xIss xLane fun l => { l with stage := .sent, since := s.ns } with hostOut := s.hostOut ++ [.read l.ea l.n] }
        else if lineWaits s t i l then notNow "a lane of the line has to wait"
        else if l.pol != 1 && !l1Way s t.core (lineOf l.ea) then notNow "no way of the line's L1 set is free (L1_EVICTION)"
        else
          -- one request for the line: the lanes that the core can serve take their bytes now, the others go with it
          let s := (lineMates i l).foldl (fun s o => takeLocal s xTeam xIss t.core o) s
          let i := (((s.team xTeam).bind fun t => findIss t xIss)).getD i
          let mates := lineMates i l
          let line := lineOf l.ea
          let (base, n) := lanesGrain (lineLanes i l) l
          let s := if l.pol = 0 then s else releaseWords s t.core line (wordsMask (base % 128) n)
          let kind : ReqKind := if l.pol = 1 then .wtLoad else .fill l.pol (chunksOf (base % 128) n) l.lease
          let r : HomeReq := { core := t.core, line := line, kind := kind, team := xTeam, iss := xIss, lane := xLane, ctx := t.ctx, ea := base, n := n, held := ((s.core t.core).l1Line line).held }
          let s := sendUp s t.core l.ea (.req r)
          .next (mates.foldl (fun s o => s.updLane xTeam xIss o.lane fun o => { o with stage := .sent, lead := xLane }) s)
      | _ => notNow "held here, or waits for the store buffer"

/-! ## The store buffer (R150) -/

/-- An access of another instruction of the core was translated through the line and is still to perform (R20). What issues once a store
to the line is on its way waits at its issue (writesComing), so none of these is ordered behind the store. The lanes of the store's own
instruction perform before it completes (DEDUCED, log 85). -/
def othersDepend (s : State) (core line iss : Nat) : Bool :=
  s.yieldsOn core line || (s.core core).sb.any (fun x => x.iss != iss && x.ptes.contains line) ||
  s.teams.any fun (_, t) => t.core == core && t.iw.any fun i => i.id != iss && i.lanes.any fun l =>
    l.ptes.contains line && (l.stage == .ready || l.stage == .sent || l.stage == .entered)

def execEnter (xTeam xIss xLane : Nat) (s : State) : Out :=
  match laneOf s xTeam xIss xLane with
  | none => notNow "no such lane"
  | some (t, i, l) =>
    let c := s.core t.core
    if l.kind == .load || l.stage != .ready || i.scratch then notNow "not a store-class lane that is ready"
    else if i.lanes.any fun o => o.lane < l.lane && o.stage == .ready then notNow "a lower lane has not entered"
    else if mustFollow t xIss l then notNow "follows an older access of the thread"
    else if l.n == 0 && ((olderThan t xIss).any fun o => !o.scratch && o.lanes.any fun x => x.tid == l.tid && x.kind != .load && x.stage == .ready) then notNow "wback follows the thread's older stores"
    else if l.tgt != 1 && l.n != 0 && othersDepend s t.core (lineOf l.ea) xIss then notNow "accesses translated through the line are still to perform"
    else if (match l.kind with | .atom _ _ ret => ret | _ => false) && (c.sb.any fun e => overlaps e.tgt e.ea e.n l.tgt l.ea l.n) then notNow "the atomic overlaps a store-buffer entry"
    else
      let (id, s) := s.fresh
      let e : SbEntry := { id := id, team := xTeam, tid := l.tid, iss := xIss, lane := xLane, ctx := t.ctx, ea := l.ea, tgt := l.tgt, n := l.n, kind := l.kind, pol := l.pol, data := l.data, admitted := !l.unadmitted, ptes := l.ptes }
      let s := s.updCore t.core fun c => { c with sb := c.sb ++ [e] }
      .next (s.updLane xTeam xIss xLane fun l => { l with stage := .entered, sb := id })

/-- Entries bound for one home: the host port, or a slice. -/
def sameHome (s : State) (a b : SbEntry) : Bool := if a.tgt = 1 || b.tgt = 1 then a.tgt == b.tgt else s.slice a.ea == s.slice b.ea
/-- The entry leaves SB(c). -/
def dropEntry (s : State) (core id : Nat) : State := s.updCore core fun c => { c with sb := c.sb.filter fun e => e.id != id }
/-- The lanes of an issue in the billet of an entry share one admission (R49). -/
def sharesBillet (l : LaneOp) (e : SbEntry) : Bool := l.tgt == e.tgt && l.tgt != 1 && billetOf l.ea == billetOf e.ea
/-- The entry's lane has performed (R387: progress); its reply admits the issue's other lanes in the billet (R49). -/
def laneDone (s : State) (core : Nat) (e : SbEntry) (result : List Byte) : State :=
  let s := if e.admitted then s else
    (s.updIss e.team e.iss fun i => { i with lanes := i.lanes.map fun l => if sharesBillet l e then { l with unadmitted := false } else l }).updCore core fun c =>
      { c with sb := c.sb.map fun x => if x.iss == e.iss && x.team == e.team && x.tgt == e.tgt && billetOf x.ea == billetOf e.ea then { x with admitted := true } else x }
  progress (s.updLane e.team e.iss e.lane fun l => { l with stage := .performed, result := result, unadmitted := false }) e.team
/-- Words of the line that an ownership request in flight asks for. -/
def ownInFlight (c : Core) (line : Nat) (words : BitVec 32) : Bool :=
  c.sb.any fun x => x.sent && x.pol == 0 && x.kind == .store && x.tgt != 1 && lineOf x.ea == line && (wordsMask (x.ea % 128) x.n &&& words) != 0
/-- An OWN store writes words its core owns (R152). -/
def writeOwned (s : State) (core : Nat) (e : SbEntry) : State :=
  let line := lineOf e.ea
  s.updCore core fun c =>
    let x := c.l1Line line
    c.setL1 line { x with data := cellsSet x.data (e.ea % 128) e.data, written := x.written ||| wordsMask (e.ea % 128) e.n }

/-- A write-back's entry at its home (R67): it completes when its billet has been closed since, or is found not open behind the
core's older stores to it. -/
def wbackAtHome (s : State) (core : Nat) (e : SbEntry) : Out :=
  let b := billetOf e.ea
  let done := fun (s : State) => Host.Outcome.next (laneDone (dropEntry s core e.id) core e [])
  if e.closed then done s
  else if ((s.core core).sb.takeWhile fun x => x.id != e.id).any fun x => x.n != 0 && x.tgt != 1 && billetOf x.ea == b then notNow "an older store to the billet is in flight"
  else if !(s.billet b).opened then done s
  else notNow "the billet is still to be closed (BILLET_CLOSE)"
/-- The entry is marked sent. -/
def markSent (s : State) (core id : Nat) : State := s.updCore core fun c => { c with sb := c.sb.map fun x => if x.id == id then { x with sent := true } else x }

def execLeave (xCore xEntry : Nat) (s : State) : Out :=
  let c := s.core xCore
  match c.sb.find? fun e => e.id == xEntry with
  | none => notNow "no such entry"
  | some e =>
    let line := lineOf e.ea
    let words := wordsMask (e.ea % 128) e.n
    if e.sent && e.n == 0 then wbackAtHome s xCore e
    else if e.sent then notNow "already sent"
    else if (c.sb.takeWhile fun x => x.id != e.id).any fun x => !x.sent && sameHome s x e then notNow "an older entry is bound for the same home"
    else if e.n = 0 then .next (markSent s xCore e.id)
    else if e.tgt = 1 then
      match e.kind with
      | .atom op ty _ => .next (markSent { s.updLane e.team e.iss e.lane fun l => { l with since := s.ns } with hostOut := s.hostOut ++ [.atomic e.ea op ty e.data] } xCore e.id)
      | _ => .next (laneDone (dropEntry { s with hostOut := s.hostOut ++ [.write e.ea e.data], hostPend := s.hostPend ++ [{ core := xCore, entry := e.id, team := e.team, iss := e.iss, ea := e.ea, ctx := e.ctx, since := s.ns }] } xCore e.id) xCore e [])
    else if ownInFlight c line words then notNow "an ownership request for the words is in flight"
    else if e.pol = 0 && e.kind == .store && ((c.l1Line line).owned &&& words) = words then
      .next (laneDone (dropEntry (writeOwned s xCore e) xCore e.id) xCore e [])
    else if copyComing s xCore line then notNow "a tracked copy of the line is on its way"
    else if e.pol = 0 && e.kind == .store && !l1Way s xCore line then notNow "no way of the line's L1 set is free (L1_EVICTION)"
    else if othersDepend s xCore line e.iss then notNow "accesses translated through the line are still to perform"
    else
      let own := e.pol == 0 && e.kind == .store
      let s := if own then s else releaseWords s xCore line words
      let s := s.updCore xCore (·.dropTlb line)
      let kind : ReqKind := match e.kind with
        | .atom op ty ret => .atom op ty ret
        | _ => if own then .own words else .write
      let r : HomeReq := { core := xCore, line := line, kind := kind, team := e.team, iss := e.iss, lane := e.lane, sb := e.id, ctx := e.ctx, ea := e.ea, n := e.n, data := e.data, mark := !e.admitted, held := ((s.core xCore).l1Line line).held, has := ((s.core xCore).l1Line line).tracked }
      let s := sendUp s xCore e.ea (.req r)
      .next (markSent s xCore e.id)

/-! ## Replies at the core (R150) -/

/-- The head of a channel to the core, and the state without it. -/
def takeDown (s : State) (core slice : Nat) : Option (DownMsg × State) :=
  match (mapGet? (s.core core).down slice).getD [] with
  | [] => none
  | m :: rest => some (m, s.updCore core fun c => { c with down := if rest.isEmpty then mapErase c.down slice else mapSet c.down slice rest })
/-- A reply that installs a filter entry does so (R48, R50). -/
def installFilter (s : State) (core ea : Nat) (opens : Bool) : State := if opens then s.updCore core fun c => filterAdd c (billetOf ea) else s
/-- R298: what an atomic writes. -/
def atomResult (op ty : Nat) (old data : List Byte) : List Byte :=
  let n := old.length
  let o := leNat old
  let a := leNat (data.take n)
  let x := leNat (data.drop n)
  let m := 2 ^ (8 * n)
  let f := ty == 13
  let sx := fun v => if tySigned ty then sext (8 * n) v else (v : Int)
  leBytes n (match op with
    | 0 => if f then fAdd fmtF32 0 o a else (o + a) % m
    | 1 => if f then fMin fmtF32 o a else if sx a < sx o then a else o
    | 2 => if f then fMax fmtF32 o a else if sx o < sx a then a else o
    | 3 => o &&& a
    | 4 => o ||| a
    | 5 => o ^^^ a
    | 6 => a
    | 7 => if o = a then x else o
    | 8 => if a ≤ o then 0 else o + 1
    | _ => if o = 0 || a < o then a else o - 1)
/-- The bytes an entry's perform left. -/
def SbEntry.newBytes (e : SbEntry) (old : List Byte) : List Byte :=
  match e.kind with
  | .atom op ty _ => atomResult op ty old e.data
  | _ => e.data
def execStoreAck (xCore xSlice : Nat) (s : State) : Out :=
  match takeDown s xCore xSlice with
  | some (.ack id old opens, s) =>
    match (s.core xCore).sb.find? fun e => e.id == id with
    | none => .next s
    | some e =>
      let s := installFilter (dropEntry s xCore id) xCore e.ea opens
      let s := s.updCore xCore fun c => updateCopies c e.ea (e.newBytes old)
      .next (laneDone s xCore e old)
  | _ => notNow "no acknowledgement at the head of the channel"

def execOwnershipGrant (xCore xSlice : Nat) (s : State) : Out :=
  match takeDown s xCore xSlice with
  | some (.grant id line words chunks data opens, s) =>
    let s := s.updCore xCore fun c =>
      let x := installChunks (c.l1Line line) chunks data .tracked
      -- the grant leaves the core holding the chunks of its words as tracked, carried or not (R124, R138)
      let chunks := x.chunks.mapIdx fun i h => if words &&& chunkWords (setBit 0 i true) = 0 then h else .tracked
      c.setL1 line { x with chunks := chunks, owned := x.owned ||| words, written := x.written &&& ~~~(words &&& ~~~x.owned) }
    match (s.core xCore).sb.find? fun e => e.id == id with
    | none => .next s
    | some e => .next (laneDone (writeOwned (installFilter (dropEntry s xCore id) xCore e.ea opens) xCore e) xCore e [])
  | _ => notNow "no grant at the head of the channel"

/-- R49, R53: a refusal is shared by the issue's lanes in the billet that have not performed. Those that have not been sent are refused with
it, their entries discarded; the home answers the others alike. -/
def refuseLane (s : State) (core : Nat) (e : SbEntry) (cause : Cause) (billet reserve : Nat) : State :=
  let unsent := fun (l : LaneOp) => l.stage == .ready || (l.stage == .entered && (s.core core).sb.any fun x => x.id == l.sb && !x.sent)
  let shares := fun (l : LaneOp) => l.lane == e.lane || (sharesBillet l e && l.unadmitted && unsent l)
  let gone := match (s.team e.team).bind fun t => findIss t e.iss with
    | some i => (i.lanes.filter fun (l : LaneOp) => shares l && l.stage == Stage.entered).map LaneOp.sb
    | none => []
  (s.updIss e.team e.iss fun i =>
    { i with lanes := i.lanes.map fun l => if shares l then { l with stage := .refused, cause := cause, billet := billet, reserve := reserve } else l }).updCore core fun c =>
      { c with sb := c.sb.filter fun x => !gone.contains x.id }

def execAdmissionRefused (xCore xSlice : Nat) (s : State) : Out :=
  match takeDown s xCore xSlice with
  | some (.refuse id billet reserve cause, s) =>
    match (s.core xCore).sb.find? fun e => e.id == id with
    | none => .next s
    | some e => .next (dropEntry (refuseLane s xCore e cause billet reserve) xCore id)
  | _ => notNow "no refusal at the head of the channel"

/-- The lanes that went in the request of one of them (R289). -/
def answered (i : Inflight) (lead : Nat) : List LaneOp := i.lanes.filter fun l => l.kind == .load && l.stage == .sent && l.tgt != 1 && l.lead == lead
/-- Each of those lanes ends: with its bytes, or poisoned. -/
def answerLanes (s : State) (tk iss lead : Nat) (f : LaneOp → LaneOp) : State :=
  match (s.team tk).bind fun t => findIss t iss with
  | none => s
  | some i => (answered i lead).foldl (fun s l => s.updLane tk iss l.lane f) s

def execLoadReply (xCore xSlice : Nat) (s : State) : Out :=
  match takeDown s xCore xSlice with
  | some (.fill tk iss lane line chunks data lease, s) =>
    let h : Holding := match lease with | some e => .leased e | none => .tracked
    let x := installChunks ((s.core xCore).l1Line line) chunks data h
    .next (answerLanes (s.updCore xCore fun c => c.setL1 line x) tk iss lane fun l => { l with stage := .returned, result := l1Bytes x l.ea l.n })
  | some (.bytes tk iss lane base data, s) =>
    .next (answerLanes s tk iss lane fun l => { l with stage := .returned, result := (data.drop (l.ea - base)).take l.n })
  | some (.poison tk iss lane id, s) =>
    if id ≠ 0 then .next ((dropEntry s xCore id).updLane tk iss lane fun l => { l with stage := .poisoned, unadmitted := false })
    else .next (answerLanes s tk iss lane fun l => { l with stage := .poisoned })
  | _ => notNow "no load reply at the head of the channel"

/-! ## Completion (R53, R56, R150, R290) -/

def LaneOp.final (l : LaneOp) : Bool := l.stage == .returned || l.stage == .performed || l.stage == .refused || l.stage == .poisoned
/-- R53: every older instruction of the threads is complete. -/
def olderComplete (t : Team) (i : Inflight) (tids : List Nat) : Bool :=
  (olderThan t i.id).all fun o => o.lanes.all fun l => !tids.contains l.tid
/-- Where an instruction's results go: destination code, type code; group for a uniform one. -/
def resultOf : Instr → Option (BitVec 11 × Nat × Bool)
  | .ld f => some (f.d, f.ty, false)
  | .ldp f => some (f.d, f.ty, false)
  | .ldk f => some (f.d, f.ty, false)
  | .binfo f => some (f.d, 8, false)
  | .sld f => some (f.d, f.ty, false)
  | .atom f => some (f.d, f.ty.toNat, false)
  | .satom f => some (f.d, f.ty.toNat, false)
  | .gldk f => some (f.d, f.ty, true)
  | _ => none
/-- An older instruction of the issue's threads may still refuse or be poisoned, or has been (R51, R56), or has results that are to be
written first (R150). -/
def heldByOlder (t : Team) (i : Inflight) : Bool :=
  (olderThan t i.id).any fun o => o.lanes.any fun l =>
    i.lanes.any (fun x => x.tid == l.tid) && ((l.unadmitted && l.stage != .performed) || l.stage == .refused || l.stage == .poisoned ||
      ((resultOf o.insn).isSome && (resultOf i.insn).isSome) || l.openLoad)
/-- A lane's result is written; an exited thread's is dropped (R282). -/
def writeResult (s : State) (tk : Nat) (i : Inflight) (l : LaneOp) : State :=
  match resultOf i.insn with
  | none => s
  | some (d, ty, uni) =>
    let x := extendTo ty (leNat l.result)
    match opKind d with
    | .v n => s.updThread tk l.tid fun th => if th.live then th.setV n (tySpan ty) x else th
    | .g n => if uni then s.updGroup tk i.grp fun g => g.setG n (tySpan ty) x else s
    | _ => s
/-- Held results of a thread's younger loads are discarded (R51). -/
def discardYounger (s : State) (tk iss tid : Nat) : State :=
  s.updTeam tk fun t =>
    let old := (olderThan t iss).map Inflight.id ++ [iss]
    { t with iw := t.iw.map fun i => if old.contains i.id then i else { i with lanes := i.lanes.filter fun l => l.tid != tid } }
/-- The fault of an issue. -/
def issFault (i : Inflight) (c : Cause) : FaultInfo := { cause := c, word := i.word, clause := i.clause, index := i.index, prio := i.prio, bundle := i.bundle }
/-- The fault of a command's instruction for its thread, with the address of what it met; a command that was saved with its team has lost all
but its word (R384). -/
def engineFault (s : State) (tk iss tid : Nat) (c : Cause) (word : DWord) (addr : Nat) : FaultInfo :=
  match s.team tk with
  | none => { cause := c, word := word, addrs := [addr], time := s.ns }
  | some t => faultNow s t tid (match findIss t iss with
    | some i => { issFault i c with word := word, addrs := [addr] }
    | none => { cause := c, word := word, addrs := [addr] })
def stageMask (i : Inflight) (p : LaneOp → Bool) : LaneMask := maskOf ((i.lanes.filter p).map LaneOp.lane)
/-- R53: the refused lanes' threads park. -/
def takeRefusal (s : State) (tk : Nat) (i : Inflight) : State :=
  let refs := i.lanes.filter fun l => l.stage == .refused
  if refs.isEmpty then s else
  let cause : Cause := if refs.any fun l => l.cause == .caprefuse then .caprefuse else .tiershort
  let f := { issFault i cause with done := stageMask i (fun l => l.stage == .performed), refused := stageMask i (fun l => l.stage == .refused), addrs := ((dedup (refs.map LaneOp.billet)).take 4).map (· * 256), reserve := i.lastReserve }
  refs.foldl (fun s l => (parkThread (discardYounger s tk i.id l.tid) tk l.tid f).updThread tk l.tid fun th => { th with origin := mapGet? i.replays l.tid }) s
/-- R56: the threads with poisoned lanes take BPOISON (SPOISON for the scratchpad, R106); the error wins over the refusal of other lanes of
the instruction (R403). -/
def takePoison (s : State) (tk : Nat) (i : Inflight) : State :=
  match i.lanes.filter fun l => l.stage == .poisoned with
  | [] => s
  | l :: _ =>
    let bad := i.lanes.filter fun l => l.stage == .poisoned || l.stage == .refused
    let store := bad.any fun l => l.kind != .load
    let f := { issFault i .bpoison with done := if store then stageMask i (fun l => l.stage == .performed) else 0, refused := if store then stageMask i (fun l => l.stage != .performed) else 0, addrs := [l.va, l.ea / 256 * 256] }
    bad.foldl (fun s l => parkThread (discardYounger s tk i.id l.tid) tk l.tid f) s
/-- The issue leaves the window and its flag goes down. -/
def leaveWindow (s : State) (tk : Nat) (i : Inflight) : State :=
  let s := s.updTeam tk fun t => { t with iw := t.iw.filter fun x => x.id != i.id }
  s.updGroup tk i.grp fun g => g.decFlag i.flag

/-- A pfence completes once the store-buffer entries it has noted, and the threads' older store-class accesses and engine writes, have
performed: KC(c) is emptied, and so is what the host has been asked for before on the core's constant path (R161, R301). -/
def completeFence (s : State) (tk : Nat) (t : Team) (i : Inflight) (ids : List Nat) : Out :=
  if (s.core t.core).sb.any (fun e => ids.contains e.id) || writesOpen (olderThan t i.id) i.tids then notNow "older stores are still to perform"
  else
    let s := leaveWindow s tk i
    .next ((dropConstReads s t.core).updCore t.core fun k => { k with kc := [] })

def execComplete (xTeam xIss : Nat) (s : State) : Out :=
  match (s.team xTeam).bind fun t => (findIss t xIss).map fun i => (t, i) with
  | none => notNow "no such issue"
  | some (t, i) =>
    let bad := (i.lanes.filter fun l => l.stage == .refused || l.stage == .poisoned).map LaneOp.tid
    if (s.core t.core).asleep then notNow "the core is asleep" else
    match i.fence with
    | some ids => completeFence s xTeam t i ids
    | none =>
    -- an engine command leaves the window with its engine's step (R164, R329)
    if i.engine || !i.lanes.all LaneOp.final then notNow "not every lane has completed"
    else if heldByOlder t i then notNow "held behind an older admission reply"
    else if !bad.isEmpty && !olderComplete t i bad then notNow "older instructions of the threads are not complete"
    else
      let s := match i.acq with | some sc => acquire s t.core sc | none => s
      let s := i.lanes.foldl (fun s l => if l.stage == .returned || l.stage == .performed then writeResult s xTeam i l else s) s
      let s := leaveWindow s xTeam i
      .next (if i.lanes.any fun l => l.stage == .poisoned then takePoison s xTeam i else takeRefusal s xTeam i)

/-! ## The host's answers (R167, R412) -/

/-- A store that the host has acknowledged (R156). -/
def hostAcked (s : State) (tk iss : Nat) : Option State :=
  if s.hostPend.any fun h => h.team == tk && h.iss == iss then some { s with hostPend := removeFirst (fun h => h.team == tk && h.iss == iss) s.hostPend } else none
/-- A lane's answer from the host: bytes, or none for a status other than success or a timeout. -/
def hostAnswer (s : State) (tk iss lane : Nat) (bs : Option (List Byte)) : Option State :=
  match laneOf s tk iss lane with
  | some (t, _, l) =>
    let ones := List.replicate l.n (BitVec.allOnes 8)
    let give := (bs.getD ones).take l.n
    if l.tgt != 1 || (match bs with | some b => decide (b.length < l.n) && l.kind != .store | none => false) then none
    else match l.kind with
      | .load => if l.stage == .sent then some (s.updLane tk iss lane fun l => { l with stage := .returned, result := give }) else none
      | .atom _ _ _ =>
        match (s.core t.core).sb.find? fun e => e.id == l.sb && e.sent with
        | some e => some (laneDone (dropEntry s t.core e.id) t.core e give)
        | none => none
      | .store => hostAcked s tk iss
  | none =>
    if (hostAcked s tk iss).isSome then hostAcked s tk iss
    else if s.hostReads.any fun r => r.id == iss && r.data.isNone && (match bs with | some b => decide (r.n ≤ b.length) | none => true) then
      some { s with hostReads := s.hostReads.map fun r => if r.id == iss then { r with data := some ((bs.getD (List.replicate r.n (BitVec.allOnes 8))).take r.n) } else r }
    else none
def execHostCompletion (xTeam xIss xLane : Nat) (xBytes : List Byte) (s : State) : Out :=
  match hostAnswer s xTeam xIss xLane (some xBytes) with
  | some s => .next s
  | none => notNow "nothing is outstanding at the host"
/-- The host address that an answer is for. -/
def hostAddr (s : State) (tk iss lane : Nat) : Nat :=
  match laneOf s tk iss lane with
  | some (_, _, l) => l.ea
  | none => match s.hostPend.find? fun h => h.team == tk && h.iss == iss with
    | some h => h.ea
    | none => ((s.hostReads.find? fun r => r.id == iss).map HostRead.ea).getD 0
/-- When what an answer is for went out. -/
def hostSince (s : State) (tk iss lane : Nat) : Nat :=
  match laneOf s tk iss lane with
  | some (_, _, l) => if l.kind == .store then ((s.hostPend.find? fun h => h.team == tk && h.iss == iss).map HostPend.since).getD 0 else l.since
  | none => match s.hostPend.find? fun h => h.team == tk && h.iss == iss with
    | some h => h.since
    | none => ((s.hostReads.find? fun r => r.id == iss).map HostRead.since).getD 0
/-- The context concerned: that of the lane's team; of a store that is still under way, also once its team has left; of a read by a requester
that is no lane, that which it was made for. -/
def hostCtx (s : State) (tk iss lane : Nat) : Nat :=
  match laneOf s tk iss lane with
  | some (t, _, _) => t.ctx
  | none => match s.hostPend.find? fun h => h.team == tk && h.iss == iss with
    | some h => h.ctx
    | none => ((s.hostReads.find? fun r => r.id == iss).map HostRead.ctx).getD 4096
/-- A kind 10 record with the host address, at most once in a millisecond per context (R412, R416). -/
def postHostError (s : State) (ctx ea : Nat) : State :=
  match s.ctx ctx with
  | none => s
  | some c =>
    if (match c.lastKind10 with | some t => decide (s.ns < t + 1000000) | none => false) then s
    else (s.updCtx ctx fun c => { c with lastKind10 := some s.ns }).postCtx ctx (simpleRecord s 10 ea)
def hostFailed (s : State) (tk iss lane : Nat) : Out :=
  match hostAnswer s tk iss lane none with
  | some s' => .next (postHostError s' (hostCtx s tk iss lane) (hostAddr s tk iss lane))
  | none => notNow "nothing is outstanding at the host"
def execHostCompletionError (xTeam xIss xLane : Nat) (s : State) : Out := hostFailed s xTeam xIss xLane
/-- After 50 ms without an answer. -/
def execHostCompletionTimeout (xTeam xIss xLane : Nat) (s : State) : Out :=
  if s.ns < hostSince s xTeam xIss xLane + 50000000 then notNow "50 ms are not over" else hostFailed s xTeam xIss xLane
/-- What has gone to the host and has had no answer for 50 ms: team, issue, lane. -/
def hostOverdue (s : State) : List (Nat × Nat × Nat) :=
  let late := fun (t : Nat) => decide (t + 50000000 ≤ s.ns)
  s.teams.flatMap (fun (k, t) => t.iw.flatMap fun i => (i.lanes.filter fun l => l.tgt == 1 && l.kind != .store && (l.openLoad || l.openStore) && late l.since).map fun l => (k, i.id, l.lane)) ++
  (s.hostPend.filter fun h => late h.since).map (fun h => (h.team, h.iss, 0)) ++
  (s.hostReads.filter fun r => r.data.isNone && !isPeer r.ea && late r.since).map fun r => (0, r.id, 0)

/-! ## Walks (R18, R19) -/

def setWalker (s : State) (core k : Nat) (w : Walker) : State := s.updCore core fun c => { c with walkers := mapSet c.walkers k w }
/-- A walk that has ended well leaves its leaf in the caches; one that has read a pointer leaves that. -/
def keepEntry (s : State) (core : Nat) (w w' : Walker) (pte : DWord) : State :=
  match w'.ended with
  | some (.ok p lvl) => s.updCore core fun c => tlbInstall c w' p lvl
  | some _ => s
  | none => if w'.cas.isSome then s else s.updCore core fun c => tlbInstall c { w' with va := w.va } pte w.lvl

def execWalk (xCore xWalker : Nat) (s : State) : Out :=
  match mapGet? (s.core xCore).walkers xWalker with
  | none => notNow "no such walk"
  | some w =>
    if w.ended.isSome then notNow "the walk has ended"
    else match w.cas with
      | some _ => match walkStep s (some xCore) w with
        | .ok w' s => .next (setWalker (match w'.ended with | some (.ok p lvl) => s.updCore xCore fun c => tlbInstall c w' p lvl | _ => s) xCore xWalker w')
        | .wait s' => if keepWaits s s' = s then notNow "the entry's line is in use" else .next (keepWaits s s')
        | .poisoned _ _ => notNow "the entry's line is in use"
        | .refused _ _ _ _ => notNow "the entry's line is in use"
      | none => match w.got with
        | some pte =>
          let w' := walkTake w pte w.poisoned
          .next (setWalker (keepEntry s xCore w w' pte) xCore xWalker w')
        | none => match tlbPointer (s.core xCore) w with
          | some e => .next (setWalker s xCore xWalker { w with table := fld e.pte 53 8 * 256, lvl := w.lvl - 1, lines := e.lines })
          | none =>
            if (s.page (pageOf w.entry)).isNone then .next (setWalker s xCore xWalker { w with ended := some (.fault .unbacked w.lvl (w.entry / 256 * 256)) })
            else notNow "the entry is still to be read (WALK_READ)"

def execWalkRead (xCore xEa : Nat) (s : State) : Out :=
  match (s.core xCore).walkers.find? fun (_, w) => w.ended.isNone && w.got.isNone && w.cas.isNone && w.entry == xEa with
  | none => notNow "no walk reads this entry"
  | some (k, w) =>
    if (s.page (pageOf xEa)).isNone then notNow "the page is not backed"
    else match homeWalkRead s (some xCore) xEa with
      | .ok pte s => .next (setWalker s xCore k { w with got := some pte })
      | .poisoned _ s => .next (setWalker s xCore k { w with got := some 0, poisoned := true })
      | .wait s' => if keepWaits s s' = s then notNow "the entry's line is in use" else .next (keepWaits s s')
      | .refused _ _ _ _ => notNow "the entry's line is in use"

end Sys2Proof.Machine
end

