-- ==== Sys2Proof/Machine/Coherence.lean ====
section
/-! DEFINITION. The homes' side of coherence: requests served in arrival order (R124, R136), admission (R45), acknowledgements,
recalls and releases (R125, R137 to R140), closing (R46, R50), and evictions (R21, R48, R72, R76). -/

namespace Sys2Proof.Machine

/-! ## Arrival (R135, R136) -/

/-- The head of a core's channel to the home of an address, and the state without it. -/
def takeUp (s : State) (core ea : Nat) : Option (UpMsg × State) :=
  let h := s.slice ea
  match (mapGet? (s.core core).up h).getD [] with
  | [] => none
  | m :: rest => some (m, s.updCore core fun c => { c with up := if rest.isEmpty then mapErase c.up h else mapSet c.up h rest })


/-- A request arrives at its line's queue. -/
def arrive (s : State) (r : HomeReq) : State := s.updLine r.line fun l => { l with queue := l.queue ++ [r] }
/-- The lane of a request. -/
def reqLane (s : State) (r : HomeReq) : Option LaneOp := (laneOf s r.team r.iss r.lane).map fun x => x.2.2
/-- The lane shares an admission that its issue has been granted (R49). -/
def grantedReq (s : State) (r : HomeReq) : Bool := ((reqLane s r).map LaneOp.granted).getD false
/-- The place in a line's queue of an access that the host makes through an aperture (R411): no core's request. -/
def HomeReq.isHost (r : HomeReq) : Bool := r.core == 640
/-- The request the home takes next: the oldest; while the billet is closing, the oldest that need not wait for the close (R46). -/
def nextReq (s : State) (line : Nat) : Option HomeReq :=
  let closing := (s.billet (billetOfLine line)).closing
  (s.line line).queue.find? fun r => !(closing && r.mark && r.kind.isStore && !grantedReq s r)
def dropReq (s : State) (r : HomeReq) : State :=
  s.updLine r.line fun l => { l with queue := removeFirst (· == r) l.queue, started := false, admitted := false }
/-- A lane that shares a refusal decided for its issue (R49). -/
def doomedLane (s : State) (r : HomeReq) : Option LaneOp := (reqLane s r).filter fun l => r.kind.isStore && l.doomed
/-- The request must be admitted first (R45); a peer page is admitted by its grant (R147). -/
def needsAdmission (s : State) (r : HomeReq) : Bool :=
  r.kind.isStore && !isPeer r.ea && !(s.line r.line).admitted && !(s.billet (billetOfLine r.line)).opened
/-- What has been decided for an unadmitted request holds for every lane of its issue in the billet (R49). -/
def shareOutcome (s : State) (r : HomeReq) (f : LaneOp → LaneOp) : State :=
  if !r.mark then s else
  s.updIss r.team r.iss fun i => { i with lanes := i.lanes.map fun l =>
    if l.unadmitted && (l.stage == .ready || l.stage == .entered) && l.tgt != 1 && billetOf l.ea == billetOf r.ea then f l else l }
def shareGrant (s : State) (r : HomeReq) : State := shareOutcome s r fun l => { l with granted := true }
/-- A refusal: it is shared, its reserve is the issue's last so far (R53), and the reply goes to the core. -/
def refuseReq (s : State) (r : HomeReq) (cause : Cause) (reserve : Nat) : State :=
  let b := billetOf r.ea
  let s := (shareOutcome s r fun l => { l with doomed := true, cause := cause, billet := b, reserve := reserve }).updIss r.team r.iss fun i => { i with lastReserve := reserve }
  sendDown (dropReq s r) r.core r.ea (.refuse r.sb b reserve cause)

/-! ## Serving a request (R124, R127, R137) -/

/-- The words a request has recalled from another owner, and whether for writing. -/
def recallFor (r : HomeReq) (l : Line) : BitVec 32 × Bool :=
  if l.owner = r.core then (0, false) else
  match r.kind with
  | .fill _ chunks _ => (l.wmask &&& chunkWords chunks, false)
  | .wtLoad => (l.wmask &&& wordsMask (r.ea % 128) r.n, false)
  | .own _ => (l.wmask, true)
  | .write => (l.wmask &&& wordsMask (r.ea % 128) r.n, true)
  | .atom _ _ _ => (l.wmask &&& wordsMask (r.ea % 128) r.n, true)
/-- Recalls and invalidations go out; pointers are cleared as they do, but for the requester's where it keeps its copy. -/
def startReq (s : State) (r : HomeReq) : State :=
  let l := s.line r.line
  let (words, forWrite) := recallFor r l
  let s := if words = 0 then s else
    (sendDown s l.owner (r.line * 128) (.recall r.line words forWrite)).updLine r.line fun l => { l with recallPend := [l.owner], recallForWrite := forWrite }
  if !r.kind.isStore then s.updLine r.line fun l => { l with started := true }
  else
    let cs := (s.sharerCores l.sharers).filter (· != r.core)
    let s := cs.foldl (fun s c => sendDown s c (r.line * 128) (.inv r.line)) s
    let keep := if r.kind.isOwn then l.sharers.names r.core else r.held && l.sharers.records r.core
    s.updLine r.line fun l => { l with started := true, invPend := cs, sharers := if keep then .ptrs [r.core] else .ptrs [] }

/-- A reply installs a filter entry where the billet is open and not closing: what performs behind the close messages (R46 step 2) installs
none, since no message would end it (R50). -/
def opensFilter (s : State) (r : HomeReq) : Bool :=
  !isPeer r.ea && (s.billet (billetOfLine r.line)).opened && !(s.billet (billetOfLine r.line)).closing
/-- The holder set of the billet takes the core whose filter the reply fills (R50). -/
def addHolder (s : State) (r : HomeReq) : State :=
  if opensFilter s r then s.updBillet (billetOfLine r.line) fun b => { b with holders := b.holders.add r.core } else s
/-- A load fill is served (R124). -/
def serveFill (s : State) (r : HomeReq) (pol : Nat) (chunks : BitVec 8) (lease : Nat) : State :=
  let s := l2Fill s r.line chunks
  if s.isPoisoned r.line then sendDown s r.core r.ea (.poison r.team r.iss r.lane 0)
  else
    let data := cellsSet [] 0 (s.readMem (r.line * 128) 128)
    let s := if isPeer r.ea then s else touchPage s (pageOf r.ea)
    if pol = 2 then
      let (e, s) := leaseGrant s r.line lease
      sendDown s r.core r.ea (.fill r.team r.iss r.lane r.line chunks data (some e))
    else
      let s := s.updLine r.line fun l => l.share r.core
      sendDown s r.core r.ea (.fill r.team r.iss r.lane r.line chunks data none)
/-- The request performs; its reply goes to the core (R124, R151). -/
def performReq (s : State) (r : HomeReq) : State :=
  let s := dropReq s r
  match r.kind with
  | .fill pol chunks lease => serveFill s r pol chunks lease
  | .wtLoad =>
    let s := l2Fill s r.line (chunksOf (r.ea % 128) r.n)
    if s.isPoisoned r.line then sendDown s r.core r.ea (.poison r.team r.iss r.lane 0)
    else sendDown (if isPeer r.ea then s else touchPage s (pageOf r.ea)) r.core r.ea (.bytes r.team r.iss r.lane r.ea (s.readMem r.ea r.n))
  | .own words =>
    let chunks : BitVec 8 := maskOf ((bitsOf words).map (· / 4))
    -- no data for what the requester holds as tracked, as its pointer vouches (R138, log 21)
    let kept := r.has &&& ((s.core r.core).l1Line r.line).tracked
    let sent := if (s.line r.line).sharers.names r.core then chunks &&& ~~~kept else chunks
    let s := l2Fill s r.line chunks
    -- of a poisoned line, free values for what nothing has written since (R94, log 3)
    let (old, s) := oldAt s (r.line * 128) 128
    let data := cellsSet [] 0 old
    let s := s.updLine r.line fun l => { l with wmask := words ||| (if l.owner = r.core then l.wmask else 0), owner := r.core, sharers := .ptrs [r.core] }
    let s := if isPeer r.ea then s else touchPage (markDirtyPage (markMigration s (pageOf r.ea)) (pageOf r.ea)) (pageOf r.ea)
    sendDown (addHolder s r) r.core r.ea (.grant r.sb r.line words sent data (opensFilter s r))
  | .write => sendDown (addHolder (performWrite s r.ea r.data) r) r.core r.ea (.ack r.sb [] (opensFilter s r))
  | .atom op ty ret =>
    let s := l2Fill s r.line (chunksOf (r.ea % 128) r.n)
    -- the fill itself may find the poison (R35, R56, R94)
    if ret && s.isPoisoned r.line then sendDown s r.core r.ea (.poison r.team r.iss r.lane r.sb) else
    let (old, s) := oldAt s r.ea r.n
    sendDown (addHolder (performWrite s r.ea (atomResult op ty old r.data)) r) r.core r.ea (.ack r.sb old (opensFilter s r))

/-- An atom lane that meets poison is answered before any admission (R56, R124). -/
def poisonedAtom (s : State) (r : HomeReq) : Bool :=
  match r.kind with
  | .atom _ _ ret => ret && s.isPoisoned r.line
  | _ => false

/-- R143: a peer page without a record. The access goes to the owning device, one at a time, uncached here, as WT. -/
def sendAccess (s : State) (r : HomeReq) : State :=
  let at' := r.ea % 2 ^ 54
  let m : FabricMsg := .access r.team r.iss r.lane r.sb at' r.n r.kind.isStore (match r.kind with | .atom op ty _ => some (op, ty) | _ => none) r.data
  { dropReq s r with fabricOut := s.fabricOut ++ [(peerDev r.ea, m)], proxy := mapErase s.proxy (pageOf r.ea) }
/-- An uncorrectable error in the line's directory entry (R93; array 11, log 4): every core is invalidated, and the owned words are
recalled. -/
def dirError (s : State) (line : Nat) : State :=
  let l := s.line line
  let s := s.enabledCores.foldl (fun s c => sendDown s c (line * 128) (.inv line)) s
  let s := if l.wmask = 0 then s else sendDown s l.owner (line * 128) (.recall line l.wmask true)
  s.updLine line fun l => { l with invPend := s.enabledCores, sharers := .ptrs [], recallPend := if l.wmask = 0 then [] else [l.owner], recallForWrite := true }
/-- A lease is asked for while a kill of the page's leases is under way (R134). -/
def leaseBarred (s : State) (r : HomeReq) : Bool := r.kind.isSis && killing s (pageOfLine r.line)
/-- The home works on the request it is to take next: what it needs is sent, and it performs once nothing is outstanding. -/
def serve (s : State) (r : HomeReq) : Option State :=
  let l := s.line r.line
  if !l.started && (s.frozen (pageOfLine r.line) || l.busy || leaseBarred s r) then none
  else if !s.l2Room r.line then none
  else if s.errors.contains (11, r.line) && !l.busy then some (dirError (s.takeError 11 r.line).2 r.line)
  else if !l.started && (doomedLane s r).isSome then (doomedLane s r).map fun d => sendDown (dropReq s r) r.core r.ea (.refuse r.sb (billetOf r.ea) d.reserve d.cause)
  else if r.kind.isStore && !l.started && (grantRefused s r.ea).isSome then (grantRefused s r.ea).map fun (c, rsv, s) => refuseReq s r c rsv
  else if isPeer r.ea && mapGet? s.proxy (pageOf r.ea) == some 3 then some (sendAccess s r)
  else if !grantHeld s r.ea r.kind.isStore then (let s' := askGrant s r.ea r.kind.isStore; if s' = s then none else some s')
  else if poisonedAtom s r && !l.started then some (sendDown (dropReq s r) r.core r.ea (.poison r.team r.iss r.lane r.sb))
  else if needsAdmission s r then none
  else
    let s := if l.started then s else startReq (if r.kind.isStore then shareGrant s r else s) r
    if (s.line r.line).busy then (if l.started then none else some s) else some (performReq s r)

/-- A request's step: it arrives at the head of its channel, and is served as far as it can be. -/
def homeStep (s : State) (core line : Nat) (p : ReqKind → Bool) : Out :=
  let waiting := match nextReq s line with
    | some r => if r.core == core && !r.isHost && p r.kind then serve s r else none
    | none => none
  match waiting with
  | some s => .next s
  | none =>
    match takeUp s core (line * 128) with
    | some (.req r, s) =>
      if r.line == line && p r.kind then
        let s := arrive s r
        .next (match nextReq s line with
          | some n => if n == r then (serve s r).getD s else s
          | none => s)
      else notNow "another message is at the head of the channel"
    | _ => notNow "no such request can be served"

def execHomeLoadFill (xCore xLine : Nat) (s : State) : Out := homeStep s xCore xLine ReqKind.isFill
def execHomeSisFill (xCore xLine : Nat) (s : State) : Out := homeStep s xCore xLine ReqKind.isSis
def execHomeWtLoad (xCore xLine : Nat) (s : State) : Out := homeStep s xCore xLine ReqKind.isWtLoad
def execOwnershipRequest (xCore xLine : Nat) (s : State) : Out := homeStep s xCore xLine ReqKind.isOwn
def execHomeWrite (xCore xLine : Nat) (s : State) : Out := homeStep s xCore xLine ReqKind.isWrite
def execHomeAtomic (xCore xLine : Nat) (s : State) : Out := homeStep s xCore xLine ReqKind.isAtom

/-- The reserve home decides (R45), for every lane of the issue in the billet (R49). -/
def execAdmissionRequest (xLine : Nat) (s : State) : Out :=
  match nextReq s xLine with
  | none => notNow "no request waits"
  | some r =>
    let b := billetOfLine xLine
    if r.isHost || !needsAdmission s r || poisonedAtom s r || (doomedLane s r).isSome then notNow "no admission is asked for"
    else if s.frozen (pageOfLine xLine) || !grantHeld s r.ea true then notNow "the page is held"
    else match admission s b r.ctx with
      | .grant s => .next ((shareGrant s r).updLine xLine fun l => { l with admitted := true })
      | .refuse s cause reserve => .next (refuseReq s r cause reserve)
      | .wait s' => if s' = s then notNow "the billet is closing, or its page is being moved" else .next s'

/-! ## Releases, notices, invalidations, recalls (R125, R137 to R140) -/

/-- R124: released words merge, and are no longer owned; a release never writes a word whose bit is already clear (R140). -/
def execRelease (xCore xLine : Nat) (s : State) : Out :=
  match takeUp s xCore (xLine * 128) with
  | some (.release line words written data, s) =>
    if line ≠ xLine then notNow "another message is at the head of the channel"
    else
      let own := if (s.line line).owner = xCore then (s.line line).wmask else 0
      let s := mergeAtHome s line (written &&& own) data
      .next (s.updLine line fun l =>
        let w := l.wmask &&& ~~~(words &&& own)
        { l with wmask := w, owner := if w = 0 then 0 else l.owner })
  | _ => notNow "no release at the head of the channel"

def execEvictionNotice (xCore xLine : Nat) (s : State) : Out :=
  match takeUp s xCore (xLine * 128) with
  | some (.evict line, s) =>
    if line ≠ xLine then notNow "another message is at the head of the channel"
    else .next (s.updLine line fun l => { l with sharers := l.sharers.remove xCore })
  | _ => notNow "no eviction notice at the head of the channel"

def execInvalidation (xCore xSlice : Nat) (s : State) : Out :=
  match takeDown s xCore xSlice with
  | some (.inv line, s) => .next (s.updCore xCore fun c => { c.invalidate line with owedInv := if c.owedInv.contains line then c.owedInv else c.owedInv ++ [line] })
  | _ => notNow "no invalidation at the head of the channel"

def execInvalidationAck (xCore xLine : Nat) (s : State) : Out :=
  match takeUp s xCore (xLine * 128) with
  | some (.invAck line, s) =>
    if line ≠ xLine then notNow "another message is at the head of the channel"
    else .next (s.updLine line fun l => { l with invPend := l.invPend.filter (· != xCore) })
  | _ => notNow "no acknowledgement at the head of the channel"

/-- R125: the owner gives up the words and returns their data. -/
def execRecall (xCore xSlice : Nat) (s : State) : Out :=
  match takeDown s xCore xSlice with
  | some (.recall line words forWrite, s) =>
    let s := l1ReadOwned s xCore line words
    let x := (s.core xCore).l1Line line
    let w := x.owned &&& words
    let s := sendUp s xCore (line * 128) (.recallReply line w (x.written &&& w) x.data)
    .next (s.updCore xCore fun c => c.setL1 line (x.recalled w forWrite))
  | _ => notNow "no recall at the head of the channel"

def execRecallReply (xCore xLine : Nat) (s : State) : Out :=
  match takeUp s xCore (xLine * 128) with
  | some (.recallReply line words written data, s) =>
    if line ≠ xLine then notNow "another message is at the head of the channel"
    else
      let own := if (s.line line).owner = xCore then (s.line line).wmask else 0
      let s := mergeAtHome s line (written &&& own) data
      .next (s.updLine line fun l =>
        let w := l.wmask &&& ~~~(words &&& own)
        let l := if l.recallForWrite then l else l.share xCore
        { l with wmask := w, owner := if w = 0 then 0 else l.owner, recallPend := l.recallPend.filter (· != xCore) })
  | _ => notNow "no recall reply at the head of the channel"

/-- R134: the core drops its leased chunks in the page. -/
def execLeaseKill (xCore xPage : Nat) (s : State) : Out :=
  match takeDown s xCore (s.slice (xPage * 65536)) with
  | some (.kill p, s) =>
    if p ≠ xPage then notNow "another message is at the head of the channel"
    else
      let s := s.updCore xCore fun c => { c with l1 := (c.l1.map fun (k, x) => (k, if pageOfLine k == p then x.dropLeased else x)).filter fun (_, x) => !x.isEmpty }
      .next (sendUp s xCore (p * 65536) (.killAck p))
  | _ => notNow "no lease kill at the head of the channel"

def execLeaseKillAck (xCore xPage : Nat) (s : State) : Out :=
  match takeUp s xCore (xPage * 65536) with
  | some (.killAck p, s) =>
    if p ≠ xPage then notNow "another message is at the head of the channel"
    else .next { s with kills := match mapGet? s.kills p with | some cs => mapSet s.kills p (cs.filter (· != xCore)) | none => s.kills }
  | _ => notNow "no acknowledgement at the head of the channel"

/-! ## Closing (R46, R50) -/

def execCloseMessage (xCore xSlice : Nat) (s : State) : Out :=
  match takeDown s xCore xSlice with
  | some (.close b, s) => .next (s.updCore xCore fun c => { c with filter := c.filter.filter (· != b), owedClose := if c.owedClose.contains b then c.owedClose else c.owedClose ++ [b] })
  | _ => notNow "no close message at the head of the channel"

def execCloseAck (xCore xBillet : Nat) (s : State) : Out :=
  match takeUp s xCore (xBillet * 256) with
  | some (.closeAck b, s) =>
    if b ≠ xBillet then notNow "another message is at the head of the channel"
    else .next (s.updBillet b fun d => { d with closePend := d.closePend.filter (· != xCore) })
  | _ => notNow "no acknowledgement at the head of the channel"

def execBilletClose (xBillet : Nat) (s : State) : Out :=
  match closeStep s xBillet with
  | some s => .next s
  | none => notNow "the billet is not open, or its close waits"

/-! ## Evictions -/

/-- R72. With the notice the core's pointer goes, so the entries of its translation caches that come from the line go too (R122). -/
def evictL1 (s : State) (core line : Nat) : State :=
  let s := releaseWords s core line (BitVec.allOnes 32)
  let x := (s.core core).l1Line line
  let s := if x.held then (sendUp s core (line * 128) (.evict line)).updCore core fun c => c.dropTlb line else s
  s.updCore core fun c => { c with l1 := mapErase c.l1 line }
/-- A line may leave L1: nothing the core has sent for it is in flight, and, where a notice goes, no access that was translated through it
is still to perform (R20, R139). -/
def l1MayLeave (s : State) (core line : Nat) : Bool :=
  let c := s.core core
  (mapGet? c.l1 line).isSome && !copyComing s core line && !(c.sb.any fun e => e.sent && e.n != 0 && e.tgt != 1 && lineOf e.ea == line) &&
  !((c.l1Line line).held && s.dependsOn core line)
def execL1Eviction (xCore xLine : Nat) (s : State) : Out :=
  if l1MayLeave s xCore xLine then .next (evictL1 s xCore xLine)
  else notNow "the line is not in L1, or accesses of it are in flight"

/-- The line is in L2 with nothing to write and nobody to tell. -/
def cleanAlone (s : State) (line : Nat) : Bool :=
  let l := s.line line
  l.present && l.valid == 0xFF && !l.dirty && !l.psn && !l.busy && !l.started && (s.sharerCores l.sharers).isEmpty && l.wmask == 0 && s.calm line
/-- R77: both lines of a closed billet leave L2 together, so that L2 held all its 256 bytes, and its run enters the memory-side cache clean
(that they leave together is the model's choice, log 8). -/
def leavePair (s : State) (b : Nat) : Option State :=
  let d := s.billet b
  if !d.opened && !d.poison && d.loc == 0 && 2 ≤ d.cls && cleanAlone s (2 * b) && cleanAlone s (2 * b + 1) then
    some (mscInsert (leaveL2 (leaveL2 s (2 * b)) (2 * b + 1)) b d.nsec { dirty := false, run := s.sealRun b (runBytes d.cls d.nsec (toWords (s.readMem (b * 256) 256))) })
  else none
/-- R76. A line that is poisoned in L2 while its closed billet shows POISON = 0 takes its poison into the descriptor (R94 states this for a
close only: DESIGN CHOICE, log 77). -/
def execL2Eviction (xLine : Nat) (s : State) : Out :=
  let l := s.line xLine
  let b := billetOfLine xLine
  let cs := s.sharerCores l.sharers
  if !l.present then notNow "the line is not in L2"
  else if l.busy || l.started then notNow "the line is busy"
  else if s.errors.contains (11, xLine) then .next (dirError (s.takeError 11 xLine).2 xLine)
  else if !cs.isEmpty || l.wmask ≠ 0 then
    let s := cs.foldl (fun s c => sendDown s c (xLine * 128) (.inv xLine)) s
    let s := if l.wmask = 0 then s else sendDown s l.owner (xLine * 128) (.recall xLine l.wmask true)
    .next (s.updLine xLine fun l => { l with invPend := cs, sharers := .ptrs [], recallPend := if l.wmask = 0 then [] else [l.owner], recallForWrite := true })
  else if (l.dirty || l.psn && !(s.billet b).poison) && (s.billet b).opened then
    match closeStep s b (some xLine) with
    | some s => .next s
    | none => notNow "the close waits"
  else if l.psn && !(s.billet b).poison && !isPeer (xLine * 128) then .next (s.markPoison b)
  else if isPeer (xLine * 128) && l.dirty then notNow "a peer page's written line stays until its grant goes"
  else if !s.calm xLine then notNow "messages of the line are in flight"
  else match leavePair s b with
    | some s => .next s
    | none => .next (leaveL2 (if (s.billet b).poison then s.updBillet b fun d => { d with written := 0 } else s) xLine)

def execTranslationEviction (xCore xIdx : Nat) (s : State) : Out :=
  if (s.core xCore).tlb.length ≤ xIdx then notNow "no such entry"
  else .next (s.updCore xCore fun c => { c with tlb := c.tlb.eraseIdx xIdx })
def execFilterEviction (xCore xBillet : Nat) (s : State) : Out :=
  if (s.core xCore).filter.contains xBillet then .next (s.updCore xCore fun c => { c with filter := c.filter.filter (· != xBillet) })
  else notNow "the filter holds no such entry"

end Sys2Proof.Machine
end

