-- ==== Sys2Proof/Machine/Scratch.lean ====
section
/-! DEFINITION. The gain-cell scratchpad (R96 to R109, R310 to R313), the team barrier (R314) and the token queues (R316 to
R320). -/

namespace Sys2Proof.Machine

/-! ## Rows (R96 to R104) -/

/-- Fields of a scratchpad address (R97). -/
def padHandle (a : Nat) : Nat := nfld a 30 28
def padRow (a : Nat) : Nat := nfld a 19 8
def padByte (a : Nat) : Nat := a % 256
def padReserved (a : Nat) : Bool := a.testBit 31 || nfld a 27 20 != 0
/-- R98: the allocation that holds n bytes at an address, and their physical row. -/
def padPlace (t : Team) (a n : Nat) : Option (Alloc × Nat) :=
  if padReserved a then none else
  (mapGet? t.allocs (padHandle a)).bind fun al =>
    if al.n ≤ padRow a || 256 < padByte a + n then none else some (al, (t.block + al.gran) * 16 + padRow a)
/-- k rows from an address (R98); the first physical row. -/
def padRows (t : Team) (a k : Nat) : Option (Alloc × Nat) :=
  if padReserved a then none else
  (mapGet? t.allocs (padHandle a)).bind fun al =>
    if k = 0 || al.n < padRow a + k then none else some (al, (t.block + al.gran) * 16 + padRow a)
def Core.setRow (c : Core) (p : Nat) (r : Row) : Core := { c with rows := if r = {} then mapErase c.rows p else mapSet c.rows p r }
/-- csr.tret.TRET (R100). -/
def Core.tretTicks (c : Core) : Nat := c.tret.toNat % 2048
/-- R101: the effective lifetime. -/
def leff (c : Core) (al : Alloc) : Nat := min al.life c.tretTicks
def rowAge (c : Core) (p : Nat) (tick : BitVec 16) : Nat := (tick - (c.row p).stamp).toNat
def rowExpired (c : Core) (al : Alloc) (p : Nat) (tick : BitVec 16) : Bool := (c.row p).exp || leff c al < rowAge c p tick

/-- The part's error log for rows: metadata array 7, data array 6 (log 4). -/
def rowPlace (core p : Nat) : Nat := core * 4096 + p
/-- R109: a metadata error expires the row; it is counted. -/
def checkStamp (s : State) (core p : Nat) : State :=
  let (bad, s) := s.takeError 7 (rowPlace core p)
  if bad then { s.updCore core fun c => c.setRow p { c.row p with exp := true } with regs := { s.regs with poisonings := s.regs.poisonings + 1 } } else s
/-- R109: a data error met by a read. -/
def takeRowError (s : State) (core p : Nat) : Bool × State :=
  let (bad, s) := s.takeError 6 (rowPlace core p)
  (bad, if bad then { s with regs := { s.regs with poisonings := s.regs.poisonings + 1 } } else s)
/-- Bytes of a row. -/
def padRead (s : State) (core p byte n : Nat) : List Byte := cellsGet (s.core core).pad (p * 256 + byte) n
/-- R103: a write restamps the row; an expired one is revived with zeros in its other bytes. -/
def padWrite (s : State) (core : Nat) (al : Alloc) (p byte : Nat) (bs : List Byte) : State :=
  let s := checkStamp s core p
  s.updCore core fun c =>
    let pad := if rowExpired c al p c.rtick then cellsZero c.pad (p * 256) 256 else c.pad
    { c with pad := cellsSet pad (p * 256 + byte) bs }.setRow p { stamp := c.rtick, exp := false }

/-! ## sld, sst, satom (R310 to R312) -/

/-- What checking the lanes of a scratchpad instruction answers. -/
inductive PadCheck where
  | ok (ls : List (Nat × Nat × Nat × Nat))
  | fault (f : FaultInfo)
  deriving DecidableEq, Repr

/-- R98: alignment, bounds, staleness, each over every lane; lane, thread, address and physical row. -/
def padCheck (s : State) (e : Env) (ls : List (Nat × Nat × Nat)) (n : Nat) (aligned reads : Bool) : PadCheck :=
  let c := s.core e.core
  match (if aligned then ls.find? (fun (_, _, a) => a % n != 0) else none) with
  | some (_, _, a) => .fault { insnFault e .misalign with addrs := [a] }
  | none =>
    match ls.find? fun (_, _, a) => (padPlace e.team a n).isNone with
    | some (_, _, a) => .fault { insnFault e .sbound with addrs := [a] }
    | none =>
      let ps := ls.filterMap fun (l, tid, a) => (padPlace e.team a n).map fun (al, p) => (l, tid, a, al, p)
      match (if reads then ps.find? (fun (_, _, _, al, p) => rowExpired c al p c.rtick) else none) with
      -- the record names the row (R396)
      | some (_, _, a, _, p) => .fault { insnFault e .sstale with addrs := [a / 256 * 256], aux := rowAge c p c.rtick }
      | none => .ok (ps.map fun (l, tid, a, _, p) => (l, tid, a, p))

/-- The lanes go to SP(c), an access for each row they name, in lane order (R96). -/
def padIssue (s : State) (e : Env) (i : Instr) (ls : List (Nat × Nat × Nat × Nat)) (n : Nat) (kind : LaneKind) (data : Nat → List Byte) (acq : Option Nat) : State :=
  if ls.isEmpty then s else
  let lanes := ls.map fun (l, tid, a, p) => ({ lane := l, tid := tid, va := a, ea := a, n := n, kind := kind, pol := 1, data := data tid, row := p } : LaneOp)
  let id := s.nextId
  let s := enterWindow s e i lanes acq true false
  s.updCore e.core fun c => { c with port := c.port ++ (dedup (ls.map fun (_, _, _, p) => p)).map fun p => { team := e.tk, iss := id, lanes := (ls.filter fun (_, _, _, r) => r == p).map Prod.fst, row := p } }

/-- R98's answer, after metadata errors in the rows named have taken effect (R109). -/
def withPad (s : State) (e : Env) (ls : List (Nat × Nat × Nat)) (n : Nat) (aligned reads : Bool) (k : List (Nat × Nat × Nat × Nat) → State → State) : Out :=
  let s := ls.foldl (fun s (_, _, a) => match padPlace e.team a n with | some (_, p) => checkStamp s e.core p | none => s) s
  match padCheck s e ls n aligned reads with
  | .fault f => .next (faultSel s e (lanesIn ls) f)
  | .ok ps => .next (advance (k ps s) e)
/-- Addresses of sld and sst. -/
def padAddrs (s : State) (e : Env) (f : MF) : List (Nat × Nat × Nat) :=
  (e.sel f.pm f.pn).map fun (l, tid) => (l, tid, addrPlus (src32 s e tid f.base).toNat f.imm.toInt 32)

def execSld (f : MF) (s : State) : Out :=
  withGate s (.sld f) fun e s =>
    let n := tyBytes f.ty
    withPad s e (padAddrs s e f) n false true fun ps s =>
      padIssue s e (.sld f) ps n .load (fun _ => []) (if f.ord == 1 then some f.scope.toNat else none)
def execSst (f : MF) (s : State) : Out :=
  withGate s (.sst f) fun e s =>
    let n := tyBytes f.ty
    let (ok, s) := if f.ord == 2 then released s e f.scope.toNat else (true, s)
    if !ok then .next (stallAt s e) else
    withPad s e (padAddrs s e f) n false false fun ps s' =>
      padIssue s' e (.sst f) ps n .store (fun tid => leBytes n (srcNat s e tid f.d (tySpan f.ty))) none
def execSatom (f : MAF) (s : State) : Out :=
  withGate s (.satom f) fun e s =>
    let n := tyBytes f.ty.toNat
    let (ok, s) := if f.ord == 2 || f.ord == 3 then released s e f.scope.toNat else (true, s)
    if !ok then .next (stallAt s e) else
    let ls := (e.sel f.pm f.pn).map fun (l, tid) => (l, tid, (src32 s e tid f.base).toNat)
    withPad s e ls n true true fun ps s' =>
      padIssue s' e (.satom f) ps n (.atom f.fn.toNat f.ty.toNat true) (fun tid => atomBytes s e f tid) (if f.ord == 1 || f.ord == 3 then some f.scope.toNat else none)

/-! ## What engines still have to do to a row (R107, R153) -/

/-- The scratchpad rows a matrix command reads or writes: address and row count (R336, R346, R348). -/
def MatCmd.pads (m : MatCmd) : List (Nat × Nat) :=
  match m.insn with
  | .xmma f => if f.fn = 0 then [(m.a, 2 * (f.pa.toNat + 1)), (m.b, 2 * (f.pb.toNat + 1))] else [(m.a, 32), (m.b, 32)]
  | .xdrain f => if f.fn.toNat % 4 = 1 then [(m.a, 64)] else []
  | .xquant f => [(m.a, 2 * (f.fn.toNat + 1)), (m.b, 1)]
  | _ => []
def rangeHas (a k h row : Nat) : Bool := padHandle a == h && padRow a ≤ row && row < padRow a + k
/-- The scratchpad sides of a copy command: address and whether it is still to move. -/
def CopyCmd.pads (c : CopyCmd) : List Nat :=
  if c.op = 0 then (if c.fn / 4 % 4 = 1 then [c.dst] else if c.fn / 4 % 4 = 2 then [c.src] else if c.fn / 4 % 4 = 3 then [c.dst, c.src] else [])
  else if c.op = 2 && c.fn / 4 % 2 = 1 then [c.dst] else []
/-- The command has bytes of the row still to move. -/
def CopyCmd.touches (c : CopyCmd) (h row : Nat) : Bool :=
  c.pads.any fun a => padHandle a == h && padRow a + (padByte a + c.done) / 256 ≤ row && (!c.started || row ≤ padRow a + (padByte a + c.len - 1) / 256)
/-- The threads that a matrix command was issued for. -/
def matTids (s : State) (m : MatCmd) : List Nat := (((s.team m.team).bind fun t => findIss t m.iss).map Inflight.tids).getD []
/-- An engine access that an older command of the threads, older than a name, still has to make to the row (R153). -/
def engineFirst (s : State) (core tk : Nat) (tids : List Nat) (before h row : Nat) : Bool :=
  let c := s.core core
  c.matq.any (fun m => m.team == tk && m.iss < before && (m.pads.any fun (a, k) => rangeHas a k h row) && (matTids s m).any tids.contains) ||
  c.copyq.any fun (_, q) => q.any fun x => x.team == tk && tids.contains x.tid && x.id < before && x.touches h row

/-- The part of one lane in an access (R103, R104). -/
def portLane (core : Nat) (o : PortOp) (s : State) (lane : Nat) : State :=
  match laneOf s o.team o.iss lane with
  | none => s
  | some (t, _, l) =>
    let old := padRead s core l.row (padByte l.va) l.n
    let done := fun (s : State) (st : Stage) (r : List Byte) => s.updLane o.team o.iss lane fun l => { l with stage := st, result := r }
    match mapGet? t.allocs (padHandle l.va) with
    | none => done s .performed old
    | some al =>
      match l.kind with
      | .load => done s .returned old
      | .store => progress (done (padWrite s core al l.row (padByte l.va) l.data) .performed []) o.team
      | .atom op ty _ => progress (done (padWrite s core al l.row (padByte l.va) (atomResult op ty old l.data)) .performed old) o.team

/-- The lanes of an access that are still in the window. -/
def PortOp.ops (o : PortOp) (s : State) : List (Team × Inflight × LaneOp) := o.lanes.filterMap fun l => laneOf s o.team o.iss l
/-- One access performs on its row, for every lane that shares it (R96). An uncorrectable error of the row that is read kills the team
(R109). -/
def portPerform (s : State) (core : Nat) (o : PortOp) : State :=
  let s := s.updCore core fun c => { c with port := removeFirst (· == o) c.port }
  match (o.ops s).find? fun (_, _, l) => l.kind != .store with
  | none => o.lanes.foldl (portLane core o) s
  | some (t, i, l) =>
    let (bad, s) := takeRowError s core o.row
    -- a handler's access ends in NESTED (R392)
    let f := faultNow s t l.tid { issFault i .spoison with addrs := [l.va] }
    if bad then killTeam s o.team (if ((t.threads[l.tid]?).map Thread.handler).getD false then f.killedBy .nested else f) (some l.tid)
    else o.lanes.foldl (portLane core o) s

def execPort (xCore xRow : Nat) (s : State) : Out :=
  match (s.core xCore).port.find? fun o => o.row == xRow with
  | none => notNow "no access waits for the row"
  | some o =>
    if (o.ops s).any fun (_, _, l) => engineFirst s xCore o.team [l.tid] o.iss (padHandle l.va) (padRow l.va) then notNow "an engine of the thread comes first"
    else .next (portPerform s xCore o)

/-! ## Management (R102, R105 to R107, R313) -/

/-- Granules of n rows. -/
def granules (n : Nat) : Nat := (n + 15) / 16
/-- The lowest run of k free granules of the team's block. -/
def freeGranules (t : Team) (k : Nat) : Option Nat :=
  (List.range (t.spg + 1 - min k t.spg)).find? fun g =>
    g + k ≤ t.spg && t.allocs.all fun (_, al) => al.gran + granules al.n ≤ g || g + k ≤ al.gran
/-- R102: the status, the handle and the granule offset. -/
def allocDecide (s : State) (t : Team) (n l : Nat) : Nat × Nat × Nat :=
  if n = 0 || 3072 < n then (4, 0, 0)
  else if l = 0 || 1023 < l || (s.core t.core).tretTicks < l then (3, 0, 0)
  else match (List.range 8).find? fun h => (mapGet? t.allocs h).isNone with
    | none => (2, 0, 0)
    | some h => match freeGranules t (granules n) with
      | none => (1, 0, 0)
      | some g => (0, h, g)
/-- Rows zeroed and stamped. -/
def zeroRows (c : Core) (p k : Nat) : Core :=
  (List.range k).foldl (fun c i => c.setRow (p + i) { stamp := c.rtick, exp := false }) { c with pad := cellsZero c.pad (p * 256) (k * 256) }

def execSalloc (f : OF) (s : State) : Out :=
  simple s (.salloc f) fun e s =>
    let n := (uni32 s e f.a).toNat
    let l := (uni32 s e f.b).toNat
    let (st, h, g) := allocDecide s e.team n l
    let s := if st = 0 then
        let s := s.updCore e.core fun c => zeroRows c ((e.team.block + g) * 16) (granules n * 16)
        progress (s.updTeam e.tk fun t => { t with allocs := mapSet t.allocs h { n := n, life := l, gran := g } }) e.tk
      else s
    writeAll s e f.d 1 (st * 2 ^ 28 + h)

/-- An access to the rows waits at the port, or an older engine command of the threads still has to make one (R153). -/
def rowsBusy (s : State) (e : Env) (p k h row : Nat) : Bool :=
  (s.core e.core).port.any (fun o => p ≤ o.row && o.row < p + k) ||
  (List.range k).any fun i => engineFirst s e.core e.tk (e.lanes.map Prod.snd) s.nextId h (row + i)
/-- srenew of one row (R105, R109): whether it was expired. -/
def renewRow (s : State) (core : Nat) (al : Alloc) (p : Nat) : Bool × State :=
  let s := checkStamp s core p
  let (bad, s) := takeRowError s core p
  let c := s.core core
  if bad then (true, s.updCore core fun c => c.setRow p { c.row p with exp := true })
  else if rowExpired c al p c.rtick then (true, s)
  else (false, s.updCore core fun c => c.setRow p { stamp := c.rtick, exp := false })
/-- A range instruction over k rows. -/
def rangeInsn (s : State) (i : Instr) (f : OF) (act : State → Env → Alloc → Nat → Nat → Nat × State) : Out :=
  withGate s i fun e s =>
    let a := (uni32 s e f.a).toNat
    let k := (uni32 s e f.b).toNat
    match padRows e.team a k with
    | none => .next (faultBundle s e { insnFault e .sbound with addrs := [a] })
    | some (al, p) =>
      if rowsBusy s e p k (padHandle a) (padRow a) then .next (stallAt s e)
      else
        let (x, s) := act s e al p k
        .next (advance (writeAll s e f.d 1 x) e)
def execSrenew (f : OF) (s : State) : Out :=
  rangeInsn s (.srenew f) f fun s e al p k =>
    (List.range k).foldl (fun (n, s) i => let (x, s) := renewRow s e.core al (p + i); (if x then n + 1 else n, s)) (0, progress s e.tk)
/-- R106. -/
def ageWord (c : Core) (al : Alloc) (p k : Nat) : Nat :=
  if (List.range k).any fun i => rowExpired c al (p + i) c.rtick then 2 ^ 31
  else (List.range k).foldl (fun m i => min m (leff c al - rowAge c (p + i) c.rtick)) (leff c al)
def execSage (f : OF) (s : State) : Out :=
  rangeInsn s (.sage f) f fun s e al p k =>
    let s := (List.range k).foldl (fun s i => checkStamp s e.core (p + i)) s
    (ageWord (s.core e.core) al p k, s)

/-- The team's copy commands that still have bytes to move into or out of a freed allocation are to stop (R107). -/
def freeCopies (s : State) (core tk h : Nat) : State :=
  s.updCore core fun c => { c with copyq := c.copyq.map fun (ch, q) => (ch, q.map fun x => if x.team == tk && x.freed.isNone && x.pads.any (fun a => padHandle a == h) then { x with freed := some h } else x) }
def execSfree (f : OF) (s : State) : Out :=
  withGate s (.sfree f) fun e s =>
    let h := (uni32 s e f.a).toNat
    match (if h < 8 then mapGet? e.team.allocs h else none) with
    | none => .next (faultBundle s e { insnFault e .sbound with addrs := [h] })
    | some al =>
      let p := (e.team.block + al.gran) * 16
      let c := s.core e.core
      let busy := c.port.any (fun o => o.team == e.tk && p ≤ o.row && o.row < p + granules al.n * 16) ||
        c.matq.any fun m => m.team == e.tk && m.pads.any fun (a, _) => padHandle a == h
      if busy then .next (stallAt s e)
      else .next (advance (freeCopies (s.updTeam e.tk fun t => { t with allocs := mapErase t.allocs h }) e.core e.tk h) e)

/-! ## The barrier (R314) -/

def execBar (f : OF) (s : State) : Out :=
  withGate s (.bar f) fun e s =>
    let (ok, s) := released s e 1
    if !ok then .next (stallAt s e)
    else
      let s := s.updTeam e.tk fun t => { t with arrived := t.arrived ++ e.lanes.map Prod.snd }
      .next (waitThreads s e e.lanes .bar)

/-! ## Token queues (R316 to R320) -/

def State.updQueue (s : State) (tk q : Nat) (f : TokQ → TokQ) : State := s.updTeam tk fun t => { t with queues := listUpd t.queues q f }
def queueOf (s : State) (tk q : Nat) : Option TokQ := (s.team tk).bind fun t => t.queues[q]?
/-- R320: the threads take QBAD. -/
def qbad (s : State) (e : Env) (q : Nat) : Out := .next (faultBundle s e { insnFault e .qbad with aux := q })

/-- A permit is taken: its slot index (R318). -/
def takePermit (q : TokQ) : Nat × TokQ := (q.pidx, { q with pidx := (q.pidx + 1) % q.slots, perm := q.perm - 1, ppend := q.ppend + 1 })
/-- A token is taken. -/
def takeToken (q : TokQ) : Nat × TokQ := (q.tidx, { q with tidx := (q.tidx + 1) % q.slots, tok := q.tok - 1, fpend := q.fpend + 1 })
/-- A served bundle writes D and becomes runnable. -/
def serveBundle (s : State) (tk : Nat) (w : List Nat × Nat) (x : Nat) : State :=
  let (tids, d) := w
  let s := match opKind (BitVec.ofNat 11 d) with
    | .v n => tids.foldl (fun s tid => s.updThread tk tid fun th => th.setV n 1 x) s
    | .g n => match tids.head?.bind fun tid => s.thread tk tid with
      | some th => s.updGroup tk th.grp fun g => g.setG n 1 x
      | none => s
    | _ => s
  progress (tids.foldl (fun s tid => s.updThread tk tid fun th => { th with st := .runnable }) s) tk
/-- The heads of PWAIT and TWAIT are served while the counts are above zero. -/
def serveQueue : Nat → State → Nat → Nat → State
  | 0, s, _, _ => s
  | fuel + 1, s, tk, q =>
    match queueOf s tk q with
    | none => s
    | some x =>
      match x.pwait, x.twait with
      | w :: rest, _ =>
        if 0 < x.perm then
          let (idx, x') := takePermit { x with pwait := rest }
          serveQueue fuel (serveBundle (s.updQueue tk q fun _ => x') tk w idx) tk q
        else match x.twait with
          | w :: rest => if 0 < x.tok then let (idx, x') := takeToken { x with twait := rest }
              serveQueue fuel (serveBundle (s.updQueue tk q fun _ => x') tk w idx) tk q else s
          | [] => s
      | [], w :: rest =>
        if 0 < x.tok then
          let (idx, x') := takeToken { x with twait := rest }
          serveQueue fuel (serveBundle (s.updQueue tk q fun _ => x') tk w idx) tk q
        else s
      | [], [] => s
/-- How many bundles may wait: one per thread of a team. -/
def queueFuel : Nat := 512

/-- qperm and qtake. -/
def queueTake (s : State) (i : Instr) (f : OF) (token : Bool) : Out :=
  withGate s i fun e s =>
    let q := (uni32 s e f.a).toNat
    match queueOf s e.tk q with
    | none => qbad s e q
    | some x =>
      if x.slots = 0 then qbad s e q
      else if (if token then x.twait.isEmpty && 0 < x.tok else x.pwait.isEmpty && 0 < x.perm) then
        let (idx, x') := if token then takeToken x else takePermit x
        let s := progress (s.updQueue e.tk q fun _ => x') e.tk
        .next (advance (writeAll s e f.d 1 idx) e)
      else
        let w := (e.lanes.map Prod.snd, f.d.toNat)
        let s := s.updQueue e.tk q fun x => if token then { x with twait := x.twait ++ [w] } else { x with pwait := x.pwait ++ [w] }
        .next (waitThreads s e e.lanes (if token then .qtake q else .qperm q))
def execQperm (f : OF) (s : State) : Out := queueTake s (.qperm f) f false
def execQtake (f : OF) (s : State) : Out := queueTake s (.qtake f) f true
/-- qpost and qfree. -/
def queueGive (s : State) (i : Instr) (f : OF) (token : Bool) : Out :=
  withGate s i fun e s =>
    let (ok, s) := released s e 1
    if !ok then .next (stallAt s e) else
    let q := (uni32 s e f.a).toNat
    match queueOf s e.tk q with
    | none => qbad s e q
    | some x =>
      if (if token then x.ppend else x.fpend) = 0 then qbad s e q
      else
        let s := s.updQueue e.tk q fun x => if token then { x with ppend := x.ppend - 1, tok := x.tok + 1 } else { x with fpend := x.fpend - 1, perm := x.perm + 1 }
        .next (advance (serveQueue queueFuel (progress s e.tk) e.tk q) e)
def execQpost (f : OF) (s : State) : Out := queueGive s (.qpost f) f true
def execQfree (f : OF) (s : State) : Out := queueGive s (.qfree f) f false
def execQinit (f : OF) (s : State) : Out :=
  withGate s (.qinit f) fun e s =>
    let q := (uni32 s e f.a).toNat
    let n := (uni32 s e f.b).toNat
    if (queueOf s e.tk q).isNone || n = 0 || 64 < n then qbad s e q
    else
      let s := s.updQueue e.tk q fun x => { x with slots := n, perm := n, ppend := 0, tok := 0, fpend := 0, pidx := 0, tidx := 0 }
      .next (advance (serveQueue queueFuel (progress s e.tk) e.tk q) e)
def execQstat (f : OF) (s : State) : Out :=
  withGate s (.qstat f) fun e s =>
    match queueOf s e.tk (uni32 s e f.a).toNat with
    | none => qbad s e (uni32 s e f.a).toNat
    | some x => .next (advance (writeAll s e f.d 1 (x.slots * 2 ^ 24 + x.perm * 2 ^ 16 + x.tok * 2 ^ 8 + x.tidx)) e)

end Sys2Proof.Machine
end

