-- ==== Sys2Proof/Machine/Copy.lean ====
section
/-! DEFINITION. The copy channels (R321 to R331): commands at issue, the tensor shape record, and the segments they move. -/

namespace Sys2Proof.Machine

/-! ## Segments (R321, R324) -/

/-- The scratchpad address of stream byte k (R324). -/
def padAt (a k : Nat) : Nat := padHandle a * 2 ^ 28 + (padRow a + (padByte a + k) / 256) * 256 + (padByte a + k) % 256
def Side.isPad : Side → Bool | .pad _ => true | _ => false
/-- What stays the same within a segment: rows of the scratchpad sides, or the destination line, zero for a clipped byte. -/
def segKey (c : CopyCmd) (k : Nat) : Nat × Nat :=
  let row := fun (x : Side) => match x with | .pad a => padAt a k / 256 + 1 | _ => 0
  if c.dstSide.isPad || c.srcSide.isPad then (row c.dstSide, row c.srcSide)
  else match c.dstSide.addr k with
    | some a => (a / 128 + 1, 0)
    | none => (0, 0)
/-- Bytes of the segment that starts at k. -/
def segLen (c : CopyCmd) (k : Nat) : Nat → Nat → Nat
  | 0, n => n
  | fuel + 1, n => if k + n < c.len && segKey c (k + n) == segKey c k then segLen c k fuel (n + 1) else n
/-- Runs of consecutive addresses within one line: offset, length, address; no address for clipped bytes. -/
def runs (f : Nat → Option Nat) (k n : Nat) : List (Nat × Nat × Option Nat) :=
  (List.range n).foldl (fun (acc : List (Nat × Nat × Option Nat)) i =>
    let a := f (k + i)
    match acc.getLast? with
    | some (o, l, b) =>
      let joins : Bool := match a, b with
        | some x, some y => x == y + l && x / 128 == y / 128
        | none, none => true
        | _, _ => false
      if joins then acc.dropLast ++ [(o, l + 1, b)] else acc ++ [(k + i, 1, a)]
    | none => [(k + i, 1, a)]) []

/-- Why a command stops (R329): cause, address for csr.cpfa, reserve for csr.cprsv. -/
structure Stop where
  cause : Cause
  addr : Nat
  reserve : Nat := 0
  deriving DecidableEq, Repr
/-- What moving bytes answers. -/
inductive Moved (α : Type) where
  | ok (a : α) (stop : Option Stop) (s : State)
  | wait (s : State)
  | kill (s : State)

/-- R330: the address recorded for a fault of a memory access. -/
def stopAddr (c : Cause) (va : Nat) (addrs : List Nat) : Nat :=
  if c == .bpoison then addrs.getD 1 0 else if c == .caprefuse || c == .tiershort then addrs.getD 0 0 else va

/-- What a home or the host answers a copy command's access. -/
def Home.moved {α : Type} (x : Home α) (none' : α) : Moved α :=
  match x with
  | .ok a s => .ok a none s
  | .wait s => .wait s
  | .poisoned ea s => .ok none' (some { cause := .bpoison, addr := ea / 256 * 256 }) s
  | .refused c b r s => .ok none' (some { cause := c, addr := b * 256, reserve := r }) s
/-- A copy command's name at the host port. -/
def CopyCmd.hostName (c : CopyCmd) : Nat := 2 ^ 20 + c.id
/-- A store of the issuing thread that is older than the command and overlaps the bytes is still in SB(c): the command's write follows it
(R153); its reads do not look at SB(c) (R162). -/
def followsStore (s : State) (core : Nat) (c : CopyCmd) (tgt ea n : Nat) : Bool :=
  (s.core core).sb.any fun e => e.team == c.team && e.tid == c.tid && e.iss < (if c.iss = 0 then c.id else c.iss) && overlaps e.tgt e.ea e.n tgt ea n
/-- One run read from memory at the homes, or from the host (R162, R167). -/
def readRun (s : State) (core : Nat) (c : CopyCmd) (ps va n : Nat) : Moved (List Byte) :=
  match xlateNow s (some core) c.ctx ps va n kRead c.sys with
  | .wait s => .wait s
  | .fault cause _ _ s => .ok [] (some { cause := cause, addr := va }) s
  | .refused cause b r s => .ok [] (some { cause := cause, addr := b * 256, reserve := r }) s
  | .ok tgt ea _ s => (if tgt = 1 then hostFetch s c.hostName c.ctx ea n else readLine s ea n).moved []

/-- The bytes of a segment from its source, as far as they can be had. -/
def readSeg (s : State) (core : Nat) (t : Team) (ps : Nat) (c : CopyCmd) (k n : Nat) : Moved (List Byte) :=
  match c.srcSide with
  | .fill v m => .ok ((List.range n).map fun i => BitVec.ofNat 8 (v / 2 ^ (8 * ((k + i) % m)))) none s
  | .stream => .ok ((c.stream.drop k).take n) none s
  | .pad a =>
    let x := padAt a k
    match padPlace t x n with
    | none => .ok [] (some { cause := .sbound, addr := x }) s
    | some (al, p) =>
      let s := checkStamp s core p
      let kc := s.core core
      if rowExpired kc al p kc.rtick then .ok [] (some { cause := .sstale, addr := x }) s
      else
        let (bad, s) := takeRowError s core p
        if bad then .kill (killTeam s c.team (engineFault s c.team c.iss c.tid .spoison c.word x) (some c.tid))
        else .ok (padRead s core p (padByte x) n) none s
  | side =>
    let fill := match side with | .shaped h => h.fill | _ => 0
    let e := match side with | .shaped h => h.e | _ => 1
    (runs side.addr k n).foldl (fun acc (o, l, a) =>
      match acc with
      | .ok bs none s =>
        match a with
        | none => .ok (bs ++ (List.range l).map fun i => BitVec.ofNat 8 (fill / 2 ^ (8 * ((o + i) % e)))) none s
        | some va => match readRun s core c ps va l with
          | .ok more st s => .ok (bs ++ more) st s
          | r => r
      | r => r) (.ok [] none s)

/-- rne32 and flushing, as the add-on-store uses them (R346). -/
def ftz (f : Fmt) (x : Nat) : Nat := if x / 2 ^ f.fbits % 2 ^ f.ebits = 0 then x / f.sign % 2 * f.sign else x
def addCell (f32 : Bool) (ver d x : Nat) : Nat :=
  if !f32 then (d + x) % 2 ^ 32
  else if ver % 2 = 1 then fAdd fmtF32 0 d x
  else ftz fmtF32 (fAdd fmtF32 0 (ftz fmtF32 d) (ftz fmtF32 x))
/-- The words an add-on-store writes over old ones. -/
def addWords (f32 : Bool) (ver : Nat) : List Byte → List Byte → List Byte
  | a :: b :: c :: d :: old, w :: x :: y :: z :: new =>
    leBytes 4 (addCell f32 ver (leNat [a, b, c, d]) (leNat [w, x, y, z])) ++ addWords f32 ver old new
  | _, _ => []

/-- The operation by which a message to a peer's device names an add-on-store; its type says .n32 (0) or .f32 and the numeric version. -/
def addOp : Nat := 16
/-- The old bytes an add-on-store reads; those of a poisoned line that nothing has written since are free values (R57, log 3). -/
def addOld (s : State) (ea n : Nat) : Home (List Byte) :=
  match readLine s ea n with
  | .poisoned _ s => let (old, s) := oldAt s ea n; .ok old s
  | r => r
/-- Bytes written to a host page: a store that the host is still to acknowledge (R156, R167). -/
def hostWrite (s : State) (core team ea : Nat) (bs : List Byte) : State :=
  { s with hostOut := s.hostOut ++ [.write ea bs], hostPend := s.hostPend ++ [{ core := core, entry := s.nextId, team := team, iss := s.nextId, ea := ea, ctx := s.teamCtx team, since := s.ns }], nextId := s.nextId + 1 }
/-- One run written to memory, at the homes (R55, R162) or at the host. An add-on-store of a drain to a host page, of which the spec does not
speak, reads the old words from the host and writes the sums there (DESIGN CHOICE, log 78). -/
def writeRun (s : State) (core : Nat) (c : CopyCmd) (ps va : Nat) (bs : List Byte) : Moved Unit :=
  match xlateNow s (some core) c.ctx ps va bs.length kWrite c.sys with
  | .wait s => .wait s
  | .fault cause _ _ s => .ok () (some { cause := cause, addr := va }) s
  | .refused cause b r s => .ok () (some { cause := cause, addr := b * 256, reserve := r }) s
  | .ok tgt ea _ s =>
    if followsStore s core c tgt ea bs.length || commandAhead s core c tgt ea bs.length then .wait s else
    let put := fun (s : State) (bs : List Byte) => if tgt = 1 then Home.ok () (hostWrite s core c.team ea bs) else writeLine s c.ctx ea bs
    (if !c.addOn then put s bs
    else match peerAccess s none ea bs.length (some bs) (some (addOp, if c.fn == 1 then 1 + c.rcd % 2 else 0)) with
      -- a peer's device makes the line's add-on-store in one step (R143, R346)
      | some r => r.bind fun _ s => .ok () s
      | none => (if tgt = 1 then hostFetch s c.hostName c.ctx ea bs.length else addOld s ea bs.length).bind fun old s => put s (addWords (c.fn == 1) c.rcd old bs)).moved ()
/-- Bytes of a segment to its destination: how many were delivered. -/
def writeSeg (s : State) (core : Nat) (t : Team) (ps : Nat) (c : CopyCmd) (k : Nat) (bs : List Byte) : Moved Nat :=
  match c.dstSide with
  | .pad a =>
    let x := padAt a k
    match padPlace t x bs.length with
    | none => .ok 0 (some { cause := .sbound, addr := x }) s
    | some (al, p) => .ok bs.length none (progress (padWrite s core al p (padByte x) bs) c.team)
  | side =>
    (runs side.addr k bs.length).foldl (fun acc (o, l, a) =>
      match acc with
      | .ok n none s =>
        match a with
        | none => .ok (n + l) none s
        | some va => match writeRun s core c ps va ((bs.drop (o - k)).take l) with
          | .ok _ none s => .ok (n + l) none (progress s c.team)
          | .ok _ (some st) s => .ok n (some st) s
          | .wait s => .wait s
          | .kill s => .kill s
      | r => r) (.ok 0 none s)

/-! ## Starting, stopping, ending (R324, R327, R329) -/

def State.updChan (s : State) (tk ch : Nat) (f : ChanState → ChanState) : State := s.updTeam tk fun t => { t with chans := listUpd t.chans ch f }
def chanOf (s : State) (tk ch : Nat) : ChanState := (((s.team tk).bind fun t => t.chans[ch]?).getD {})
def queueAt (s : State) (core ch : Nat) : List CopyCmd := (mapGet? (s.core core).copyq ch).getD []
def setCopyQueue (s : State) (core ch : Nat) (q : List CopyCmd) : State :=
  s.updCore core fun c => { c with copyq := if q.isEmpty then mapErase c.copyq ch else mapSet c.copyq ch q }
/-- An engine command is done, stopped or discarded: its issue leaves the window and its flag goes down in the same step (R164, R329). -/
def engineDone (s : State) (tk iss : Nat) : State :=
  match (s.team tk).bind fun t => findIss t iss with
  | some i => leaveWindow s tk i
  | none => s
/-- What the host has answered a command that is no longer to use it. -/
def dropHostReads (s : State) (name : Nat) : State := { s with hostReads := s.hostReads.filter fun r => r.core != name }
/-- The head command leaves its queue. -/
def endCopy (s : State) (core ch : Nat) (c : CopyCmd) : State :=
  engineDone (dropHostReads (setCopyQueue s core ch ((queueAt s core ch).drop 1)) c.hostName) c.team c.iss
/-- R329, R330: the channel stops; the reserve is recorded for CAPREFUSE only. -/
def stopCopy (s : State) (core ch : Nat) (c : CopyCmd) (st : Stop) : State :=
  let reserve := if st.cause == .caprefuse then st.reserve % 2 ^ 36 else 0
  endCopy (s.updChan c.team ch fun x => { x with stopped := true, cause := st.cause.number, cpfa := BitVec.ofNat 64 st.addr, cprsv := BitVec.ofNat 64 reserve }) core ch c

/-- A shape record read at its address (R327). -/
def readRecord (s : State) (core : Nat) (c : CopyCmd) (ps : Nat) : Moved (List DWord) :=
  if c.rcd % 64 ≠ 0 then .ok [] (some { cause := .cpyarg, addr := c.rcd }) s
  else match readRun s core c ps c.rcd 64 with
    | .wait s => .wait s
    | .kill s => .kill s
    | .ok _ (some st) s => .ok [] (some st) s
    | .ok bs none s =>
      let ws := (List.range 8).map fun i => BitVec.ofNat 64 (leNat ((bs.drop (8 * i)).take 8))
      if (shapeOf ws).wellFormed then .ok ws none s else .ok ws (some { cause := .cpyarg, addr := c.rcd }) s
/-- A drain's shape: the register's, its origin moved (R347); an origin that leaves the signed 32-bit range wraps (DESIGN CHOICE, log 88: the
spec states no result there). -/
def drainShape (x : ChanState) (c : CopyCmd) : List DWord × Option Stop :=
  if x.shape.isEmpty then ([], some { cause := .cpyarg, addr := 0 })
  else
    let w6 := x.shape.getD 6 0
    let ws := x.shape.set 6 (BitVec.ofNat 64 ((fld w6 31 0 + c.dst) % 2 ^ 32 + (fld w6 63 32 + c.src) % 2 ^ 32 * 2 ^ 32))
    let h := shapeOf ws
    if h.esz = 2 && h.box = [64, 64, 1] then (ws, none) else (ws, some { cause := .cpyarg, addr := x.shapeAddr })
/-- A scratchpad range stays in a live allocation (R98, R324). -/
def padRange (t : Team) (a n : Nat) : Bool := (padRows t a ((padByte a + n + 255) / 256)).isSome
/-- The checks of R324, in order; the command's memory address for CPYARG. Of two scratchpad sides that both leave their allocations the
destination's address is recorded (DESIGN CHOICE, log 88: the spec orders the sides for the alignment check alone). -/
def startChecks (t : Team) (c : CopyCmd) : Option Stop :=
  let mem := match c.dstSide, c.srcSide with
    | .mem a, _ => a
    | _, .mem a => a
    | _, _ => 0
  let addrs := [c.dstSide, c.srcSide].filterMap fun x => match x with | .mem a => some a | .pad a => some a | _ => none
  let pads := [c.dstSide, c.srcSide].filterMap fun x => match x with | .pad a => some a | _ => none
  if c.len = 0 || 2 ^ 24 < c.len || c.len % 4 ≠ 0 then some { cause := .cpyarg, addr := mem }
  else match addrs.find? fun a => a % 4 != 0 with
    | some a => some { cause := .misalign, addr := a }
    | none => match pads.find? fun a => !padRange t a c.len || c.freed == some (padHandle a) with
      | some a => some { cause := .sbound, addr := a }
      | none => none
/-- The head command starts: its record is read, its checks are made. -/
def startCopy (s : State) (core ch : Nat) (t : Team) (ps : Nat) (c : CopyCmd) : Moved CopyCmd :=
  if c.op = 4 then
    let (ws, st) := drainShape (chanOf s c.team ch) c
    .ok { c with shape := ws, started := true, len := 16384 } st s
  else if c.shapedBit then
    match readRecord s core c ps with
    | .wait s => .wait s
    | .kill s => .kill s
    | .ok _ (some st) s => .ok c (some st) s
    | .ok ws none s =>
      let c := { c with shape := ws, started := true, len := (shapeOf ws).len }
      .ok c (startChecks t c) s
  else .ok { c with started := true } (startChecks t c) s

/-- tsr at the head of its channel (R327). -/
def runTsr (s : State) (core ch : Nat) (ps : Nat) (c : CopyCmd) : Out :=
  match readRecord s core c ps with
  | .wait s' => waitsFor s s' "the record's line is in use, or the host has not answered"
  | .kill s => .next s
  | .ok _ (some st) s => .next (stopCopy s core ch c st)
  | .ok ws none s => .next (endCopy (s.updChan c.team ch fun x => { x with shape := ws, shapeAddr := c.rcd }) core ch c)

/-- The billet of this device that byte k of the command's stream goes to. -/
def billetAt (s : State) (core ps : Nat) (c : CopyCmd) (k : Nat) : Option Nat :=
  match c.dstSide.addr k with
  | none => none
  | some va => match xlate s core c.ctx ps va 1 kWrite c.sys with
    | .ok 0 ea _ _ => some (billetOf ea)
    | _ => none
/-- The first byte of the stream from k on that has an address: a run of clipped elements is one segment (R321). -/
def CopyCmd.nextByte (c : CopyCmd) (k : Nat) : Nat := if (c.dstSide.addr k).isSome then k else k + segLen c k c.len 1
/-- The billet that a command stands in once it has delivered d more bytes: that of the last byte it has written, where its next one goes there
too (R55). -/
def insideNow (s : State) (core ps : Nat) (c : CopyCmd) (d : Nat) : Option Nat :=
  let k := c.done + d
  let last := if d = 0 || (c.dstSide.addr (k - 1)).isNone then c.inside else billetAt s core ps c (k - 1)
  last.filter fun b => c.nextByte k < c.len && billetAt s core ps c (c.nextByte k) == some b
/-- One segment moves. -/
def moveSegment (s : State) (core ch : Nat) (t : Team) (ps : Nat) (c : CopyCmd) : Out :=
  let s0 := s
  let waits := fun (s' : State) => waitsFor s0 s' "a line is in use, or the host has not answered"
  match readSeg s core t ps c c.done (segLen c c.done c.len 1) with
  | .wait s' => waits s'
  | .kill s => .next s
  | .ok [] (some st) s => .next (stopCopy s core ch c st)
  | .ok bs stop s =>
    match writeSeg s core t ps c c.done bs with
    | .wait s' => waits s'
    | .kill s => .next s
    | .ok d stop' s =>
      let s := s.updChan c.team ch fun x => { x with wp := x.wp + BitVec.ofNat 32 d }
      match (if stop'.isSome then stop' else stop) with
      | some st => .next (stopCopy s core ch c st)
      | none =>
        let c := { c with done := c.done + d, inside := insideNow s core ps c d }
        if c.len ≤ c.done then .next (progress (endCopy s core ch c) c.team)
        else .next (setCopyQueue s core ch (c :: (queueAt s core ch).drop 1))

/-- The scratchpad addresses of the segment that a command is to move next. -/
def CopyCmd.here (c : CopyCmd) : List Nat := c.pads.map fun a => padAt a c.done
/-- An older access of the issuing thread comes first (R153, R162). -/
def copyHeld (s : State) (core : Nat) (t : Team) (c : CopyCmd) : Bool :=
  !releasedBefore t c.tid c.id || c.here.any fun x => engineFirst s core c.team [c.tid] c.id (padHandle x) (padRow x)
def execCopySegment (xCore xCh : Nat) (s : State) : Out :=
  match queueAt s xCore xCh with
  | [] => notNow "the channel is empty"
  | c :: rest =>
    match s.team c.team with
    | none => .next (setCopyQueue s xCore xCh rest)
    | some t =>
      if (s.core xCore).asleep || c.suspended then notNow "the command is suspended"
      else if (chanOf s c.team xCh).stopped then
        .next (endCopy (s.updChan c.team xCh fun x => { x with disc := min 255 (x.disc + 1) }) xCore xCh c)
      else
        let ps := ((t.threads[c.tid]?).map Thread.pslot).getD 0
        if copyHeld s xCore t c then notNow "older accesses of the thread come first"
        else if c.op = 1 then runTsr s xCore xCh ps c
        else if c.started then match c.here.find? fun x => c.freed == some (padHandle x) with
          | some x => .next (stopCopy s xCore xCh c { cause := .sbound, addr := x })
          | none => moveSegment s xCore xCh t ps c
        else match startCopy s xCore xCh t ps c with
          | .wait s' => waitsFor s s' "the record's line is in use, or the host has not answered"
          | .kill s => .next s
          | .ok c (some st) s => .next (stopCopy s xCore xCh c st)
          | .ok c none s => .next (setCopyQueue s xCore xCh (c :: rest))

/-! ## The instructions (R323, R328, R331) -/

/-- A copy or fill that writes memory is not issued while a drain to memory of its thread is open: which of the two writes first would depend on
their channels (R153, log 103). -/
def behindDrain (e : Env) (i : Instr) (tid : Nat) : Bool :=
  (match i with | .xdrain _ => false | _ => engineStores i) &&
  e.team.iw.any fun x => x.engine && (match x.insn with | .xdrain _ => engineStores x.insn | _ => false) && x.tids.head? == some tid
/-- A command enters its channel's queue at issue; a full queue waits (R162, R321). -/
def copyIssue (s : State) (i : Instr) (f : CF) (counts : Bool) (build : Env → CopyCmd) : Out :=
  withGate s i fun e s =>
    let ch := f.ch.toNat
    let tid := ((e.lanes.head?).map Prod.snd).getD 0
    if 16 ≤ (queueAt s e.core ch).length || behindDrain e i tid then .next (stallAt s e)
    else
      let iss := if counts then s.nextId else 0
      let s := if counts then enterWindow s e i [] none false true else s
      let (id, s) := s.fresh
      let c := { build e with id := id, team := e.tk, tid := tid, word := e.word, fn := f.fn.toNat, flag := e.flag i, grp := e.g, iss := iss, ctx := e.team.ctx, sys := e.b.handler }
      .next (advance (setCopyQueue s e.core ch (queueAt s e.core ch ++ [c])) e)
/-- A command with nothing filled in. -/
def blankCopy : CopyCmd := { id := 0, team := 0, tid := 0, word := 0, op := 0, fn := 0, dst := 0, src := 0, len := 0, flag := none, grp := 0 }
/-- A memory or scratchpad operand (R323). -/
def copyAddr (s : State) (e : Env) (mem : Bool) (c : BitVec 11) : Nat := if mem then (uni64 e c).toNat else (uni32 s e c).toNat

def execCpy (f : CF) (s : State) : Out :=
  copyIssue s (.cpy f) f true fun e =>
    let dir := f.fn.toNat / 4
    let shaped := f.fn.toNat / 2 % 2 = 1
    { blankCopy with op := 0, dst := if shaped && dir = 2 then 0 else copyAddr s e (dir % 2 = 0) f.d, src := if shaped && dir = 1 then 0 else copyAddr s e (dir / 2 = 0) f.a, len := if shaped then 0 else (uni32 s e f.b).toNat, rcd := if shaped then (uni64 e f.b).toNat else 0 }
def execCpfill (f : CF) (s : State) : Out :=
  copyIssue s (.cpfill f) f true fun e =>
    let shaped := f.fn.toNat / 2 % 2 = 1
    { blankCopy with op := 2, dst := if shaped then 0 else copyAddr s e (f.fn.toNat / 4 % 2 = 0) f.d, src := (uni32 s e f.a).toNat, len := if shaped then 0 else (uni32 s e f.b).toNat, rcd := if shaped then (uni64 e f.b).toNat else 0 }
def execTsr (f : CF) (s : State) : Out := copyIssue s (.tsr f) f false fun e => { blankCopy with op := 1, rcd := (uni64 e f.a).toNat }
/-- R328. -/
def chanStatus (x : ChanState) (q : Nat) : Nat := (if x.stopped then 2 else if 0 < q then 1 else 0) * 2 ^ 30 + x.cause * 2 ^ 16 + x.disc * 2 ^ 8 + q
def execCpwp (f : CF) (s : State) : Out :=
  simple s (.cpwp f) fun e s =>
    let x := chanOf s e.tk f.ch.toNat
    let q := ((queueAt s e.core f.ch.toNat).filter fun c => c.team == e.tk).length
    writeG s e f.d 2 (x.wp.toNat + chanStatus x q * 2 ^ 32)
/-- Every command of the team on the channel stops at a segment boundary, its flag going down; the status is cleared. cpcancel itself
completes, and its flag goes down, after that (R331). -/
def execCpcancel (f : CF) (s : State) : Out :=
  simple s (.cpcancel f) fun e s =>
    let ch := f.ch.toNat
    let q := queueAt s e.core ch
    let s := (q.filter fun c => c.team == e.tk).foldl (fun s c => engineDone (dropHostReads s c.hostName) c.team c.iss) s
    let s := enterWindow s e (.cpcancel f) [] none false false
    let s := setCopyQueue s e.core ch (q.filter fun c => c.team != e.tk)
    s.updChan e.tk ch fun x => { x with stopped := false, cause := 0, disc := 0, cpfa := 0, cprsv := 0 }

end Sys2Proof.Machine
end

