-- ==== Sys2Proof/Machine/System.lean ====
section
/-! DEFINITION. The system class (15): nop, the control/status registers, trap, brk, tret, launch, clock, sleep, waitf. -/

namespace Sys2Proof.Machine

/-- R353. -/
def execNop (f : SF) (s : State) : Out := simple s (.nop f) fun _ s => s

/-! ## Control/status registers (R354 to R360) -/

/-- R60: sectors move between the pool and the reserve; the status is 0 done, 1 pool short, 2 reserve short. -/
def transferReserve (s : State) (x : Nat) (amount : BitVec 37) : Nat × State :=
  match s.ctx x with
  | none => (2, s)
  | some c =>
    let a := amount.toInt
    let r : Nat × State :=
      if a = 0 then (0, s)
      else if 0 < a then
        if a.toNat ≤ s.poolOf c.vd then (0, (s.poolTake c.vd a.toNat).updCtx x fun c => { c with reserve := c.reserve + a.toNat }) else (1, s)
      else if (-a).toNat ≤ c.reserve then (0, (s.poolGive c.vd (-a).toNat).updCtx x fun c => { c with reserve := c.reserve - (-a).toNat }) else (2, s)
    (r.1, r.2.updCtx x fun c => { c with rsvadd := BitVec.ofNat 2 r.1 ++ (0#25) ++ c.rsvadd.extractLsb' 0 37 })
/-- A csrw of csr.rsvadd stores AMOUNT and makes the transfer (R60). -/
def writeRsvadd (s : State) (x : Nat) (amount : BitVec 37) : State :=
  (transferReserve (s.updCtx x fun c => { c with rsvadd := (0#27) ++ amount }) x amount).2
/-- R27: a read of csr.hintdrop clears it. -/
def readHintdrop (s : State) (x : Nat) : Word × State :=
  (((s.ctx x).map Ctx.hintdrop).getD 0, s.updCtx x fun c => { c with hintdrop := 0 })

/-- The value a csrr reads (R355). -/
def csrValue (s : State) (core : Nat) (t : Team) (n : Nat) : DWord :=
  let c := (s.ctx t.ctx).getD { vd := 0, loc := 0, key := 0, ccb := 0 }
  let w := fun (v : Word) => v.zeroExtend 64
  match n with
  | 0x000 => 0xA7640010
  | 0x001 => w c.nvr
  | 0x002 => w c.lease
  | 0x003 => w c.xidle
  | 0x004 => w c.xwake
  | 0x005 => w (s.core core).tret
  | 0x006 => w c.hintdrop
  | 0x007 => w t.pmark
  | 0x010 => c.privbase
  | 0x011 => w c.privstride
  | 0x012 => w c.privslots
  | 0x013 => c.lnkspill
  | 0x014 => c.ptroot
  | 0x015 => c.acap
  | 0x016 => w c.keepalive
  | 0x017 => c.tvec
  | 0x018 => c.tarea
  | 0x019 => w c.dbgctl
  | 0x020 => BitVec.ofNat 64 c.reserve
  | 0x021 => c.rsvcap
  | 0x022 => c.rsvadd
  | 0x023 => mailbox c.balloon
  | n => if n < 0x34 then ((t.chans[n - 0x30]?).map ChanState.cpfa).getD 0 else ((t.chans[n - 0x34]?).map ChanState.cprsv).getD 0

/-- R354: csr.hintdrop is cleared by its read. -/
def execCsrr (f : SF) (s : State) : Out :=
  simple s (.csrr f) fun e s =>
    let v := csrValue s e.core ((s.team e.tk).getD e.team) f.csr.toNat
    let s := if f.csr = 6 then (readHintdrop s e.team.ctx).2 else s
    writeAll s e f.d (csrSpan f.csr) v.toNat

/-- R355: what a csrw meets: it is illegal, ignored, or performed. -/
inductive CsrFate where
  | illegal | ignored | performed
  deriving DecidableEq, Repr
def csrFate (n : Nat) (handler : Bool) : CsrFate :=
  if n = 1 ∨ n = 2 ∨ n = 3 ∨ n = 5 then .performed
  else if 0x10 ≤ n ∧ n ≤ 0x19 then .illegal
  else if 0x20 ≤ n ∧ n ≤ 0x23 then (if !handler then .illegal else if n = 0x22 then .performed else .ignored)
  else .ignored
/-- The write itself, under the access codes of R5. csr.tret is one register to a core, so a W1C of RISE by a team of one context clears it for
every team there (R355 gives it to the context and R100 the band of the core: DESIGN CHOICE, log 117). -/
def csrWrite (s : State) (core x n : Nat) (v : DWord) : State :=
  let w := v.extractLsb' 0 32
  match n with
  | 1 => s.updCtx x fun c => { c with nvr := w &&& 1 }
  | 2 => s.updCtx x fun c => { c with lease := w &&& 0x1FFF }
  | 3 => s.updCtx x fun c => { c with xidle := w &&& 0xFFFF }
  | 5 => s.updCore core fun k => { k with tret := k.tret &&& ~~~(w &&& 0x80000000) }
  | 0x22 => writeRsvadd s x (v.extractLsb' 0 37)
  | _ => s
def execCsrw (f : SF) (s : State) : Out :=
  withGate s (.csrw f) fun e s =>
    match csrFate f.csr.toNat e.b.handler with
    | .illegal => .next (faultBundle s e (insnFault e .illinsn))
    | .ignored => .next (advance s e)
    | .performed =>
      let v : DWord := if csrSpan f.csr = 2 then uni64 e f.a else (uni32 s e f.a).zeroExtend 64
      .next (advance (csrWrite s e.core e.team.ctx f.csr.toNat v) e)

/-- The transfer alone, as a step at the reserve home. -/
def execRsvaddTransfer (xCtx : Nat) (xAmount : BitVec 37) (s : State) : Out :=
  match s.ctx xCtx with
  | none => notNow "no such context"
  | some _ => .next (writeRsvadd s xCtx xAmount)
/-- The read alone. -/
def execHintdropRead (xCtx : Nat) (s : State) : Out :=
  match s.ctx xCtx with
  | none => notNow "no such context"
  | some _ => let (v, s) := readHintdrop s xCtx; .next { s with hostRd := v.zeroExtend 64 }

/-! ## trap, brk, tret (R361, R362, R392) -/

/-- The selected threads take the cause; in handler mode the team is killed with it (R392). -/
def trapThreads (s : State) (e : Env) (f : SF) (c : Cause) : State :=
  let g := { insnFault e c with code := f.n.toNat }
  (e.sel f.pm f.pn).foldl (fun s (_, tid) =>
    if e.b.handler then killHandler (leaveBundle s e.tk e.g (maskOf [(e.thread tid).lane])) e.tk tid (faultNow s e.team tid g) else parkThread s e.tk tid g) s
/-- R361: brk in handler mode with EN = 1; no record is written. -/
def parkForDebugger (s : State) (e : Env) (lane tid : Nat) : State :=
  let s := leaveBundle s e.tk e.g (maskOf [lane])
  let s := s.updThread e.tk tid fun th => { th with st := .parked, dbg := true, rp := { prio := e.b.prio, clause := e.b.clause, index := e.b.index } }
  s.postCtx e.team.ctx (healthRecord 11 0 0 0 0 0 (e.thread tid).pslot 0 0 e.core e.b.clause s.ns)

def execTrap (f : SF) (s : State) : Out := simple s (.trap f) fun e s => trapThreads s e f .trapi
def execBrk (f : SF) (s : State) : Out :=
  simple s (.brk f) fun e s =>
    let en := ((s.ctx e.team.ctx).map fun c => bit c.dbgctl 0).getD false
    if e.b.handler && en then (e.sel f.pm f.pn).foldl (fun s (l, tid) => parkForDebugger s e l tid) s
    else trapThreads s e f .brkpt

/-- Issues of the bundle's lanes that are still in the window. -/
def issuesOpen (e : Env) : Bool :=
  e.team.iw.any fun i => i.grp == e.g && (if i.lanes.isEmpty then e.lanes.any (fun x => i.tids.contains x.2) else i.lanes.any fun l => e.lanes.any fun (_, tid) => tid == l.tid)
/-- R362; a fault of the record's read is a fault in handler mode (R392). -/
def tret (s : State) (i : Instr) (skip : Bool) : Out :=
  withGate s i fun e s =>
    if !e.b.handler then .next (faultBundle s e (insnFault e .illinsn))
    else if issuesOpen e then .next (stallAt s e)
    else
      let r := e.lanes.foldl (fun (acc : Virt Unit) (_, tid) => acc.bind fun _ s => returnFrom s e.tk tid skip) (.ok () s)
      match r with
      | .wait s' => .next (stallAt (keepWaits s s') e)
      | .fault c a u r s => .next (faultBundle s e { insnFault e c with addrs := a, aux := u, reserve := r })
      | .ok _ s => .next (leaveBundle s e.tk e.g e.b.lanes)
def execTretReplay (f : SF) (s : State) : Out := tret s (.tretReplay f) false
def execTretSkip (f : SF) (s : State) : Out := tret s (.tretSkip f) true

/-! ## launch (R366) -/

/-- A fault that every thread of the bundle takes: a refusal refuses them all (R18, R398). -/
def wholeFault (e : Env) (f : FaultInfo) : FaultInfo := if f.cause == .caprefuse || f.cause == .tiershort then { f with refused := e.b.lanes } else f
/-- The packet's 64 bytes, at their homes or from the host (R162, R167). -/
def readPacket (s : State) (core ctx tgt ea : Nat) : Home (List Byte) := if tgt = 1 then hostFetch s core ctx ea 64 else readLine s ea 64
/-- R366: p is translated first and its alignment checked then; a packet in a host page puts the issue off until the host has answered. -/
def execLaunch (f : SF) (s : State) : Out :=
  withGate s (.launch f) fun e s =>
    let (ok, s) := released s e 2
    if !ok then .next (stallAt s e) else
    let (lane, tid) := e.lanes.headD (0, 0)
    let p := (uni64 e f.a).toNat
    match checkLanes s e [(lane, tid, p)] 64 kRead false with
    | .wait s => .next s
    | .fault g s => .next (faultBundle s e (wholeFault e g))
    | .ok ts =>
      let s := dropEnded s e.core e.team.ctx
      match ts with
      | [] => .next (advance s e)
      | t :: _ =>
        if p % 64 ≠ 0 then .next (faultBundle s e { insnFault e .misalign with addrs := [p] })
        else
          match (readPacket s e.core e.team.ctx t.tgt t.ea).toVirt t.va |>.bind fun pkt s => launchStep s e.team.ctx e.core (e.thread tid).pslot pkt with
          | .wait s' => .next (stallAt (keepWaits s s') e)
          | .fault c a u r s => .next (faultBundle s e (wholeFault e { insnFault e c with addrs := a, aux := u, reserve := r }))
          | .ok r s => .next (advance (progress (writeG s e f.d 2 (launchResult r)) e.tk) e)

/-! ## clock, sleep, waitf (R363 to R365) -/

/-- R363: selector 0 the core's cycles, selector 1 nanoseconds since package reset. -/
def execClock (f : SF) (s : State) : Out :=
  simple s (.clock f) fun e s => writeAll s e f.d 2 (if f.a = 1792 then (s.core e.core).cycles else s.ns)
/-- R364. -/
def execSleep (f : SF) (s : State) : Out :=
  withGate s (.sleep f) fun e s =>
    let n := (uni32 s e f.a).toNat % 65536
    if n = 0 then .next (advance s e) else .next (waitThreads s e e.lanes (.sleep ((s.core e.core).rtotal + n)))
/-- The sleep of a thread is over. -/
def sleepOver (s : State) (core : Nat) (th : Thread) : Bool :=
  match th.st with
  | .waiting (.sleep u) => decide (u ≤ (s.core core).rtotal)
  | _ => false
/-- A sleeping thread wakes, and with it every thread of its team whose sleep is over: progress (R364, R387). -/
def execSleepEnd (xTeam xTid : Nat) (s : State) : Out :=
  match s.team xTeam with
  | none => notNow "no such team"
  | some t =>
    let ended := ((t.threads[xTid]?).map fun th => sleepOver s t.core th).getD false
    if !ended || (s.core t.core).asleep || t.kill.isSome || t.kept then notNow "the sleep is not over"
    else .next (progress (s.updTeam xTeam fun t => { t with threads := t.threads.map fun th => if sleepOver s t.core th then { th with st := .runnable } else th }) xTeam)
/-- R365: the wait ends in Machine/Settle.lean; a flag at most N lets the threads run on. -/
def execWaitf (f : SF) (s : State) : Out :=
  withGate s (.waitf f) fun e s =>
    if e.grp.flag f.cf.toNat ≤ f.n.toNat then .next (advance s e)
    else .next (waitThreads s e e.lanes (.waitf f.cf.toNat f.n.toNat))

end Sys2Proof.Machine
end

