-- ==== Sys2Proof/Machine/Dispatcher.lean ====
section
/-! DEFINITION. The dispatcher: the notify registers, packets taken up and checked, dependences, placement, retirement and
completion (R368 to R376, R171 to R176, R415). -/

namespace Sys2Proof.Machine

/-! ## A packet's shape (R371) -/

def pktTeams (p : List DWord) : Nat := fld (p.getD 3 0) 31 0
def pktT (p : List DWord) : Nat := fld (p.getD 4 0) 10 0
def pktVb (p : List DWord) : Nat := fld (p.getD 4 0) 16 11
def pktGb (p : List DWord) : Nat := fld (p.getD 4 0) 20 17
def pktF (p : List DWord) : Nat := fld (p.getD 4 0) 26 21
def pktS (p : List DWord) : Nat := fld (p.getD 4 0) 30 27
def pktSpg (p : List DWord) : Nat := fld (p.getD 4 0) 38 31
def pktTq (p : List DWord) : Nat := fld (p.getD 4 0) 44 39
/-- G (R171). -/
def pktG (p : List DWord) : Nat := (pktT p + 31) / 32
def pktRole (p : List DWord) (g : Nat) : Nat := fld (p.getD 5 0) (2 * g + 1) (2 * g)
def pktQueue (p : List DWord) : Nat := fld (p.getD 0 0) 63 52
def pktLko (p : List DWord) : Nat := fld (p.getD 0 0) 51 44
def pktAcq (p : List DWord) : Bool := bit (p.getD 0 0) 39
def pktRel (p : List DWord) : Bool := bit (p.getD 0 0) 38
def pktScope (p : List DWord) : Nat := fld (p.getD 0 0) 37 36
def pktOrdr (p : List DWord) : Bool := bit (p.getD 0 0) 35
def pktAcc (p : List DWord) : Bool := bit (p.getD 0 0) 34
def pktRst (p : List DWord) : Bool := bit (p.getD 0 0) 33
def pktDepval (p : List DWord) : Nat := fld (p.getD 0 0) 31 0
def pktWords (bs : List Byte) : List DWord := (List.range 8).map fun i => BitVec.ofNat 64 (wordAt bs i)
def pktBytes (p : List DWord) : List Byte := (List.range 8).flatMap fun i => leBytes 8 (p.getD i 0).toNat

/-- Canonical and aligned (R373 code 4). -/
def addrOk (a : Nat) : Bool := a < 2 ^ 57 && a % 8 == 0
/-- R373: the lowest code that applies; the conditions on the words a marker packet ignores apply to no marker. -/
def packetError (c : Ctx) (q : Nat) (p : List DWord) : Option Nat :=
  let w := fun i => p.getD i 0
  let teams := pktTeams p != 0
  let fence := pktAcq p || pktRel p
  let g := pktG p
  let slots := g + pktS p
  if fld (w 0) 43 40 != 0 || fld (w 3) 63 32 != 0 || (fence && pktScope p < 2) || (!fence && pktScope p != 0) ||
      (teams && (fld (w 4) 63 45 != 0 || (w 5).toNat / 2 ^ (2 * g) != 0)) then some 1
  else if teams && (pktT p < 1 || 1024 < pktT p || pktVb p < 1 || 40 < pktVb p || 8 < pktGb p || g < pktF p || 8 < pktS p ||
      (pktF p == 0 && pktS p != 0) || 192 < pktSpg p || 32 < pktTq p || (List.range (pktF p)).any fun i => 2 ≤ pktRole p i) then some 2
  else if teams && (64 < slots || 2048 < slots * 16 * pktVb p || 8192 < slots * 64 * pktGb p || c.privslots.toNat % 2 ^ 21 < pktT p) then some 3
  else if (teams && !addrOk (w 1).toNat) || !addrOk (w 6).toNat || !addrOk (w 7).toNat then some 4
  else if pktQueue p != q then some 5
  else none

/-! ## The notify register and take-up (R369, R370, R372) -/

/-- An error stops the queue (R372, R373): ERR and ERRIDX, and for a packet error a kind 7 record. -/
def stopQueue (s : State) (x : Nat) (c : Ctx) (q code idx : Nat) (report : Bool) : Virt Unit :=
  (writeDesc s x c q 11 (leBytes 1 code)).bind fun _ s =>
    (writeDesc s x c q 40 (leBytes 8 idx)).bind fun _ s =>
      let s := s.updCtx x fun c => { c with stopped := if c.stopped.contains q then c.stopped else q :: c.stopped }
      .ok () (if report then s.postCtx x (healthRecord 7 0 code 0 0 q 0 0 0 0 idx s.ns) else s)

/-- R415: an entry of the running-packet table. -/
def runningEntry (r : Running) : List Byte :=
  pktBytes r.packet ++ leBytes 2 r.queue ++ List.replicate 6 0 ++ leBytes 8 r.index ++
  leBytes 4 (pktTeams r.packet - r.next + r.again.length) ++ leBytes 4 r.placed ++ List.replicate 40 0
/-- The part keeps the entry current. -/
def showRunning (s : State) (x : Nat) (r : Running) : State :=
  match s.ctx x with
  | none => s
  | some c => s.post (.bytes x (c.ccb + 0x400 + 128 * r.slot) (runningEntry r))
def clearRunning (s : State) (x slot : Nat) : State :=
  match s.ctx x with
  | none => s
  | some c => s.post (.bytes x (c.ccb + 0x400 + 128 * slot) (List.replicate 128 0))
def findRunning (c : Ctx) (q idx : Nat) : Option Running := c.running.find? fun r => r.queue == q && r.index == idx
/-- Changes a running packet and its entry. -/
def updRunning (s : State) (x q idx : Nat) (f : Running → Running) : State :=
  match (s.ctx x).bind fun c => findRunning c q idx with
  | none => s
  | some r =>
    showRunning (s.updCtx x fun c => { c with running := c.running.map fun y => if y.queue == q && y.index == idx then f y else y }) x (f r)

/-- A write to QNOTIFY; a queue stopped by an error runs on when its ERR is 0 again (R369, R372). -/
def execQnotify (xVd xN xQ : Nat) (xIdx : BitVec 64) (s : State) : Out :=
  let s := ringNotify s xVd xN xQ xIdx.toNat
  match (mapGet? (s.vd xVd).ctxs xN).bind fun x => (s.ctx x).map fun c => (x, c) with
  | none => .next s
  | some (xCtx, c) =>
    if !c.stopped.contains xQ then .next s
    else match readDesc s xCtx c xQ with
      | .wait s' => waitsFor s s' "the descriptor's line is in use"
      | .fault _ _ _ _ s => .next s
      | .ok d s => .next (if descErr d = 0 then s.updCtx xCtx fun c => { c with stopped := c.stopped.filter (· != xQ) } else s)

/-- What the dispatcher's own accesses answer: a fault leaves the packet where it is. -/
def virtNext (s : State) (r : Virt Unit) : Out :=
  match r with
  | .ok _ s => .next s
  | .wait s' => waitsFor s s' "a line of the queue is in use"
  | .fault _ _ _ _ _ => notNow "the queue's memory does not translate"

/-- The lowest free entry of the running-packet table. -/
def freeEntry (c : Ctx) : Option Nat := (List.range 24).find? fun i => c.running.all fun r => r.slot != i
/-- The virtual device is being stopped (R427). -/
def stopAsked (s : State) (vd : Nat) : Bool := bit (s.vd vd).lmctl 1

def execPacketTakeUp (xCtx xQ : Nat) (s : State) : Out :=
  match s.ctx xCtx with
  | none => notNow "no such context"
  | some c =>
    match freeEntry c with
    | none => notNow "24 packets of the context are running"
    | some slot =>
      if c.qcount ≤ xQ || c.stopped.contains xQ || stopAsked s c.vd || c.destroying then notNow "the queue takes up nothing"
      else if !s.posted xCtx then notNow "a write of the context's structures is still to be made (R438)"
      else let s0 := s; match readDesc s xCtx c xQ with
        | .wait s' => waitsFor s s' "the descriptor's line is in use"
        | .fault _ _ _ _ _ => notNow "the queue table does not translate"
        | .ok d s =>
          let i := descRidx d
          if descLog d = 0 || descErr d ≠ 0 || !(i < notifyOf s c.vd c.loc xQ && i < descWidx d) then notNow "the queue holds no packet to take up"
          else match virtRead s none xCtx 0 (slotAddr d i) 64 kRead true with
            | .wait s' => waitsFor s0 s' "the slot's line is in use"
            | .fault _ _ _ _ _ => notNow "the ring does not translate"
            | .ok bs s =>
              let p := pktWords bs
              if descDevOk d && !bit (p.getD 0 0) 32 then notNow "the slot is not valid yet"
              else match packetError c xQ p with
                | some code => virtNext s0 (stopQueue s xCtx c xQ code i true)
                | none => virtNext s0 <|
                  (if descDevOk d then virtWrite s none xCtx 4096 0 (slotAddr d i) (setValid bs false |>.take 8) kWrite true else .ok () s).bind fun _ s =>
                  (writeDesc s xCtx c xQ 24 (leBytes 8 (i + 1))).bind fun _ s =>
                    let r : Running := { queue := xQ, index := i, packet := p, slot := slot, prio := descPrio d, depMet := !pktOrdr p && p.getD 7 0 == 0, since := s.ns }
                    .ok () (showRunning (s.updCtx xCtx fun c => { c with running := c.running ++ [r] }) xCtx r)

/-! ## Completion (R372, R402) -/

/-- CIDX advances over completed packets with no gap below it. -/
def advanceCidx (done : List Nat) (q : Nat) : Nat → Nat → Nat
  | 0, n => n
  | fuel + 1, n => if done.contains (q * 2 ^ 64 + n) then advanceCidx done q fuel (n + 1) else n
/-- The packet is complete. -/
def finishPacket (s : State) (x q idx : Nat) : Virt Unit :=
  match s.ctx x with
  | none => .ok () s
  | some c => (readDesc s x c q).bind fun d s =>
    let done := (q * 2 ^ 64 + idx) :: c.completed
    let n := advanceCidx done q done.length (descCidx d)
    (if n = descCidx d then Virt.ok () s else writeDesc s x c q 32 (leBytes 8 n)).bind fun _ s =>
      let slot := ((findRunning c q idx).map Running.slot).getD 0
      let s := s.updCtx x fun c => { c with completed := done.filter (fun k => !(k / 2 ^ 64 == q && k % 2 ^ 64 < n)), running := c.running.filter fun r => !(r.queue == q && r.index == idx) }
      .ok () (clearRunning s x slot)

/-- Packet error 6: the queue stops (R373). -/
def wordError (c : Cause) : Bool := c != .caprefuse && c != .tiershort

/-- The order and the dependence word (R372). -/
def execDependenceMet (xCtx xQ xIdx : Nat) (s : State) : Out :=
  match (s.ctx xCtx).bind fun c => (findRunning c xQ xIdx).map fun r => (c, r) with
  | none => notNow "no such running packet"
  | some (c, r) =>
    if r.depMet then notNow "the dependence is met already"
    else let s0 := s; match readDesc s xCtx c xQ with
      | .wait s' => waitsFor s s' "the descriptor's line is in use"
      | .fault _ _ _ _ _ => notNow "the queue table does not translate"
      | .ok d s =>
        if pktOrdr r.packet && descCidx d ≠ xIdx then notNow "an earlier packet has not completed"
        else
          let dep := (r.packet.getD 7 0).toNat
          let met := fun (s : State) => updRunning s xCtx xQ xIdx fun r => { r with depMet := true, since := s.ns }
          if dep = 0 then .next (met s)
          else match virtRead s none xCtx 0 dep 8 kRead false with
            | .wait s' => waitsFor s0 s' "the dependence word's line is in use"
            | .fault cause _ _ _ s =>
              if wordError cause then virtNext s0 ((stopQueue s xCtx c xQ 6 xIdx true).bind fun _ s => finishPacket s xCtx xQ xIdx)
              else notNow "the walk's update waits for admission"
            | .ok bs s => if pktDepval r.packet ≤ leNat (bs.take 4) then .next (met s) else if s.hostReads = s0.hostReads then notNow "the dependence word is not reached" else .next { s0 with hostReads := s.hostReads }

/-- The add to the completion word (R372, R438): whether it faulted. A word in a host page takes a FetchAdd at the host (log 42). -/
def addSignal (s : State) (x a : Nat) : Virt Bool :=
  match xlateNow s none x 0 a 8 kRmw false with
  | .wait s => .wait s
  | .fault _ _ _ s => .ok true s
  | .refused _ b _ s => .ok false (s.postRefused (b * 256))
  | .ok tgt ea _ s =>
    if tgt = 1 then .ok false { s with hostOut := s.hostOut ++ [.atomic ea 0 3 (leBytes 8 1)] }
    else match rmwLine s (s.ownerOf ea) ea 8 fun old => leBytes 8 (leNat old + 1) with
      | .ok _ s => .ok false s
      | .wait s => .wait s
      | .poisoned _ s => .ok true s
      | .refused _ b _ s => .ok false (s.postRefused (b * 256))

/-- A packet whose teams have all retired; a sys-scope release waits for the host's acknowledgements (R167, R374). -/
def execPacketComplete (xCtx xQ xIdx : Nat) (s : State) : Out :=
  match (s.ctx xCtx).bind fun c => (findRunning c xQ xIdx).map fun r => (c, r) with
  | none => notNow "no such running packet"
  | some (c, r) =>
    if !r.depMet || r.next < pktTeams r.packet || !r.again.isEmpty || 0 < r.placed then notNow "teams of the packet have still to retire"
    else if pktRel r.packet && pktScope r.packet == 3 && s.hostPend.any fun h => r.members.contains h.team then notNow "the host has not acknowledged every write"
    else if !s.posted xCtx then notNow "a write of the context's structures is still to be made (R438)"
    else
      let sig := (r.packet.getD 6 0).toNat
      virtNext s <| (if sig = 0 then Virt.ok false s else addSignal s xCtx sig).bind fun bad s =>
        (if bad then stopQueue s xCtx c xQ 6 xIdx true else if r.killed then stopQueue s xCtx c xQ 7 xIdx false else .ok () s).bind fun _ s =>
          finishPacket s xCtx xQ xIdx

/-! ## Placement (R12, R173, R174, R375) -/

/-- A resident team's share of a core: a team kept alive holds only its block and the accumulator store (R113, R382). -/
def residents (s : State) (core : Nat) (gone : List Nat) : List (Nat × Team) := s.teams.filter fun (k, t) => t.core == core && !gone.contains k
def running (ts : List (Nat × Team)) (keepers : List Nat) : List (Nat × Team) := ts.filter fun (k, t) => !t.kept && !keepers.contains k
def sumOf {α : Type} (l : List α) (f : α → Nat) : Nat := l.foldl (fun a x => a + f x) 0
/-- The lowest n private slots that are free, which the threads of a new team take in ascending sr.tid (R12 names none: DESIGN CHOICE, log
108). -/
def pickSlots (used : List Nat) : Nat → Nat → Nat → List Nat
  | 0, _, _ => []
  | _, 0, _ => []
  | fuel + 1, n + 1, i => if used.contains i then pickSlots used fuel (n + 1) (i + 1) else i :: pickSlots used fuel n (i + 1)
/-- The lowest run of n free granules. -/
def freeBlock (ts : List (Nat × Team)) (n : Nat) : Option Nat :=
  (List.range (193 - n)).find? fun b => ts.all fun (_, t) => t.spg == 0 || n == 0 || b + n ≤ t.block || t.block + t.spg ≤ b
/-- Everything R375 asks of a core: gone teams are taken away, keepers keep only their block and accumulator. -/
def fits (s : State) (x : Nat) (c : Ctx) (q idx : Nat) (p : List DWord) (core : Nat) (gone keepers : List Nat) : Bool :=
  let all := residents s core gone
  let ts := running all keepers
  let n := pktG p + pktS p
  s.coreEnabled core && ((mapGet? s.coreVd core).getD 0) == c.vd && !(s.core core).emergency && !(s.core core).sleepAsked &&
  ts.length < 16 && sumOf ts (fun (_, t) => t.groups.length) + n ≤ 64 &&
  sumOf ts (fun (_, t) => t.groups.length * 16 * t.vb) + n * 16 * pktVb p ≤ 2048 &&
  sumOf ts (fun (_, t) => t.groups.length * 64 * t.gb) + n * 64 * pktGb p ≤ 8192 &&
  (freeBlock all (pktSpg p)).isSome && sumOf ts (fun (_, t) => t.queues.length) + pktTq p ≤ 32 &&
  (pktF p == 0 || ts.all fun (_, t) => !(t.ctx == x && t.queue == q && t.pidx == idx)) &&
  (!pktAcc p || all.all fun (_, t) => !t.acc)
/-- R12: the context's pool holds enough private slots. -/
def slotsFree (c : Ctx) (p : List DWord) : Bool := pktT p + c.usedSlots.length ≤ c.privslots.toNat % 2 ^ 21

/-- R174: the groups of a new team, in the lowest free group slots. -/
def newGroups (p : List DWord) (slots : List Nat) : List Group :=
  (List.range (pktG p + pktS p)).map fun g =>
    let live := g < pktG p
    let arg := if live && pktGb p != 0 then cellsSet [] 0 [(p.getD 2 0).extractLsb' 0 32, (p.getD 2 0).extractLsb' 32 32] else []
    { live := live, idx := if live then g else 0, role := if live then pktRole p g else 0, flagged := g < pktF p || pktG p ≤ g, slot := slots.getD g 0, g := arg }
/-- R174: the threads of a new team, at the packet's entry clause. -/
def newThreads (p : List DWord) (ps : List Nat) : List Thread :=
  (List.range (pktT p)).map fun i =>
    let v := if pktGb p = 0 then cellsSet [] 0 [(p.getD 2 0).extractLsb' 0 32, (p.getD 2 0).extractLsb' 32 32] else []
    { v := v, rp := { clause := (p.getD 1 0).toNat }, pslot := ps.getD i 0, grp := i / 32, lane := i % 32 }
def newTeam (x q idx team core prio : Nat) (p : List DWord) (slots ps : List Nat) (block relaunches : Nat) (mark : Word) : Team :=
  { ctx := x, queue := q, pidx := idx, index := team, core := core, packet := p, groups := newGroups p slots, threads := newThreads p ps
    vb := pktVb p, gb := pktGb p, spg := pktSpg p, block := block, acc := pktAcc p, rst := pktRst p, lko := pktLko p
    pmark := mark, queues := List.replicate (pktTq p) {}, relaunches := relaunches, prio := prio }
/-- Free group slots of a core. -/
def groupSlots (s : State) (core n : Nat) : List Nat :=
  let used := (running (residents s core []) []).flatMap fun (_, t) => t.groups.map Group.slot
  ((List.range 64).filter fun i => !used.contains i).take n

/-- Scratchpad rows of a core (R95). -/
def padRowCount : Nat := 3072
/-- A core wakes from retention sleep (R110, R111): every row is expired, and a wait for a sleep whose deadline passed meanwhile ends in this
step. -/
def wakeCore (s : State) (c : Nat) : State :=
  let wake := fun (t : Team) => if t.core == c && t.threads.any (sleepOver s c) then
      { t with lookout := 0, threads := t.threads.map fun th => if sleepOver s c th then { th with st := .runnable } else th }
    else t
  let s := { s with teams := s.teams.map fun ((k, t) : Nat × Team) => (k, wake t) }
  s.updCore c fun k =>
    { k with asleep := false, sleepAsked := false, wakeAllowed := false, emergency := false, l1 := [], filter := [], kc := [], rows := (List.range padRowCount).map fun p => (p, { k.row p with exp := true }) }
/-- A core that sleeps of its own accord wakes as work is placed on it (R111). -/
def rouse (s : State) (c : Nat) : State := if (s.core c).asleep then wakeCore s c else s

/-- Takes a team's resources on a core: its group slots, private slots (log 108) and block (R173). -/
def placeTeam (s : State) (x q idx team core prio : Nat) (c : Ctx) (p : List DWord) (relaunches : Nat) (mark : Word) : Nat × State :=
  let (tk, s) := s.fresh
  let ps := pickSlots c.usedSlots (pktT p + c.usedSlots.length) (pktT p) 0
  let block := (freeBlock (residents s core []) (pktSpg p)).getD 0
  let t := newTeam x q idx team core prio p (groupSlots s core (pktG p + pktS p)) ps block relaunches mark
  let s := (s.updCtx x fun c => { c with usedSlots := c.usedSlots ++ ps })
  let s := s.updCore core fun k => if pktAcc p then { k with acc := [], accOwner := some tk } else k
  (tk, { s with teams := mapSet s.teams tk t })

/-- The core that R375 prefers among those that fit. -/
def bestCore (s : State) (x : Nat) (c : Ctx) (q idx : Nat) (p : List DWord) (avoid : Option Nat) : Option Nat :=
  let cs := (List.range 640).filter fun k => some k != avoid && fits s x c q idx p k [] []
  let n := fun k => (running (residents s k []) []).length
  match cs with
  | [] => none
  | a :: rest => some (rest.foldl (fun b k => if n k < n b then k else b) a)
/-- R374: a core takes the packet's acquire before its first team; what the host has been asked for before on the core's constant path goes with
KC(c). -/
def packetAcquire (s : State) (r : Running) (core : Nat) : State :=
  if pktAcq r.packet && !r.acquired.contains core then (dropConstReads s core).updCore core fun k => { k.dropLeases with kc := [] } else s
/-- A team of the packet is still to be placed: for the first time, or again (R402). -/
def Running.unplaced (r : Running) : Bool := decide (r.next < pktTeams r.packet) || !r.again.isEmpty
/-- The packet's next team has been placed. -/
def Running.placedOne (r : Running) : Running :=
  { r with next := (if r.again.isEmpty then r.next + 1 else r.next), again := r.again.drop 1, placed := r.placed + 1 }
/-- The core that the packet's next team avoids, and since when that team waits (R376, R402). -/
def Running.avoid (r : Running) : Option Nat := (r.again.head?).bind Relaunch.avoid
def Running.waitsSince (r : Running) : Nat := ((r.again.head?).map Relaunch.since).getD r.since
/-- The packet has a team to place and may place it now. Teams of restored packets are placed once the restored records have resumed (R429). A
stop bars first placements; a team that waits to be placed again is still placed, to be descheduled at once, since RUNNING has no place for the
numbers of such teams (R415, R427: DESIGN CHOICE, log 106). -/
def mayPlace (s : State) (c : Ctx) (r : Running) : Bool :=
  r.depMet && r.unplaced && !c.destroying && !(r.restored && c.saved.any fun (_, m) => m.restored) && (!stopAsked s c.vd || !r.again.isEmpty)
/-- Packets of the virtual device that may place teams and have some to place: context, packet. -/
def placers (s : State) (vd : Nat) : List (Nat × Running) :=
  (s.ctxs.filter fun (_, c) => c.vd == vd).flatMap fun (x, c) => (c.running.filter (mayPlace s c)).map fun r => (x, r)
/-- A queue of higher priority has an unplaced team (R375). Virtual devices own disjoint cores (R425), so queues of one do not wait for those
of another (DEDUCED, log 87). -/
def higherWaits (s : State) (vd prio : Nat) : Bool := (placers s vd).any fun (_, r) => prio < r.prio
/-- A team of the packet could be placed now. -/
def placeable (s : State) (x : Nat) (r : Running) : Bool :=
  (s.ctx x).any fun c => slotsFree c r.packet && (bestCore s x c r.queue r.index r.packet r.avoid).isSome
/-- The order of queues of one priority, from the one behind the queue that placed last (R375). -/
def fromTurn (s : State) (vd prio key : Nat) : Nat := (key + 2 ^ 24 - (((mapGet? (s.vd vd).placed prio).map (· + 1)).getD 0)) % 2 ^ 24
/-- Another queue of the priority comes first in the rotation: one that has a team which fits some core (R375; that a queue none of whose
teams fits is passed over is DEDUCED, log 87). -/
def turnWaits (s : State) (vd prio x q : Nat) : Bool :=
  (placers s vd).any fun (y, r) => r.prio == prio && decide (fromTurn s vd prio (y * 4096 + r.queue) < fromTurn s vd prio (x * 4096 + q)) && placeable s y r

/-- Of a packet's unplaced teams those that wait to be placed again come first, in the order of their kills, then the others in ascending sr.team
(R170 and R375 give no order among teams: DESIGN CHOICE, log 107). -/
def execTeamPlacement (xCtx xQ xIdx xCore : Nat) (s : State) : Out :=
  match (s.ctx xCtx).bind fun c => (findRunning c xQ xIdx).map fun r => (c, r) with
  | none => notNow "no such running packet"
  | some (c, r) =>
    let what : Option (Nat × Nat × Word) := match r.again with
      | a :: _ => some (a.team, a.count, a.mark)
      | [] => if r.next < pktTeams r.packet then some (r.next, 0, 0) else none
    match what with
    | none => notNow "every team is placed"
    | some (team, n, mark) =>
      if !mayPlace s c r then notNow "the packet may not place teams yet"
      else if !s.posted xCtx then notNow "a write of the context's structures is still to be made (R438)"
      else if !slotsFree c r.packet then notNow "too few private slots are free"
      else if bestCore s xCtx c xQ xIdx r.packet r.avoid ≠ some xCore then notNow "the core does not fit, or another is preferred"
      else if higherWaits s c.vd r.prio then notNow "a queue of higher priority comes first"
      else if turnWaits s c.vd r.prio xCtx xQ then notNow "another queue of the priority comes first"
      else
        let s := packetAcquire (rouse s xCore) r xCore
        let (tk, s) := placeTeam s xCtx xQ xIdx team xCore r.prio c r.packet n mark
        let s := s.updVd c.vd fun v => { v with placed := mapSet v.placed r.prio (xCtx * 4096 + xQ) }
        let s := if stopAsked s c.vd then s.updTeam tk fun t => { t with asked := true } else s
        .next (updRunning s xCtx xQ xIdx fun r =>
          { r.placedOne with acquired := (if r.acquired.contains xCore then r.acquired else xCore :: r.acquired), members := tk :: r.members })

/-! ## Retirement (R168, R176) -/

/-- No work of the team is in the window, the engines, the port or the store buffer. -/
def teamIdle (s : State) (tk : Nat) (t : Team) : Bool :=
  let k := s.core t.core
  t.iw.isEmpty && k.matq.all (fun m => m.team != tk) && k.copyq.all (fun (_, q) => q.all fun c => c.team != tk) &&
  k.port.all (fun o => o.team != tk) && k.sb.all fun e => e.team != tk
/-- The dev-scope release of R168 for a whole team: the entries that SB(c) holds once the team's older loads have returned have
performed. -/
def teamReleased (s : State) (tk : Nat) (t : Team) : Bool × State :=
  if t.iw.any fun i => i.lanes.any LaneOp.openLoad then (false, s) else
  match t.snap with
  | none =>
    let ids := (s.core t.core).sb.map SbEntry.id
    (ids.isEmpty, s.updTeam tk fun t => { t with snap := some ids })
  | some ids => ((s.core t.core).sb.all fun e => !ids.contains e.id, s)
/-- The team's resources and private slots are free again (R173, R176). -/
def freeTeam (s : State) (tk : Nat) (t : Team) (slots : Bool) : State :=
  let ps := t.threads.map Thread.pslot
  let s := if slots then s.updCtx t.ctx fun c => { c with usedSlots := c.usedSlots.filter fun p => !ps.contains p } else s
  let s := s.updCore t.core fun k => if k.accOwner == some tk then { k with accOwner := none } else k
  { s with teams := mapErase s.teams tk }

def execTeamRetire (xTeam : Nat) (s : State) : Out :=
  match s.team xTeam with
  | none => notNow "no such team"
  | some t =>
    if t.kill.isSome || t.kept || !(t.threads.all fun th => th.st == .exited) then notNow "threads of the team are live"
    else if !(t.groups.all fun g => g.flagMask == 0) || !teamIdle s xTeam t || !s.posted t.ctx then notNow "work of the team is outstanding"
    else match teamReleased s xTeam t with
      | (false, s') => if s' = s then notNow "the release waits for the store buffer" else .next s'
      | (true, s) => .next (updRunning (freeTeam s xTeam t true) t.ctx t.queue t.pidx fun r => { r with placed := r.placed - 1 })

end Sys2Proof.Machine
end

