-- ==== Sys2Proof/Machine/Save.lean ====
section
/-! DEFINITION. The save record, byte by byte, and the context save area (R383 to R385, R115, R334). -/

namespace Sys2Proof.Machine

/-- Padding to a multiple of 256 (R384). -/
def pad256 (bs : List Byte) : List Byte := bs ++ List.replicate ((256 - bs.length % 256) % 256) 0
def zeros (n : Nat) : List Byte := List.replicate n 0

/-! ## What is live (R215, R385) -/

/-- The v blocks, g blocks and masks a thread saves. -/
def liveBlocks (t : Team) (th : Thread) : Nat × Nat × Nat :=
  if th.st == .exited then (0, 0, 0)
  else match th.safe with
    | some w => (fld w 39 0, fld w 47 40, fld w 59 48)
    | none => (2 ^ t.vb - 1, 2 ^ t.gb - 1, 0xFFF)
/-- Positions of the ones of a number. -/
def onesOf (n w : Nat) : List Nat := (List.range w).filter fun i => n.testBit i

/-! ## Thread and group records (R384, R385) -/

/-- Which of a token queue's waiting bundles holds the thread: its place and destination. -/
def waitPlace (l : List (List Nat × Nat)) (tid : Nat) : Nat × Nat :=
  match l.findIdx? fun w => w.1.contains tid with
  | some i => (i, ((l[i]?).map Prod.snd).getD 0)
  | none => (0, 0)
/-- WAITW (R385); the packing of its low bits is the model's own (log 14). -/
def waitWord (t : Team) (tid : Nat) (th : Thread) : Nat :=
  let q := fun (k : Nat) (token : Bool) =>
    let x := (t.queues[k]?).getD {}
    let (i, d) := waitPlace (if token then x.twait else x.pwait) tid
    k + i * 32 + d * 2 ^ 15
  match th.st with
  | .waiting .bar => 1 * 2 ^ 28
  | .waiting (.mwait k) => 2 * 2 ^ 28 + k
  | .waiting .regroup => 3 * 2 ^ 28 + th.key
  | .waiting (.qperm k) => 4 * 2 ^ 28 + q k false
  | .waiting (.qtake k) => 5 * 2 ^ 28 + q k true
  | .waiting (.waitf k n) => 6 * 2 ^ 28 + k + n * 16
  | .waiting (.sleep u) => 7 * 2 ^ 28 + u % 2 ^ 28
  | _ => 0
def stateCode (th : Thread) : Nat :=
  if th.st == .exited then 4 else if th.isParked then 3 else match th.st with | .waiting _ => 2 | _ => 0
def threadFlags (t : Team) (tid : Nat) (th : Thread) : Nat :=
  (if marked (((t.groups[th.grp]?).map Group.marks).getD []) th.rp then 1 else 0) + (if t.arrived.contains tid then 2 else 0) + (if th.st == .waiting .regroup then 4 else 0) + (if th.handler then 8 else 0)
def threadRecord (t : Team) (tid : Nat) (th : Thread) : List Byte :=
  leBytes 8 th.rp.clause ++ leBytes 4 th.sp ++ leBytes 4 (waitWord t tid th) ++
  ((th.link.flatMap fun x => leBytes 8 x.toNat) ++ zeros (32 - 8 * th.link.length)) ++
  leBytes 1 (stateCode th) ++ leBytes 1 th.rp.prio ++ leBytes 1 th.rp.index ++ leBytes 1 th.link.length ++
  leBytes 1 (((t.groups[th.grp]?).map Group.idx).getD 0) ++ leBytes 1 th.lane ++ leBytes 1 (threadFlags t tid th) ++ zeros 1 ++
  leBytes 8 ((liveBlocks t th).1 + th.pslot * 2 ^ 40)
/-- The union over a group's threads. -/
def groupLive (t : Team) (g : Nat) : Nat × Nat :=
  (t.threads.filter fun th => th.grp == g).foldl (fun (lg, lm) th => let (_, b, m) := liveBlocks t th; (lg ||| b, lm ||| m)) (0, 0)
def groupRecord (t : Team) (g : Nat) (gr : Group) : List Byte :=
  let (lg, lm) := groupLive t g
  leBytes 4 gr.ident.toNat ++ leBytes 1 gr.role ++ leBytes 1 (if gr.mixed then 1 else 0) ++ leBytes 2 lm ++ leBytes 1 lg ++ zeros 3 ++
  ((List.range 12).flatMap fun k => leBytes 1 (gr.flag k)) ++ zeros 8 ++
  ((List.range 12).flatMap fun k => leBytes 4 (if lm.testBit k then (gr.mask k).toNat else 0)) ++ zeros 48

/-! ## The sections (R384) -/

def secThreads (t : Team) : List Byte := (t.threads.mapIdx fun i th => threadRecord t i th).flatten
def secGroups (t : Team) : List Byte := (t.groups.mapIdx fun g gr => groupRecord t g gr).flatten
def secV (t : Team) : List Byte :=
  t.threads.flatMap fun th => (onesOf (liveBlocks t th).1 40).flatMap fun i => (cellsGet th.v (16 * i) 16).flatMap wordBytes
def secG (t : Team) : List Byte :=
  (t.groups.mapIdx fun g gr => (onesOf (groupLive t g).1 8).flatMap fun i => (cellsGet gr.g (64 * i) 64).flatMap wordBytes).flatten
def secQueues (t : Team) : List Byte :=
  t.queues.flatMap fun q => [q.slots, q.perm, q.ppend, q.tok, q.fpend, q.pidx, q.tidx, 0].flatMap (leBytes 1)
def shapeBytes (ws : List DWord) : List Byte := (List.range 8).flatMap fun i => leBytes 8 (ws.getD i 0).toNat
/-- A command record; 255 where the command counts in no flag (log 14). -/
def commandRecord (c : CopyCmd) : List Byte :=
  leBytes 8 c.word.toNat ++ leBytes 2 c.tid ++ leBytes 1 (c.flag.getD 255) ++ zeros 5 ++ leBytes 8 c.dst ++ leBytes 8 c.src ++
  leBytes 8 (if c.shapedBit || c.op == 1 then c.rcd else c.len) ++ leBytes 4 c.done ++ zeros 20 ++ shapeBytes c.shape
/-- The team's commands of a channel, in their order. -/
def teamQueue (s : State) (tk : Nat) (t : Team) (ch : Nat) : List CopyCmd := (queueAt s t.core ch).filter fun c => c.team == tk
/-- What a save keeps beside the record. -/
def besideOf (s : State) (tk : Nat) (t : Team) : Beside :=
  let tids := fun (p : Thread → Bool) => (List.range t.threads.length).filter fun i => ((t.threads[i]?).map p).getD false
  let cmds := (List.range 4).flatMap fun ch => (teamQueue s tk t ch).mapIdx fun i c => (64 * ch + i, c)
  { dbg := tids fun th => th.handler && th.dbg, fetchTraps := tids Thread.fetchTrap
    origins := (List.range t.threads.length).filterMap fun i => ((t.threads[i]?).bind Thread.origin).map fun r => (i, r)
    replays := (List.range t.threads.length).filterMap fun i => ((t.threads[i]?).bind Thread.replay).map fun r => (i, r)
    shapeAddrs := (List.range 4).map fun ch => ((t.chans[ch]?).getD {}).shapeAddr
    frees := cmds.filterMap fun (k, c) => c.freed.map fun h => (k, h), sys := (cmds.filter fun x => x.2.sys).map Prod.fst }
/-- The copy section. -/
def secCopy (s : State) (tk : Nat) (t : Team) : List Byte :=
  (List.range 4).flatMap fun ch =>
    let x := (t.chans[ch]?).getD {}
    let cs := teamQueue s tk t ch
    leBytes 4 x.wp.toNat ++ leBytes 4 (chanStatus x cs.length) ++ leBytes 8 x.cpfa.toNat ++ leBytes 8 x.cprsv.toNat ++
    leBytes 4 cs.length ++ zeros 36 ++ shapeBytes x.shape ++ cs.flatMap commandRecord
/-- A row's age at the save's check tick, or 0xFFFF; an uncorrectable error makes it expired (R109, R115), and so does the sleep of the core,
which has lost it (R110). -/
def saveRow (s : State) (core : Nat) (al : Alloc) (p : Nat) : Nat × State :=
  let s := checkStamp s core p
  let (bad, s) := takeRowError s core p
  let s := if bad then s.updCore core fun c => c.setRow p { c.row p with exp := true } else s
  let c := s.core core
  (if c.asleep || rowExpired c al p c.rtick then 0xFFFF else rowAge c p c.rtick, s)
def saveAlloc (s : State) (core : Nat) (t : Team) (h : Nat) (al : Alloc) : List Byte × State :=
  let p := (t.block + al.gran) * 16
  let (ages, s) := (List.range al.n).foldl (fun (acc : List Nat × State) i =>
    let (a, s) := saveRow acc.2 core al (p + i)
    (acc.1 ++ [a], s)) ([], s)
  let data := (List.range al.n).flatMap fun i => if ages.getD i 0xFFFF = 0xFFFF then [] else padRead s core (p + i) 0 256
  (leBytes 1 h ++ leBytes 1 0 ++ leBytes 2 al.n ++ leBytes 2 al.life ++ leBytes 2 al.gran ++ zeros 8 ++ ages.flatMap (leBytes 2) ++ data, s)
def secPad (s : State) (t : Team) : List Byte × State :=
  t.allocs.foldl (fun (acc : List Byte × State) (h, al) =>
    let (bs, s) := saveAlloc acc.2 t.core t h al
    (acc.1 ++ bs, s)) ([], s)
def secAcc (s : State) (core : Nat) : List Byte := (cellsGet (s.core core).acc 0 65536).flatMap wordBytes

/-! ## The record (R384) -/

/-- The eight section offsets, 0 for an absent section, and the record's length. -/
def sectionPlan (secs : List (Option (List Byte))) : List Nat × Nat :=
  secs.foldl (fun (acc : List Nat × Nat) x => match x with
    | none => (acc.1 ++ [0], acc.2)
    | some bs => (acc.1 ++ [acc.2], acc.2 + (pad256 bs).length)) ([], 256)
/-- Header fields of R384 from 0x008 to 0x07F. -/
def headerFields (t : Team) (accSaved padSaved : Bool) : List Byte :=
  leBytes 4 t.index ++ leBytes 4 ((if accSaved then 1 else 0) + (if padSaved then 2 else 0) + (if t.rst then 4 else 0)) ++
  leBytes 4 t.pmark.toNat ++ leBytes 2 t.arrived.length ++ leBytes 2 0 ++ leBytes 8 (t.rgAddr.getD 0) ++ leBytes 4 t.rgGen ++
  leBytes 4 t.lookout ++ zeros 24 ++ pktBytes t.packet
def assemble (hdr : List Byte) (secs : List (Option (List Byte))) : List Byte :=
  let (offs, len) := sectionPlan secs
  leBytes 8 len ++ hdr ++ offs.flatMap (leBytes 8) ++ zeros 64 ++ secs.flatMap fun x => match x with | some bs => pad256 bs | none => []
/-- The whole record of a team; without keep-alive the scratchpad and the accumulator are in it (R382). -/
def saveRecord (s : State) (tk : Nat) (t : Team) (keep : Bool) : List Byte × State :=
  let (pad, s) := if keep then ([], s) else secPad s t
  let padSaved := !keep && !t.allocs.isEmpty
  let accSaved := !keep && t.acc
  (assemble (headerFields t accSaved padSaved)
    [some (secThreads t), some (secGroups t), some (secV t), some (secG t), if t.queues.isEmpty then none else some (secQueues t), some (secCopy s tk t),
     if padSaved then some pad else none, if accSaved then some (secAcc s t.core) else none], s)

/-! ## The save area (R383) -/

def readArea (s : State) (x : Nat) (c : Ctx) (off n : Nat) : Virt (List Byte) := virtRead s none x 0 (c.savebase + off) n kRead true
def writeArea (s : State) (x : Nat) (c : Ctx) (off : Nat) (bs : List Byte) : Virt Unit := virtWrite s none x 4096 0 (c.savebase + off) bs kWrite true
/-- The entries in use of a directory of n words, numbered from i on: entry, offset. -/
def dirEntries : Nat → Nat → List Byte → List (Nat × Nat)
  | _, 0, _ => []
  | i, n + 1, bs =>
    let o := leNat (bs.take 8)
    if o = 0 then dirEntries (i + 1) n (bs.drop 8) else (i, o) :: dirEntries (i + 1) n (bs.drop 8)
/-- The records of the area: entry, offset, length. -/
def areaRecords (s : State) (x : Nat) (c : Ctx) : Virt (List (Nat × Nat × Nat)) :=
  (readArea s x c 0 4096).bind fun dir s =>
    (dirEntries 0 512 dir).foldl (fun acc (i, o) =>
      acc.bind fun rs s => (readArea s x c o 8).bind fun l s => .ok (rs ++ [(i, o, leNat l)]) s) (.ok [] s)
/-- The lowest multiple of 4,096 at which n bytes overlap no record. -/
def recordPlace (rs : List (Nat × Nat × Nat)) (n : Nat) : Nat :=
  let free := fun o => rs.all fun (_, a, l) => o + n ≤ a || a + l ≤ o
  let cands := 4096 :: rs.map fun (_, a, l) => (a + l + 4095) / 4096 * 4096
  ((cands.filter free).foldl (fun (b : Option Nat) o => match b with | some m => some (min m o) | none => some o) none).getD 4096
/-- Writes a record: its directory entry, the lowest that is free (the spec names none: DESIGN CHOICE, log 91); none where the area cannot
hold it. -/
def storeRecord (s : State) (x : Nat) (c : Ctx) (bs : List Byte) : Virt (Option Nat) :=
  (areaRecords s x c).bind fun rs s =>
    match (List.range 512).find? fun i => rs.all fun (e, _, _) => e != i with
    | none => .ok none s
    | some e =>
      let o := recordPlace rs bs.length
      (writeArea s x c o bs).bind fun _ s => (writeArea s x c (8 * e) (leBytes 8 o)).bind fun _ s => .ok (some e) s
/-- The record behind a directory entry. -/
def loadRecord (s : State) (x : Nat) (c : Ctx) (entry : Nat) : Virt (List Byte) :=
  (readArea s x c (8 * entry) 8).bind fun o s => (readArea s x c (leNat o) 8).bind fun l s => readArea s x c (leNat o) (leNat l)
/-- The directory entry becomes zero; refused, the operation that frees the record waits (R438). -/
def freeRecord (s : State) (x : Nat) (c : Ctx) (entry : Nat) : Virt Unit := (writeArea s x c (8 * entry) (zeros 8)).retried s

/-! ## Reading a record back (R386) -/

def num (bs : List Byte) (off n : Nat) : Nat := leNat ((bs.drop off).take n)
/-- The bytes of a section, up to the next one that is present. -/
def sectionBytes (bs : List Byte) (i : Nat) : List Byte :=
  let o := num bs (0x80 + 8 * i) 8
  if o = 0 then []
  else
    let ends := ((List.range 8).map fun j => num bs (0x80 + 8 * j) 8).filter (o < ·)
    let e := ends.foldl min (num bs 0 8)
    (bs.drop o).take (e - o)

/-- The thread state a record names. -/
def stateOf (st w : Nat) (handler dbg : Bool) : TState :=
  let k := w / 2 ^ 28
  let x := w % 2 ^ 28
  if st = 4 then .exited
  else match k with
    | 1 => .waiting .bar
    | 2 => .waiting (.mwait x)
    | 3 => .waiting .regroup
    | 4 => .waiting (.qperm (x % 32))
    | 5 => .waiting (.qtake (x % 32))
    | 6 => .waiting (.waitf (x % 16) (x / 16))
    | 7 => .waiting (.sleep x)
    | _ => if st = 3 && (!handler || dbg) then .parked else .runnable
/-- A sleep's end, from its low 28 bits and the time now: at most 65,535 ticks ahead, as far as a sleep reaches (R364). -/
def sleepTarget (now x : Nat) : Nat := let d := (x + 2 ^ 28 - now % 2 ^ 28) % 2 ^ 28; if d < 65536 then now + d else now
/-- The slots of the team's regroup set (R186). -/
def flaggedSlots (p : List DWord) : List Nat := (List.range (pktG p + pktS p)).filter fun g => g < pktF p || pktG p ≤ g
/-- The group slot of a thread: an unflagged group stays where it was placed (R190). -/
def slotOfThread (p : List DWord) (tid idx : Nat) : Nat := if pktF p ≤ tid / 32 then tid / 32 else (flaggedSlots p).getD idx 0
def parseThread (s : State) (core : Nat) (p : List DWord) (b : Beside) (tid : Nat) (r : List Byte) : Thread :=
  let w := num r 0x0C 4
  let fl := num r 0x36 1
  let handler := fl.testBit 3
  let st := stateOf (num r 0x30 1) w handler (b.dbg.contains tid)
  let st := match st with | .waiting (.sleep x) => TState.waiting (.sleep (sleepTarget (s.core core).rtotal x)) | st => st
  { link := (List.range (num r 0x33 1)).map fun i => BitVec.ofNat 64 (num r (0x10 + 8 * i) 8), sp := num r 8 4, st := st
    rp := { prio := num r 0x31 1, clause := num r 0 8, index := num r 0x32 1 }, setPrio := some (num r 0x31 1)
    pslot := nfld (num r 0x38 8) 60 40, grp := slotOfThread p tid (num r 0x34 1), lane := num r 0x35 1, handler := handler
    dbg := st == .parked, fetchTrap := b.fetchTraps.contains tid, origin := mapGet? b.origins tid, replay := mapGet? b.replays tid, key := if w / 2 ^ 28 = 3 then w % 256 else 0 }
def parseGroup (gr : Group) (r : List Byte) (live : Bool) : Group :=
  let id := num r 0 4
  { gr with live := live, idx := id % 64, gen := id / 64 % 1024, role := num r 4 1, mixed := num r 5 1 == 1
            cf := (List.range 12).foldl (fun (m : Map Nat) k => let n := num r (12 + k) 1; if n = 0 then m else mapSet m k n) []
            m := (List.range 12).foldl (fun (m : Cells 32) k => cellSet m k (BitVec.ofNat 32 (num r (32 + 4 * k) 4))) [] , g := [] }
/-- Blocks of registers read in order: what is left of the bytes comes back too. -/
def takeBlocks (c : Cells 32) (blocks : List Nat) (k : Nat) (bs : List Byte) : Cells 32 × List Byte :=
  blocks.foldl (fun (acc : Cells 32 × List Byte) i => (cellsSet acc.1 (k * i) (toWords (acc.2.take (4 * k))), acc.2.drop (4 * k))) (c, bs)
def parseV (secs1 : List Byte) (ths : List Thread) (bs : List Byte) : List Thread :=
  ((ths.mapIdx fun i th => (i, th)).foldl (fun (acc : List Thread × List Byte) (i, th) =>
    let (v, rest) := takeBlocks [] (onesOf (num secs1 (64 * i + 0x38) 5) 40) 16 acc.2
    (acc.1 ++ [{ th with v := v }], rest)) ([], bs)).1
def parseG (secs2 : List Byte) (gs : List Group) (bs : List Byte) : List Group :=
  ((gs.mapIdx fun i g => (i, g)).foldl (fun (acc : List Group × List Byte) (i, g) =>
    let (x, rest) := takeBlocks [] (onesOf (num secs2 (128 * i + 8) 1) 8) 64 acc.2
    (acc.1 ++ [{ g with g := x }], rest)) ([], bs)).1
/-- The waiting bundles of a token queue, in their recorded order (R386). -/
def parseWaits (ths : List Thread) (secs1 : List Byte) (q kind : Nat) : List (List Nat × Nat) :=
  let ws := (List.range ths.length).filterMap fun i =>
    let w := num secs1 (64 * i + 0x0C) 4
    if w / 2 ^ 28 == kind && w % 32 == q then some (w / 32 % 1024, w / 2 ^ 15 % 2048, i) else none
  let places := sortBy (fun (a b : Nat) => a < b) (dedup (ws.map fun x => x.1))
  places.map fun p => let g := ws.filter fun x => x.1 == p; (g.map fun x => x.2.2, ((g.head?).map fun x => x.2.1).getD 0)
def parseQueue (ths : List Thread) (secs1 r : List Byte) (q : Nat) : TokQ :=
  { slots := num r 0 1, perm := num r 1 1, ppend := num r 2 1, tok := num r 3 1, fpend := num r 4 1, pidx := num r 5 1, tidx := num r 6 1
    pwait := parseWaits ths secs1 q 4, twait := parseWaits ths secs1 q 5 }
def parseShape (r : List Byte) : List DWord :=
  let ws := (List.range 8).map fun i => BitVec.ofNat 64 (wordAt r i)
  if ws.all (· == 0) then [] else ws
def parseChan (r : List Byte) : ChanState :=
  let st := num r 4 4
  { wp := BitVec.ofNat 32 (num r 0 4), stopped := st / 2 ^ 30 == 2, cause := nfld st 23 16, disc := nfld st 15 8
    cpfa := BitVec.ofNat 64 (num r 8 8), cprsv := BitVec.ofNat 64 (num r 16 8), shape := parseShape (r.drop 64) }
/-- A saved copy command: what it does is read from its word again. -/
def parseCommand (t : Team) (tk : Nat) (r : List Byte) : CopyCmd :=
  let w := BitVec.ofNat 64 (num r 0 8)
  let opfn : Nat × Nat := match decode w with
    | some (.cpy f) => (0, f.fn.toNat)
    | some (.tsr f) => (1, f.fn.toNat)
    | some (.cpfill f) => (2, f.fn.toNat)
    | _ => (0, 0)
  let fl := num r 10 1
  let sh := parseShape (r.drop 64)
  let shaped := opfn.2 / 2 % 2 == 1 && opfn.1 != 1
  let third := num r 32 8
  let c : CopyCmd := { id := 0, team := tk, tid := num r 8 2, word := w, op := opfn.1, fn := opfn.2, dst := num r 16 8, src := num r 24 8, len := 0, flag := if fl = 255 then none else some fl, grp := ((t.threads[num r 8 2]?).map Thread.grp).getD 0, done := num r 40 4, shape := sh, ctx := t.ctx }
  if shaped then { c with rcd := third, started := !sh.isEmpty, len := (shapeOf sh).len }
  else if opfn.1 = 1 then { c with rcd := third } else { c with len := third, started := c.done != 0 }
/-- The channels and their commands. -/
def parseCopy (t : Team) (tk : Nat) (b : Beside) (bs : List Byte) : List (ChanState × List CopyCmd) :=
  ((List.range 4).foldl (fun (acc : List (ChanState × List CopyCmd) × List Byte) ch =>
    let n := num acc.2 24 4
    let cs := (List.range n).map fun i =>
      { parseCommand t tk (acc.2.drop (128 * (i + 1))) with freed := mapGet? b.frees (64 * ch + i), sys := b.sys.contains (64 * ch + i) }
    (acc.1 ++ [({ parseChan acc.2 with shapeAddr := b.shapeAddrs.getD ch 0 }, cs)], acc.2.drop (128 * (n + 1)))) ([], bs)).1
/-- The scratchpad's allocations: handle, allocation, ages and rows (R115). -/
def parsePad : Nat → List Byte → List (Nat × Alloc × List Nat × List Byte)
  | 0, _ => []
  | fuel + 1, bs =>
    let n := num bs 2 2
    if n = 0 then [] else
    let ages := (List.range n).map fun i => num bs (16 + 2 * i) 2
    let live := (ages.filter (· != 0xFFFF)).length
    let data := (bs.drop (16 + 2 * n)).take (256 * live)
    (num bs 0 1, { n := n, life := num bs 4 2, gran := num bs 6 2 }, ages, data) :: parsePad fuel (bs.drop (16 + 2 * n + 256 * live))
/-- The rows of an allocation come back (R103, R115). A row that comes back expired takes the tick of the reload as its STAMP, from which the
age in a later SSTALE record is counted (R104; the spec gives no STAMP: DESIGN CHOICE, log 90). -/
def reloadRows (c : Core) (p : Nat) (ages : List Nat) (data : List Byte) : Core :=
  ((ages.mapIdx fun i a => (i, a)).foldl (fun (acc : Core × List Byte) (i, a) =>
    let (c, d) := acc
    if a = 0xFFFF then ({ c.setRow (p + i) { stamp := c.rtick, exp := true } with pad := cellsZero c.pad ((p + i) * 256) 256 }, d)
    else ({ c.setRow (p + i) { stamp := c.rtick - BitVec.ofNat 16 a, exp := false } with pad := cellsSet c.pad ((p + i) * 256) (d.take 256) }, d.drop 256)) (c, data)).1
def reloadPad (s : State) (tk : Nat) (t : Team) (bs : List Byte) : State :=
  (parsePad 8 bs).foldl (fun s (h, al, ages, data) =>
    let s := s.updTeam tk fun t => { t with allocs := mapSet t.allocs h al }
    s.updCore t.core fun c => reloadRows c ((t.block + al.gran) * 16) ages data) s

end Sys2Proof.Machine
end

