-- ==== Sys2Proof/Machine/Preempt.lean ====
section
/-! DEFINITION. Stopping, draining and resuming a team, keep-alive, and Lookout (R376, R380 to R388, R112, R113). -/

namespace Sys2Proof.Machine

/-! ## Stop states (R380) -/

/-- R380, R403: the thread's trap has been delivered (R391 is indivisible with respect to a deschedule). -/
def Thread.stopState (th : Thread) : Bool :=
  th.fault.isNone &&
  match th.st with
  | .exited => true
  | .waiting _ => true
  | .parked => !th.handler || th.dbg
  | .runnable => th.safe.isSome
  | .inBundle => false
  | .held => false
def stopped (t : Team) : Bool := t.threads.all Thread.stopState

/-- A deschedule that has been decided begins. -/
def execTeamStop (xTeam : Nat) (s : State) : Out :=
  match s.team xTeam with
  | none => notNow "no such team"
  | some t =>
    if !t.asked || t.stopping || t.kill.isSome || t.kept then notNow "no deschedule of the team is to begin"
    else .next (s.updTeam xTeam fun t => { t with stopping := true, stopStart := s.ns, stopReported := false })
/-- R380, R416 kind 6. -/
def execStopTimeout (xTeam : Nat) (s : State) : Out :=
  match s.team xTeam with
  | none => notNow "no such team"
  | some t =>
    if !t.stopping || t.drained || t.stopReported || stopped t || s.ns < t.stopStart + 10000000 then notNow "the team is not overdue"
    else .next ((s.updTeam xTeam fun t => { t with stopReported := true }).postCtx t.ctx (healthRecord 6 0 0 0 0 t.queue t.index 0 0 t.core t.pidx s.ns))

/-! ## The drain (R381 to R383) -/

/-- The team's commands on a channel that no drain stream of the team stands behind are suspended (R381). A command that has written a part of a
billet goes on to the segment boundary at which it leaves it: suspended before, it could be refused behind a byte of the billet that has been
written, against R55 (DEDUCED, log 105). -/
def suspendQueue (tk : Nat) (q : List CopyCmd) (on : Bool) : List CopyCmd :=
  q.mapIdx fun i c =>
    if c.team == tk && c.op != 4 then { c with suspended := on && c.inside.isNone && !((q.drop i).any fun d => d.team == tk && d.op == 4) } else c
def suspendCopies (s : State) (tk core : Nat) (on : Bool) : State :=
  s.updCore core fun k => { k with copyq := k.copyq.map fun (ch, q) => (ch, suspendQueue tk q on) }
/-- Nothing but suspended copy commands is left of the team's long-latency work (R381). -/
def drainDone (s : State) (tk : Nat) (t : Team) : Bool :=
  let k := s.core t.core
  let cmds := k.copyq.flatMap fun (_, q) => q.filter fun c => c.team == tk
  k.matq.all (fun m => m.team != tk) && cmds.all (fun c => c.suspended) && t.threads.all (fun th => th.fault.isNone) && k.port.all (fun o => o.team != tk) &&
  k.sb.all (fun e => e.team != tk) && t.iw.all fun i => cmds.any fun c => c.iss == i.id
/-- The deschedule is given up: the team stays resident and runnable (R383). -/
def stayResident (s : State) (tk : Nat) (t : Team) : State :=
  let s := suspendCopies s tk t.core false
  let s := s.updTeam tk fun t => { t with asked := false, stopping := false, drained := false, snap := none, mayKeep := false }
  if ((s.ctx t.ctx).map Ctx.saveFullReported).getD true then s
  else (s.updCtx t.ctx fun c => { c with saveFullReported := true }).postCtx t.ctx (simpleRecord s 8 0)
/-- Every live row of a team's allocations is renewed, as srenew does (R113). -/
def renewRows (s : State) (t : Team) : State :=
  t.allocs.foldl (fun s (_, al) => (List.range al.n).foldl (fun s i => (renewRow s t.core al ((t.block + al.gran) * 16 + i)).2) s) s
/-- The team's requesters are gone: what the host has answered them is not used. -/
def dropTeamReads (s : State) (tk core : Nat) : State :=
  let names := ((s.core core).copyq.flatMap fun (_, q) => q.filter fun c => c.team == tk).map CopyCmd.hostName
  { s with hostReads := s.hostReads.filter fun r => !names.contains r.core && !(r.core == core && r.data.isSome) }
/-- The team leaves its core; its private slots stay assigned. Kept alive, its block and accumulator store stay, and its rows are renewed at
once, so that none ages (R113, R116). -/
def leaveCore (s : State) (tk : Nat) (t : Team) (keep : Bool) (entry : Nat) : State :=
  let beside := besideOf s tk t
  let s := dropTeamReads (if keep then renewRows s t else s) tk t.core
  let s := s.updCore t.core fun k => { k with copyq := (k.copyq.map fun (ch, q) => (ch, q.filter fun c => c.team != tk)).filter fun (_, q) => !q.isEmpty }
  let s := s.updCtx t.ctx fun c => { c with saved := mapSet c.saved entry { queue := t.queue, idx := t.pidx, team := t.index, relaunches := t.relaunches, core := t.core, beside := beside } }
  if keep then
    s.updTeam tk fun t => { t with kept := true, keptSince := (s.core t.core).rtotal, renewTick := (s.core t.core).rtotal, entry := entry, groups := [], threads := [], queues := [], iw := [], arrived := [] }
  else freeTeam s tk t false
/-- R382: what the team holds of the scratchpad and the accumulator store may be kept alive; a team that holds neither keeps nothing (R112). -/
def keeps (s : State) (t : Team) : Bool :=
  t.mayKeep && (!t.allocs.isEmpty || t.acc) && ((s.ctx t.ctx).map fun c => bit c.keepalive 31 && c.keepalive.toNat % 2 ^ 20 != 0).getD false

/-- A resume point's priority is its clause's, read where no prio instruction gave one and the clause is still to be fetched (R180). -/
def knownPrio (s : State) (t : Team) (th : Thread) : Virt Nat :=
  if !th.fetch || th.st == .exited || th.st == .parked then .ok th.rp.prio s
  else match th.setPrio with
    | some p => .ok p s
    | none => match kcWord s t.core t.ctx th.pslot th.rp.clause kFetch th.handler with
      | .ok h s => .ok (hdrPrio h) s
      | .wait s => .wait s
      | .fault _ _ _ _ s => .ok th.rp.prio s
/-- The threads of a team with the priorities of their resume points, and the yield marks that name them (R284). -/
def knownPrios (s : State) (t : Team) : Virt Team :=
  (t.threads.foldl (fun (acc : Virt (List Thread)) th => acc.bind fun ths s =>
    (knownPrio s t th).bind fun p s => .ok (ths ++ [{ th with rp := { th.rp with prio := p } }]) s) (.ok [] s)).bind fun ths s =>
    .ok { t with threads := ths, groups := t.groups.mapIdx fun g gr => (t.threads.zip ths).foldl (fun (gr : Group) (a, b) => if a.grp == g && a.st == .runnable then gr.learnt a.entry b.rp else gr) gr } s

/-- An uncorrectable error in a register, flag or link entry that the save of a team reads: its place, and the thread that owns it (R174, R397;
array 10, log 4). -/
def saveError (s : State) (tk : Nat) (t : Team) : Option (Nat × Option Nat) :=
  firstSome (fun (a, p) =>
    if a != 10 || p / 4096 / 1024 != tk then none else
    let o := p / 4096 % 1024
    let r := p % 4096
    if threadReg r then
      (t.threads[o]?).bind fun th => if (if r < 1000 then (liveBlocks t th).1.testBit (r / 16) else r - 2200 < th.link.length) then some (p, some o) else none
    else
      let (lg, lm) := groupLive t (o - 512)
      if (if r < 2000 then lg.testBit ((r - 1000) / 64) else if r < 2100 then lm.testBit (r - 2000) else r < 2200) then some (p, none) else none) s.errors
/-- The team is killed where the save would have consumed the error. -/
def saveKill (s : State) (tk : Nat) (t : Team) (p : Nat) (tid : Option Nat) : State :=
  let rp := ((tid.bind fun i => t.threads[i]?).map Thread.rp).getD {}
  killTeam (s.takeError 10 p).2 tk (faultNow s t (tid.getD 0) { cause := .rpoison, clause := rp.clause, index := rp.index, prio := rp.prio }) tid
/-- The record is written and the resources are freed. -/
def saveTeam (s : State) (tk : Nat) (t : Team) : Out :=
  match s.ctx t.ctx with
  | none => notNow "no such context"
  | some c =>
    let keep := keeps s t
    match saveError s tk t with
    | some (p, tid) => .next (saveKill s tk t p tid)
    | none =>
    match knownPrios s t with
    | .wait s' => waitsFor s s' "a clause's line is in use"
    | .fault _ _ _ _ s => .next (stayResident s tk t)
    | .ok t' s' =>
      let (bs, s') := saveRecord s' tk t' keep
      match storeRecord s' t.ctx c bs with
      | .wait s' => waitsFor s s' "a line of the save area is in use"
      | .fault cause _ _ _ _ => if wordError cause then .next (stayResident s tk t) else notNow "the save area waits for admission"
      | .ok none _ => .next (stayResident s tk t)
      | .ok (some entry) s' => .next (leaveCore s' tk t keep entry)

/-- R381: once every thread has stopped nothing of the team issues; what it has under way completes or is suspended, and the
record is written. -/
def execTeamDrain (xTeam : Nat) (s : State) : Out :=
  match s.team xTeam with
  | none => notNow "no such team"
  | some t =>
    if !t.stopping || t.kept || t.kill.isSome then notNow "the team is not being stopped"
    else if !t.drained && !stopped t then notNow "threads of the team run on"
    else
      let s1 := s.updTeam xTeam fun t => { t with drained := true }
      let s1 := if (s.core t.core).matq.any fun m => m.team == xTeam then s1 else suspendCopies s1 xTeam t.core true
      let (rel, s1) := teamReleased s1 xTeam t
      let t1 := (s1.team xTeam).getD t
      if rel && drainDone s1 xTeam t1 then
        match saveTeam s1 xTeam t1 with
        | .refused _ => if s1 = s then notNow "a line of the save area is in use" else .next s1
        | r => r
      else if s1 = s then notNow "work of the team is outstanding" else .next s1

/-! ## Pre-emption (R376) -/

/-- The n-element sublists of a list, in order. -/
def chooseN {α : Type} : Nat → List α → List (List α)
  | 0, _ => [[]]
  | _ + 1, [] => []
  | n + 1, x :: xs => (chooseN n xs).map (x :: ·) ++ chooseN (n + 1) xs
/-- One list of priorities comes before another of the same length: lower priorities first. -/
def lowerFirst : List Nat → List Nat → Bool
  | a :: as, b :: bs => a < b || (a == b && lowerFirst as bs)
  | _, _ => false
/-- The first of the smallest elements of a list. -/
def firstLeast {α : Type} (lt : α → α → Bool) : List α → Option α
  | [] => none
  | x :: xs => some (xs.foldl (fun a b => if lt b a then b else a) x)
/-- The fewest teams of PRIO 0 to 2 whose deschedule makes room on the core, of the lowest priorities. -/
def makeRoom (s : State) (x : Nat) (c : Ctx) (r : Running) (core : Nat) : Option (List Nat) :=
  if r.avoid == some core then none else
  let ts := sortBy (fun (a b : Nat × Team) => a.2.prio < b.2.prio) ((running (residents s core []) []).filter fun (_, t) => t.prio < 3 && !t.asked)
  let fit := fun (g : List (Nat × Team)) => fits s x c r.queue r.index r.packet core (g.map Prod.fst) []
  (firstSome (fun n => firstLeast (fun (a b : List (Nat × Team)) => lowerFirst (a.map fun x => x.2.prio) (b.map fun x => x.2.prio)) ((chooseN n ts).filter fit)) (List.range (ts.length + 1))).map fun g => g.map Prod.fst
/-- The core with the fewest, the lowest identifier among equals; none where private slots are short, which a deschedule does not free (R12, R381). -/
def roomCore (s : State) (x : Nat) (c : Ctx) (r : Running) : Option (Nat × List Nat) :=
  if !slotsFree c r.packet then none else
  (List.range 640).foldl (fun (best : Option (Nat × List Nat)) k =>
    match makeRoom s x c r k, best with
    | some g, some (_, b) => if g.length < b.length then some (k, g) else best
    | some g, none => some (k, g)
    | none, _ => best) none
/-- R382: those of the chosen teams whose granules the team that takes the core does not need. Where it needs those of some of them only, the
earlier ones of the choice keep theirs (DEDUCED, log 87). -/
def keepersOf (s : State) (x : Nat) (c : Ctx) (r : Running) (core : Nat) (g : List Nat) : List Nat :=
  g.foldl (fun (ks : List Nat) tk =>
    let more := ks ++ [tk]
    if fits s x c r.queue r.index r.packet core (g.filter fun k => !more.contains k) more then more else ks) []
/-- The part once the teams whose deschedule has been asked have left their cores. -/
def settled (s : State) : State :=
  s.teams.foldl (fun s (k, t) =>
    if !t.asked || t.kept then s else if keeps s t then s.updTeam k fun t => { t with kept := true } else freeTeam s k t false) s
/-- A team of PRIO 3 of the packet has waited 100 µs. -/
def Running.overdue (r : Running) (c : Ctx) (s : State) : Bool := r.prio == 3 && mayPlace s c r && decide (r.waitsSince + 100000 ≤ s.ns)
/-- The overdue teams of a packet take the places that they fit, and what is left of the packet. -/
def seat (x : Nat) : Nat → State → Running → State × Running
  | 0, s, r => (s, r)
  | fuel + 1, s, r => match s.ctx x with
    | none => (s, r)
    | some c =>
      if !(r.overdue c s && slotsFree c r.packet) then (s, r)
      else match bestCore s x c r.queue r.index r.packet r.avoid with
        | none => (s, r)
        | some k => seat x fuel (placeTeam s x r.queue r.index 0 k r.prio c r.packet 0 0).2 r.placedOne
/-- The room that the packet's overdue teams need beside the room that teams leave already: of that, each overdue team of the virtual device
counts for one (DEDUCED, log 89). It gives the part as it will stand, what is left of the packet, the core and the teams to deschedule. -/
def roomFor (s : State) (x : Nat) (c : Ctx) (r : Running) : Option (State × Running × Nat × List Nat) :=
  let seated := (placers s c.vd).foldl (fun (acc : State × List Running) (y, q) =>
    let (v, q') := seat y 10240 acc.1 q
    (v, if y == x && q.queue == r.queue && q.index == r.index then [q'] else acc.2)) (settled s, [])
  match seated.2, seated.1.ctx x with
  | [r'], some c' => if r'.overdue c' seated.1 then (roomCore seated.1 x c' r').map fun (k, g) => (seated.1, r', k, g) else none
  | _, _ => none

/-- A saved team that waits to resume makes no room: it has been placed, and R376 speaks of a team without a fitting core (whether it counts the
spec does not say: DESIGN CHOICE, log 89). -/
def execPreemptiveDeschedule (xCtx xQ xIdx xCore : Nat) (s : State) : Out :=
  match (s.ctx xCtx).bind fun c => (findRunning c xQ xIdx).map fun r => (c, r) with
  | none => notNow "no such running packet"
  | some (c, r) =>
    if !r.overdue c s then notNow "no PRIO 3 team of the packet has waited 100 µs"
    else if (bestCore s xCtx c xQ xIdx r.packet r.avoid).isSome then notNow "a core fits"
    else match roomFor s xCtx c r with
      | none => notNow "no core can make room, or teams leave already"
      | some (v, r', k, g) =>
        if k ≠ xCore then notNow "another core is chosen"
        else
          let ks := keepersOf v xCtx c r' k g
          .next (g.foldl (fun s tk => s.updTeam tk fun t => { t with asked := true, mayKeep := ks.contains tk }) s)

/-! ## Resume (R386) -/

/-- The team a record describes, on a core. -/
def parseTeam (s : State) (x : Nat) (bs : List Byte) (core q idx relaunches prio block : Nat) (b : Beside) : Team :=
  let p := pktWords ((bs.drop 0x40).take 64)
  let s1 := sectionBytes bs 0
  let n := pktT p
  let ths := parseV s1 ((List.range n).map fun i => parseThread s core p b i (s1.drop (64 * i))) (sectionBytes bs 2)
  let slots := groupSlots s core (pktG p + pktS p)
  let s2 := sectionBytes bs 1
  let gs := (newGroups p slots).mapIdx fun g gr => parseGroup gr (s2.drop (128 * g)) (ths.any fun th => th.grp == g)
  let gs := parseG s2 gs (sectionBytes bs 3)
  let qs := (List.range (pktTq p)).map fun k => parseQueue ths s1 ((sectionBytes bs 4).drop (8 * k)) k
  let rg := num bs 0x18 8
  let t : Team := newTeam x q idx (num bs 8 4) core prio p slots [] block relaunches (BitVec.ofNat 32 (num bs 0x10 4))
  { t with threads := ths, groups := gs, queues := qs, rgAddr := (if rg = 0 then none else some rg), rgGen := num bs 0x20 4, lookout := num bs 0x24 4, arrived := (List.range n).filter fun i => (num s1 (64 * i + 0x36) 1).testBit 1 }
/-- A marked entry waits for the unmarked entries of its group (R284, log 14): the threads that the record marks. -/
def restoreMarks (t : Team) (tids : List Nat) : Team :=
  let ths := (List.range t.threads.length).filterMap fun i => (t.threads[i]?).map fun th => (i, th)
  { t with groups := t.groups.mapIdx fun g gr =>
      let mine := ths.filter fun (_, th) => th.grp == g
      let places := (mine.filter fun (i, _) => tids.contains i).map fun (_, th) => th.rp
      let wait := ((mine.filter fun (_, th) => th.st == .runnable && !places.any fun r => r.same th.rp)).map fun (_, th) => th.rp
      { gr with marks := if wait.isEmpty then [] else places.foldl (fun (ms : List YieldMark) r => if marked ms r then ms else ms ++ [{ place := r, wait := wait }]) [] } }
/-- Suspended commands return to their channels, each with its place in the window (R386). -/
def restoreCopies (s : State) (tk : Nat) (core : Nat) (cs : List (ChanState × List CopyCmd)) : State :=
  (cs.mapIdx fun ch x => (ch, x)).foldl (fun s (ch, (st, q)) =>
    let s := s.updChan tk ch fun _ => st
    q.foldl (fun s c =>
      let (id, s) := s.fresh
      let (iss, s) := if c.op = 1 then (0, s) else s.fresh
      let lane := ((s.thread tk c.tid).map Thread.lane).getD 0
      let s := if c.op = 1 then s else s.updTeam tk fun t =>
        { t with iw := t.iw ++ [{ id := iss, grp := c.grp, insn := (decode c.word).getD .tick, word := c.word, clause := 0, index := 0, prio := 0, bundle := maskOf [lane], lanes := [], flag := c.flag, engine := true, tids := [c.tid] }] }
      setCopyQueue s core ch (queueAt s core ch ++ [{ c with id := id, iss := iss }])) s) s
def reloadAcc (s : State) (core : Nat) (bs : List Byte) : State := s.updCore core fun k => { k with acc := cellsSet [] 0 (toWords (bs.take 262144)) }

/-- The kept team whose record a directory entry is. -/
def keptTeam (s : State) (x entry : Nat) : Option (Nat × Team) := s.teams.find? fun (_, t) => t.kept && t.ctx == x && t.entry == entry

/-- The team of a record on a core: its threads and groups, its copy commands, its scratchpad rows and its accumulator store, and the
acquire its threads take (R386). -/
def rebuildTeam (s : State) (x entry core : Nat) (c : Ctx) (bs : List Byte) : Nat × State :=
  let p := pktWords ((bs.drop 0x40).take 64)
  let m := (mapGet? c.saved entry).getD { queue := 0, idx := 0, team := 0, relaunches := 0, core := 0 }
  let kt := keptTeam s x entry
  let gone := match kt with | some (k, _) => [k] | none => []
  let prio := ((findRunning c m.queue m.idx).map Running.prio).getD 0
  let block := match kt with | some (_, t) => t.block | none => (freeBlock (residents s core gone) (pktSpg p)).getD 0
  let allocs := match kt with | some (_, t) => t.allocs | none => []
  let (tk, s) := s.fresh
  let t := parseTeam s x bs core m.queue m.idx m.relaunches prio block m.beside
  let t := restoreMarks t ((List.range t.threads.length).filter fun i => (num (sectionBytes bs 0) (64 * i + 0x36) 1).testBit 0)
  let s := { s with teams := mapSet (match kt with | some (k, _) => mapErase s.teams k | none => s.teams) tk { t with index := m.team, allocs := allocs } }
  let s := restoreCopies s tk core (parseCopy t tk m.beside (sectionBytes bs 5))
  -- rows that were kept alive are renewed once more, so that none has aged (R116)
  let s := if kt.isSome then renewRows s { t with allocs := allocs } else reloadPad s tk t (sectionBytes bs 6)
  let s := if t.acc then s.updCore core fun k => { k with accOwner := some tk } else s
  let s := if (num bs 0x0C 4).testBit 0 then reloadAcc s core (sectionBytes bs 7) else s
  (tk, s.updCore core Core.dropLeases)
/-- A queue of higher priority has a team that could be placed now. A saved team resumes behind it; it does not wait for one that fits nowhere
(R386 names R375 for the core alone: DEDUCED, log 87). -/
def higherFits (s : State) (vd prio : Nat) : Bool := (placers s vd).any fun (x, r) => prio < r.prio && placeable s x r
def execTeamResume (xCtx xEntry xCore : Nat) (s : State) : Out :=
  match (s.ctx xCtx).bind fun c => (mapGet? c.saved xEntry).map fun m => (c, m) with
  | none => notNow "no such record"
  | some (c, m) =>
    let q := m.queue
    let idx := m.idx
    if !s.posted xCtx then notNow "a write of the context's structures is still to be made (R438)" else
    let s0 := s; match loadRecord s xCtx c xEntry with
    | .wait s' => waitsFor s s' "a line of the save area is in use"
    | .fault _ _ _ _ _ => notNow "the save area does not translate"
    | .ok bs s =>
      let p := pktWords ((bs.drop 0x40).take 64)
      let kt := keptTeam s xCtx xEntry
      let own : Bool := match kt with | some (_, t) => t.core == xCore | none => true
      let gone := match kt with | some (k, _) => [k] | none => []
      let prio := ((findRunning c q idx).map Running.prio).getD 0
      if stopAsked s c.vd || c.destroying then notNow "the virtual device is being stopped"
      else if !own then notNow "the team is kept alive on another core (KEEPALIVE_END)"
      else if !fits s xCtx c q idx p xCore gone [] then notNow "the core does not fit"
      else if higherFits s c.vd prio then notNow "a queue of higher priority comes first"
      else
        let (tk, s) := rebuildTeam (rouse s xCore) xCtx xEntry xCore c bs
        match (findRunning c q idx).map fun r => (packetAcquire s r xCore) with
        | none => notNow "the record's packet is not running"
        | some s =>
          match freeRecord s xCtx c xEntry with
          | .wait s' => waitsFor s0 s' "a line of the save area is in use"
          | .fault _ _ _ _ _ => notNow "the save area does not translate"
          | .ok _ s =>
            let s := s.updCtx xCtx fun c => { c with saved := mapErase c.saved xEntry }
            .next (updRunning s xCtx q idx fun r => { r with members := tk :: r.members, acquired := if r.acquired.contains xCore then r.acquired else xCore :: r.acquired })

/-! ## Keep-alive (R113) -/

/-- The longest time between two visits of the sweeper to a row (R113). -/
def renewBound (s : State) (t : Team) : Nat := max 1 ((t.allocs.foldl (fun m (_, al) => min m (leff (s.core t.core) al)) 2047) / 2)
/-- A kept team's rows must be renewed before the next tick of the retention clock. -/
def renewDue (s : State) (t : Team) : Bool := t.kept && decide (t.renewTick + renewBound s t ≤ (s.core t.core).rtotal)
/-- The sweeper renews every live row of the kept team. -/
def keepRows (s : State) (tk : Nat) (t : Team) : State := (renewRows s t).updTeam tk fun t => { t with renewTick := (s.core t.core).rtotal }
/-- The sweeper's visit. -/
def execKeepaliveRenew (xTeam : Nat) (s : State) : Out :=
  match s.team xTeam with
  | none => notNow "no such team"
  | some t =>
    if !t.kept then notNow "the team is not kept alive"
    else
      .next (keepRows s xTeam t)
/-- Some team that waits for placement fits no core as they stand and would fit this one without the kept team (R113). A team waits for
placement before it is placed for the first time or again after a kill; a descheduled team that waits to resume is not counted (the spec
does not say: DESIGN CHOICE, log 89). -/
def blockWanted (s : State) (tk : Nat) (t : Team) : Bool :=
  s.ctxs.any fun (x, c) => c.running.any fun r =>
    mayPlace s c r && r.avoid != some t.core && slotsFree c r.packet && (bestCore s x c r.queue r.index r.packet r.avoid).isNone &&
    fits s x c r.queue r.index r.packet t.core [tk] []
/-- The record is written anew with the scratchpad and the accumulator store in it; the rows have been renewed once more, so that none has aged
(R116). -/
def rewriteRecord (s : State) (t : Team) (bs : List Byte) : List Byte × State :=
  let (pad, s) := secPad s t
  let secs := (List.range 6).map fun i => let x := sectionBytes bs i; if num bs (0x80 + 8 * i) 8 = 0 then none else some x
  let flags := (if t.acc then 1 else 0) + (if t.allocs.isEmpty then 0 else 2) + (if t.rst then 4 else 0)
  let hdr := (bs.drop 8).take 4 ++ leBytes 4 flags ++ (bs.drop 0x10).take 0x70
  (assemble hdr (secs ++ [if t.allocs.isEmpty then none else some pad, if t.acc then some (secAcc s t.core) else none]), s)
def execKeepaliveEnd (xTeam : Nat) (s : State) : Out :=
  match (s.team xTeam).bind fun t => (s.ctx t.ctx).map fun c => (t, c) with
  | none => notNow "no such team"
  | some (t, c) =>
    let limit := c.keepalive.toNat % 2 ^ 20
    if !t.kept then notNow "the team is not kept alive"
    else if (s.core t.core).rtotal < t.keptSince + limit && !blockWanted s xTeam t && !stopAsked s c.vd then notNow "keep-alive goes on"
    else
      let r := (loadRecord s t.ctx c t.entry).bind fun bs s =>
        let (bs', s) := rewriteRecord (renewRows s t) t bs
        (freeRecord s t.ctx c t.entry).bind fun _ s => storeRecord s t.ctx c bs'
      match r with
      | .wait s' => waitsFor s s' "a line of the save area is in use"
      | .fault _ _ _ _ _ => notNow "the save area does not translate"
      | .ok none _ => notNow "the save area cannot hold the allocations"
      | .ok (some e) s =>
        let s := s.updCtx t.ctx fun c => { c with saved := mapSet (mapErase c.saved t.entry) e { queue := t.queue, idx := t.pidx, team := t.index, relaunches := t.relaunches, core := t.core, beside := ((mapGet? c.saved t.entry).map Saved.beside).getD {} } }
        .next (freeTeam s xTeam t false)

/-! ## Lookout (R387, R388) -/

/-- The Lookout limit in µs. -/
def lookoutLimit (t : Team) : Nat := (t.lko + 1) * 1000
def execLookout (xTeam : Nat) (s : State) : Out :=
  match s.team xTeam with
  | none => notNow "no such team"
  | some t =>
    if t.lookout ≤ lookoutLimit t || t.kill.isSome || t.kept then notNow "the limit has not passed"
    else .next (killTeam s xTeam { cause := .lookout, time := s.ns, core := t.core, pmark := t.pmark } none)

end Sys2Proof.Machine
end

