-- ==== Sys2Proof/Machine/Kill.lean ====
section
/-! DEFINITION. The delivery of a trap to its thread, and the kill of a team (R391, R400 to R402). -/

namespace Sys2Proof.Machine

/-! ## TRAP_DELIVERY (R391) -/

/-- The delivery, through the one operation that takes an exception. -/
def execTrapDelivery (xTeam xTid : Nat) (s : State) : Out :=
  match (s.team xTeam).bind fun t => (t.threads[xTid]?).map fun th => (t, th) with
  | none => notNow "no such thread"
  | some (t, th) =>
    if !s.posted t.ctx then notNow "a write of the context's structures is still to be made (R438)" else
    match th.fault with
    | none => notNow "no fault of the thread is to be delivered"
    | some f =>
      if t.kill.isSome || f.cause.handling == .kill then notNow "the team is to be killed"
      else if threadBusy t xTid then notNow "older instructions of the thread are not complete"
      else match takeException s xTeam xTid f with
        | .ok _ s => .next s
        | .wait s' => waitsFor s s' "the record's line is in use"
        | .fault _ _ _ _ s => .next s

/-! ## TEAM_KILL (R400) -/

/-- Steps 1 to 5. -/
def beginKill (s : State) (tk : Nat) (t : Team) : State :=
  let s := dropTeamReads s tk t.core
  let s := s.updTeam tk fun t =>
    { t with killing := true, iw := [], groups := t.groups.map fun g => { g with cf := [] } }
  s.updCore t.core fun k =>
    { k with
      sb := k.sb.filter fun e => !(e.team == tk && !e.admitted && !e.sent)
      matq := k.matq.filter fun m => m.team != tk
      port := k.port.filter fun o => o.team != tk
      copyq := (k.copyq.map fun (ch, q) => (ch, q.filter fun c => c.team != tk)).filter fun (_, q) => !q.isEmpty }
/-- What a record shows of an error in the scratchpad or the accumulator store: no address (R396). -/
def FaultInfo.shown (f : FaultInfo) : FaultInfo := if f.cause == .spoison || f.cause == .apoison then { f with addrs := [] } else f
/-- The retire record of a thread (R395, R400 step 7): a consuming thread's is that of the fault, as the record already written was; the
others' name their resume points at the kill.
A thread that took the same cause and has not been delivered is a consuming thread too (log 18). -/
def retireFault (s : State) (t : Team) (f : FaultInfo) (tid : Nat) (th : Thread) : FaultInfo :=
  if t.killer == some tid then f.shown
  else match th.fault.filter fun g => g.cause == f.cause with
  | some g => g.shown
  | none =>
    let b := ((t.groups[th.grp]?).bind Group.bundle).filter fun b => bit b.lanes th.lane
    let rp : Resume := match b with | some b => { prio := b.prio, clause := b.clause, index := b.index } | none => th.rp
    faultNow s t tid { cause := f.cause, clause := rp.clause, index := rp.index, prio := rp.prio, bundle := (b.map Bundle.lanes).getD 0 }
/-- Every live thread's record; one whose write faults or is refused is not written (R438). -/
def writeRetires (s : State) (t : Team) (f : FaultInfo) : Virt Unit :=
  ((t.threads.mapIdx fun i th => (i, th)).filter fun (_, th) => th.live).foldl (fun acc (i, th) =>
    acc.bind fun _ s => match writeRecord s t i (retireFault s t f i th) true with
      | .ok _ s => .ok () s
      | .wait s => .wait s
      | .fault c addrs _ _ s => .ok () (if c == .caprefuse || c == .tiershort then s.postRefused (addrs.headD 0) else s)) (.ok () s)
/-- The address of the consumed error, where it is known: the billet, or the line of a page-table entry (R401). -/
def errorAddr (f : FaultInfo) : Nat :=
  match f.cause with
  | .bpoison => f.addrs.getD 1 0
  | .xpoison => f.addrs.getD 1 0 / 128 * 128
  | .spoison | .apoison => f.addrs.getD 0 0
  | _ => 0
/-- R402. -/
def relaunches (t : Team) (f : FaultInfo) : Bool := t.rst && f.cause.relaunch && t.relaunches < 3
def killRecord (s : State) (t : Team) (f : FaultInfo) : List Byte :=
  healthRecord 1 f.cause.number f.code t.relaunches (if relaunches t f then 1 else 0) t.queue t.index t.pidx t.pmark.toNat t.core (errorAddr f) s.ns
/-- The packet learns that the team is gone; a relaunch waits for another core (R402). -/
def packetAfterKill (s : State) (t : Team) (f : FaultInfo) : State :=
  updRunning s t.ctx t.queue t.pidx fun r =>
    if relaunches t f then { r with placed := r.placed - 1, again := r.again ++ [{ team := t.index, count := t.relaunches + 1, mark := t.pmark, avoid := some t.core, since := s.ns }] }
    else { r with placed := r.placed - 1, killed := true }

/-- A team that has been descheduled is killed: the retire records of its live threads, its slots and its save record (R400). -/
def killSaved (s : State) (x : Nat) (c : Ctx) (entry : Nat) (f : FaultInfo) : Virt Unit :=
  match mapGet? c.saved entry with
  | none => .ok () s
  | some m =>
    (loadRecord s x c entry).bind fun bs s =>
      let t := parseTeam s x bs m.core m.queue m.idx m.relaunches 0 0 m.beside
      (writeRetires s t f).bind fun _ s =>
        (freeRecord s x c entry).bind fun _ s =>
          let ps := t.threads.map Thread.pslot
          let s := s.updCtx x fun c => { c with saved := mapErase c.saved entry, usedSlots := c.usedSlots.filter fun p => !ps.contains p }
          .ok () (packetAfterKill (s.postCtx x (killRecord s t f)) t f)

def execTeamKill (xTeam : Nat) (s : State) : Out :=
  match (s.team xTeam).bind fun t => t.kill.map fun f => (t, f) with
  | none => notNow "no kill of the team is due"
  | some (t, f) =>
    if t.groups.any fun g => (g.bundle.map fun b => !b.yields.isEmpty).getD false then notNow "a pgyield of the team has begun to surrender its pages" else
    let s1 := if t.killing then s else beginKill s xTeam t
    let t1 := (s1.team xTeam).getD t
    let (rel, s1) := teamReleased s1 xTeam { t1 with snap := if t.killing then t1.snap else none }
    if !rel || !teamIdle s1 xTeam t1 || !s1.posted t.ctx then (if s1 = s then notNow "admitted stores of the team are still to perform" else .next s1)
    else
      let r : Virt Unit := if t.kept then (match s1.ctx t1.ctx with
          | some c => (killSaved s1 t1.ctx c t1.entry f).bind fun _ s => .ok () (freeTeam s xTeam t1 false)
          | none => .ok () s1)
        else (writeRetires s1 t1 f).bind fun _ s =>
          .ok () (packetAfterKill ((freeTeam s xTeam t1 true).postCtx t1.ctx (killRecord s t1 f)) t1 f)
      match r with
      | .wait s' => if keepWaits s1 s' = s then notNow "a line of the trap area is in use" else .next (keepWaits s1 s')
      | .fault _ _ _ _ _ => notNow "the save area does not translate"
      | .ok _ s' => .next s'

end Sys2Proof.Machine
end

