-- ==== Sys2Proof/Machine/Capacity.lean ====
section
/-! DEFINITION. The driver's commands on pages, the Thinning doorbell, compaction and scrubbing, and Chipper's migrations (R30, R42,
R62, R84 to R91, R418, R419). -/

namespace Sys2Proof.Machine

/-! ## Thinning (R62) -/

def execThinningDoorbell (xCtx : Nat) (s : State) : Out :=
  match s.ctx xCtx with
  | none => notNow "no such context"
  | some c =>
    if !s.posted xCtx then notNow "a write of the context's structures is still to be made (R438)"
    else match readAt s c.ccb 8 with
    | .wait s' => if keepWaits s s' = s then notNow "the mailbox's line is in use" else .next { keepWaits s s' with agenda := .thinningDoorbell xCtx :: s.agenda }
    | .poisoned _ _ => notNow "the mailbox's line is poisoned"
    | .refused _ _ _ _ => notNow "the mailbox's line is in use"
    | .ok bs s =>
      let m := mailbox (BitVec.ofNat 64 (leNat bs))
      if bit m 47 && fld m 35 0 == 0 then .next (notifyThinned (setMailbox s xCtx (setBit m 47 false)) xCtx m)
      else .next (s.updCtx xCtx fun c => { c with balloon := m })

/-! ## Backing pages (R37, R39, R418) -/

/-- Runs of n sectors for a billet, k of them; none where the frames offer no more. -/
def allocRuns (s : State) (b n : Nat) : Nat → Option (List (Nat × Nat) × State)
  | 0 => some ([], s)
  | k + 1 => match allocRuns s b n k with
    | none => none
    | some (rs, s) => (allocRun s b n).map fun (st, f, s) => (rs ++ [(st, f)], s)
/-- The package number of a function's context. -/
def ctxOf (s : State) (vd n : Nat) : Option Nat := mapGet? (s.vd vd).ctxs n
/-- The page lies in the virtual device's window (R425). -/
def inWindow (s : State) (vd p : Nat) : Bool := let v := s.vd vd; v.base ≤ p && p < v.base + v.count
/-- BMCMD as the command leaves it (R418). -/
def setBm (s : State) (vd op n p status : Nat) : State :=
  s.updVd vd fun v => { v with bmcmd := BitVec.ofNat 64 (op * 2 ^ 60 + n % 4096 * 2 ^ 48 + p % 2 ^ 32 * 2 ^ 16 + status) }
/-- The command goes on: STATUS is 1. -/
def bmBusy (s s' : State) (vd op n p : Nat) : Out :=
  let s' := setBm s' vd op n p 1
  if s' = s then notNow "the command waits" else .next s'
/-- csr.acap allows one more page (R39). -/
def capAllows (c : Ctx) : Bool := c.backed < min (c.acap.toNat % 2 ^ 25) 25165824
/-- What a back command comes to. -/
inductive Backing where
  | rejected
  /-- no frame offers a run, though the pool suffices: the part compacts first (R42) -/
  | waits
  | done (s : State)
/-- The 256 runs of a fixed-size page (R116, R418). -/
def fixedRuns (s : State) (p : Nat) : Option State :=
  (List.range 256).foldl (fun (acc : Option State) i => acc.bind fun s =>
    (allocRun s (p * 256 + i) 8).map fun (st, f, s) => s.updBillet (p * 256 + i) fun _ => { cls := 5, nsec := 8, stack := st, sect := BitVec.ofNat 32 f }) (some s)
/-- Back and back fixed-size. -/
def backPage (s : State) (vd x p : Nat) (fixed : Bool) : Backing :=
  match s.ctx x with
  | none => .rejected
  | some c =>
    let need := 64 + (if fixed then 2048 else 0)
    if (s.page p).isSome || !inWindow s vd p || !capAllows c || s.poolOf vd < need then .rejected
    else match allocRuns s (p * 256) 8 8 with
      | none => .waits
      | some (ds, s) =>
        let s := zeroPage (s.poolTake vd need) p
        let s := { s with pages := mapSet s.pages p { ctx := x, fixed := fixed, key := c.key, lastMs := s.ns / 1000000, desc := ds } }
        let s := { s with billets := s.billets.filter fun (b, _) => pageOfBillet b != p }
        let s := s.updCtx x fun c => { c with backed := c.backed + 1 }
        if !fixed then .done s
        else match fixedRuns s p with
          | some s => .done (zeroRuns s p)
          | none => .waits
/-- The command's end: STATUS 0, or 2 with nothing changed. -/
def backCommand (s : State) (op vd n p : Nat) (fixed : Bool) : Out :=
  match (ctxOf s vd n).map fun x => backPage s vd x p fixed with
  | some (.done s) => .next (setBm s vd op n p 0)
  | some .waits => bmBusy s s vd op n p
  | some .rejected => .next (setBm s vd op n p 2)
  | none => .next (setBm s vd op n p 2)
def execBack (xVd xN xPage : Nat) (s : State) : Out := backCommand s 1 xVd xN xPage false
def execBackFixedSize (xVd xN xPage : Nat) (s : State) : Out := backCommand s 2 xVd xN xPage true

/-- A page leaves the backing map (R418). -/
def unbackPage (s : State) (p : Nat) (pg : Page) : State :=
  let vd := s.vdOfPage p
  let (n, s) := emptyPage s p
  let s := pg.desc.foldl (fun s (st, f) => freeRun s st f 8) s
  let s := (s.poolGive vd (n + 64)).updCtx pg.ctx fun c => { c with backed := c.backed - 1 }
  { s with pages := mapErase s.pages p }
/-- The page has a new owner. -/
def ownPage (s : State) (p : Nat) (pg : Page) (x : Nat) (c : Ctx) : State :=
  let s := s.updCtx pg.ctx fun c => { c with backed := c.backed - 1 }
  let s := s.updCtx x fun c => { c with backed := c.backed + 1 }
  s.updPage p fun g => { g with ctx := x, key := c.key }
/-- A page passes to a context with another key slot (R30): its contents are ended, and it holds zeros, a fixed-size one under the new key. -/
def reassignPage (s : State) (p : Nat) (pg : Page) (x : Nat) (c : Ctx) : State :=
  if pg.fixed then clearFixed (ownPage s p pg x c) p
  else
    let (n, s) := emptyPage s p
    ownPage (s.poolGive (s.vdOfPage p) n) p pg x c

/-- A command that ends a page's copies runs to its end in as many steps as those take. -/
def pageCommand (s : State) (op vd n p : Nat) (act : State → State) : Out :=
  match pageEnds s p with
  | .waits s' => bmBusy s s' vd op n p
  | .ready s' => .next (setBm (act s') vd op n p 0)
def execUnback (xVd xN xPage : Nat) (s : State) : Out :=
  match s.page xPage with
  | none => .next (setBm s xVd 3 xN xPage 2)
  | some pg =>
    if inWindow s xVd xPage && (ctxOf s xVd xN).isSome then pageCommand s 3 xVd xN xPage fun s => unbackPage s xPage pg
    else .next (setBm s xVd 3 xN xPage 2)
/-- With the same key slot only the owner changes; a demotion of the page is abandoned (R90). -/
def execReassign (xVd xN xPage : Nat) (s : State) : Out :=
  match s.page xPage, (ctxOf s xVd xN).bind fun x => (s.ctx x).map fun c => (x, c) with
  | some pg, some (x, c) =>
    if !(inWindow s xVd xPage && (pg.ctx == x || capAllows c)) then .next (setBm s xVd 4 xN xPage 2)
    else if pg.key = c.key then .next (setBm (ownPage (abandonMigration s xPage) xPage pg x c) xVd 4 xN xPage 0)
    else pageCommand s 4 xVd xN xPage fun s => reassignPage s xPage pg x c
  | _, _ => .next (setBm s xVd 4 xN xPage 2)

/-! ## Compaction and scrubbing (R42, R79, R84, R93) -/

/-- A closed billet with a run that may be moved. -/
def movable (d : Billet) : Bool := !d.opened && !d.closing && d.loc == 0 && 1 ≤ d.nsec && d.nsec ≤ 8 && 2 ≤ d.cls && !d.poison
/-- A closed billet's run moves to another frame, named by stack × 2^28 + frame, its entry of the memory-side cache written first (R79); only
STACK and SECT change. An uncorrectable error in the run poisons the billet (R93). -/
def execCompaction (xBillet xFrame : Nat) (s : State) : Out :=
  let d := s.billet xBillet
  let used := (mapGet? s.frames xFrame).getD 0
  if !movable d || Config.numStacks * Config.framesPerStack ≤ xFrame then notNow "not a closed billet with a run"
  else match runFits used d.nsec with
    | none => notNow "the frame has no room"
    | some o =>
      let s := mscRemove s xBillet
      let (bad, s) := s.takeError 1 xBillet
      if bad then .next (s.poisonBillet xBillet)
      else
        let u := (List.range d.nsec).foldl (fun u i => setBit u (o + i) true) used
        let stk := xFrame / Config.framesPerStack
        let sec := xFrame % Config.framesPerStack * 8 + o
        let s := match mapGet? s.hbm (runPlace d.stack d.sect.toNat) with | some r => s.hbmWrite stk sec r | none => s
        let s := freeRun { s with frames := mapSet s.frames xFrame u } d.stack d.sect.toNat d.nsec
        .next (s.updBillet xBillet fun d => { d with stack := stk, sect := BitVec.ofNat 32 sec })
/-- No frame offers 8 sectors in a row. -/
def framesShort (s : State) : Bool := (List.range Config.numStacks).all fun st => (findRun st 8 s.frames 0).isNone
/-- A move that brings free sectors together: a run out of a frame into a fuller one. -/
def compactChoice (s : State) : Option (Nat × Nat) :=
  let ones := fun (u : BitVec 8) => (bitsOf u).length
  firstSome (fun ((b, d) : Nat × Billet) =>
    if !movable d then none else
    let f := d.stack * Config.framesPerStack + d.sect.toNat / 8
    let mine := ones ((mapGet? s.frames f).getD 0)
    (s.frames.find? fun (k, u) => k != f && mine ≤ ones u && (runFits u d.nsec).isSome).map fun (k, _) => (b, k)) s.billets
/-- What the scrubber finds in a sector of the billet's run, or, for a billet without one, of its page's descriptor block; in both it meets the
errors that wait for a read (arrays 1 and 14, log 4). -/
def execPatrolScrub (xBillet : Nat) (xFound : ErrKind) (s : State) : Out :=
  let p := pageOfBillet xBillet
  if (s.page p).isNone then notNow "the page is not backed"
  else
    let held := (s.billet xBillet).held ≠ 0
    let (block, s) := s.takeError 14 p
    let s := if block then s.poisonBillets p else s
    let (run, s) := if held then s.takeError 1 xBillet else (false, s)
    let s := if run then s.poisonBillet xBillet else s
    match xFound with
    | .clean => .next s
    | .correctable => .next (s.updReg fun r => { r with corrections := r.corrections + 1 })
    | .uncorrectable => .next (if held then s.poisonBillet xBillet else s.poisonBillets p)

/-! ## Chipper (R85 to R91, R419) -/

def chIdle (s : State) : Nat := s.regs.chctl.toNat % 65536
def chRetry (s : State) : Nat := s.regs.chctl.toNat / 2 ^ 24 % 8
def chEn (s : State) : Bool := bit s.regs.chctl 31
/-- A closed billet's bytes: chunks in L2, the rest from its stored form (R90 step 3). -/
def billetBytes (s : State) (b : Nat) : Option (List Byte) :=
  let valid := fun (i : Nat) => bit (s.line (2 * b + i / 8)).valid (i % 8)
  if (s.billet b).poison || (s.line (2 * b)).psn || (s.line (2 * b + 1)).psn then none
  else if (List.range 16).all valid then some (s.readMem (b * 256) 256)
  else (storedValue s b).map fun bs => (List.range 16).flatMap fun i => if valid i then s.readMem (b * 256 + 16 * i) 16 else (bs.drop (16 * i)).take 16
/-- The words of a page's 256 billets; none where one cannot be had. -/
def pageWords (s : State) (p : Nat) : Option (List (List Word)) :=
  (List.range 256).foldl (fun (acc : Option (List (List Word))) i => acc.bind fun ws => (billetBytes s (p * 256 + i)).map fun bs => ws ++ [toWords bs]) (some [])
/-- The lowest free run of n tier blocks, on the carrier or of CXL-attached memory (R85, log 67). -/
def tierRun (s : State) (n : Nat) : Option Nat :=
  let used := s.pages.filterMap fun (_, g) => if g.tierLen = 0 then none else some (g.tierBlock, g.tierLen)
  let ok := fun b => used.all (fun (a, l) => b + n ≤ a || a + l ≤ b) && (b + n ≤ Config.tierBlocks || Config.tierBlocks ≤ b) && b + n ≤ s.slovi.tierBlocks
  let cands := [0, Config.tierBlocks] ++ used.map fun (a, l) => a + l
  (cands.filter ok).foldl (fun (m : Option Nat) b => match m with | some x => some (min x b) | none => some b) none
/-- A leaf entry that some core caches for a context of another key slot leads to the page: the page is shared by a translation in such a
context, as far as the part can tell (R89; DESIGN CHOICE, log 79). -/
def sharedOutside (s : State) (p : Nat) (g : Page) : Bool :=
  s.cores.any fun (_, k) => k.tlb.any fun e => e.leaf && pteTgt e.pte == 0 &&
    (let a := pageOf (pteTarget e.pte e.lvl (e.vpn * 2 ^ levelBits e.lvl)).2; a ≤ p && p < a + 2 ^ (levelBits e.lvl - 16)) &&
    ((s.ctx e.ctx).map Ctx.key) != some g.key
/-- R89, R303: the page may be demoted. A fixed-size page is not, so that it is never refused (R116, log 15). -/
def mayDemote (s : State) (p : Nat) : Bool :=
  match s.page p with
  | none => false
  | some g =>
    !g.fixed && !inTier s p && g.hotUntil ≤ s.ns && s.migrations.length < 8 && !(s.migrations.any fun m => m.page == p) &&
    !((List.range 256).any fun i => (s.billet (p * 256 + i)).poison) && !sharedOutside s p g &&
    (match pageWords s p with | some ws => (tierRun s ((tierImage ws).length / 4096)).isSome | none => true)
/-- The page's dirty entries of the memory-side cache are written to HBM4 (R79, R90 step 2). -/
def flushMsc (s : State) (p : Nat) : State := ((s.msc.filter fun (b, e) => pageOfBillet b == p && e.dirty).map Prod.fst).foldl mscWrite s
/-- The close of every open billet of the page is begun or carried on (R46, R90 step 2). -/
def flushPage (s : State) (p : Nat) : State :=
  let bs := (s.billets.filter fun (b, d) => pageOfBillet b == p && d.opened).map Prod.fst
  flushMsc (bs.foldl (fun s b => (closeStep s b).getD s) s) p
def startDemotion (s : State) (p : Nat) : State := flushPage { s with migrations := s.migrations ++ [{ page := p, up := false }] } p
def updMig (s : State) (p : Nat) (f : Migration → Migration) : State := { s with migrations := s.migrations.map fun m => if m.page == p then f m else m }
def findMig (s : State) (p : Nat) (up : Bool) : Option Migration := s.migrations.find? fun m => m.page == p && m.up == up

/-- A page is cold where its access count is zero, as after resid.cold (R303), or no access of it has been counted for CHCTL.IDLE ms (R89,
R419; log 80). -/
def isCold (s : State) (g : Page) : Bool := g.count = 0 || g.lastMs + chIdle s ≤ s.ns / 1000000
def execChipperSelect (xPage : Nat) (s : State) : Out :=
  match s.page xPage with
  | none => notNow "the page is not backed"
  | some g =>
    if !chEn s || !isCold s g then notNow "the page is not cold, or CHCTL.EN is 0"
    else if !mayDemote s xPage then notNow "the page may not be demoted"
    else .next (startDemotion s xPage)
def execChipperDemote (xPage : Nat) (s : State) : Out :=
  if mayDemote s xPage then .next (setChcmd (startDemotion s xPage) 1 xPage 1) else .next (setChcmd s 1 xPage 2)
def execChipperPromote (xPage : Nat) (s : State) : Out :=
  if !inTier s xPage || promoting s xPage || 8 ≤ s.migrations.length || s.poolOf (s.vdOfPage xPage) < promotionNeed s xPage then .next (setChcmd s 2 xPage 2)
  else .next (setChcmd (startPromotion s xPage) 2 xPage 1)

/-- An uncorrectable error has been met in the page (R90 step 8): a billet or one of its lines is poisoned. An error that R93 heals by a refetch,
and a poison that a store has ended before the freeze, abandon nothing (the spec does not say: DESIGN CHOICE, log 109). -/
def pagePoisoned (s : State) (p : Nat) : Bool :=
  (s.billets.any fun (b, d) => pageOfBillet b == p && d.poison) || s.lines.any fun (l, x) => pageOfLine l == p && x.psn
def execDemotionAbandon (xPage : Nat) (s : State) : Out :=
  match findMig s xPage false with
  | none => notNow "no demotion of the page"
  | some m =>
    if chRetry s < m.retries || pagePoisoned s xPage || (s.page xPage).isNone then .next (abandonMigration s xPage)
    else notNow "the demotion goes on"
/-- Reading a billet for the copy meets the errors of what it reads (R93): whether the copy must be abandoned. -/
def copyRead (s : State) (b : Nat) : Bool × State :=
  let s := l2Error (l2Error s (2 * b)) (2 * b + 1)
  if (s.billet b).poison then (true, s)
  else if (s.line (2 * b)).valid == 0xFF && (s.line (2 * b + 1)).valid == 0xFF then (false, s)
  else
    let (v, s) := readStored s b
    (v.isNone, if v.isNone then s.poisonBillet b else s)
/-- Reading a page meets the errors of what is read (R86, R93): whether one was met. -/
def pageRead (s : State) (p : Nat) : Bool × State :=
  if inTier s p then
    let (bad, s) := s.takeError 3 p
    if bad || (tierValue s p).isNone then (true, s.poisonPage p) else (false, s)
  else (List.range 256).foldl (fun (acc : Bool × State) i => let (x, s) := copyRead acc.2 (p * 256 + i); (acc.1 || x, s)) (false, s)
/-- R90 steps 2, 3 and 8. -/
def execDemotionCopy (xPage : Nat) (s : State) : Out :=
  match findMig s xPage false with
  | none => notNow "no demotion of the page"
  | some m =>
    if m.stage ≠ 0 then notNow "the pass is copied already"
    else if s.billets.any fun (b, d) => pageOfBillet b == xPage && d.opened then
      let s' := flushPage s xPage
      if s' = s then notNow "open billets of the page are still to be closed" else .next s'
    else
      let (bad, s) := pageRead (flushMsc s xPage) xPage
      match (if bad then none else pageWords s xPage) with
      | none => .next (abandonMigration s xPage)
      | some ws =>
        let img := tierImage ws
        match tierRun s (img.length / 4096) with
        | none => .next (abandonMigration s xPage)
        | some b =>
          let s := s.tierWrite xPage b img
          let s := s.updPage xPage fun g => { g with tierBlock := b, tierLen := img.length / 4096 }
          .next (updMig s xPage fun m => { m with stage := 1, dirty := false })
/-- Store-class requests of the page held at its homes. -/
def heldStores (s : State) (p : Nat) : Bool := s.lines.any fun (l, x) => pageOfLine l == p && x.queue.any fun r => r.kind.isStore
/-- Nothing of the page is under way at its homes. -/
def pageCalm (s : State) (p : Nat) : Bool :=
  s.lines.all (fun (l, _) => pageOfLine l != p || s.calm l) && s.billets.all fun (b, d) => pageOfBillet b != p || !d.closing
/-- R90 step 6: the commit. -/
def commitDemotion (s : State) (p : Nat) (block : Nat) : State :=
  let bs := s.billets.filter fun (b, _) => pageOfBillet b == p
  let n := bs.foldl (fun a (_, d) => a + d.held) 0
  let s := bs.foldl (fun s (b, d) => mscDrop (if d.count > 0 then freeRun s d.stack d.sect.toNat d.nsec else s) b) s
  let s := (List.range 256).foldl (fun s i => s.updBillet (p * 256 + i) fun d => { d with loc := 1, stack := 0, sect := tierSect block }) s
  let s := s.poolGive (s.vdOfPage p) n
  endChcmd { s with tier := mapSet s.tier p block, migrations := s.migrations.filter fun m => !(m.page == p && !m.up) } 1 p 0
/-- R90 step 4: the homes hold every new request for the page and finish those under way. -/
def freezePage (s : State) (p : Nat) (m : Migration) : Out :=
  if m.frozen then notNow "requests of the page are under way" else .next (updMig s p fun m => { m with frozen := true })
/-- R90 steps 4 to 8: an error met since the copy abandons the demotion. -/
def execFreeze (xPage : Nat) (s : State) : Out :=
  match findMig s xPage false with
  | none => notNow "no demotion of the page"
  | some m =>
    if m.stage ≠ 1 then notNow "the pass is not copied yet"
    else if pagePoisoned s xPage then .next (abandonMigration s xPage)
    else if !pageCalm s xPage then freezePage s xPage m
    else if m.dirty || heldStores s xPage || s.billets.any (fun (b, d) => pageOfBillet b == xPage && d.opened) then
      if chRetry s ≤ m.retries then .next (abandonMigration s xPage)
      else .next (updMig (s.updPage xPage fun g => { g with tierLen := 0, tierBlock := 0 }) xPage fun m => { m with stage := 0, frozen := false, retries := m.retries + 1 })
    else .next (commitDemotion s xPage (((s.page xPage).map Page.tierBlock).getD 0))

/-- R91 step 2: the runs of the page's billets, encoded and encrypted from what the tier holds of them; none where no frame offers one. -/
def writeRuns (s : State) (p : Nat) (ws : Option (List (List Word))) : Option (List (Nat × Nat) × State) :=
  (List.range 256).foldl (fun (acc : Option (List (Nat × Nat) × State)) i => acc.bind fun (rs, s) =>
    let b := p * 256 + i
    let d := s.billet b
    if d.count = 0 then some (rs ++ [(0, 0)], s)
    else (allocRun s b d.nsec).map fun (st, f, s) =>
      (rs ++ [(st, f)], match ws with | some ws => s.hbmWrite st f (s.sealRun b (runBytes d.cls d.nsec (ws.getD i []))) | none => s)) (some ([], s))
/-- R91 steps 1 and 2; an uncorrectable tier error poisons the page's billets (R86). -/
def execPromotion (xPage : Nat) (s : State) : Out :=
  match findMig s xPage true with
  | none => notNow "no promotion of the page"
  | some m =>
    let vd := s.vdOfPage xPage
    let need := promotionNeed s xPage
    if m.stage ≠ 0 then notNow "the runs are written already"
    else if !inTier s xPage || s.poolOf vd < need then
      -- the pool no longer meets it: it has not begun (R88)
      let s := { s with migrations := s.migrations.filter fun m => !(m.page == xPage && m.up) }
      .next (endChcmd s 2 xPage 2)
    else
      let (bad, s) := s.takeError 3 xPage
      let ws := if bad then none else tierValue s xPage
      let s := if ws.isNone then s.poisonPage xPage else s
      match writeRuns (s.poolTake vd need) xPage ws with
      | none => notNow "no frame offers a run (COMPACTION)"
      | some (rs, s) => .next (updMig s xPage fun m => { m with stage := 1, runs := rs })
/-- R91 steps 3 to 5; a class K billet's word stands in SECT again (R36). -/
def execPromotionCommit (xPage : Nat) (s : State) : Out :=
  match findMig s xPage true with
  | none => notNow "no promotion of the page"
  | some m =>
    if m.stage ≠ 1 then notNow "the runs are not written yet"
    else if !pageCalm s xPage then freezePage s xPage m
    else
      let ws := (tierValue s xPage).getD []
      let s := (List.range 256).foldl (fun s i =>
        let (st, f) := m.runs.getD i (0, 0)
        s.updBillet (xPage * 256 + i) fun d => { d with loc := 0, stack := st, sect := if d.cls = 1 then (ws.getD i []).headD 0 else BitVec.ofNat 32 f }) s
      let s := (freeTier s xPage).updPage xPage fun g => { g with shortReported := false }
      .next (endChcmd { s with migrations := s.migrations.filter fun m => !(m.page == xPage && m.up) } 2 xPage 0)

end Sys2Proof.Machine
end

