-- ==== Sys2Proof/Machine/Context.lean ====
section
/-! DEFINITION. The context commands of CTXCMD (R414, R415, R425, R429). A command that cannot end in its first step leaves
STATUS 1; the same event carries it on. -/

namespace Sys2Proof.Machine

def cmdValue (op n status : Nat) : DWord := BitVec.ofNat 64 (op * 2 ^ 60 + n % 4096 * 2 ^ 48 + status)
/-- CTXCMD with a status. -/
def setCtx (s : State) (vd op n status : Nat) : State := s.updVd vd fun v => { v with ctxcmd := cmdValue op n status }
/-- The arguments as the driver wrote them. -/
def setArgs (s : State) (vd : Nat) (a b : Nat) : State := s.updVd vd fun v => { v with ctxarg0 := BitVec.ofNat 64 a, ctxarg1 := BitVec.ofNat 64 b }
/-- The command is being carried on. -/
def cmdBusy (s : State) (vd op n : Nat) : Bool := (s.vd vd).ctxcmd == cmdValue op n 1

/-- A command that must wait: what the wait has set going stays going, and STATUS is 1. -/
def cmdWaits (s s' : State) (vd op n : Nat) (why : String) : Out :=
  let s' := setCtx (keepWaits s s') vd op n 1
  if s' = s then notNow why else .next s'

/-! ## Bind (R415, R429) -/

/-- An image of R415's table, entry i. -/
def imageOf (ccb : List Byte) (i : Nat) : Nat := num ccb (0x50 + 8 * i) 8
/-- The bits of a field that are not reserved. -/
def keepBits (w hi lo : Nat) : Nat := nfld w hi lo * 2 ^ lo
/-- The context a control block describes. An image of csr.acap above 25,165,824 pages is held as it stands and csrr reads it back; the limit binds
what is backed (R39 says that it cannot exceed the limit, and not what becomes of such an image: DESIGN CHOICE, log 111). -/
def ctxFromCcb (vd n x ccb : Nat) (b : List Byte) : Ctx :=
  { vd := vd, loc := n, key := num b 0x1C 4 % 1024, ccb := ccb, qtable := num b 0x10 8, qcount := min 4096 (num b 0x18 4)
    hqbase := num b 0x20 8, hqlog := num b 0x28 4, hqtail := num b 0x30 8, hqlost := num b 0x2C 4, savebase := num b 0x40 8
    nvr := BitVec.ofNat 32 (imageOf b 10 % 2), lease := BitVec.ofNat 32 (imageOf b 11 % 8192), xidle := BitVec.ofNat 32 (imageOf b 12 % 65536)
    privbase := BitVec.ofNat 64 (keepBits (imageOf b 0) 56 16), privstride := BitVec.ofNat 32 (imageOf b 1 % 2 ^ 24)
    privslots := BitVec.ofNat 32 (imageOf b 2 % 2 ^ 21), lnkspill := BitVec.ofNat 64 (keepBits (imageOf b 3) 55 32 + keepBits (imageOf b 3) 23 0)
    ptroot := BitVec.ofNat 64 (x * 2 ^ 48 + keepBits (num b 8 8) 47 12), acap := BitVec.ofNat 64 (imageOf b 4 % 2 ^ 25)
    keepalive := BitVec.ofNat 32 (keepBits (imageOf b 5) 31 31 + imageOf b 5 % 2 ^ 20), tvec := BitVec.ofNat 64 (keepBits (imageOf b 6) 56 3)
    tarea := BitVec.ofNat 64 (keepBits (imageOf b 7) 56 7), dbgctl := BitVec.ofNat 32 (imageOf b 8 % 2), rsvcap := BitVec.ofNat 64 (imageOf b 9 % 2 ^ 36)
    balloon := mailbox (BitVec.ofNat 64 (num b 0 8)), reserve := num b 0x48 8 % 2 ^ 36 }
/-- R429: a packet of a nonzero RUNNING entry. -/
def runningFrom (b : List Byte) (i now : Nat) : Option Running :=
  let r := (b.drop (0x400 + 128 * i)).take 128
  if r.all (· == 0) then none else
  let p := pktWords r
  let left := num r 80 4
  let placed := num r 84 4
  some { queue := num r 64 2, index := num r 72 8, packet := p, slot := i, prio := 0, next := pktTeams p - left, placed := placed, restored := true, depMet := decide (left < pktTeams p || 0 < placed) || (!pktOrdr p && p.getD 7 0 == 0), since := now }
/-- The queue's priority and the packets completed above a gap, from its descriptor. -/
def restoreQueue (s : State) (x : Nat) (c : Ctx) (q : Nat) : Virt Ctx :=
  (readDesc s x c q).bind fun d s =>
    let gap := (List.range (descRidx d - descCidx d)).map (descCidx d + ·)
    let done := gap.filter fun i => (findRunning c q i).isNone
    .ok { c with running := c.running.map (fun r => if r.queue == q then { r with prio := descPrio d } else r), completed := c.completed ++ done.map (q * 2 ^ 64 + ·) } s
/-- The save records: their packets, of equal ones each as often as it has teams placed (R429), and the private slots their threads hold. -/
def restoreSaved (s : State) (x : Nat) (c : Ctx) : Virt Ctx :=
  (areaRecords s x c).bind fun rs s =>
    rs.foldl (fun (acc : Virt Ctx) (e, _, _) => acc.bind fun c s =>
      (loadRecord s x c e).bind fun bs s =>
        let p := pktWords ((bs.drop 0x40).take 64)
        let idx := ((c.running.find? fun r => r.queue == pktQueue p && r.packet == p && (c.saved.filter fun (_, m) => m.queue == r.queue && m.idx == r.index).length < r.placed).map Running.index).getD 0
        let t := parseTeam s x bs 0 (pktQueue p) idx 0 0 0 {}
        .ok { c with saved := mapSet c.saved e { queue := pktQueue p, idx := idx, team := num bs 8 4, relaunches := 0, core := 0, restored := true }, usedSlots := c.usedSlots ++ t.threads.map Thread.pslot } s) (.ok c s)
/-- The numbers of the teams a restored packet has still to place: the highest that no save record of the packet bears (RUNNING counts them and
names none: DESIGN CHOICE, log 106). Those below a team that has been placed stand with the teams to place again. -/
def Running.identified (r : Running) (c : Ctx) : Running :=
  let named := (c.saved.filter fun (_, m) => m.queue == r.queue && m.idx == r.index).map fun (_, m) => m.team
  let low := named.filter fun t => decide (r.next ≤ t)
  -- as many numbers below as records stand above
  let free := (List.range r.next).reverse.filter fun t => !named.contains t
  let next := low.foldl (fun m t => max m (t + 1)) r.next
  let between := (List.range (next - r.next)).map (r.next + ·) |>.filter fun t => !named.contains t
  let lost := sortBy (fun (a b : Nat) => a < b) (free.take low.length) ++ between
  { r with next := next, again := lost.map fun t => { team := t, count := 0, mark := 0, avoid := none, since := r.since } }
/-- The packets of RUNNING are running again. -/
def restoreRunning (s : State) (x : Nat) (c : Ctx) : Virt Ctx :=
  if c.running.isEmpty then .ok c s
  else ((dedup (c.running.map Running.queue)).foldl (fun (acc : Virt Ctx) q => acc.bind fun c s => restoreQueue s x c q) (.ok c s)).bind fun c s =>
    (restoreSaved s x c).bind fun c s => .ok { c with running := c.running.map fun r => r.identified c } s
/-- Translations under a number that is given anew go. -/
def purgeCtx (s : State) (x : Nat) : State :=
  { s with cores := s.cores.map fun (k, c) => (k, { c with tlb := c.tlb.filter fun e => e.ctx != x, walkers := c.walkers.filter fun (_, w) => w.ctx != x }) }

def coreVdOf (s : State) (core : Nat) : Nat := (mapGet? s.coreVd core).getD 0
/-- Two ranges have nothing in common. -/
def apart (a n b m : Nat) : Bool := n == 0 || m == 0 || a + n ≤ b || b + m ≤ a
/-- R425: the PF driver gives a virtual device its cores, its window, its share of the pool and its key slots. Cores and window change only while
the virtual devices they are taken from or given to have no context bound; a window and a range of key slots are taken from another device before
they are given to this one. -/
def assignVd (s : State) (vd : Nat) (d : Division) : Option State :=
  let bound := fun (v : Nat) => !(s.vd v).ctxs.isEmpty
  let moved := d.cores.filter fun c => coreVdOf s c != vd
  let window := decide ((s.vd vd).base ≠ d.base ∨ (s.vd vd).count ≠ d.count)
  let shared := s.vds.any fun (v, x) => v != vd && !(apart x.base x.count d.base d.count && apart x.keyBase x.keyCount d.keyBase d.keyCount)
  if 32 ≤ vd || d.cores.any (640 ≤ ·) || shared || ((!moved.isEmpty || window) && bound vd) || moved.any (fun c => bound (coreVdOf s c)) then none
  else some { s.updVd vd fun v => { v with base := d.base, count := d.count, share := d.share, keyBase := d.keyBase, keyCount := d.keyCount, asked := none } with coreVd := d.cores.foldl (fun m c => mapSet m c vd) s.coreVd }
/-- The division that the PF driver has asked for is made as soon as R425 allows it. The table of instructions has no row for it and the spec no
register: the driver's wish is an input that stands in State (DESIGN CHOICE, log 110). -/
def assignStep (vd : Nat) (s : State) : Out :=
  match (s.vd vd).asked.bind (assignVd s vd) with
  | some s => .next s
  | none => notNow "no division of the part is asked for, or contexts are bound"

def execCtxBind (xVd xN : Nat) (xCcb : BitVec 64) (s : State) : Out :=
  let ccb := xCcb.toNat
  let s := setArgs s xVd ccb (s.vd xVd).ctxarg1.toNat
  let reject := Host.Outcome.next (setCtx s xVd 1 xN 2)
  let keys := fun (k : Nat) => decide ((s.vd xVd).keyBase ≤ k && k < (s.vd xVd).keyBase + (s.vd xVd).keyCount)
  if 256 ≤ xN || (ctxOf s xVd xN).isSome || ccb % 4096 ≠ 0 || daLimit ≤ ccb || (s.page (pageOf ccb)).isNone then reject
  else match (List.range 4096).find? fun x => (s.ctx x).isNone with
    | none => reject
    | some x =>
      let s0 := s
      match readAt s ccb 4096 with
      | .wait s' => cmdWaits s0 s' xVd 1 xN "a line of the control block is in use"
      | .poisoned _ _ => reject
      | .refused _ _ _ _ => reject
      | .ok b s =>
        let c := ctxFromCcb xVd xN x ccb b
        -- a slot that is not its virtual device's (that the bind is rejected is a DESIGN CHOICE, log 92)
        if !keys c.key || s.poolOf xVd < c.reserve then reject
        else
          let c := { c with running := (List.range 24).filterMap fun i => runningFrom b i s.ns }
          let s := purgeCtx (s.poolTake xVd c.reserve) x
          let s := { s with ctxs := mapSet s.ctxs x c }
          let s := s.updVd xVd fun v => { v with ctxs := mapSet v.ctxs xN x }
          match restoreRunning s x c with
          | .wait s' => cmdWaits s0 s' xVd 1 xN "a line that RUNNING leads to is in use"
          | .fault _ _ _ _ _ => reject
          | .ok c s => .next (setCtx { s with ctxs := mapSet s.ctxs x c } xVd 1 xN 0)

/-! ## Destroy (R46, R414) -/

def drvkill (s : State) (t : Team) : FaultInfo := { cause := .drvkill, time := s.ns, core := t.core, pmark := t.pmark }
/-- Open billets that hold a debit of the context. -/
def openOf (s : State) (x : Nat) : List Nat := (s.billets.filter fun (_, d) => d.opened && d.rctx == x).map Prod.fst
/-- The number, the reserve and the key slot binding are free. The context's pages stay backed with no owner (4096), so that a context
that takes the number next counts none of them (R39). -/
def dropCtx (s : State) (vd n x : Nat) (c : Ctx) : State :=
  let s := purgeCtx (s.poolGive vd c.reserve) x
  let s := { s with ctxs := mapErase s.ctxs x, posts := s.posts.filter (fun p => p.target != x), pages := s.pages.map fun ((p, g) : Nat × Page) => (p, if g.ctx == x then { g with ctx := 4096 } else g) }
  s.updVd vd fun v => { v with ctxs := mapErase v.ctxs n, notify := v.notify.filter fun (k, _) => k / 4096 != n }
def execCtxDestroy (xVd xN : Nat) (s : State) : Out :=
  match (ctxOf s xVd xN).bind fun x => (s.ctx x).map fun c => (x, c) with
  | none => .next (setCtx s xVd 2 xN 2)
  | some (x, c) =>
    let mine := s.teams.filter fun (_, t) => t.ctx == x
    if !c.destroying then
      let s := mine.foldl (fun s (k, t) => killTeam s k (drvkill s t) none) s
      .next (setCtx (s.updCtx x fun c => { c with destroying := true }) xVd 2 xN 1)
    else if !mine.isEmpty then notNow "teams of the context are still to be killed (TEAM_KILL)"
    else if !s.posted x then notNow "a write of the context's structures is still to be made (R438)"
    else match c.saved with
      | (e, _) :: _ => match killSaved s x c e { cause := .drvkill, time := s.ns } with
        | .ok _ s => .next s
        | .wait s' => cmdWaits s s' xVd 2 xN "a line of the save area is in use"
        | .fault _ _ _ _ s => .next (s.updCtx x fun c => { c with saved := mapErase c.saved e })
      | [] =>
        if (openOf s x).isEmpty then .next (setCtx (dropCtx s xVd xN x c) xVd 2 xN 0)
        else
          let s' := (openOf s x).foldl (fun s b => (closeStep s b).getD s) s
          if s' = s then notNow "billets of the context are still to be closed" else .next s'

/-! ## Teams (R376, R400, R414) -/

def findTeam (s : State) (x q idx team : Nat) : Option (Nat × Team) := s.teams.find? fun (_, t) => t.ctx == x && t.queue == q && t.pidx == idx && t.index == team
def findSaved (c : Ctx) (q idx team : Nat) : Option Nat := (c.saved.find? fun (_, m) => m.queue == q && m.idx == idx && m.team == team).map Prod.fst
/-- The arguments of operations 3 and 4. -/
def teamArgs (s : State) (vd q idx team : Nat) : State := setArgs s vd idx (q % 4096 * 2 ^ 52 + team % 2 ^ 32)

def execCtxKillTeam (xVd xN xQ xIdx xTeam : Nat) (s : State) : Out :=
  match (ctxOf s xVd xN).bind fun x => (s.ctx x).map fun c => (x, c) with
  | none => .next (setCtx (teamArgs s xVd xQ xIdx xTeam) xVd 3 xN 2)
  | some (x, c) =>
    match findTeam s x xQ xIdx xTeam with
    | some (k, t) =>
      if t.kill.isSome then notNow "the kill is under way (TEAM_KILL)"
      else .next (setCtx (teamArgs (killTeam s k (drvkill s t) none) xVd xQ xIdx xTeam) xVd 3 xN 1)
    | none => match findSaved c xQ xIdx xTeam with
      | some e =>
        if !s.posted x then notNow "a write of the context's structures is still to be made (R438)"
        else match killSaved s x c e { cause := .drvkill, time := s.ns } with
        | .ok _ s => .next (setCtx (teamArgs s xVd xQ xIdx xTeam) xVd 3 xN 0)
        | .wait s' => cmdWaits (teamArgs s xVd xQ xIdx xTeam) s' xVd 3 xN "a line of the save area is in use"
        | .fault _ _ _ _ _ => .next (setCtx (teamArgs s xVd xQ xIdx xTeam) xVd 3 xN 2)
      | none => .next (setCtx (teamArgs s xVd xQ xIdx xTeam) xVd 3 xN (if cmdBusy s xVd 3 xN then 0 else 2))
def execCtxDescheduleTeam (xVd xN xQ xIdx xTeam : Nat) (s : State) : Out :=
  match (ctxOf s xVd xN).bind fun x => (s.ctx x).map fun c => (x, c) with
  | none => .next (setCtx (teamArgs s xVd xQ xIdx xTeam) xVd 4 xN 2)
  | some (x, c) =>
    match findTeam s x xQ xIdx xTeam with
    | some (k, t) =>
      if t.kept then .next (setCtx s xVd 4 xN 0)
      else if t.asked then notNow "the deschedule is under way (TEAM_STOP, TEAM_DRAIN)"
      else if cmdBusy s xVd 4 xN then .next (setCtx s xVd 4 xN 0)
      else .next (setCtx (teamArgs (s.updTeam k fun t => { t with asked := true, mayKeep := false }) xVd xQ xIdx xTeam) xVd 4 xN 1)
    | none => .next (setCtx (teamArgs s xVd xQ xIdx xTeam) xVd 4 xN (if (findSaved c xQ xIdx xTeam).isSome || cmdBusy s xVd 4 xN then 0 else 2))

/-! ## The debugger (R361, R362) -/

/-- The thread of the context that is parked for the debugger in a private slot. -/
def debugThread (s : State) (x pslot : Nat) : Option (Nat × Nat × Thread) :=
  firstSome (fun (p : Nat × Team) =>
    if p.2.ctx != x then none
    else firstSome (fun i => (p.2.threads[i]?).bind fun th => if th.dbg && th.pslot == pslot then some (p.1, i, th) else none) (List.range p.2.threads.length)) s.teams
def debugResume (s : State) (op vd n pslot : Nat) (skip : Bool) : Out :=
  let s := setArgs s vd (s.vd vd).ctxarg0.toNat pslot
  match (ctxOf s vd n).bind fun x => debugThread s x pslot with
  | none => .next (setCtx s vd op n 2)
  | some (tk, tid, th) =>
    let s0 := s
    if th.handler then
      .next (setCtx (s.updThread tk tid fun th =>
        { th with dbg := false, st := .runnable, fetch := true, setPrio := some th.rp.prio, rp := { th.rp with index := if skip then th.rp.index + 1 else th.rp.index } }) vd op n 0)
    else match returnFrom s tk tid skip with
      | .ok _ s => .next (setCtx s vd op n 0)
      | .wait s' => cmdWaits s0 s' vd op n "the record's line is in use"
      | .fault _ _ _ _ _ => .next (setCtx s vd op n 2)
def execCtxDebugReplay (xVd xN xPslot : Nat) (s : State) : Out := debugResume s 5 xVd xN xPslot false
def execCtxDebugSkip (xVd xN xPslot : Nat) (s : State) : Out := debugResume s 6 xVd xN xPslot true

/-! ## Images and transfers (R60, R414) -/

def execCtxReloadImages (xVd xN : Nat) (s : State) : Out :=
  match (ctxOf s xVd xN).bind fun x => (s.ctx x).map fun c => (x, c) with
  | none => .next (setCtx s xVd 7 xN 2)
  | some (x, c) => match readAt s (c.ccb + 0x50) 112 with
    | .ok b s =>
      let d := ctxFromCcb c.vd c.loc x c.ccb (zeros 0x50 ++ b)
      .next (setCtx (s.updCtx x fun c => { c with rsvcap := d.rsvcap, acap := d.acap, keepalive := d.keepalive, dbgctl := d.dbgctl }) xVd 7 xN 0)
    | .wait s' => cmdWaits s s' xVd 7 xN "a line of the control block is in use"
    | .poisoned _ _ => .next (setCtx s xVd 7 xN 2)
    | .refused _ _ _ _ => .next (setCtx s xVd 7 xN 2)
/-- STATUS is 2 when a nonzero count moved nothing. -/
def execCtxReserveTransfer (xVd xN : Nat) (xAmount : BitVec 37) (s : State) : Out :=
  match ctxOf s xVd xN with
  | none => .next (setCtx (setArgs s xVd xAmount.toNat 0) xVd 8 xN 2)
  | some x =>
    let (st, s) := transferReserve s x xAmount
    .next (setCtx (setArgs s xVd xAmount.toNat st) xVd 8 xN (if st = 0 then 0 else 2))

end Sys2Proof.Machine
end

