-- ==== Sys2Proof/Machine/Control.lean ====
section
/-! DEFINITION. Transfers of control, the link stack, reconvergence, exit, prio, yield and regroup (R272 to R286). -/

namespace Sys2Proof.Machine

/-! ## Branches (R272 to R274) -/

/-- The target of a format-B transfer (R223). -/
def targetOf (e : Env) (f : BF) : Nat := addrPlus e.b.clause (8 * f.tgt.toInt)
/-- A transfer to a clause, at index 0; its priority is known when the clause is fetched (R180, R272). -/
def transferTo (s : State) (e : Env) (lane a : Nat) : State := transfer s e lane { prio := hdrPrio e.hdr, clause := a }
/-- The selected threads that take a branch go to its target; the others fall through. -/
def branch (s : State) (i : Instr) (f : BF) (taken : Env → State → Nat → Bool) : Out :=
  simple s i fun e s => (e.sel f.pm f.pn).foldl (fun s (l, _) => if taken e s l then transferTo s e l (targetOf e f) else s) s

def execBra (f : BF) (s : State) : Out := branch s (.bra f) f fun _ _ _ => true
def execBrm (f : BF) (s : State) : Out := branch s (.brm f) f fun e _ l => bit (e.grp.mask f.mreg.toNat) l == (f.fn == 0)
def execBrg (f : BF) (s : State) : Out := branch s (.brg f) f fun e s _ => (uni32 s e f.a != 0) == (f.fn == 0)

/-- R278: jmpi. -/
def execJmpi (f : OF) (s : State) : Out :=
  simple s (.jmpi f) fun e s => (e.sel f.pm f.pn).foldl (fun s (l, tid) => transferTo s e l (src64 e tid f.a).toNat) s

/-! ## The private stack (R275, R276) -/

/-- SIZE of csr.lnkspill in bytes, and stack(x). -/
def spillSize (c : Ctx) : Nat := fld c.lnkspill 23 0 * 256
def stackAddr (c : Ctx) (x : Nat) : Nat := 0x01FF000000000000 + fld c.lnkspill 55 32 * 256 + x

/-- What a thread's private-stack access ends with. -/
inductive Stack (α : Type) where
  | ok (a : α) (s : State)
  | wait (s : State)
  | fault (f : FaultInfo) (s : State)

def Stack.bind {α β : Type} (x : Stack α) (f : α → State → Stack β) : Stack β :=
  match x with
  | .ok a s => f a s
  | .wait s => .wait s
  | .fault g s => .fault g s
/-- A fault of a private-stack access; a refusal names the thread's own lane (R276, R399). -/
def stackFault (e : Env) (lane : Nat) (c : Cause) (addrs : List Nat) (aux reserve : Nat) : FaultInfo :=
  let refused := c == .caprefuse || c == .tiershort
  { insnFault e c with addrs := addrs, aux := aux, reserve := reserve, refused := if refused then maskOf [lane] else 0 }
def liftStack {α : Type} (e : Env) (lane : Nat) : Virt α → Stack α
  | .ok a s => .ok a s
  | .wait s => .wait s
  | .fault c a u r s => .fault (stackFault e lane c a u r) s

/-- An older access of the thread, or an entry of SB(c), still has to perform on bytes of the parts (R153, R276). -/
def stackClash (s : State) (e : Env) (tid : Nat) (ps : List Part) : Bool :=
  ps.any fun p =>
    engineAhead s e.core e.tk tid p.tgt p.ea p.bytes.length || ((s.core e.core).sb.any fun x => x.n != 0 && overlaps x.tgt x.ea x.n p.tgt p.ea p.bytes.length) ||
    openLanes e.team [tid] fun i l => !i.scratch && (l.openLoad || l.openStore) && overlaps l.tgt l.ea l.n p.tgt p.ea p.bytes.length
/-- The parts of a private-stack access, once nothing older stands in their way. -/
def stackParts (s : State) (e : Env) (tid va : Nat) (bs : List Byte) (kind : Nat) : Virt (List Part) :=
  (virtTargets s (some e.core) e.team.ctx (e.thread tid).pslot va bs kind e.b.handler).bind fun ps s =>
    if stackClash s e tid ps then .wait s else .ok ps s
/-- A load of a thread's private stack: an OWN load that is made in one step (R276, log 11). -/
def stackLoad (s : State) (e : Env) (lane tid : Nat) (va n : Nat) : Stack (List Byte) :=
  liftStack e lane ((stackParts s e tid va (List.replicate n 0) kRead).bind fun ps s => ownReads e.core e.team.ctx ps s)
/-- Stores of a thread's private stack: OWN stores, all of them translated and admitted before any performs (R276, log 11). -/
def stackStore (s : State) (e : Env) (lane tid : Nat) (va : Nat) (bs : List Byte) : Stack Unit :=
  liftStack e lane ((stackParts s e tid va bs kWrite).bind fun ps s => (ownWrites e.core e.team.ctx e.tk ps s).bind fun _ s => .ok () (progress s e.tk))

/-- R277: push. -/
def pushLink (s : State) (e : Env) (c : Ctx) (lane tid ra : Nat) : Stack Unit :=
  let th := e.thread tid
  if th.link.length < 4 then
    .ok () (s.updThread e.tk tid fun th => { th with link := th.link ++ [BitVec.ofNat 64 ra] })
  else if th.sp + 8 > spillSize c then .fault (stackFault e lane .lnkovf [stackAddr c th.sp] th.sp 0) s
  else (stackStore s e lane tid (stackAddr c th.sp) (leBytes 8 (th.link.headD 0).toNat)).bind fun _ s =>
    .ok () (s.updThread e.tk tid fun th => { th with sp := th.sp + 8, link := th.link.drop 1 ++ [BitVec.ofNat 64 ra] })
/-- R278: pop. Over a pushm frame R278's SP − 8 names the frame's last 8 bytes, which for k ≥ 3 are not the first that R279's text names;
the model follows pop() (log 74). -/
def popLink (s : State) (e : Env) (c : Ctx) (lane tid : Nat) : Stack Nat :=
  let th := e.thread tid
  match th.link.getLast? with
  | some ra => .ok ra.toNat (s.updThread e.tk tid fun th => { th with link := th.link.dropLast })
  | none =>
    if 8 ≤ th.sp then
      (stackLoad s e lane tid (stackAddr c (th.sp - 8)) 8).bind fun bs s =>
        .ok (leNat bs) (s.updThread e.tk tid fun th => { th with sp := th.sp - 8 })
    else .fault (stackFault e lane .lnkunf [stackAddr c th.sp] th.sp 0) s
/-- R279: pushm. -/
def pushFrame (s : State) (e : Env) (c : Ctx) (lane tid a k : Nat) : Stack Unit :=
  let th := e.thread tid
  let f := 8 * ((k + 1) / 2)
  if th.sp + 8 * th.link.length + f > spillSize c then .fault (stackFault e lane .lnkovf [stackAddr c th.sp] th.sp 0) s
  else
    let bs := th.link.flatMap (fun x => leBytes 8 x.toNat) ++ (cellsGet th.v a k).flatMap wordBytes ++ (if k % 2 = 1 then List.replicate 4 0 else [])
    (stackStore s e lane tid (stackAddr c th.sp) bs).bind fun _ s =>
      .ok () (s.updThread e.tk tid fun th => { th with sp := th.sp + 8 * th.link.length + f, link := [] })
/-- R279: popm. -/
def popFrame (s : State) (e : Env) (c : Ctx) (lane tid a k : Nat) : Stack Unit :=
  let th := e.thread tid
  let f := 8 * ((k + 1) / 2)
  if th.link != [] then .fault (stackFault e lane .lnkorder [] 0 0) s
  else if th.sp < f then .fault (stackFault e lane .lnkunf [stackAddr c th.sp] th.sp 0) s
  else (stackLoad s e lane tid (stackAddr c (th.sp - f)) (4 * k)).bind fun bs s =>
    .ok () (s.updThread e.tk tid fun th => { th with sp := th.sp - f, v := cellsSet th.v a (toWords bs) })

/-- The faults of one instruction's threads: an uncorrectable error in one of them is what all of them take (R403). -/
def errorWins (fs : List (Nat × FaultInfo)) : List (Nat × FaultInfo) :=
  let error := fun (f : FaultInfo) => f.cause == .bpoison || f.cause == .xpoison
  match fs.find? fun x => error x.2 with
  | none => fs
  | some (_, g) => fs.map fun (tid, f) => (tid, if error f then f else g)
/-- An instruction whose threads each use their private stack: threads that fault park, the others go on (R276). -/
def stackInsn (s : State) (i : Instr) (sel : Env → List (Nat × Nat)) (k : State → Env → Ctx → Nat → Nat → Stack State) : Out :=
  withGate s i fun e s =>
    match s.ctx e.team.ctx with
    | none => .next (faultSel s e (sel e) (insnFault e .notmapped))
    | some c =>
      let r := (sel e).foldl (fun (acc : Stack (List (Nat × FaultInfo))) (l, tid) =>
        acc.bind fun fs s => match k s e c l tid with
          | .ok s' _ => .ok fs s'
          | .wait s => .wait s
          | .fault f s => .ok (fs ++ [(tid, f)]) s) (.ok [] s)
      match r with
      | .wait s' => .next (stallAt (keepWaits s s') e)
      | .fault _ s' => .next (stallAt (keepWaits s s') e)
      | .ok fs s => .next (advance ((errorWins fs).foldl (fun s (tid, f) => parkThread s e.tk tid f) s) e)

/-- A push and a transfer. -/
def callTo (s : State) (e : Env) (c : Ctx) (l tid a : Nat) : Stack State :=
  (pushLink s e c l tid (fallThrough e.b)).bind fun _ s => let s := transferTo s e l a; .ok s s

/-- R277. -/
def execCall (f : BF) (s : State) : Out :=
  stackInsn s (.call f) (fun e => e.sel f.pm f.pn) fun s e c l tid => callTo s e c l tid (targetOf e f)
def execCalli (f : OF) (s : State) : Out :=
  stackInsn s (.calli f) (fun e => e.sel f.pm f.pn) fun s e c l tid => callTo s e c l tid (src64 e tid f.a).toNat
/-- R278. -/
def execRet (f : OF) (s : State) : Out :=
  stackInsn s (.ret f) (fun e => e.sel f.pm f.pn) fun s e c l tid =>
    (popLink s e c l tid).bind fun ra s => let s := transferTo s e l ra; .ok s s
/-- The register number of a v code. -/
def vNum (c : BitVec 11) : Nat := c.toNat
/-- R279. -/
def execPushm (f : OF) (s : State) : Out :=
  stackInsn s (.pushm f) Env.lanes fun s e c l tid => (pushFrame s e c l tid (vNum f.a) (frameCount f.b)).bind fun _ s => .ok s s
def execPopm (f : OF) (s : State) : Out :=
  stackInsn s (.popm f) Env.lanes fun s e c l tid => (popFrame s e c l tid (vNum f.a) (frameCount f.b)).bind fun _ s => .ok s s

/-! ## Reconvergence (R182, R281) -/

def execMbegin (f : OF) (s : State) : Out :=
  simple s (.mbegin f) fun e s => s.updGroup e.tk e.g fun g => g.setMask f.mreg.toNat e.b.lanes
def execMleave (f : OF) (s : State) : Out :=
  simple s (.mleave f) fun e s =>
    s.updGroup e.tk e.g fun g => g.setMask f.mreg.toNat (g.mask f.mreg.toNat &&& ~~~(maskOf ((e.sel f.pm f.pn).map Prod.fst)))
/-- Releases at group scope, then waits; the wait ends in Machine/Settle.lean (R157, R182). -/
def execMwait (f : OF) (s : State) : Out :=
  withGate s (.mwait f) fun e s =>
    let (ok, s) := released s e 0
    if !ok then .next (stallAt s e) else .next (waitThreads s e e.lanes (.mwait f.mreg.toNat))

/-! ## exit, prio, yield, regroup (R282 to R285) -/

/-- A thread exits (R282): its mask bits clear, its link state goes, its pending loads' register writes are dropped. -/
def exitThread (s : State) (tk tid : Nat) : State :=
  match s.team tk with
  | none => s
  | some t =>
    let th := (t.threads[tid]?).getD {}
    let s := s.updGroup tk th.grp fun g => g.clearLanes (maskOf [th.lane])
    let s := s.updThread tk tid fun th => { th with st := .exited, handler := false, fault := none, link := [], sp := 0 }
    leaveBundle s tk th.grp (maskOf [th.lane])
/-- The dev-scope release of R168 by the threads that exit comes first. -/
def execExit (f : OF) (s : State) : Out :=
  withGate s (.exit f) fun e s =>
    let ls := e.sel f.pm f.pn
    if ls.isEmpty then .next (advance s e) else
    let (ok, s) := releasedBy s e (ls.map Prod.snd) 2
    if !ok then .next (stallAt s e)
    else .next (advance (progress (ls.foldl (fun s (_, tid) => exitThread s e.tk tid) s) e.tk) e)
/-- R283: the priority belongs to the resume point it is given. -/
def execPrio (f : OF) (s : State) : Out :=
  simple s (.prio f) fun e s => (e.sel f.pm f.pn).foldl (fun s (l, tid) =>
    let p := (src32 s e tid f.a).toNat % 256
    s.updThread e.tk tid (fun th => { th with setPrio := some p }) |> fun s => transfer s e l { prio := p, clause := fallThrough e.b }) s
/-- R284: the bundle goes to its fall-through, where a mark stands with the group's other frontier entries as its set W; with none, no mark
stands. The priority of the fall-through is still to be read (R180). -/
def execYield (f : OF) (s : State) : Out :=
  simple s (.yield f) fun e s =>
    let r : Resume := { prio := 256, clause := fallThrough e.b }
    let w := (groupEntries ((s.team e.tk).getD e.team) e.g).filter fun x => !x.same r
    if w.isEmpty then s else s.updGroup e.tk e.g fun g => { g with marks := g.marks ++ [{ place := r, wait := w }] }
/-- R187, R285: arrival at regroup, after the release of R157; the relocation is in Machine/Settle.lean. -/
def execRegroup (f : OF) (s : State) : Out :=
  withGate s (.regroup f) fun e s =>
    if !e.grp.flagged then .next (faultBundle s e (insnFault e .illinsn))
    else
      let (ok, s) := released s e 1
      if !ok then .next (stallAt s e)
      else if e.grp.flagMask != 0 then .next (faultBundle s e { insnFault e .rgflags with aux := e.grp.flagMask })
      else match e.team.rgAddr with
        | some a =>
          if a != e.b.clause then .next (faultBundle s e { insnFault e .rgaddr with addrs := [a] })
          else .next (waitThreads (e.lanes.foldl (fun s (_, tid) => s.updThread e.tk tid fun th => { th with key := (src32 s e tid f.a).toNat % 256 }) s) e e.lanes .regroup)
        | none =>
          let s := s.updTeam e.tk fun t => { t with rgAddr := some e.b.clause }
          .next (waitThreads (e.lanes.foldl (fun s (_, tid) => s.updThread e.tk tid fun th => { th with key := (src32 s e tid f.a).toNat % 256 }) s) e e.lanes .regroup)

/-! ## CLAUSE_FETCH (R180, R212, R185, R272) -/

/-- The header of a thread's next clause is fetched; its faults are charged to the transfer. A target that is both misaligned and not
canonical takes NONCANON (the spec gives no order: DESIGN CHOICE, log 73). A thread that waits at its clause's end (bar, mwait, regroup, qperm,
qtake, waitf, sleep) fetches only after the wait (DESIGN CHOICE, log 98). A resume point past the clause's last instruction is its
fall-through (R362). -/
def execClauseFetch (tk tid : Nat) (s : State) : Out :=
  match s.team tk with
  | none => .refused (.notEnabled "no such team")
  | some t =>
    match t.threads[tid]? with
    | none => .refused (.notEnabled "no such thread")
    | some th =>
      if !(th.fetch && (th.st == .runnable || th.st == .held) && t.kill.isNone && !t.drained) then .refused (.notEnabled "no clause to fetch")
      else if fencePending t [tid] then .refused (.notEnabled "a pfence of the thread has not completed")
      else
        let park := fun (s : State) (c : Cause) (a : List Nat) (u r : Nat) =>
          Host.Outcome.next (parkThread s tk tid (fetchFault th c a u r))
        if th.rp.clause ≥ 2 ^ 57 then park s .noncanon [th.rp.clause] 0 0
        else if th.rp.clause % 8 != 0 then park s .badclause [] 0 0
        else match kcWord s t.core t.ctx th.pslot th.rp.clause kFetch th.handler with
          | .wait s' => if keepWaits s s' = s then .refused (.notEnabled "the clause's line is busy") else .next (keepWaits s s')
          | .fault c a u r s => park s c a u r
          | .ok h s =>
            if hdrBad h then park s .badclause [] 0 0
            else if !roleAllows (((t.groups[th.grp]?).map Group.role).getD 0) (hdrClass h) then park s .illinsn [] 0 0
            else if th.rp.index ≥ hdrCount h then
              .next (s.updThread tk tid fun th => { th with rp := { prio := hdrPrio h, clause := th.rp.clause + 8 * hdrWords h }, setPrio := none })
            else
              let rp : Resume := { th.rp with prio := th.setPrio.getD (hdrPrio h) }
              .next ((s.updThread tk tid fun th => { th with fetch := false, hdr := h, xprio := th.rp.prio, rp := rp }).updGroup tk th.grp fun g => g.learnt th.entry rp)

/-! ## ISSUE (R150, R181, R377) -/

/-- An issue slot issues: its bundle's next instruction is put at the head of the agenda (log 2). -/
def execIssue (core slot : Nat) (s : State) : Out :=
  match pickGroup s core slot with
  | none => .refused (.notEnabled "no group of the slot is ready")
  | some (tk, g) =>
    match prepare s core tk g with
    | (none, s) => .next s
    | (some w, s) =>
      match decode w with
      | some i => .next { s with agenda := i :: s.agenda }
      | none => .next { illegalWord s with issuer := none }

/-- R378: the older holder of a throttled slot, a holder for 1,024 cycles, gives way to the least recently served ready group with a memory
clause. -/
def execThrottleHandoff (core slot : Nat) (s : State) : Out :=
  let k := s.core core
  match mapGet? k.holders slot with
  | none => .refused (.notEnabled "the slot is not throttled")
  | some hs =>
    let since := (mapGet? k.heldSince slot).getD []
    if k.cycles < since.headD 0 + 1024 then .refused (.notEnabled "no holder has held its place for 1,024 cycles") else
    let free : State := { s with cores := mapSet s.cores core { k with holders := mapErase k.holders slot } }
    let cands := (readyGroups free core slot).filter fun (tk, g, _) =>
      !hs.contains (tk * 64 + g) && ((s.team tk).map fun t => groupClass t g == 2).getD false
    match cands with
    | [] => .refused (.notEnabled "no group waits for a holder's place")
    | x :: xs =>
      let r := xs.foldl (fun (a : Nat × Nat × Group) b => if b.2.2.lastIssue < a.2.2.lastIssue then b else a) x
      .next { s with cores := mapSet s.cores core { k with holders := mapSet k.holders slot (hs.drop 1 ++ [r.1 * 64 + r.2.1]), heldSince := mapSet k.heldSince slot (since.drop 1 ++ [k.cycles]) } }

end Sys2Proof.Machine
end

