-- ==== Sys2Proof/Machine/Fabric.lean ====
section
/-! DEFINITION. The Barhatal fabric: ports, flits and replay (R421 to R424), page grants between devices (R142 to R148), and the
width of a pseudo-channel (R83). -/

namespace Sys2Proof.Machine

/-! ## Ports and flits (R421, R422, R424) -/

/-- A port changes STATE: a kind 12 record (R416, R424). -/
def setPortState (s : State) (p st : Nat) : State :=
  if (s.port p).state = st then s
  else (s.updPort p fun x => { x with state := st }).postDevice (simpleRecord s 12 p)
/-- An amendment of the configuration record, of at most 255, signed with the device identity key (R433). -/
def addAmend (s : State) (kind unit : Nat) : State :=
  if s.slovi.amendments.contains (kind, unit) || 255 ≤ s.slovi.amendments.length then s
  else { s with slovi := { s.slovi with amendments := s.slovi.amendments ++ [(kind, unit)], amendSigs := s.slovi.amendSigs ++ [Config.mldsaSign (leBytes 2 kind ++ leBytes 4 unit)] } }
/-- The class of a message (R421). -/
def msgClass : FabricMsg → FlitClass
  | .want _ _ => .request
  | .access _ _ _ _ _ _ _ _ _ => .request
  | .reply _ _ _ _ _ _ _ => .response
  | .lineData _ _ => .response
  | .bare _ => .grant
  | .pageGrant _ _ => .grant
  | .pageRefuse _ _ _ => .grant
  | .revoke _ _ _ => .grant
  | .revoked _ _ _ => .grant
def toPeer (s : State) (dev : Nat) (m : FabricMsg) : State := { s with fabricOut := s.fabricOut ++ [(dev, m)] }
/-- Whether sequence number a comes before b. -/
def seqBefore (a b : BitVec 12) : Bool := let d := (b - a).toNat; 1 ≤ d && d ≤ 2047
/-- The port a message goes by: while flits of its class to the device are not acknowledged, the port they went by, so that the class
keeps its order (R421); none while that one is not up. -/
def portFor (s : State) (dev : Nat) (m : FabricMsg) : Option Nat :=
  match s.ports.find? fun (_, p) => p.peer == dev && p.replayBuf.any fun f => f.cls == msgClass m with
  | some (q, p) => if p.state = 2 then some q else none
  | none => portTo s dev
/-- Messages go out, one to a flit, where a port is up and its replay buffer of 512 flits has room; one that waits holds back the later ones
of its class to its device. -/
def sendFlits (s : State) : State :=
  s.fabricOut.foldl (fun s (dev, m) =>
    match if s.fabricOut.any (fun (d, x) => d == dev && msgClass x == msgClass m) then none else portFor s dev m with
    | none => { s with fabricOut := s.fabricOut ++ [(dev, m)] }
    | some p =>
      let x := s.port p
      if 512 ≤ x.replayBuf.length then { s with fabricOut := s.fabricOut ++ [(dev, m)] }
      else
        let f : Flit := { seq := x.txSeq, ack := x.rxSeq, cls := msgClass m, src := s.slovi.deviceNumber, crcOk := true, nak := false, msgs := [m] }
        s.updPort p fun x => { x with out := x.out ++ [f], replayBuf := x.replayBuf ++ [f], txSeq := x.txSeq + 1 }) { s with fabricOut := [] }

/-- The asks for a page's lines are over. -/
def dropAsks (s : State) (p : Nat) : State := { s with peerAsks := s.peerAsks.filter fun (l, _) => pageOfLine l != p }
/-- The extended page of a peer's page. -/
def peerPage (dev page : Nat) : Nat := pageOf (peerEa dev (page * 65536))
/-- The answer to an access made one at a time (R143): the lane's reply goes to its core, the bytes of a load from the grain's start (R289);
another requester finds the answer beside its access. -/
def deliverReply (s : State) (tk iss lane sb status reserve : Nat) (bytes : List Byte) : State :=
  match laneOf s tk iss lane with
  | none => { s with hostReads := s.hostReads.map fun r => if r.id == iss && isPeer r.ea then { r with data := some bytes, status := status, reserve := reserve } else r }
  | some (t, i, l) =>
    let m : DownMsg :=
      if status = 1 then .poison tk iss lane sb
      else if 2 ≤ status then .refuse sb (billetOf l.ea) reserve (if status = 2 then .caprefuse else .tiershort)
      else if l.kind == .load then .bytes tk iss lane (lanesGrain (answered i lane) l).1 bytes
      else .ack sb bytes false
    sendDown s t.core l.ea m
/-- One message is delivered. -/
def deliver (src : Nat) (s : State) (m : FabricMsg) : State :=
  match m with
  | .want _ _ => { s with peerReqs := s.peerReqs ++ [(src, m)] }
  | .access _ _ _ _ _ _ _ _ _ => { s with peerReqs := s.peerReqs ++ [(src, m)] }
  | .revoke _ _ _ => { s with peerReqs := s.peerReqs ++ [(src, m)] }
  | .revoked _ _ _ => { s with peerReqs := s.peerReqs ++ [(src, m)] }
  | .reply tk iss lane sb status reserve bytes => deliverReply s tk iss lane sb status reserve bytes
  | .bare page => dropAsks { s with proxy := mapSet s.proxy (peerPage src page) 3 } (peerPage src page)
  | .pageGrant page kind => dropAsks { s with proxy := mapSet s.proxy (peerPage src page) kind } (peerPage src page)
  | .pageRefuse page short reserve =>
    -- what was held stays held: the mark is beside it
    let p := peerPage src page
    let k := (mapGet? s.proxy p).getD 0 % 8
    dropAsks { s with proxy := mapSet s.proxy p (reserve * 64 + (if short then 2 else 1) * 8 + k) } p
  | .lineData line bytes =>
    let ea := peerEa src (line * 128)
    let l := lineOf ea
    let k := (mapGet? s.proxy (pageOf ea)).getD 0 % 8
    let s := { s with peerAsks := s.peerAsks.filter fun (x, _) => x != l }
    -- a line that finds no way free in its set is asked for again (R69)
    if k ≠ 1 && k ≠ 2 || (s.line l).valid == 0xFF || !s.l2Way l then s
    else if bytes.isEmpty then s.updLine l fun x => { x with present := true, psn := true }
    else (s.writeMem ea (bytes.take 128)).updLine l fun x => { x with present := true, valid := 0xFF }

/-- A negative acknowledgement: replay from the number expected. -/
def nakFlit (s : State) (x : Port) : Flit := { seq := 0, ack := x.rxSeq, cls := .response, src := s.slovi.deviceNumber, crcOk := true, nak := true, msgs := [] }
def execFlitReceive (xPort : Nat) (xFlit : Flit) (s : State) : Out :=
  let x := s.port xPort
  if x.state ≠ 2 then notNow "the port is not up"
  else if !xFlit.crcOk || (!xFlit.nak && xFlit.seq ≠ x.rxSeq) then
    -- R422: every CRC error is asked for again, a replayed flit's too; a gap behind it once; a flit delivered before is dropped
    if xFlit.crcOk && (x.nakSent || seqBefore xFlit.seq x.rxSeq) then .next s
    else .next (s.updPort xPort fun p => { p with out := p.out ++ [nakFlit s x], nakSent := true })
  else if xFlit.nak then .next (s.updPort xPort fun p => { p with nakFrom := some xFlit.ack.toNat })
  else
    let s := s.updPort xPort fun p => { p with rxSeq := p.rxSeq + 1, nakSent := false, replayBuf := p.replayBuf.filter fun f => !seqBefore f.seq xFlit.ack }
    .next (xFlit.msgs.foldl (deliver xFlit.src) s)

/-- The port goes down: what it had not had acknowledged goes by another route, where there is one (R423; that the far end has not taken it
is DEDUCED, log 49). -/
def portDown (s : State) (p : Nat) : State :=
  let x := s.port p
  let back := x.replayBuf.flatMap fun f => f.msgs.map fun m => (x.peer, m)
  setPortState (({ s with fabricOut := back ++ s.fabricOut } : State).updPort p fun x => { x with width := 0, spared := false, recoverySince := none, replayBuf := [] }) p 0
/-- The port enters recovery (R422). -/
def enterRecovery (s : State) (p : Nat) : State :=
  (setPortState s p 3).updPort p fun x => { x with recoverySince := some s.ns }
def execNakReplay (xPort xSeq : Nat) (s : State) : Out :=
  let x := s.port xPort
  let fs := x.replayBuf.dropWhile fun f => f.seq.toNat != xSeq % 4096
  let s := s.updPort xPort fun p => { p with nakFrom := none }
  if x.state ≠ 2 then notNow "the port is not up"
  else if fs.isEmpty then .next s
  else
    let counts := fs.foldl (fun c f => mapSet c f.seq.toNat ((mapGet? c f.seq.toNat).getD 0 + 1)) (x.replays.filter fun (k, _) => x.replayBuf.any fun f => f.seq.toNat == k)
    let s := s.updPort xPort fun p => { p with out := p.out ++ fs, replays := counts, retry := min 65535 (p.retry + 1) }
    .next (if counts.any fun (_, n) => 8 ≤ n then enterRecovery s xPort else s)
/-- A lane has lost lock, or the retraining of a port in recovery has found its good data lanes (R422). -/
def execPortRecovery (xPort xGood : Nat) (xSpareGood : Bool) (s : State) : Out :=
  let x := s.port xPort
  if x.state ≠ 2 && x.state ≠ 3 then notNow "the port is neither up nor in recovery"
  else
    let s := if x.state = 2 then enterRecovery s xPort else s
    let good := min xGood 4
    let spare := if xSpareGood && (good < 4 || x.spared) then 1 else 0
    if good = 4 && !x.spared then .next s
    else if 4 ≤ good + spare && x.width ≠ 1 then .next (addAmend (s.updPort xPort fun p => { p with spared := true, width := 2 }) 3 xPort)
    else if 2 ≤ good + spare then .next (addAmend (s.updPort xPort fun p => { p with width := 1, spared := spare == 1 }) 5 xPort)
    else .next (portDown s xPort)
/-- The recovery ends within its time: the port is up, and what was not acknowledged is sent again. -/
def execRecoveryEnd (xPort : Nat) (s : State) : Out :=
  let x := s.port xPort
  if x.state ≠ 3 then notNow "the port is not in recovery"
  else if (match x.recoverySince with | some t => decide (t + linkTimeout ≤ s.ns) | none => false) then notNow "the recovery has lasted 16 ms"
  else .next (setPortState (s.updPort xPort fun p => { p with recoverySince := none, replays := [], nakSent := false, out := p.out ++ p.replayBuf }) xPort 2)
def execRecoveryTimeout (xPort : Nat) (s : State) : Out :=
  let x := s.port xPort
  if x.state ≠ 3 || (match x.recoverySince with | some t => decide (s.ns < t + linkTimeout) | none => true) then notNow "no recovery has lasted 16 ms"
  else .next (portDown s xPort)
/-- R423: a lane's request that no route can carry is given up. -/
def execRequestGiveUp (xTeam xIss xLane : Nat) (s : State) : Out :=
  match laneOf s xTeam xIss xLane with
  | none => notNow "no such lane"
  | some (t, _, l) =>
    if !isPeer l.ea || l.tgt = 1 || !routeLost s (peerDev l.ea) then notNow "a route is left, or its recovery goes on"
    else
      let line := lineOf l.ea
      let mine := fun (r : HomeReq) => r.team == xTeam && r.iss == xIss && r.lane == xLane
      let waits := (s.line line).queue.find? mine
      let its := fun (m : FabricMsg) => match m with | .access a b c _ _ _ _ _ _ => a == xTeam && b == xIss && c == xLane | _ => false
      let sent := s.fabricOut.any (fun x => its x.2) || s.ports.any fun (_, p) => p.replayBuf.any fun f => f.msgs.any its
      if waits.isNone && !sent then notNow "the request is not held by a port"
      else
        let sb := match waits with | some r => r.sb | none => l.sb
        let s := (s.updLine line fun x => { x with queue := x.queue.filter fun r => !mine r, started := false, admitted := false })
        let s : State := { s with fabricOut := s.fabricOut.filter fun x => !its x.2, ports := s.ports.map fun (q, p) => (q, { p with replayBuf := p.replayBuf.map fun f => { f with msgs := f.msgs.filter fun m => !its m } }) }
        let s := s.postDevice (simpleRecord s 12 (((s.ports.find? fun (_, p) => p.peer == peerDev l.ea).map Prod.fst).getD 0))
        .next (match l.kind with
          | .load => sendDown s t.core l.ea (.poison xTeam xIss xLane 0)
          | .store => sendDown s t.core l.ea (.ack sb [] false)
          | .atom _ _ ret => sendDown s t.core l.ea (if ret then .poison xTeam xIss xLane sb else .ack sb [] false))

/-! ## Page records (R143, R420) -/

/-- The 16 bytes of a table entry. -/
def recBytes (page : Nat) (r : PageRec) (valid : Bool) : List Byte :=
  let dset := if r.coarse then r.devs.foldl (fun a g => a ||| 2 ^ g) 0 else (r.devs.mapIdx fun i d => d % 256 * 256 ^ i).foldl (· + ·) 0
  leBytes 8 ((if valid then 2 ^ 63 else 0) + page % 2 ^ 32) ++
  leBytes 8 (r.pstate * 2 ^ 62 + (if r.coarse then 5 else r.devs.length) * 2 ^ 59 + (if r.pstate = 2 then r.xdev % 256 * 2 ^ 48 else 0) + dset % 2 ^ 32)
def prtBase (s : State) : Nat := fld s.regs.prtbase 47 12 * 4096
def prtRecords (s : State) : Nat := fld s.regs.prtsize 19 0
/-- A record is written, in the part and in the table. -/
def setRec (s : State) (page : Nat) (r : PageRec) : State :=
  ({ s with prt := mapSet s.prt page r } : State).post (.bytes 4096 (prtBase s + 16 * r.slot) (recBytes page r true))
/-- A page returns to local: its entry is free. -/
def freeRec (s : State) (page : Nat) : State :=
  match mapGet? s.prt page with
  | none => s
  | some r => ({ s with prt := mapErase s.prt page } : State).post (.bytes 4096 (prtBase s + 16 * r.slot) (recBytes 0 {} false))
/-- The page's record, or a new one where the table has a free entry: the lowest (DESIGN CHOICE, log 82: the spec does not say which). -/
def recFor (s : State) (page : Nat) : Option PageRec :=
  match mapGet? s.prt page with
  | some r => some r
  | none => ((List.range (min (prtRecords s) (s.prt.length + 1))).find? fun i => s.prt.all fun (_, r) => r.slot != i).map fun i => { slot := i }
/-- A device joins DSET: four pointers, then a bit for eight devices. -/
def addDev (r : PageRec) (dev : Nat) : PageRec :=
  if r.coarse then { r with devs := if r.devs.contains (dev / 8) then r.devs else r.devs ++ [dev / 8] }
  else if r.devs.contains dev then r
  else if r.devs.length < 4 then { r with devs := r.devs ++ [dev] }
  else { r with coarse := true, devs := dedup ((r.devs ++ [dev]).map (· / 8)) }
/-- The devices a record names. -/
def holdersOf (s : State) (r : PageRec) : List Nat :=
  if r.coarse then (r.devs.flatMap fun g => (List.range 8).map (g * 8 + ·)).filter (· != s.slovi.deviceNumber) else r.devs
/-- A change of the page's grant begins: the named devices are asked, under a number that no earlier change has; the one that asks for the change
may stay. -/
def startChange (s : State) (page : Nat) (r : PageRec) (devs : List Nat) (demote : Bool) (stays : Option Nat := none) : State :=
  let (n, s) := s.fresh
  devs.foldl (fun s d => toPeer s d (.revoke page demote n)) (setRec s page { r with pend := devs, demote := demote, since := s.ns, stays := stays, change := n })

/-! ## Peers' accesses (R143, R144, R146, R147) -/

/-- A peer's request waits in the part's list. -/
def queueReq (s : State) (dev : Nat) (m : FabricMsg) : State :=
  if s.peerReqs.contains (dev, m) then s else { s with peerReqs := s.peerReqs ++ [(dev, m)] }
def dequeueReq (s : State) (dev : Nat) (m : FabricMsg) : State := { s with peerReqs := removeFirst (· == (dev, m)) s.peerReqs }
/-- The state in which the request waits, or no step where nothing has changed. -/
def waitReq (s s' : State) (dev : Nat) (m : FabricMsg) : Out :=
  let s' := queueReq (keepWaits s s') dev m
  if s' = s then notNow "a change of the page's grant, or its lines' work, is in progress" else .next s'
/-- The bytes of a line for the device that holds the page exclusively: nothing of it is held here. -/
def rawLine (s : State) (line : Nat) : List Byte × State :=
  let s := l2Fill s line 0xFF
  (if s.isPoisoned line then [] else s.readMem (line * 128) 128, s)
/-- One access made for a peer, uncached there, as WT (R143). -/
def serveAccess (s : State) (dev : Nat) (m : FabricMsg) : Out :=
  match m with
  | .access tk iss lane sb ea n store atom data =>
    let answer := fun (s : State) (st reserve : Nat) (bs : List Byte) => Host.Outcome.next (toPeer (dequeueReq s dev m) dev (.reply tk iss lane sb st reserve bs))
    let write := fun (s : State) (new old : List Byte) =>
      match writeAt s (s.ownerOf ea) ea new with
      | .ok _ s => answer s 0 0 old
      | .wait s' => waitReq s s' dev m
      | .poisoned _ s => answer s 1 0 []
      | .refused c _ reserve s => answer s (if c == .tiershort then 3 else 2) reserve []
    if store && atom.isNone then write s data []
    else match (if atom.map Prod.fst == some addOp then addOld s ea n else readAt s ea n) with
      | .ok old s => if store then write s (match atom with | some (op, ty) => if op = addOp then addWords (ty != 0) (ty - 1) old data else atomResult op ty old data | none => data) old else answer s 0 0 old
      | .wait s' => waitReq s s' dev m
      | .poisoned _ s => answer s 1 0 []
      | .refused _ _ reserve s => answer s 2 reserve []
  | _ => notNow "not an access"
/-- The lines that a device has asked for in a page that it holds, those that L2 has room for. -/
def sendAsked (s : State) (dev page : Nat) : State :=
  let ms := s.peerReqs.filterMap fun (d, m) => match m with | .want l _ => if d == dev && pageOfLine l == page && s.l2Room l then some l else none | _ => none
  let s := { s with peerReqs := s.peerReqs.filter fun (d, m) => match m with | .want l _ => !(d == dev && ms.contains l) | _ => true }
  ms.foldl (fun s l => let (bs, s) := rawLine s l; toPeer s dev (.lineData l bs)) s
/-- Every line that the device has asked for in the page waits for room in L2 (R69). -/
def asksWait (s : State) (dev page : Nat) : Bool :=
  let ms := s.peerReqs.filterMap fun (d, m) => match m with | .want l _ => if d == dev && pageOfLine l == page then some l else none | _ => none
  !ms.isEmpty && ms.all fun l => !s.l2Room l
/-- The device's first request of a sort, if one has arrived by a flit. -/
def firstReq (s : State) (dev : Nat) (p : FabricMsg → Bool) : Option FabricMsg := (s.peerReqs.find? fun (d, m) => d == dev && p m).map Prod.snd

/-- R144: a peer loads from a page of this device. -/
def execPeerLoad (xDev xLine : Nat) (s : State) : Out :=
  let page := pageOfLine xLine
  let isAccess := fun (m : FabricMsg) => match m with | .access _ _ _ _ ea _ store _ _ => !store && lineOf ea == xLine | _ => false
  if (s.page page).isNone then .fault (.unbackedAccess (xLine * 128))
  else match firstReq s xDev isAccess with
    | some m => serveAccess s xDev m
    | none =>
      let m : FabricMsg := .want xLine false
      match recFor s page with
      | none => .next (toPeer (dequeueReq s xDev m) xDev (.bare page))
      | some r =>
        if !r.pend.isEmpty || !s.posted 4096 || !s.l2Room xLine then waitReq s s xDev m
        else if r.pstate = 2 && r.xdev ≠ xDev then .next (startChange (queueReq s xDev m) page r [r.xdev] false)
        else if r.pstate = 2 then
          let (bs, s) := rawLine (dequeueReq s xDev m) xLine
          .next (toPeer s xDev (.lineData xLine bs))
        else
          let give := fun (s : State) (bs : List Byte) =>
            let had := !r.coarse && r.devs.contains xDev
            let s := dequeueReq s xDev m
            let s := if had then s else toPeer (setRec s page { addDev r xDev with pstate := 1 }) xDev (.pageGrant page 1)
            Host.Outcome.next (toPeer s xDev (.lineData xLine bs))
          match readLine s (xLine * 128) 128 with
          | .ok bs s => give s bs
          | .poisoned _ s => give s []
          | .wait s' => waitReq s s' xDev m
          | .refused _ _ _ _ => notNow "not a read's answer"

/-- The page's billets and the reserve they would take (R147). -/
def pageDebit (s : State) (page : Nat) : Nat :=
  (List.range 256).foldl (fun a i => let d := s.billet (page * 256 + i); if d.opened then a else a + (8 - d.count)) 0
/-- Every billet of the page is admitted against the owner (R147). -/
def openPage (s : State) (page : Nat) : State :=
  let x := s.ownerOf (page * 65536)
  let n := pageDebit s page
  (List.range 256).foldl (fun s i => s.updBillet (page * 256 + i) fun d => if d.opened then d else { d with opened := true, byGrant := true, rctx := x, holders := .ptrs [] })
    (markMigration (s.updCtx x fun c => { c with reserve := c.reserve - n }) page)
/-- Nothing of the page is under way at its homes. -/
def pageAtRest (s : State) (page : Nat) : Bool :=
  !s.frozen page && !promoting s page && pageCalm s page &&
  s.lines.all fun (l, _) => pageOfLine l != page || (s.quiet l && !(s.billet (billetOfLine l)).closing && s.cores.all fun (c, _) => !s.dependsOn c l)
/-- R144, R147: a peer stores to a page of this device. -/
def execPeerStore (xDev xPage : Nat) (s : State) : Out :=
  let isAccess := fun (m : FabricMsg) => match m with | .access _ _ _ _ ea _ store _ _ => store && pageOf ea == xPage | _ => false
  let isWant := fun (m : FabricMsg) => match m with | .want l true => pageOfLine l == xPage | _ => false
  if (s.page xPage).isNone then .fault (.unbackedAccess (xPage * 65536))
  else match firstReq s xDev isAccess with
    | some m => serveAccess s xDev m
    | none =>
      let m := (firstReq s xDev isWant).getD (.want (xPage * 512) true)
      match recFor s xPage with
      | none => .next (toPeer (dequeueReq s xDev m) xDev (.bare xPage))
      | some r =>
        let others := (holdersOf s r).filter (· != xDev)
        if !r.pend.isEmpty || !s.posted 4096 || asksWait s xDev xPage then waitReq s s xDev m
        else if r.pstate = 2 && r.xdev = xDev then .next (sendAsked (toPeer s xDev (.pageGrant xPage 2)) xDev xPage)
        else if !others.isEmpty then .next (startChange (queueReq s xDev m) xPage r others false (if (holdersOf s r).contains xDev then some xDev else none))
        else if !pageAtRest s xPage then waitReq s s xDev m
        else
          let refuse := fun (s : State) (short : Bool) (reserve : Nat) => Host.Outcome.next (toPeer (dequeueReq s xDev m) xDev (.pageRefuse xPage short reserve))
          let x := s.ownerOf (xPage * 65536)
          let reserve := ((s.ctx x).map Ctx.reserve).getD 0
          if inTier s xPage then
            match admission s (xPage * 256) x with
            | .wait s' => waitReq s s' xDev m
            | .refuse s _ reserve => refuse s true reserve
            | .grant _ => notNow "not an answer for a page in the tier"
          else if reserve < pageDebit s xPage then refuse (markMigration s xPage) false reserve
          else
            let ls := (s.lines.filter fun (l, _) => pageOfLine l == xPage).map Prod.fst
            let s := ls.foldl (fun s l => invalidateNow (recallNow s l (BitVec.allOnes 32) true) l none) s
            let s := setRec (openPage s xPage) xPage { r with pstate := 2, xdev := xDev, devs := [xDev], coarse := false }
            .next (sendAsked (toPeer s xDev (.pageGrant xPage 2)) xDev xPage)

/-- R144: an access of this device's own meets a page that a peer holds. -/
def execLocalPageAccess (xPage : Nat) (xStore : Bool) (s : State) : Out :=
  let asked := s.peerAsks.any fun (l, st) => pageOfLine l == xPage && st == xStore
  match mapGet? s.prt xPage with
  | none => notNow "no peer holds the page"
  | some r =>
    let s' := { s with peerAsks := s.peerAsks.filter fun (l, st) => !(pageOfLine l == xPage && st == xStore) }
    if !asked || !r.pend.isEmpty || !s.posted 4096 then notNow "no access waits, or a change is in progress"
    else if xStore then .next (startChange s' xPage r (holdersOf s r) false)
    else if r.pstate = 2 then .next (startChange s' xPage r [r.xdev] true)
    else notNow "a load is served while the page is shared"

/-! ## Revocation (R145, R148) -/

/-- This device gives a grant back, or keeps clean copies where it is demoted. -/
def execRevocation (xDev xPage : Nat) (s : State) : Out :=
  let p := peerPage xDev xPage
  let ls := (s.lines.filter fun (l, _) => pageOfLine l == p).map Prod.fst
  let msg := firstReq s xDev fun m => match m with | .revoke q _ _ => q == xPage | _ => false
  let (demote, change) := match msg with | some (.revoke _ d n) => (d, n) | _ => (false, 0)
  let k := (mapGet? s.proxy p).getD 0 % 8
  if !(ls.all fun l => s.calm l) then notNow "messages of the page's lines are in flight"
  else
    let s := match msg with | some m => dequeueReq s xDev m | none => s
    let s := ls.foldl (fun s l => invalidateNow (recallNow s l (BitVec.allOnes 32) true) l none) s
    -- an uncorrectable error in a dirty line poisons it (R93)
    let s := ls.foldl l2Error s
    let dirty : List (Nat × List Byte) := ls.filterMap fun l => if (s.line l).dirty then some (l % 2 ^ 47, if (s.line l).psn then [] else s.readMem (l * 128) 128) else none
    let s := ls.foldl (fun s l => s.updLine l fun x => { x with dirty := false }) s
    let s := if demote then s else ls.foldl leaveL2 s
    let s := { s with proxy := if demote && k ≠ 0 && k ≠ 3 then mapSet s.proxy p 1 else mapErase s.proxy p }
    .next (toPeer (dropAsks s p) xDev (.revoked xPage dirty change))
/-- The owning device takes an acknowledgement and the dirty lines that come with it; one of a change that is over is discarded (R148). -/
def execRevocationAck (xDev : Nat) (xChange : Nat × Nat) (xDirty : List (Nat × List Byte)) (s : State) : Out :=
  let s := dequeueReq s xDev (.revoked xChange.1 xDirty xChange.2)
  match mapGet? s.prt xChange.1 with
  | none => .next s
  | some r =>
    if !r.pend.contains xDev || r.change ≠ xChange.2 then .next s
    else if !s.posted 4096 then notNow "a write of the page-record table is still to be made (R438)"
    else if !(xDirty.all fun (l, _) => s.l2Room l) then notNow "L2 has no room for a line that comes back"
    else
      let s := xDirty.foldl (fun s (l, bs) =>
        if pageOfLine l ≠ xChange.1 then s else if bs.isEmpty then s.poisonLine l else performWrite s (l * 128) (bs.take 128)) s
      let pend := r.pend.filter (· != xDev)
      if r.demote then .next (setRec s xChange.1 { r with pend := pend, pstate := 1, xdev := 0, devs := [xDev], demote := false })
      else
        let devs := if r.coarse then (if pend.isEmpty then r.stays.toList else r.devs) else r.devs.filter (· != xDev)
        if devs.isEmpty then .next (freeRec s xChange.1)
        else .next (setRec s xChange.1 { r with pend := pend, devs := devs, coarse := r.coarse && !pend.isEmpty, pstate := if pend.isEmpty then 1 else r.pstate, xdev := if pend.isEmpty then 0 else r.xdev })
/-- R148: no acknowledgement within 16 ms. Every billet of the page is poisoned, and the page reported once. -/
def execRevocationTimeout (xPage : Nat) (s : State) : Out :=
  match mapGet? s.prt xPage with
  | none => notNow "no record"
  | some r =>
    if r.pend.isEmpty || !s.posted 4096 || s.ns < r.since + linkTimeout then notNow "no change of the page's grant is overdue"
    else
      .next (freeRec (s.poisonPage xPage) xPage)

/-! ## Half width (R83) -/

/-- The sensor of the pseudo-channel's stack reads above the threshold that the configuration record sets for it (R83, R433). -/
def tooHot (s : State) (pc : Nat) : Bool :=
  match mapGet? s.slovi.hotAt pc with
  | some t => t < Config.stackTemperature (pc / 64) s.ns
  | none => false
/-- For temperature, above the threshold; for a lane fault, whenever one comes. -/
def execHalfWidthEntry (xPc : Nat) (xLaneFault : Bool) (s : State) : Out :=
  if !xLaneFault && !tooHot s xPc then notNow "the stack temperature has not passed the threshold" else
  match mapGet? s.halfWidth xPc with
  | some true => notNow "the pseudo-channel is at half width for a lane fault"
  | some false =>
    if xLaneFault then .next (addAmend { s with halfWidth := mapSet s.halfWidth xPc true } 2 xPc)
    else notNow "the pseudo-channel is at half width"
  | none =>
    let s := ({ s with halfWidth := mapSet s.halfWidth xPc xLaneFault } : State).postDevice (simpleRecord s 3 xPc)
    .next (if xLaneFault then addAmend s 2 xPc else s)
def execFullWidthReturn (xPc : Nat) (s : State) : Out :=
  match mapGet? s.halfWidth xPc with
  | some false => .next (({ s with halfWidth := mapErase s.halfWidth xPc } : State).postDevice (simpleRecord s 3 xPc))
  | _ => notNow "the pseudo-channel is not at half width for temperature"

end Sys2Proof.Machine
end

