-- ==== Sys2Proof/Machine/Clock.lean ====
section
/-! DEFINITION. Time (R99, R128), the sweeps it brings (R108, R131), temperature (R100), retention sleep (R110, R111, R133) and
power (R179, R436). -/

namespace Sys2Proof.Machine

/-! ## Power caps (R435, R436) -/

/-- The effective cap in W (R435). -/
def capOf (v : Word) : Nat := if bit v 31 then max 400 (min 1600 (v.toNat % 4096)) else 1600
def effectiveCap (g : Regs) : Nat := min 1600 (min (capOf g.pcapl) (capOf g.pcapr))
/-- The package power, averaged over the last 1 ms, in W, as the sensors give it for clocks that no cap holds. -/
def sensedPower (s : State) : Nat := (Config.packagePower s.ns).toNat
/-- The arithmetic clock a core runs at. -/
def State.clockOf (s : State) (c : Nat) : Nat := min (s.core c).clockKHz s.regs.clockCap
/-- Every arithmetic clock is at its floor. -/
def atFloor (s : State) : Bool := s.enabledCores.all fun c => s.clockOf c == 400000
/-- Power exceeds 1.15 × cap with every clock at its floor (R436). -/
def powerOver (s : State) : Bool := decide (115 * effectiveCap s.regs < 100 * sensedPower s) && atFloor s
/-- PKGW: from 2 ms after a change of the cap on, the governors hold it at or below the cap, but where power exceeds 1.15 × cap with every
clock at its floor. -/
def packageWatts (s : State) : Nat :=
  if sensedPower s ≤ effectiveCap s.regs || decide (s.ns < s.regs.capSince + 2000000) || powerOver s then sensedPower s else effectiveCap s.regs
/-- The clock that the cap leaves: lowered in the ratio of the cap to the power, to no less than 0.40 GHz (R436 names the floor and not how far a
clock goes down: DESIGN CHOICE, log 50). -/
def capClock (s : State) : Nat :=
  if sensedPower s ≤ effectiveCap s.regs then 1500000 else max 400000 (1250000 * effectiveCap s.regs / sensedPower s)
/-- THR: a cap holds a clock below 1.25 GHz. -/
def throttled (s : State) : Bool :=
  decide (s.regs.clockCap < 1250000) || (decide (effectiveCap s.regs < 1600) && s.cores.any fun (_, k) => decide (k.clockKHz < 1250000))
/-- The governors of R179 read the package power, hold the clocks under the cap, and PWRSTAT shows both (R436). -/
def governed (s : State) : State :=
  let s := s.updReg fun g => { g with clockCap := capClock s }
  s.updReg fun g => { g with pwrstat := setBit ((g.pwrstat &&& 0x000FFFFF) ||| BitVec.ofNat 32 (packageWatts s % 4096 * 2 ^ 20)) 7 (throttled s) }
/-- They run in the next 64 ns: once each 1 µs, and where the 2 ms from a change of the cap end. -/
def governorDue (s : State) (us : Bool) : Bool := us || (decide (s.ns < s.regs.capSince + 2000000) && decide (s.regs.capSince + 2000000 ≤ s.ns + 64))

/-! ## The tick of 64 ns (log 13) -/

/-- One core's clocks; the arithmetic clock is at most what the power cap leaves it. -/
def tickCore (us : Bool) (cap : Nat) (k : Core) : Core :=
  { k with lclk := k.lclk + 1, cycles := k.cycles + 64 * min k.clockKHz cap / 1000000, rtick := if us then k.rtick + 1 else k.rtick, rtotal := if us then k.rtotal + 1 else k.rtotal }
/-- Every live thread of the team is asleep (R387). -/
def allAsleep (t : Team) : Bool :=
  t.threads.any Thread.live && t.threads.all fun th => !th.live || (match th.st with | .waiting (.sleep _) => !th.handler | _ => false)
/-- A link in recovery holds accesses of the address: of a peer's page, or of an own page whose grant a peer is to give back. -/
def heldAddr (s : State) (ea : Nat) : Bool :=
  if isPeer ea then recovering s (peerDev ea)
  else match mapGet? s.prt (pageOf ea) with | some r => r.pend.any (recovering s) | none => false
/-- A lane of the thread that has not performed waits at such an address. -/
def heldLane (s : State) (t : Team) (tid : Nat) : Bool :=
  t.iw.any fun i => !i.scratch && i.lanes.any fun l => l.tid == tid && l.tgt != 1 && (l.openLoad || l.openStore) && heldAddr s l.ea
/-- The part with nothing asked for and no walk of the core under way: what is tried in it asks for all that it waits on. -/
def unasked (s : State) (core : Nat) : State :=
  ({ s with peerAsks := [], hostReads := s.hostReads.filter fun r => r.data.isSome } : State).updCore core fun k => { k with walkers := [] }
/-- Something asked for so waits at such an address: a page's grant, an access of a peer's page, a walk that is under way (R143, R144). -/
def asksHeld (s : State) (core : Nat) (o : Out) : Bool :=
  match o with
  | .next u =>
    u.peerAsks.any (fun (l, _) => heldAddr s (l * 128)) || u.hostReads.any (fun r => r.data.isNone && isPeer r.ea && heldAddr s r.ea) ||
    (u.core core).walkers.any fun (_, w) => match findWalker (s.core core) w.ctx w.va w.kind w.sys with
      | some (_, x) => x.ended.isNone && heldAddr s x.entry
      | none => false
  | _ => false
/-- The instructions that wait at their issue for what they read, write or translate. -/
def retry (i : Instr) (s : State) : Out :=
  match i with
  | .ld f => execLd f s | .ldp f => execLdp f s | .st f => execSt f s | .stp f => execStp f s | .atom f => execAtom f s | .red f => execRed f s
  | .ldk f => execLdk f s | .gldk f => execGldk f s | .pref f => execPref f s | .resid f => execResid f s | .wback f => execWback f s | .binfo f => execBinfo f s
  | .pgyield f => execPgyield f s | .call f => execCall f s | .calli f => execCalli f s | .ret f => execRet f s | .pushm f => execPushm f s | .popm f => execPopm f s
  | .tretReplay f => execTretReplay f s | .tretSkip f => execTretSkip f s | .launch f => execLaunch f s
  | _ => .next s
/-- The group's bundle tries what it is to do next. -/
def tryGroup (s : State) (core tk g : Nat) : Out :=
  match prepare s core tk g with
  | (none, s) => .next s
  | (some w, s) => match decode w with | some i => retry i s | none => .next s
/-- The channels of a core whose command at the head is held so: by what it asks for, or behind its thread's older access. -/
def heldChans (s : State) (core : Nat) : List Nat :=
  (s.core core).copyq.filterMap fun (ch, q) => (q.head?).bind fun c => (s.team c.team).bind fun t =>
    if asksHeld s core (execCopySegment core ch (unasked s core)) || (copyHeld s core t c && heldLane s t c.tid) then some ch else none
/-- The group's bundle stalls, and would not without the commands of those channels: it waits for one of them (R153, log 103). -/
def engineHeld (s : State) (core tk g : Nat) : Bool :=
  let hs := heldChans s core
  !hs.isEmpty && match tryGroup ({ s with stalled := [] }.updCore core fun k => { k with copyq := k.copyq.filter fun (ch, _) => !hs.contains ch }) core tk g with
    | .next u => !u.stalled.contains (tk * 64 + g)
    | _ => false
/-- A release of the bundle waits for a store of the core that is held, whichever thread made it (R156). -/
def releaseHeld (s : State) (core : Nat) (ids : List Nat) : Bool := (s.core core).sb.any fun x => ids.contains x.id && x.tgt != 1 && heldAddr s x.ea
/-- A stalled bundle waits on what a link holds. -/
def bundleHeld (s : State) (tk : Nat) (t : Team) (g : Nat) : Bool :=
  s.stalled.contains (tk * 64 + g) &&
  (asksHeld s t.core (tryGroup (unasked s t.core) t.core tk g) || engineHeld s t.core tk g ||
   (((t.groups[g]?).bind Group.bundle).bind Bundle.snap).any (releaseHeld s t.core))
/-- A flag of the group counts an access, a fence or a copy command that is held so. -/
def heldFlag (s : State) (tk : Nat) (t : Team) (g k : Nat) : Bool :=
  (t.iw.any fun i => i.grp == g && i.flag == some k && !i.scratch && (i.lanes.any (fun l => l.tgt != 1 && (l.openLoad || l.openStore) && heldAddr s l.ea) ||
    i.fence.any fun ids => releaseHeld s t.core ids || i.tids.any (heldLane s t))) ||
  let hs := heldChans s t.core
  (s.core t.core).copyq.any fun (ch, q) => hs.contains ch && q.any fun c => c.team == tk && c.grp == g && c.flag == some k
/-- The thread waits on what a link in recovery holds: for its own access, in whatever it is to do next, or at a flag (R387). Threads that wait
for it at a bar, an mwait or a token queue wait through it. -/
def threadHeld (s : State) (tk : Nat) (t : Team) (tid : Nat) (th : Thread) : Bool :=
  match th.st with
  | .held => heldLane s t tid
  | .waiting (.waitf k _) => heldFlag s tk t th.grp k
  | .inBundle => s.stalled.contains (tk * 64 + th.grp) && (heldLane s t tid || bundleHeld s tk t th.grp)
  | .runnable => if th.fetch then asksHeld s t.core (execClauseFetch tk tid (unasked s t.core)) else bundleHeld s tk t th.grp
  | .parked => th.fault.isSome && (heldLane s t tid || asksHeld s t.core (execTrapDelivery tk tid (unasked s t.core)))
  | _ => false
/-- The group's head waits at its clause's wait mask for such a flag (R181). -/
def headHeld (s : State) (tk : Nat) (t : Team) (g : Nat) : Bool :=
  ((t.groups[g]?).map fun gr => gr.bundle.isNone).getD false && match headThreads t g with
    | [] => false
    | (_, th) :: _ => th.rp.index == 0 && (List.range 12).any fun k => (hdrWait th.hdr).testBit k && heldFlag s tk t g k
/-- Some thread of the team waits on something that a link in recovery holds (R387). -/
def linkHeld (s : State) (tk : Nat) (t : Team) : Bool :=
  s.ports.any (fun (_, p) => p.state == 3) &&
  ((List.range t.threads.length).any (fun i => (t.threads[i]?).any (threadHeld s tk t i)) || (List.range t.groups.length).any (headHeld s tk t))
/-- Lookout counts for the team (R111, R387). -/
def lookoutRuns (s : State) (tk : Nat) (t : Team) : Bool :=
  !t.kept && !(s.core t.core).asleep && !allAsleep t && !linkHeld s tk t
/-- The keep-alive sweeper has renewed every row that the next retention tick would find too old (R113). -/
def sweepKept (s : State) : State := s.teams.foldl (fun s (k, t) => if renewDue s t then keepRows s k t else s) s
/-- Time passes: 64 ns. The governors run where they are due (R179), sweeps that fall due are the next steps (R108, R131), and messages to peers go out (R421). -/
def execTick (s : State) : Out :=
  let s := sweepKept s
  let old := s
  let us := (s.ns + 64) / 1000 != s.ns / 1000
  let teams := if us then s.teams.map fun (k, t) => (k, if lookoutRuns s k t then { t with lookout := t.lookout + 1 } else t) else s.teams
  let s : State := { s with ns := s.ns + 64, homeClk := s.homeClk + 1, cores := s.cores.map fun (k, c) => (k, tickCore us s.regs.clockCap c), teams := teams, stalled := [] }
  let s := if governorDue old us then governed s else s
  let cs := s.cores.map Prod.fst
  let leases := if s.homeClk.toNat % 16384 = 0 then (0 :: cs.filter (· != 0)).map Instr.leaseSweep else []
  let rows := if us then (cs.filter fun c => (s.core c).rtick.toNat % 16384 == 0).map Instr.expirySweep else []
  .next (sendFlits { s with agenda := leases ++ rows ++ s.agenda })

/-- R131: the core's expired leases go, and the homes' marks of them. -/
def execLeaseSweep (xCore : Nat) (s : State) : Out :=
  let t := (s.core xCore).lclk
  if t.toNat % 16384 ≠ 0 then notNow "no sweep is due"
  else
    let live := fun (h : Holding) => match h with | .leased e => if leaseLive e t then h else .empty | h => h
    let s := s.updCore xCore fun c => { c with l1 := (c.l1.map fun (k, x) => (k, { x with chunks := x.chunks.map live })).filter fun (_, x) => !x.isEmpty }
    .next { s with lines := s.lines.map fun (k, l) => (k, if l.lv && !leaseLive l.lexp s.homeClk then { l with lv := false } else l) }
/-- R108: every row of every live allocation whose age exceeds Leff expires. -/
def execExpirySweep (xCore : Nat) (s : State) : Out :=
  let k := s.core xCore
  if k.rtick.toNat % 16384 ≠ 0 then notNow "no sweep is due"
  else .next ((s.teams.filter fun (_, t) => t.core == xCore).foldl (fun s (_, t) =>
    t.allocs.foldl (fun s (_, al) => (List.range al.n).foldl (fun s i =>
      let p := (t.block + al.gran) * 16 + i
      let s := checkStamp s xCore p
      s.updCore xCore fun c => if leff c al < rowAge c p c.rtick then c.setRow p { c.row p with exp := true } else c) s) s) s)

/-! ## Temperature (R100) -/

/-- Boundary between bands b - 1 and b, in tenths of a degree. -/
def bandEdge (b : Nat) : Nat := 350 + 100 * b
/-- The band of a reading; one at a boundary is the cooler band's. -/
def bandOf (deci : Nat) : Nat := (((List.range 8).filter fun b => b = 0 || bandEdge b < deci).getLast?).getD 0
def bandTret : Nat → Nat
  | 0 => 2000 | 1 => 1400 | 2 => 960 | 3 => 640 | 4 => 400 | 5 => 200 | 6 => 80 | _ => 40
def Core.band (c : Core) : Nat := c.tret.toNat / 65536 % 8
/-- csr.tret for a band, RISE kept or set. -/
def Core.setBand (c : Core) (b : Nat) (rise : Bool) : Core :=
  { c with tret := BitVec.ofNat 32 ((if rise || bit c.tret 31 then 2 ^ 31 else 0) + b * 65536 + bandTret b) }
def execTemperatureReading (xCore xDeciC : Nat) (s : State) : Out :=
  .next (s.updCore xCore fun c =>
    let b := bandOf xDeciC
    let below := (List.range 8).filterMap fun e =>
      if e = 0 || bandEdge e < xDeciC + 20 then none else some (e, (mapGet? c.belowSince e).getD s.ns)
    let c := { c with temp := xDeciC, belowSince := below, firstReading := false, tret := c.tret }
    if (s.core xCore).firstReading then c.setBand b (6 < b)
    else if c.band < b then c.setBand b true else c)
/-- The lowest band that every boundary from the present one down allows: 2 degrees below it for 1 ms. -/
def fallTo (s : State) (c : Core) : Nat → Nat
  | 0 => 0
  | b + 1 => match mapGet? c.belowSince (b + 1) with
    | some t => if t + 1000000 ≤ s.ns then fallTo s c b else b + 1
    | none => b + 1
def execBandFall (xCore : Nat) (s : State) : Out :=
  let c := s.core xCore
  let b := fallTo s c c.band
  if b = c.band then notNow "the sensor has not stayed 2 degrees below the boundary for 1 ms"
  else .next (s.updCore xCore fun c => c.setBand b false)

/-! ## Retention sleep (R110, R111, R133) -/

def noAllocation (s : State) (c : Nat) : Bool := s.teams.all fun (_, t) => t.core != c || t.allocs.isEmpty
def noRunnable (s : State) (c : Nat) : Bool :=
  s.teams.all fun (_, t) => t.core != c || t.threads.all fun th => th.st != .runnable && th.st != .inBundle && th.st != .held
/-- The issue's results can be taken. -/
def completes (s : State) (tk : Nat) (i : Inflight) : Bool := match execComplete tk i.id s with | .refused _ => false | _ => true
/-- An issue holds at what it waits for: no lane of it is under way, and its results cannot be taken yet (R111). -/
def holdsAtWait (s : State) (tk : Nat) (i : Inflight) : Bool := i.lanes.all (fun l => !(l.openLoad || l.openStore)) && !completes s tk i
/-- Every issued instruction is complete or holds at its wait, the store buffer has performed, the matrix queue and the streams of drains are
empty, no copy command stands inside a billet (log 105), and no message of the core is in flight (R111). -/
def coreDrained (s : State) (c : Nat) : Bool :=
  let k := s.core c
  k.sb.isEmpty && k.matq.isEmpty && k.port.isEmpty && k.owedInv.isEmpty && k.owedClose.isEmpty &&
  k.up.all (fun (_, q) => q.isEmpty) && k.down.all (fun (_, q) => q.isEmpty) && k.walkers.all (fun (_, w) => w.ended.isSome) &&
  k.copyq.all (fun (_, q) => q.all fun x => x.op != 4 && x.inside.isNone) &&
  s.teams.all fun (tk, t) => t.core != c || t.iw.all (holdsAtWait s tk)
/-- The core sleeps: owned words go home, tracked lines are given up, every holding goes (R133, R48, R110). -/
def fallAsleep (s : State) (c : Nat) : State :=
  let s := ((s.core c).l1.map Prod.fst).foldl (fun s l => evictL1 s c l) s
  s.updCore c fun k => { k with asleep := true, l1 := [], filter := [], kc := [], tlb := [], walkers := [] }
/-- On its own (R110, R111), or sent by a power cap (R436). -/
def execRetentionSleep (xCore : Nat) (s : State) : Out :=
  let k := s.core xCore
  if !s.coreEnabled xCore || k.asleep || k.emergency then notNow "the core is asleep, disabled or in an emergency"
  else if !k.sleepAsked && !(noAllocation s xCore && noRunnable s xCore) then notNow "a live allocation or a runnable thread keeps the core awake"
  else if !coreDrained s xCore then notNow "the core has not drained"
  else .next (fallAsleep s xCore)
/-- The driver is told of an emergency sleep: the device ring and every context with a team on the core (R417), and PWRSTAT.EMERG. -/
def reportEmergency (s : State) (c : Nat) : State :=
  let r := healthRecord 9 0 0 0 0 0 0 0 0 c 0 s.ns
  let xs := dedup ((s.teams.filter fun (_, t) => t.core == c).map fun (_, t) => t.ctx)
  let s := xs.foldl (fun s x => s.postCtx x r) (s.postDevice r)
  s.updReg fun g => { g with pwrstat := setBit g.pwrstat 6 true }
/-- The core is to take an emergency sleep. One that the temperature alone forces ends as the core has cooled; where a power cap has asked the
core to sleep before, it ends when the governor allows it (R111). -/
def tripSleep (s : State) (c : Nat) : State :=
  s.updCore c fun k => { k with sleepAsked := true, emergency := true, wakeAllowed := if k.sleepAsked then k.wakeAllowed else true }
/-- Above 115 degrees, or as the emergency cap asks: issue stops, and once the core has drained it sleeps without saving. -/
def execEmergencyRetentionSleep (xCore : Nat) (s : State) : Out :=
  let k := s.core xCore
  if !s.coreEnabled xCore || k.asleep then notNow "the core is asleep or disabled"
  else if !k.emergency && k.temp ≤ 1150 then notNow "no trip"
  else if coreDrained s xCore then
    .next (fallAsleep (tripSleep (reportEmergency s xCore) xCore) xCore)
  else if k.emergency && k.sleepAsked then notNow "the core has not drained"
  else .next (tripSleep s xCore)
/-- A resident thread could run, or could come to run once suspended copy commands go on or an issue that is held completes (R111). -/
def wakeWanted (s : State) (c : Nat) : Bool :=
  (let w := s.updCore c fun k => { k with asleep := false }; w.teams.any fun (tk, t) => t.core == c && t.iw.any (completes w tk)) ||
  (s.core c).copyq.any (fun (_, q) => !q.isEmpty) || s.teams.any fun (_, t) => t.core == c && t.threads.any fun th => th.st == .runnable || th.st == .inBundle || th.st == .held || sleepOver s c th
def execRetentionWake (xCore : Nat) (s : State) : Out :=
  let k := s.core xCore
  if !k.asleep then notNow "the core is awake"
  else if k.sleepAsked && (!k.wakeAllowed || 1150 < k.temp) then notNow "the governor does not let the core wake, or it is above 115 degrees"
  else if !k.sleepAsked && !wakeWanted s xCore then notNow "no resident thread could run"
  else .next (wakeCore s xCore)

/-! ## Power (R179, R436) -/

/-- The compute die with the hottest sensor, the lowest of equals (DESIGN CHOICE, log 53). -/
def hottestDie (s : State) : Nat :=
  ((List.range 4).foldl (fun (acc : Nat × Nat) d =>
    let t := (s.enabledCores.filter fun c => c / 160 == d).foldl (fun m c => max m (s.core c).temp) 0
    if acc.2 < t then (d, t) else acc) (0, 0)).1
/-- The governor reads the package power and sets a core's arithmetic clock, 0.40 to 1.50 GHz, under which the cap may hold it. For a core that a cap
has sent to sleep, its step is the leave to wake (R111 says only when the governor allows it: DESIGN CHOICE, log 81). -/
def execGovernorInterval (xCore xKhz : Nat) (s : State) : Out :=
  if xKhz < 400000 || 1500000 < xKhz then notNow "the clock runs at 0.40 to 1.50 GHz"
  else
    .next (governed (s.updCore xCore fun k => { k with clockKHz := xKhz, wakeAllowed := k.wakeAllowed || (k.asleep && k.sleepAsked) }))
/-- Power exceeds 1.15 × cap with every clock at its floor, or the board asserts its emergency power input: cores without a live allocation are
sent to sleep; where that is not enough, the others of the hottest die, in an emergency. -/
def execPowerCapExceeded (xEnough xEmergency : Bool) (s : State) : Out :=
  if !xEmergency && !powerOver s then notNow "power is not over 1.15 × cap with every clock at its floor" else
  let awake := s.enabledCores.filter fun c => !(s.core c).asleep
  let s := awake.foldl (fun s c => if noAllocation s c then s.updCore c fun k => { k with sleepAsked := true, wakeAllowed := false } else s) s
  .next (if xEnough then s
    else (awake.filter fun c => c / 160 == hottestDie s).foldl (fun s c =>
      if noAllocation s c then s else s.updCore c fun k => { k with sleepAsked := true, emergency := true, wakeAllowed := false }) s)

end Sys2Proof.Machine
end

