-- ==== Sys2Proof/Machine/Host.lean ====
section
/-! DEFINITION. The host port: aperture accesses and AtomicOps (R370, R411, R438), the function and PF registers (R5, R414 to R420,
R424, R427, R435, R436), the dirty bitmap and the stop of a live migration (R426, R427), page export and import (R428), key slots
(R29). -/

namespace Sys2Proof.Machine

/-! ## Apertures (R411, R438) -/

/-- Whether every page of a range is backed. -/
def rangeBacked (s : State) (da n : Nat) : Bool :=
  (List.range (pageOf (da + n - 1) - pageOf da + 1)).all fun i => (s.page (pageOf da + i)).isSome
/-- What an attempt of a host access at its lines comes to. -/
inductive HostTry where
  | done (s : State)
  | wait (s : State)
/-- One line's part: a write refused admission is discarded and reported (R438). -/
def hostLine (s : State) (a : Nat) (bs : List Byte) : HostTry :=
  match writeLine s (s.ownerOf a) a bs with
  | .ok _ s => .done s
  | .wait s' => .wait s'
  | .poisoned _ s => .done s
  | .refused _ _ _ s => .done (s.postRefused a)
/-- Every line's part, in order; none is made where one must wait. -/
def hostLines (s : State) : List (Nat × List Byte) → HostTry
  | [] => .done s
  | (a, seg) :: rest => match hostLine s a seg with
    | .done s => hostLines s rest
    | .wait s => .wait s
/-- The lines of n bytes. -/
def hostSpan (da n : Nat) : List Nat := (List.range (lineOf (da + n - 1) - lineOf da + 1)).map (lineOf da + ·)
/-- The access has its place in the line's queue. -/
def hostPlaced (s : State) (l : Nat) : Bool := (s.line l).queue.any HomeReq.isHost
/-- It takes its place behind what waits there; that of a write waits for admission as a marked request does (R46). -/
def hostPlace (kind : ReqKind) (s : State) (l : Nat) : State :=
  if hostPlaced s l then s
  else s.updLine l fun x => { x with queue := x.queue ++ [{ core := 640, line := l, kind := kind, team := 0, iss := 0, lane := 0, ea := l * 128, n := 0, mark := true }] }
/-- The line's queue is set aside while the access is made in its turn. -/
def hostAside (s : State) (l : Nat) : State := if (s.line l).queue.isEmpty then s else s.updLine l fun x => { x with queue := [] }
/-- What stood behind the access in its line's queue stands there again. -/
def hostBack (old s : State) (l : Nat) : State :=
  let q := (old.line l).queue.filter fun r => !r.isHost
  if q.isEmpty then s else s.updLine l fun x => { x with queue := q ++ x.queue }
/-- It is its turn: what came before it has been served. -/
def hostTurn (s : State) (l : Nat) : Bool :=
  match nextReq s l with
  | some r => r.isHost
  | none => (s.line l).queue.isEmpty
/-- R411: an access through an aperture takes its turn at each of its lines in arrival order; it is the agenda's head until it has been made, so
that one is under way at a time and each is performed before the next (sys scope release order among themselves). -/
def hostAccess (s : State) (again : Instr) (kind : ReqKind) (da n : Nat) (act : State → HostTry) : Out :=
  let ls := hostSpan da n
  let stay := fun (s' : State) => Host.Outcome.next { s' with agenda := again :: s.agenda }
  let wait := fun (s' : State) => if ls.all (hostPlaced s) then (if s' = s then notNow "the access waits for its turn at the line" else stay s') else stay (ls.foldl (hostPlace kind) s')
  if !ls.all (hostTurn s) then wait s
  else match act (ls.foldl hostAside s) with
    | .done s' => .next (ls.foldl (hostBack s) s')
    | .wait s' => wait (keepWaits s s')
def execHostApertureWrite (xDa : Nat) (xBytes : List Byte) (s : State) : Out :=
  if xBytes.isEmpty then .next s
  else if !rangeBacked s xDa xBytes.length then .fault (.unbackedAccess xDa)
  else hostAccess s (.hostApertureWrite xDa xBytes) .write xDa xBytes.length fun s => hostLines s (splitLines xDa xBytes (xBytes.length / 128 + 2))
/-- A read leaves its bytes in hostBytes; one that meets poison completes without data (log 16). -/
def hostReadAt (s : State) (da n : Nat) : HostTry :=
  match readAt s da n with
  | .ok bs s => .done { s with hostBytes := bs }
  | .poisoned _ s => .done { s with hostBytes := [] }
  | .refused _ _ _ s => .wait s
  | .wait s => .wait s
def execHostApertureRead (xDa xLen : Nat) (s : State) : Out :=
  if xLen = 0 then .next { s with hostBytes := [] }
  else if !rangeBacked s xDa xLen then .fault (.unbackedAccess xDa)
  else hostAccess s (.hostApertureRead xDa xLen) .wtLoad xDa xLen fun s => hostReadAt s xDa xLen
/-- R298 for a host's operation: FetchAdd, Swap, CAS. -/
def hostNew (op : HostOp) (n old a b : Nat) : Nat :=
  match op with
  | .fetchAdd => (old + a) % 2 ^ (8 * n)
  | .swap => a % 2 ^ (8 * n)
  | .cas => if old = a % 2 ^ (8 * n) then b % 2 ^ (8 * n) else old
/-- A completion with status CA has no bytes (R438, log 16). -/
def completerAbort (s : State) : State := { s with hostBytes := [] }
/-- The AtomicOp at its home: the old value is in hostRd and hostBytes. -/
def hostAtomic (s : State) (op : HostOp) (da n a b : Nat) : HostTry :=
  match rmwLine s (s.ownerOf da) da n fun old => leBytes n (hostNew op n (leNat old) a b) with
  | .ok old s => .done { s with hostRd := BitVec.ofNat 64 (leNat old), hostBytes := old }
  | .poisoned _ s => .done (completerAbort s)
  | .refused _ _ _ s => .done (completerAbort (s.postRefused da))
  | .wait s => .wait s
def execHostAtomicop (xOp : HostOp) (xDa : Nat) (xWide : Bool) (xA xB : BitVec 64) (s : State) : Out :=
  let n := if xWide then 8 else 4
  if !rangeBacked s xDa n then .fault (.unbackedAccess xDa)
  else if xDa % n ≠ 0 then .next (completerAbort s)
  else hostAccess s (.hostAtomicop xOp xDa xWide xA xB) .write xDa n fun s => hostAtomic s xOp xDa n xA.toNat xB.toNat

/-! ## Live migration (R426, R427) -/

def execLmTrack (xVd : Nat) (xOn : Bool) (s : State) : Out := .next (s.updVd xVd fun v => { v with lmctl := setBit v.lmctl 0 xOn })
/-- Steps 1 and 2: no packet is taken up, every resident team is to be descheduled by save. -/
def lmBegin (s : State) (vd : Nat) : State :=
  let mine := fun (t : Team) => ((s.ctx t.ctx).map Ctx.vd) == some vd
  let s := { s with teams := s.teams.map fun ((k, t) : Nat × Team) => (k, if mine t && !t.kept then { t with asked := true, mayKeep := false } else t) }
  s.updVd vd fun v => { v with lmctl := setBit (setBit v.lmctl 1 true) 2 false }
def execLmStop (xVd : Nat) (s : State) : Out := .next (lmBegin s xVd)
/-- RUNNING of every control block of the virtual device, written before the step ends (R427 step 4). -/
def writeTables (s : State) (vd : Nat) : Home Unit :=
  (s.ctxs.filter fun (_, c) => c.vd == vd).foldl (fun (acc : Home Unit) (_, c) =>
    c.running.foldl (fun (acc : Home Unit) r => acc.bind fun _ s => partWrite s (c.ccb + 0x400 + 128 * r.slot) (runningEntry r)) acc) (.ok () s)
/-- Steps 3 to 5. -/
def execLmStopComplete (xVd : Nat) (s : State) : Out :=
  let v := s.vd xVd
  if !stopAsked s xVd || bit v.lmctl 2 then notNow "no stop is under way"
  else if s.teams.any fun (_, t) => ((s.ctx t.ctx).map Ctx.vd) == some xVd then notNow "teams are still to be descheduled"
  else if (placers s xVd).any fun (x, r) => placeable s x r then notNow "a team that was killed is still to be placed again"
  else
    let bs := (s.billets.filter fun (b, d) => d.opened && inWindow s xVd (pageOfBillet b)).map Prod.fst
    let s' := bs.foldl (fun s b => (closeStep s b).getD s) s
    if s'.billets.any fun (b, d) => d.opened && inWindow s xVd (pageOfBillet b) then
      if s' = s then notNow "open billets of the window are still to be closed" else .next s'
    else if !(s.ctxs.all fun (x, c) => c.vd != xVd || s.posted x) then notNow "a write of a control block is still to be made (R438)"
    else match writeTables s' xVd with
      | .ok _ s => .next (s.updVd xVd fun v => { v with lmctl := setBit v.lmctl 2 true })
      | .wait w => if keepWaits s' w = s then notNow "a line of a control block is in use" else .next (keepWaits s' w)
      | .poisoned _ _ => notNow "a control block is poisoned"
      | .refused _ _ _ _ => notNow "a control block waits for admission"
def lmEnd (s : State) (vd : Nat) : State := s.updVd vd fun v => { v with lmctl := setBit (setBit v.lmctl 1 false) 2 false }
def execLmStopRelease (xVd : Nat) (s : State) : Out := .next (lmEnd s xVd)
/-- R426: the word is read and cleared; bits of pages with owned words or waiting store-class requests are set again. -/
def pageHot (s : State) (p : Nat) : Bool :=
  (s.cores.any fun (_, k) => k.l1.any fun (l, x) => pageOfLine l == p && x.owned != 0) || heldStores s p
def execDirtyWordRead (xVd xWord : Nat) (s : State) : Out :=
  let v := s.vd xVd
  let w := (mapGet? v.dirty xWord).getD 0
  let again : BitVec 64 := maskOf ((List.range 64).filter fun i => decide (64 * xWord + i < v.count) && pageHot s (v.base + 64 * xWord + i))
  .next ({ s with hostRd := w }.updVd xVd fun v => { v with dirty := if again = 0 then mapErase v.dirty xWord else mapSet v.dirty xWord again })

/-! ## Registers of BAR2 (R5, R411, R414, R417 to R420) -/

def execHrlostRead (s : State) : Out := .next ({ s with hostRd := s.regs.hrlost }.updReg fun g => { g with hrlost := 0 })
def bpstat (p : Port) : Nat :=
  p.state * 2 ^ 28 + p.width * 2 ^ 26 + (if p.spared then 2 ^ 25 else 0) + p.peer % 256 * 2 ^ 16 + p.retry % 65536
def execBpstatRead (xPort : Nat) (s : State) : Out :=
  .next ({ s with hostRd := BitVec.ofNat 64 (bpstat (s.port xPort)) }.updPort xPort fun p => { p with retry := 0 })
/-- The bits of a cap register that a write stores. -/
def capBits (v : Word) : Word := v &&& 0x80000FFF
/-- PWRSTAT.CAPW follows the effective cap (R436). -/
def showCap (g : Regs) : Regs := { g with pwrstat := (g.pwrstat &&& 0xFFF000FF) ||| BitVec.ofNat 32 (effectiveCap g * 256) }
/-- A cap register is written; the governors have 2 ms from a change of the effective cap (R436). -/
def writeCap (s : State) (f : Regs → Regs) : State :=
  s.updReg fun g => let g' := showCap (f g); if effectiveCap g' = effectiveCap g then g' else { g' with capSince := s.ns }
def execPcaplWrite (xV : BitVec 32) (s : State) : Out := .next (writeCap s fun g => { g with pcapl := capBits xV })
def execPcaprWrite (xV : BitVec 32) (s : State) : Out := .next (writeCap s fun g => { g with pcapr := capBits xV })

/-- The command that CTXCMD and its arguments name (R414). -/
def runCtxCmd (s : State) (vd : Nat) : Out :=
  let v := s.vd vd
  let n := fld v.ctxcmd 59 48
  let q := fld v.ctxarg1 63 52
  let team := fld v.ctxarg1 31 0
  match fld v.ctxcmd 63 60 with
  | 1 => execCtxBind vd n v.ctxarg0 s
  | 2 => execCtxDestroy vd n s
  | 3 => execCtxKillTeam vd n q v.ctxarg0.toNat team s
  | 4 => execCtxDescheduleTeam vd n q v.ctxarg0.toNat team s
  | 5 => execCtxDebugReplay vd n (fld v.ctxarg1 20 0) s
  | 6 => execCtxDebugSkip vd n (fld v.ctxarg1 20 0) s
  | 7 => execCtxReloadImages vd n s
  | 8 => execCtxReserveTransfer vd n (v.ctxarg0.extractLsb' 0 37) s
  | op => .next (setCtx s vd op n 2)
/-- The command that BMCMD names (R418). -/
def runBmCmd (s : State) (vd : Nat) : Out :=
  let w := (s.vd vd).bmcmd
  let n := fld w 59 48
  let p := fld w 47 16
  match fld w 63 60 with
  | 1 => execBack vd n p s
  | 2 => execBackFixedSize vd n p s
  | 3 => execUnback vd n p s
  | 4 => execReassign vd n p s
  | op => .next (setBm s vd op n p 2)
/-- The command that CHCMD names (R419). -/
def runChCmd (s : State) : Out :=
  let p := fld s.regs.chcmd 47 16
  match fld s.regs.chcmd 63 62 with
  | 1 => execChipperDemote p s
  | 2 => execChipperPromote p s
  | op => .next (setChcmd s op p 2)
/-- A command that cannot act at once stays busy; STATUS 1 says so until it is taken up again (log 2). -/
def orBusy (o : Out) (s : State) : Out := match o with | .refused (.notEnabled _) => .next s | o => o

/-- A write of a function's BAR2 register; read-only registers and offsets with none ignore it (R5, R420). -/
def execRegisterWrite (xVd xOff : Nat) (xV : BitVec 64) (s : State) : Out :=
  let w : Word := xV.truncate 32
  match xOff with
  | 0x0000 =>
    let op := fld xV 63 60
    let n := fld xV 59 48
    orBusy (runCtxCmd (setCtx s xVd op n 0) xVd) (setCtx s xVd op n 1)
  | 0x0008 => .next (s.updVd xVd fun v => { v with ctxarg0 := xV })
  | 0x0010 => .next (s.updVd xVd fun v => { v with ctxarg1 := xV })
  | 0x0100 =>
    let op := fld xV 63 60
    let n := fld xV 59 48
    let p := fld xV 47 16
    orBusy (runBmCmd (setBm s xVd op n p 0) xVd) (setBm s xVd op n p 1)
  | 0x0300 =>
    let s := s.updVd xVd fun v => { v with lmctl := setBit v.lmctl 0 (bit w 0) }
    .next (if bit w 1 == stopAsked s xVd then s else if bit w 1 then lmBegin s xVd else lmEnd s xVd)
  | off =>
    if xVd ≠ 0 then .next s
    else match off with
      | 0x0200 => .next (s.updReg fun g => { g with chctl := w &&& 0x8700FFFF })
      | 0x0208 => runChCmd (setChcmd s (fld xV 63 62) (fld xV 47 16) 0)
      | 0x0500 => .next (if s.prt.isEmpty then s.updReg fun g => { g with prtbase := xV &&& 0x0000FFFFFFFFF000 } else s)
      | 0x0508 => .next (if s.prt.isEmpty then s.updReg fun g => { g with prtsize := xV &&& 0xFFFFF } else s)
      | 0x0700 => .next (if bit w 6 then s.updReg fun g => { g with pwrstat := setBit g.pwrstat 6 false } else s)
      | 0x0708 => .next (writeCap s fun g => { g with pcapl := capBits w })
      | 0x0800 => .next (s.updReg fun g => { g with hrbase := xV })
      | 0x0808 => .next (s.updReg fun g => { g with hrlog := xV &&& 0x1F })
      | 0x0818 => .next (s.updReg fun g => { g with hrhead := xV })
      | _ => .next s

/-- What a read of a function's BAR2 returns (R5, R411, R414, R417 to R420, R424, R426, R427, R435 to R437). The reads that change
state besides have rows of their own (HRLOST, BPSTAT, the dirty bitmap). -/
def registerRead (s : State) (vd off : Nat) : BitVec 64 :=
  let v := s.vd vd
  if off = 0x0000 then v.ctxcmd
  else if off = 0x0008 then v.ctxarg0
  else if off = 0x0010 then v.ctxarg1
  else if off = 0x0100 then v.bmcmd
  else if off = 0x0300 then v.lmctl.zeroExtend 64
  else if off = 0x0400 then BitVec.ofNat 64 (if vd = 0 then s.pool else s.poolOf vd)
  else if 0x10000 ≤ off && off % 8 = 0 then (mapGet? v.dirty ((off - 0x10000) / 8)).getD 0
  else if vd ≠ 0 then 0
  else if off = 0x0200 then s.regs.chctl.zeroExtend 64
  else if off = 0x0208 then s.regs.chcmd
  else if off = 0x0500 then s.regs.prtbase
  else if off = 0x0508 then s.regs.prtsize
  else if 0x0600 ≤ off && off < 0x0690 && off % 8 = 0 then BitVec.ofNat 64 (bpstat (s.port ((off - 0x0600) / 8)))
  else if off = 0x0700 then s.regs.pwrstat.zeroExtend 64
  else if off = 0x0708 then s.regs.pcapl.zeroExtend 64
  else if 0x0710 ≤ off && off < 0x0740 && off % 8 = 0 then (s.regs.age.getD ((off - 0x0710) / 8) 0).zeroExtend 64
  else if off = 0x0800 then s.regs.hrbase
  else if off = 0x0808 then s.regs.hrlog
  else if off = 0x0810 then s.regs.hrtail
  else if off = 0x0818 then s.regs.hrhead
  else if off = 0x0820 then s.regs.hrlost
  else 0
/-- What a read over the management port returns: the PF's registers, as resources of the Redfish service (R420). -/
def managementRead (s : State) (off : Nat) : BitVec 64 := registerRead s 0 off
/-- PCAPL and PCAPR, which each of their writers sees (R435; the spec gives PCAPR no offset in BAR2). -/
def capsRead (s : State) : Word × Word := (s.regs.pcapl, s.regs.pcapr)
/-- The counts of corrections and poisonings, read as the ageing monitors are (R437; the spec gives them no offset). -/
def countsRead (s : State) : Nat × Nat := (s.regs.corrections, s.regs.poisonings)
/-- A configuration request of the host receives Configuration Request Retry Status until boot has released the link (R430). -/
def configRetry (s : State) : Bool := !s.slovi.linkUp
/-- The failing step, which the complex reports over the management port when boot stops (R430). -/
def bootReport (s : State) : Option Nat := s.slovi.failedStep
/-- What a read of a function's BAR0 returns: QNOTIFY.IDX in a doorbell window, and zero elsewhere (R369, R411, R413). -/
def doorbellRead (s : State) (vd off : Nat) : BitVec 64 :=
  if off % 65536 < 0x8000 && off % 8 = 0 then (mapGet? (s.vd vd).notify (off / 65536 * 4096 + off % 65536 / 8)).getD 0 else 0

/-! ## Page images (R85, R86, R428) -/

def crypt (f : BitVec 256 → BitVec 128 → List Byte → List Byte) (key : BitVec 256) (first : Nat) (img : List Byte) : List Byte :=
  ((blocksOf (img.length / 4096 + 1) img).mapIdx fun i b => f key (BitVec.ofNat 128 (first + i)) b).flatten
/-- R428: the page's image, from the values at the homes, under the migration key, for the host's buffer (hostBytes). A page of which a part is
poisoned, or is found so as it is read (R93), has no image: hostBytes is empty (the spec gives none: DESIGN CHOICE, log 16). -/
def execPageExport (xVd xPage : Nat) (s : State) : Out :=
  let ls := (s.lines.filter fun (l, _) => pageOfLine l == xPage).map Prod.fst
  match s.slovi.migKey with
  | none => notNow "no migration key is agreed"
  | some key =>
    if (s.page xPage).isNone || !inWindow s xVd xPage then notNow "the page is not a backed page of the window"
    else if !(ls.all s.calm) then notNow "lines of the page are in use"
    else
      let s := ls.foldl (fun s l => recallNow s l (BitVec.allOnes 32) false) s
      let (bad, s) := pageRead s xPage
      match (if bad || pagePoisoned s xPage then none else if inTier s xPage then tierValue s xPage else pageWords s xPage) with
      | none => .next { s with hostBytes := [] }
      | some ws => .next { s with hostBytes := crypt Config.xtsEncrypt key ((xPage - (s.vd xVd).base) * 32) (tierImage ws) }
/-- What an import finds or makes: rejected, waiting, or the state and whether the page is fixed-size. -/
inductive Importing where
  | rejected
  | waits (s : State)
  | ready (s : State) (fixed : Bool)
def Importing.bind (x : Importing) (f : State → Bool → Importing) : Importing :=
  match x with
  | .ready s fixed => f s fixed
  | y => y
/-- One billet of an imported page: its bytes, its class and its run; it waits for compaction where the pool is large enough but no frame offers
the run (R42). -/
def importBillet (s : State) (vd b : Nat) (fixed : Bool) (ws : List Word) : Importing :=
  let s0 := s
  let s := s.writeMem (b * 256) (ws.flatMap wordBytes)
  let (cls, n) := encodeClass ws
  if fixed then (let d := s.billet b; .ready (s.hbmWrite d.stack d.sect.toNat (s.sealRun b (runBytes 5 8 ws))) true)
  else if n = 0 then .ready (s.updBillet b fun _ => { cls := cls, sect := if cls = 1 then ws.headD 0 else 0 }) false
  else if s.poolOf vd < n then .rejected
  else match allocRun s b n with
    | none => .waits s0
    | some (st, f, s) => .ready (((s.poolTake vd n).updBillet b fun _ => { cls := cls, nsec := n, stack := st, sect := BitVec.ofNat 32 f }).hbmWrite st f (s.sealRun b (runBytes cls n ws))) false
/-- The page is backed where it is not yet; else its contents are ended first. -/
def importPage (s : State) (vd n p : Nat) : Importing :=
  match s.page p with
  | some g =>
    if !inWindow s vd p then .rejected
    else match pageEnds s p with
      | .waits s => .waits s
      | .ready s => if g.fixed then .ready (clearFixed s p) true else (let (k, s) := emptyPage s p; .ready (s.poolGive (s.vdOfPage p) k) false)
  | none => match (ctxOf s vd n).map fun x => backPage s vd x p false with
    | some (.done s) => .ready s false
    | some .waits => .waits s
    | some .rejected => .rejected
    | none => .rejected
/-- R428: the page is backed, where it is not yet, and rebuilt from the image. hostRd is 0 done, 1 to be
repeated once the page's copies have ended, 2 rejected. -/
def execPageImport (xVd xN xPage : Nat) (xImage : List Byte) (s : State) : Out :=
  let rejected := Host.Outcome.next { s with hostRd := 2 }
  match s.slovi.migKey with
  | none => notNow "no migration key is agreed"
  | some key =>
    match importPage s xVd xN xPage with
    | .rejected => rejected
    | .waits s' => if s' = s then notNow "accesses to the page are under way" else .next { s' with hostRd := 1 }
    | .ready s1 fixed =>
      match tierDecode (crypt Config.xtsDecrypt key ((xPage - (s.vd xVd).base) * 32) xImage) with
      | none => .next ({ s1 with hostRd := 0 }.poisonPage xPage)
      | some ws =>
        match (List.range 256).foldl (fun (acc : Importing) i => acc.bind fun s f => importBillet s xVd (xPage * 256 + i) f (ws.getD i [])) (.ready s1 fixed) with
        | .ready s _ => .next { s with hostRd := 0 }
        | .waits _ => notNow "no frame offers a run of the size needed: the part compacts (COMPACTION)"
        | .rejected => rejected

/-! ## Key slots (R29) -/

/-- A free slot takes a key from the random source. -/
def execKeySlotFill (xSlot : Nat) (s : State) : Out :=
  if (mapGet? s.slovi.keys xSlot).isSome then notNow "the slot is filled"
  else .next { s with slovi := { s.slovi with keys := mapSet s.slovi.keys xSlot (Config.randomDraw s.slovi.draws), draws := s.slovi.draws + 1 } }
/-- The slot is zeroised; demotions of pages under its key are abandoned (R90 step 8). -/
def execKeySlotRelease (xSlot : Nat) (s : State) : Out :=
  let mine := s.migrations.filter fun m => !m.up && ((s.page m.page).map Page.key) == some xSlot
  let s := mine.foldl (fun s m => abandonMigration s m.page) s
  .next { s with slovi := { s.slovi with keys := mapErase s.slovi.keys xSlot } }

end Sys2Proof.Machine
end

