-- ==== Sys2Proof/Machine/Boot.lean ====
section
/-! DEFINITION. The Slovi complex: SHA3-512, boot and the configuration record (R430 to R433), attestation and the migration key
(R434), and the ageing monitors (R437). -/

namespace Sys2Proof.Machine

/-! ## SHA3-512 (R432) -/

/-- The word in column x and row y of the 5 by 5 words of the permutation's state. -/
def spongeWord (a : List DWord) (x y : Nat) : DWord := a.getD (y % 5 * 5 + x % 5) 0
/-- The parity of a column. -/
def parityOf (a : List DWord) (x : Nat) : DWord := (List.range 5).foldl (fun p y => p ^^^ spongeWord a x y) 0
/-- Step θ of FIPS 202. -/
def stepTheta (a : List DWord) : List DWord := a.mapIdx fun i w => w ^^^ parityOf a (i % 5 + 4) ^^^ (parityOf a (i % 5 + 1)).rotateLeft 1
/-- Steps ρ and π together: the walk from (1, 0) that ρ's offsets are defined on moves each word to its place under π. -/
def stepRhoPi (a : List DWord) : List DWord :=
  ((List.range 24).foldl (fun (acc : Nat × Nat × List DWord) t =>
    let (x, y, b) := acc
    let z := (2 * x + 3 * y) % 5
    (y, z, listUpd b (z * 5 + y) fun _ => (spongeWord a x y).rotateLeft ((t + 1) * (t + 2) / 2 % 64))) (1, 0, a)).2.2
/-- Step χ. -/
def stepChi (a : List DWord) : List DWord := a.mapIdx fun i w => w ^^^ (spongeWord a (i + 2) (i / 5) &&& ~~~(spongeWord a (i + 1) (i / 5)))
/-- The register of step ι, one place on. -/
def iotaNext (r : Nat) : Nat := if r < 128 then 2 * r else (2 * r) ^^^ 0x171
/-- Seven of its bits make a round's constant: the register after them and the constant. -/
def iotaRound (r : Nat) : Nat × DWord :=
  (List.range 7).foldl (fun (acc : Nat × DWord) j => (iotaNext acc.1, if acc.1 % 2 = 1 then acc.2 ||| BitVec.ofNat 64 (2 ^ (2 ^ j - 1)) else acc.2)) (r, 0)
/-- The permutation: 24 rounds, the register of ι from 1 on. -/
def spongePermute (a : List DWord) : List DWord :=
  ((List.range 24).foldl (fun (acc : Nat × List DWord) _ =>
    let (r, c) := iotaRound acc.1
    (r, listUpd (stepChi (stepRhoPi (stepTheta acc.2))) 0 fun w => w ^^^ c)) (1, a)).2
/-- Padding to whole blocks of 72 bytes: the suffix 01 and the rule 10*1. -/
def padded (m : List Byte) : List Byte :=
  let n := (m.length / 72 + 1) * 72
  (List.range n).map fun i => m.getD i 0 ^^^ (if i = m.length then 0x06 else 0) ^^^ (if i + 1 = n then 0x80 else 0)
/-- SHA3-512 of FIPS 202: the blocks are taken in one after another, and the first 64 bytes of the state come out. -/
def sha3 (m : List Byte) : List Byte :=
  let p := padded m
  let a := (List.range (p.length / 72)).foldl (fun a k => spongePermute (a.mapIdx fun i w => if i < 9 then w ^^^ BitVec.ofNat 64 (leNat ((p.drop (72 * k + 8 * i)).take 8)) else w)) (List.replicate 25 0)
  (a.take 8).flatMap fun w => leBytes 8 w.toNat

/-! ## Images (R431, R432) -/

/-- The header's bytes but the signature, and with it; the spec gives its fields, not their places (log 17). -/
def headerOther (i : Image) : List Byte :=
  leBytes 4 i.magic.toNat ++ leBytes 4 i.kind ++ leBytes 4 i.bodyLen ++ leBytes 2 i.version.toNat ++ i.signerKey ++ i.chain ++ i.headerRest
def headerBytes (i : Image) : List Byte := headerOther i ++ i.signature
/-- R431: whether the image at a place of the boot order is accepted. The fields that the rule gives the header are longer together than the
4,096 bytes it gives them: their lengths stand, and the whole is not measured against 4,096 (DESIGN CHOICE, log 17). -/
def imageOk (v : Slovi) (b : BootInput) (place : Nat) (i : Image) : Bool :=
  i.magic == 0x5A563634 && i.kind == place && i.bodyLen == i.body.length && i.signerKey.length == 2592 && i.signature.length == 4627 &&
  sha3 b.rootKey == Config.romDigest && Config.chainVerify b.rootKey i.signerKey i.chain &&
  Config.mldsaVerify i.signerKey (headerOther i ++ i.body) i.signature && v.fuses.getD place 0 ≤ i.version.toNat
/-- The amendments with their signatures, as they are measured with the base (R433). -/
def amendBytes (as : List (Nat × Nat)) (sigs : List (List Byte)) : List Byte := (as.zip sigs).flatMap fun ((k, u), sig) => leBytes 2 k ++ leBytes 4 u ++ sig
/-- R432: the measurement register after one image; the record is measured whole, base and amendments. -/
def measure (m : List Byte) (i : Image) (more : List Byte) : List Byte := sha3 (m ++ sha3 (headerBytes i ++ i.body ++ more))

/-! ## Boot (R430, R433) -/

/-- What power-on keeps: the fuse counters, the record's base and amendments, AGE0 to AGE5 with the counts beside them (R437), and the model's
own fields. The identity key is derived at the first boot (R434). -/
def powerOnState (s : State) : State :=
  { State.reset with agenda := s.agenda, free := s.free, nextId := s.nextId, errors := s.errors, slovi := { fuses := s.slovi.fuses, identity := if s.slovi.identity.isEmpty then Config.identityKey else s.slovi.identity, baseRecord := s.slovi.baseRecord, amendments := s.slovi.amendments, amendSigs := s.slovi.amendSigs, draws := s.slovi.draws }, regs := { age := s.regs.age, ageStep := s.regs.ageStep, corrections := s.regs.corrections, poisonings := s.regs.poisonings } }
def bootFailed (s : State) (step : Nat) : State := { s with slovi := { s.slovi with step := step, failedStep := some step, linkUp := false } }
/-- The slot map (R70): the slots of a slice that an amendment has disabled go to the next enabled slice (R433 does not say which: DESIGN
CHOICE, log 83). -/
def slotMapOf (r : ConfigRecord) (off : List Nat) : List (Nat × Nat) :=
  if off.isEmpty then r.slotMap else
  let base := fun (h : Nat) => ((r.slotMap.find? fun p => p.1 == h).map Prod.snd).getD h
  let on := (dedup ((List.range 512).map base)).filter fun x => !off.contains x
  (List.range 512).map fun h =>
    (h, if off.contains (base h) then ((List.range 512).map fun k => (base h + k) % 512).find? on.contains |>.getD (base h) else base h)
/-- The thresholds (R83): an amendment may lower one. -/
def hotAtOf (r : ConfigRecord) (low : List Nat) : Map Nat :=
  low.foldl (fun m u => let pc := u / 1024; let t := u % 1024; mapSet m pc (min t ((mapGet? m pc).getD t))) (r.thresholds.foldl (fun m (pc, t) => mapSet m pc t) [])
/-- The port that the record gives: its width, its spare lane and its far end; an amendment may spare or narrow it (R422, R433). It is not yet
trained. -/
def portOf (r : ConfigRecord) (spared narrowed : List Nat) (p : Nat) : Port :=
  let w := ((r.portWidths.find? fun q => q.1 == p).map Prod.snd).getD 2
  { width := if narrowed.contains p then min w 1 else w, spared := r.sparedPorts.contains p || spared.contains p, peer := ((r.routes.find? fun q => q.1 == p).map Prod.snd).getD 0 }
/-- Step 4: the record's base and the amendments of earlier boots are applied; a new base discards every amendment. -/
def applyRecord (s : State) (base : List Byte) : State :=
  let r := Config.recordOf base
  let same := s.slovi.baseRecord = base
  let keep := if same then s.slovi.amendments else []
  let off := fun (k : Nat) => (keep.filter fun a => a.1 == k).map Prod.snd
  let slots := slotMapOf r (off 1)
  let slices := dedup ((List.range 512).map fun h => ((slots.find? fun p => p.1 == h).map Prod.snd).getD h)
  let pool := totalSectors - 16 * slices.length
  let ports := (List.range 18).map fun p => (p, portOf r (off 3) (off 5) p)
  let hw := ((List.range 512).filter fun p => r.halfWidth.contains p || (off 2).contains p).map fun p => (p, r.laneFaults.contains p || (off 2).contains p)
  let v : Slovi := { s.slovi with baseRecord := base, amendments := keep, amendSigs := if same then s.slovi.amendSigs else [], disabledCores := dedup (r.disabledCores ++ off 0), slotMap := slots, hotAt := hotAtOf r (off 4), laneRepairs := r.laneRepairs, deviceNumber := r.deviceNumber, tierBlocks := r.tierBlocks, metadataKey := Config.randomDraw s.slovi.draws, draws := s.slovi.draws + 1 }
  { s with slovi := v, halfWidth := hw, ports := ports, pool := pool, vds := s.vds.map fun ((k, d) : Nat × Vd) => (k, if k = 0 then { d with share := pool } else d) }
/-- Step 4's end: the ports that are not down are trained and up. -/
def trainPorts (s : State) : State := { s with ports := s.ports.map fun ((p, x) : Nat × Port) => (p, if x.width = 0 then x else { x with state := 2 }) }
/-- M after the accepted images, in their order; the record is measured whole (R432, R433). -/
def measureAll (v : Slovi) (images : List Image) : List Byte :=
  let base := (images.getLast?.map Image.body).getD []
  let more := if v.baseRecord = base then amendBytes v.amendments v.amendSigs else []
  (images.mapIdx fun i x => (i, x)).foldl (fun m (i, x) => measure m x (if i = 3 then more else [])) v.measure
/-- Power-on: the steps of R430 in order; a failed step stops boot with the link down. -/
def execPowerOn (xBoot : BootInput) (s : State) : Out :=
  let b := xBoot
  let s := powerOnState s
  let s : State := { s with slovi := { s.slovi with strap := b.strap } }
  let v := s.slovi
  if !b.sourceOk then .next (bootFailed s 1)
  else if b.images.length ≠ 4 || !((b.images.mapIdx fun i x => imageOk v b i x).all id) then .next (bootFailed s 2)
  else
    let base := (b.images.getLast?.map Image.body).getD []
    let s := { s with slovi := { v with fuses := b.images.map fun i => i.version.toNat, rootKey := b.rootKey, measure := measureAll v b.images } }
    let s := applyRecord s base
    let s : State := { s with slovi := { s.slovi with recordDigest := sha3 (base ++ amendBytes s.slovi.amendments s.slovi.amendSigs) } }
    if !b.selfTestOk then .next (bootFailed s 4)
    else
      -- a unit that self-test finds bad is disabled by an amendment, from the next reset on (R433)
      let s := b.selfTestAmends.foldl (fun s (k, u) => addAmend s k u) (b.selfTestDisables.foldl (fun s c => addAmend s 0 c) s)
      .next (trainPorts { s with slovi := { s.slovi with step := 6, failedStep := none, linkUp := true } })

/-! ## Attestation (R434) -/

/-- The evidence: nonce, M, fuse counters, amendment count, digest of the record; signed with the identity key. -/
def evidenceOf (v : Slovi) (nonce : BitVec 256) : List Byte :=
  leBytes 32 nonce.toNat ++ v.measure ++ v.fuses.flatMap (leBytes 2) ++ leBytes 2 v.amendments.length ++ sha3 (v.baseRecord ++ amendBytes v.amendments v.amendSigs)
def execSpdmChallenge (xNonce : BitVec 256) (s : State) : Out :=
  let e := evidenceOf s.slovi xNonce
  .next { s with slovi := { s.slovi with evidence := e, signature := Config.mldsaSign e } }
/-- A peer's evidence holds: its key is certified up to the root, it has signed, and what it has signed is over this complex's nonce. -/
def peerAttested (v : Slovi) (p : PeerEvidence) : Bool :=
  Config.chainVerify v.rootKey p.key p.chain && Config.mldsaVerify p.key p.evidence p.signature &&
  p.evidence.take 32 == leBytes 32 (Config.randomDraw v.draws).toNat
/-- The two complexes attest each other: this one draws a nonce for the peer and answers the peer's. Where both accept, the key is agreed under
the peer's certified identity. -/
def execMigrationKeyAgreement (xPeer : PeerEvidence) (s : State) : Out :=
  let v := s.slovi
  let e := evidenceOf v xPeer.nonce
  let ok := peerAttested v xPeer && !xPeer.kem.isEmpty
  .next { s with slovi := { v with draws := v.draws + 1, evidence := e, signature := Config.mldsaSign e, peerKey := if ok then xPeer.key else [], migKey := if ok then some (Config.migrationKey (xPeer.key ++ xPeer.kem)) else none } }

/-! ## Ageing (R437) -/

/-- The 30-day step below 90 that a prediction lies in: 4 at 90 days or more. -/
def ageStepOf (eold : Nat) : Nat := if 90 ≤ eold then 4 else eold / 30 + 1
def execAgeingRead (xDie xEold xWear : Nat) (s : State) : Out :=
  let e := min xEold 65535
  let now := ageStepOf e
  let was := s.regs.ageStep.getD xDie 4
  let s := s.updReg fun g => { g with age := listUpd g.age xDie fun _ => BitVec.ofNat 32 (e * 65536 + xWear % 256 * 256), ageStep := listUpd g.ageStep xDie fun _ => min now was }
  .next (if now < was then s.postDevice (simpleRecord s 13 xDie) else s)

end Sys2Proof.Machine
end

