-- ==== Sys2Proof/Machine/Matrix.lean ====
section
/-! DEFINITION. The matrix engine and the accumulator store (R333 to R350). -/

namespace Sys2Proof.Machine

/-! ## Issue (R335, R340, R341) -/

/-- The part of the team's commands in the matrix queue. -/
def matCount (s : State) (core tk : Nat) : Nat := ((s.core core).matq.filter fun m => m.team == tk).length
/-- A scratchpad access of the bundle's threads has not performed (R153). -/
def padPending (e : Env) : Bool := openLanes e.team (e.lanes.map Prod.snd) fun i l => i.scratch && (l.stage == .ready || l.stage == .sent)
/-- A matrix instruction issues once for its whole group (R334, R335); a full queue waits (R340). -/
def matIssue (s : State) (i : Instr) (check : Env → State → Option FaultInfo × State) (cmd : Env → MatCmd) : Out :=
  withGate s i fun e s =>
    if !e.team.acc then .next (faultBundle s e (insnFault e .illinsn))
    else if e.lanes.length ≠ 32 then .next (faultBundle s e (insnFault e .illconv))
    else if 8 ≤ matCount s e.core e.tk || padPending e then .next (stallAt s e)
    else match check e s with
      | (some f, s) => .next (faultBundle s e f)
      | (none, s) =>
        let iss := s.nextId
        let s := enterWindow s e i [] none false true
        let nvr := ((s.ctx e.team.ctx).map fun c => c.nvr.toNat % 2).getD 1
        let m := { cmd e with team := e.tk, grp := e.g, iss := iss, insn := i, bundle := e.b.lanes, nvr := nvr, owners := e.lanes }
        .next (advance (s.updCore e.core fun c => { c with matq := c.matq ++ [m] }) e)
def blankMat : MatCmd := { team := 0, grp := 0, iss := 0, insn := .tick }
/-- R341: k rows at an address whose BYTE is zero lie in an allocation. -/
def padBounds (e : Env) (a k : Nat) : Option FaultInfo :=
  if padByte a = 0 && (padRows e.team a k).isSome then none else some { insnFault e .sbound with addrs := [a] }
/-- R104, R341: none of the k rows is expired at the tick of the issue. -/
def padStale (s : State) (e : Env) (a k : Nat) : Option FaultInfo :=
  let c := s.core e.core
  (padRows e.team a k).bind fun (al, p) =>
    ((List.range k).find? fun i => rowExpired c al (p + i) c.rtick).map fun i => { insnFault e .sstale with addrs := [a + 256 * i], aux := rowAge c (p + i) c.rtick }
/-- Bounds of every operand before staleness of any that is read (R98), after metadata errors in their rows have taken effect (R109). -/
def padOperands (s : State) (e : Env) (ops : List (Nat × Nat)) (reads : Bool) : Option FaultInfo × State :=
  match firstSome (fun (a, k) => padBounds e a k) ops with
  | some f => (some f, s)
  | none =>
    if !reads then (none, s) else
    let s := ops.foldl (fun s (a, k) => match padRows e.team a k with | some (_, p) => (List.range k).foldl (fun s i => checkStamp s e.core (p + i)) s | none => s) s
    (firstSome (fun (a, k) => padStale s e a k) ops, s)

/-- Rows of an xmma operand. -/
def xmmaRows (f : XF) : Nat × Nat := if f.fn = 0 then (2 * (f.pa.toNat + 1), 2 * (f.pb.toNat + 1)) else (32, 32)
def execXmma (f : XF) (s : State) : Out :=
  matIssue s (.xmma f)
    (fun e s => padOperands s e [((uni32 s e f.a).toNat, (xmmaRows f).1), ((uni32 s e f.b).toNat, (xmmaRows f).2)] true)
    fun e => { blankMat with a := (uni32 s e f.a).toNat, b := (uni32 s e f.b).toNat }
def execXzero (f : XF) (s : State) : Out := matIssue s (.xzero f) (fun _ s => (none, s)) fun _ => blankMat
def execXfill (f : XF) (s : State) : Out := matIssue s (.xfill f) (fun _ s => (none, s)) fun e => { blankMat with a := (uni32 s e f.a).toNat }
def execXrd (f : XF) (s : State) : Out := matIssue s (.xrd f) (fun _ s => (none, s)) fun _ => blankMat
/-- xwr reads its v block at issue (R340). -/
def execXwr (f : XF) (s : State) : Out :=
  matIssue s (.xwr f) (fun _ s => (none, s)) fun e =>
    { blankMat with vals := e.lanes.map fun (_, tid) => (List.range 16).map fun j => src32 s e tid (f.a + BitVec.ofNat 11 j) }
def execXscale (f : XF) (s : State) : Out := matIssue s (.xscale f) (fun _ s => (none, s)) fun e => { blankMat with b := (uni32 s e f.b true).toNat }
def execXdrain (f : XF) (s : State) : Out :=
  matIssue s (.xdrain f)
    (fun e s => if f.fn.toNat % 4 = 1 then padOperands s e [((uni32 s e f.a).toNat, 64)] (f.fn.toNat = 5) else (none, s))
    fun e => { blankMat with a := if f.fn.toNat % 4 = 2 then (uni64 e f.a).toNat else (uni32 s e f.a).toNat }
def execXquant (f : XF) (s : State) : Out :=
  matIssue s (.xquant f)
    (fun e s =>
      let b := (uni32 s e f.b).toNat
      match padOperands s e [((uni32 s e f.a).toNat, 2 * (f.fn.toNat + 1))] false with
      | (some g, s) => (some g, s)
      | (none, s) => (if (padByte b = 0 || padByte b = 128) && (padRows e.team b 1).isSome then none else some { insnFault e .sbound with addrs := [b] }, s))
    fun e => { blankMat with a := (uni32 s e f.a).toNat, b := (uni32 s e f.b).toNat }

/-! ## Cells (R333) -/

/-- The accumulator cell of a tile's cell. -/
def cellAt (f : XF) (i j : Nat) : Nat := (16 * f.tr.toNat + i) * 256 + 16 * f.tc.toNat + j
def getCell (c : Core) (f : XF) (i j : Nat) : Nat := (cellGet c.acc (cellAt f i j)).toNat
/-- Rows and columns of a window, every cell in turn. -/
def window (rows cols : Nat) : List (Nat × Nat) := (List.range rows).flatMap fun i => (List.range cols).map fun j => (i, j)
/-- Every cell of a window from a function of its place; all are computed from the cells as they stand. -/
def setWindow (c : Core) (f : XF) (rows cols : Nat) (v : Nat → Nat → Nat) : Core :=
  { c with acc := (window rows cols).foldl (fun acc (i, j) => cellSet acc (cellAt f i j) (BitVec.ofNat 32 (v i j))) c.acc }
/-- R350: errors in the cells that a command reads (array 8, log 4): correctable ones are corrected and counted (R93); whether one is
uncorrectable, and which cell. -/
def cellError (s : State) (core : Nat) (f : XF) (rows cols : Nat) : Option Nat × State :=
  let hits := s.errors.filter fun (a, p) => (a == 8 || a == 108) && p / 65536 == core && (window rows cols).any fun (i, j) => cellAt f i j == p % 65536
  hits.foldl (fun (acc : Option Nat × State) (_, p) =>
    let (bad, s) := acc.2.takeError 8 p
    (if acc.1.isNone && bad then some (p % 65536) else acc.1, s)) (none, s)

/-! ## Operands (R336) and xmma (R342, R343) -/

/-- A plane word: plane b of vector v. -/
def planeWord (bs : List Byte) (b v : Nat) : Nat := leNat ((bs.drop ((b * 64 + v) * 8)).take 8)
/-- R336: element k of vector v of p planes. -/
def planeElem (bs : List Byte) (p v k : Nat) : Int :=
  (List.range p).foldl (fun (n : Int) b =>
    let w : Int := if (planeWord bs b v).testBit k then (2 ^ b : Nat) else 0
    if b + 1 = p then n - w else n + w) 0
/-- Element k of vector r of a 16-bit float operand: row r of A, column r of B. -/
def halfElem (bs : List Byte) (r c : Nat) : Nat := leNat ((bs.drop ((r * 64 + c) * 2)).take 2)
/-- The exact sum of products; signs and infinities as R343 gives. -/
def sumVals (vs : List FVal) : FVal :=
  if vs.any (· == .nan) then .nan
  else
    let pos := vs.contains (.inf false)
    let neg := vs.contains (.inf true)
    if pos && neg then .nan else if pos then .inf false else if neg then .inf true
    else
      let e := vs.foldl (fun (m : Int) v => match v with | .fin _ _ e => min m e | _ => m) 0
      let t := vs.foldl (fun (n : Int) v => match v with
        | .fin s m x => let y : Int := (m * 2 ^ (x - e).toNat : Nat)
          if s then n - y else n + y
        | _ => n) 0
      if t = 0 then .fin (vs.all fun v => match v with | .fin s m _ => s && m == 0 | _ => false) 0 0
      else .fin (decide (t < 0)) t.natAbs e
def rne32 (v : FVal) : Nat := packVal fmtF32 0 v
def add32 (x y : Nat) : Nat := fAdd fmtF32 0 x y
/-- VER 1 (R343). -/
def dotTree (f : Fmt) (a b : Nat → Nat) : Nat :=
  let s := fun q => rne32 (sumVals ((List.range 8).map fun i => mulVal (f.val (a (8 * q + i))) (f.val (b (8 * q + i)))))
  add32 (add32 (add32 (s 0) (s 1)) (add32 (s 2) (s 3))) (add32 (add32 (s 4) (s 5)) (add32 (s 6) (s 7)))
/-- VER 0 (R343). -/
def dotSerial (f : Fmt) (c : Nat) (a b : Nat → Nat) : Nat :=
  (List.range 64).foldl (fun x k =>
    ftz fmtF32 (add32 x (ftz fmtF32 (rne32 (mulVal (f.val (ftz f (a k))) (f.val (ftz f (b k)))))))) (ftz fmtF32 c)
/-- One cell of an xmma. -/
def mmaCell (f : XF) (ver : Nat) (as bs : List Byte) (c i n : Nat) : Nat :=
  if f.fn = 0 then
    low32 ((c : Int) + (List.range 64).foldl (fun (t : Int) k => t + planeElem as (f.pa.toNat + 1) i k * planeElem bs (f.pb.toNat + 1) n k) 0)
  else
    let fm := if f.fn = 1 then fmtBF16 else fmtF16
    let a := fun k => halfElem as i k
    let b := fun k => halfElem bs n k
    if ver % 2 = 1 then add32 c (dotTree fm a b) else dotSerial fm c a b

/-- The team of a command is killed; the command's consuming thread is the lowest of its bundle (log 18). -/
def matKill (s : State) (m : MatCmd) (c : Cause) (addr : Nat) : State :=
  killTeam s m.team (engineFault s m.team m.iss ((matTids s m).headD 0) c ((((s.team m.team).bind fun t => findIss t m.iss).map Inflight.word).getD 0) addr) (matTids s m).head?
/-- k rows as the engine reads them; a metadata error expires its row, a data error kills the team (R109). -/
def engineRows (s : State) (core : Nat) (t : Team) (m : MatCmd) (a k : Nat) : Option (List Byte) × State :=
  match padRows t a k with
  | none => (some (List.replicate (256 * k) 0), s)
  | some (_, p) =>
    (List.range k).foldl (fun (acc : Option (List Byte) × State) i =>
      let (bad, s) := takeRowError (checkStamp acc.2 core (p + i)) core (p + i)
      if bad then (none, matKill s m .spoison (a + 256 * i))
      else (acc.1.map fun bs => bs ++ padRead s core (p + i) 0 256, s)) (some [], s)
/-- k rows written from row p of an allocation on. -/
def engineWrite (s : State) (core : Nat) (t : Team) (a : Nat) (rows : List (List Byte)) : State :=
  (List.range rows.length).foldl (fun s i =>
    match padRows t (a + 256 * i) 1 with
    | some (al, p) => padWrite s core al p 0 (rows.getD i [])
    | none => s) s

/-! ## Scaling and quantising (R345, R348) -/

def scaleCell (f : XF) (ver b c : Nat) : Nat :=
  let fl := fun x => if ver % 2 = 1 then x else ftz fmtF32 x
  let b := fmtF32.val (fl b)
  if f.pa = 0 then fl (rne32 (mulVal (fmtF32.val (fl c)) b))
  else
    let x := sext 32 c
    fl (rne32 (mulVal (.fin (decide (x < 0)) x.natAbs 0) b))
/-- Nearest integer to n / d, ties to even. -/
def rneDiv (n d : Nat) : Nat :=
  let q := n / d
  let r := n % d
  if 2 * r < d then q else if d < 2 * r then q + 1 else if q % 2 = 0 then q else q + 1
/-- A finite magnitude m × 2^e. -/
def magOf (x : Nat) : Nat × Int := match fmtF32.val (x % 2 ^ 31) with | .fin _ m e => (m, e) | _ => (0, 0)
/-- R348: the scale of a block and its quantised values. -/
def quantRow (p : Nat) (cells : List Nat) : Nat × List Int :=
  let qmax := 2 ^ (p - 1) - 1
  if cells.any fun c => fmtF32.inf ≤ c % 2 ^ 31 then (0x7FC0, cells.map fun _ => 0)
  else
    let m := cells.foldl (fun m c => max m (c % 2 ^ 31)) 0
    if m = 0 then (0, cells.map fun _ => 0)
    else
      let scale := min (divVal fmtBF16 2 (fmtF32.val m) (.fin false qmax 0)) 0x7F7F
      match fmtBF16.val scale with
      | .fin _ sm se =>
        (scale, cells.map fun c =>
          let (cm, ce) := magOf c
          let q := if se ≤ ce then rneDiv (cm * 2 ^ (ce - se).toNat) sm else rneDiv cm (sm * 2 ^ (se - ce).toNat)
          let q : Int := if 2 ^ 31 ≤ c then -(q : Int) else q
          max (-(qmax : Int) - 1) (min qmax q))
      | _ => (scale, cells.map fun _ => 0)
/-- Bit b of a two's-complement value. -/
def intBit (q : Int) (b : Nat) : Bool := (q / (2 ^ b : Nat)) % 2 == 1
/-- The plane words of a block: plane b. -/
def blockPlane (qs : List Int) (b : Nat) : List Byte :=
  leBytes 8 ((List.range 64).foldl (fun n k => if intBit (qs.getD k 0) b then n + 2 ^ k else n) 0)

/-! ## The engine takes a command (R340, R345, R346, R348) -/

/-- The command leaves the queue, and completes where its effect is whole (R164). -/
def matDone (s : State) (core : Nat) (m : MatCmd) (done : Bool) : State :=
  let s := s.updCore core fun c => { c with matq := c.matq.drop 1, subPowered := true, subIdleSince := c.cycles }
  if done then progress (engineDone s m.team m.iss) m.team else s
/-- xrd and xdrain.v: lane, registers from n, values. The lanes are those of the group at issue, wherever its threads have gone since. -/
def toRegs (s : State) (m : MatCmd) (n : Nat) (lane : Nat) (vals : List Nat) : State :=
  match m.owners.find? fun x => x.1 == lane with
  | none => s
  | some (_, tid) => s.updThread m.team tid fun th => { th with v := cellsSet th.v n (vals.map (BitVec.ofNat 32)) }
/-- A drain's bytes, row by row. -/
def tileBytes (c : Core) (f : XF) : List (List Byte) := (List.range 64).map fun i => (List.range 64).flatMap fun j => leBytes 4 (getCell c f i j)
/-- xdrain.s (R346). -/
def drainPad (s : State) (core : Nat) (t : Team) (m : MatCmd) (f : XF) : State :=
  let rows := tileBytes (s.core core) f
  if f.fn.toNat = 1 then engineWrite s core t m.a rows
  else match engineRows s core t m m.a 64 with
    | (none, s) => s
    | (some old, s) => engineWrite s core t m.a (rows.mapIdx fun i r => addWords (f.pa == 1) m.nvr ((old.drop (256 * i)).take 256) r)
/-- xdrain.m hands its stream to a copy channel (R347). -/
def drainMem (s : State) (core : Nat) (t : Team) (m : MatCmd) (f : XF) : State :=
  let c : CopyCmd := { blankCopy with id := m.iss, team := m.team, tid := ((matTids s m).head?).getD 0, op := 4, fn := f.pa.toNat, dst := m.a % 2 ^ 32, src := m.a / 2 ^ 32, rcd := m.nvr, grp := m.grp, iss := m.iss, stream := (tileBytes (s.core core) f).flatten, addOn := f.fn.toNat = 6, ctx := t.ctx }
  setCopyQueue s core f.b.toNat (queueAt s core f.b.toNat ++ [c])
/-- xquant (R348). All planes are written, then all scales: where the scale area overlaps the plane rows, the scales stand (the rule gives no
order between blocks: DESIGN CHOICE, log 97). -/
def quantise (s : State) (core : Nat) (t : Team) (m : MatCmd) (f : XF) : State :=
  let p := f.fn.toNat + 1
  let c := s.core core
  let fl := fun x => if m.nvr % 2 = 1 then x else ftz fmtF32 x
  let blocks := (List.range 64).map fun i => quantRow p ((List.range 64).map fun k => fl (getCell c f i k))
  let planes := (List.range p).flatMap fun b => blocks.flatMap fun (_, qs) => blockPlane qs b
  let s := engineWrite s core t m.a ((List.range (2 * p)).map fun r => (planes.drop (256 * r)).take 256)
  match padPlace t m.b 128 with
  | some (al, r) => padWrite s core al r (padByte m.b) (blocks.flatMap fun (sc, _) => leBytes 2 sc)
  | none => s

/-- What a command reads of the accumulator: rows and columns. -/
def MatCmd.reads (m : MatCmd) : Nat × Nat :=
  match m.insn with
  | .xmma _ => (64, 64)
  | .xdrain _ => (64, 64)
  | .xquant _ => (64, 64)
  | .xscale _ => (64, 64)
  | .xrd _ => (32, 16)
  | _ => (0, 0)
def MatCmd.tile (m : MatCmd) : XF :=
  match m.insn with
  | .xmma f | .xzero f | .xfill f | .xrd f | .xwr f | .xscale f | .xdrain f | .xquant f => f
  | _ => ⟨0, 0, 0, 0, 0, 0, 0, 0, 0, 0, 0, 0⟩

/-- The command's effect. -/
def matEffect (s : State) (core : Nat) (t : Team) (m : MatCmd) : State :=
  match m.insn with
  | .xmma f =>
    match engineRows s core t m m.a (xmmaRows f).1 with
    | (none, s) => s
    | (some as, s) => match engineRows s core t m m.b (xmmaRows f).2 with
      | (none, s) => s
      | (some bs, s) => s.updCore core fun c => setWindow c f 64 64 fun i n => mmaCell f m.nvr as bs (getCell c f i n) i n
  | .xzero f => s.updCore core fun c => setWindow c f 64 64 fun _ _ => 0
  | .xfill f => s.updCore core fun c => setWindow c f 64 64 fun _ _ => m.a
  | .xrd f => (List.range 32).foldl (fun s l => toRegs s m f.d.toNat l ((List.range 16).map fun j => getCell (s.core core) f l j)) s
  | .xwr f => s.updCore core fun c => setWindow c f 32 16 fun l j => ((m.vals.getD l []).getD j 0).toNat
  | .xscale f => s.updCore core fun c => setWindow c f 64 64 fun i j => scaleCell f m.nvr m.b (getCell c f i j)
  | .xdrain f =>
    match f.fn.toNat % 4 with
    | 0 => (List.range 64).foldl (fun s i => toRegs s m (f.d.toNat + (if i < 32 then 0 else 64)) (i % 32) ((List.range 64).map fun j => getCell (s.core core) f i j)) s
    | 1 => drainPad s core t m f
    | _ => drainMem s core t m f
  | .xquant f => quantise s core t m f
  | _ => s

/-- A drain to memory waits while its channel is full (R347). -/
def matBlocked (s : State) (core : Nat) (m : MatCmd) : Bool :=
  match m.insn with
  | .xdrain f => f.fn.toNat % 4 == 2 && 16 ≤ (queueAt s core f.b.toNat).length
  | _ => false

def execMatrixCommand (xCore : Nat) (s : State) : Out :=
  match (s.core xCore).matq with
  | [] => notNow "the matrix queue is empty"
  | m :: _ =>
    match s.team m.team with
    | none => .next (s.updCore xCore fun c => { c with matq := c.matq.drop 1 })
    | some t =>
      if (s.core xCore).asleep then notNow "the core is asleep"
      else if matBlocked s xCore m then notNow "the copy channel is full"
      else if m.pads.any fun (a, k) => (List.range k).any fun i => engineFirst s xCore m.team (matTids s m) m.iss (padHandle a) (padRow a + i) then notNow "an older copy command of the threads comes first"
      else
        let (cell, s) := cellError s xCore m.tile m.reads.1 m.reads.2
        let bad := cell.isSome
        let s := match cell with | some a => matKill s m .apoison a | none => matEffect s xCore t m
        let mem := match m.insn with | .xdrain f => f.fn.toNat % 4 == 2 | _ => false
        .next (matDone s xCore m (bad || !mem))

/-- R349: the sub-arrays power down; only time changes. On a core where no team holds the accumulator store no context's csr.xidle counts, and they
power down at once (the rule does not say: DESIGN CHOICE, log 116). -/
def execSubArrayPowerDown (xCore : Nat) (s : State) : Out :=
  let c := s.core xCore
  let idle := ((c.accOwner.bind s.team).bind fun t => s.ctx t.ctx).map fun x => x.xidle.toNat % 65536
  if !c.matq.isEmpty || !c.subPowered then notNow "a command is queued, or the sub-arrays are down already"
  else match idle with
    | some 0 => notNow "csr.xidle never powers them down"
    | some n => if c.cycles < c.subIdleSince + n then notNow "not idle for long enough" else .next (s.updCore xCore fun c => { c with subPowered := false })
    | none => .next (s.updCore xCore fun c => { c with subPowered := false })

end Sys2Proof.Machine
end

