-- ==== Sys2Proof/Machine/Dispatch.lean ====
section
/-! DEFINITION. One arm for each row of the opcode table: the meaning of the instruction or hardware step. -/

namespace Sys2Proof.Machine

/-- The meaning of an instruction or a hardware step in a state. -/
def exec (i : Instr) (s : State) : Host.Outcome State Fault Refusal :=
  match i with
  | .iadd f => Sys2Proof.Machine.execIadd f s
  | .isub f => Sys2Proof.Machine.execIsub f s
  | .imul f => Sys2Proof.Machine.execImul f s
  | .imulh f => Sys2Proof.Machine.execImulh f s
  | .imad f => Sys2Proof.Machine.execImad f s
  | .imin f => Sys2Proof.Machine.execImin f s
  | .imax f => Sys2Proof.Machine.execImax f s
  | .iabs f => Sys2Proof.Machine.execIabs f s
  | .ineg f => Sys2Proof.Machine.execIneg f s
  | .and f => Sys2Proof.Machine.execAnd f s
  | .or f => Sys2Proof.Machine.execOr f s
  | .xor f => Sys2Proof.Machine.execXor f s
  | .not f => Sys2Proof.Machine.execNot f s
  | .shl f => Sys2Proof.Machine.execShl f s
  | .shr f => Sys2Proof.Machine.execShr f s
  | .rot f => Sys2Proof.Machine.execRot f s
  | .bfx f => Sys2Proof.Machine.execBfx f s
  | .bfi f => Sys2Proof.Machine.execBfi f s
  | .popc f => Sys2Proof.Machine.execPopc f s
  | .clz f => Sys2Proof.Machine.execClz f s
  | .brev f => Sys2Proof.Machine.execBrev f s
  | .prmt f => Sys2Proof.Machine.execPrmt f s
  | .sel f => Sys2Proof.Machine.execSel f s
  | .icmp f => Sys2Proof.Machine.execIcmp f s
  | .iadd64 f => Sys2Proof.Machine.execIadd64 f s
  | .isub64 f => Sys2Proof.Machine.execIsub64 f s
  | .imad64 f => Sys2Proof.Machine.execImad64 f s
  | .lea f => Sys2Proof.Machine.execLea f s
  | .mov f => Sys2Proof.Machine.execMov f s
  | .idot4 f => Sys2Proof.Machine.execIdot4 f s
  | .isat f => Sys2Proof.Machine.execIsat f s
  | .fadd f => Sys2Proof.Machine.execFadd f s
  | .fsub f => Sys2Proof.Machine.execFsub f s
  | .fmul f => Sys2Proof.Machine.execFmul f s
  | .ffma f => Sys2Proof.Machine.execFfma f s
  | .fdiv f => Sys2Proof.Machine.execFdiv f s
  | .fsqrt f => Sys2Proof.Machine.execFsqrt f s
  | .frcp f => Sys2Proof.Machine.execFrcp f s
  | .fmin f => Sys2Proof.Machine.execFmin f s
  | .fmax f => Sys2Proof.Machine.execFmax f s
  | .fcmp f => Sys2Proof.Machine.execFcmp f s
  | .frsq f => Sys2Proof.Machine.execFrsq f s
  | .fex2 f => Sys2Proof.Machine.execFex2 f s
  | .flg2 f => Sys2Proof.Machine.execFlg2 f s
  | .fsin f => Sys2Proof.Machine.execFsin f s
  | .fcos f => Sys2Proof.Machine.execFcos f s
  | .ftanh f => Sys2Proof.Machine.execFtanh f s
  | .fclass f => Sys2Proof.Machine.execFclass f s
  | .frnd f => Sys2Proof.Machine.execFrnd f s
  | .hadd2 f => Sys2Proof.Machine.execHadd2 f s
  | .hmul2 f => Sys2Proof.Machine.execHmul2 f s
  | .hfma2 f => Sys2Proof.Machine.execHfma2 f s
  | .hmin2 f => Sys2Proof.Machine.execHmin2 f s
  | .hmax2 f => Sys2Proof.Machine.execHmax2 f s
  | .fcvt f => Sys2Proof.Machine.execFcvt f s
  | .fcvti f => Sys2Proof.Machine.execFcvti f s
  | .icvtf f => Sys2Proof.Machine.execIcvtf f s
  | .icvt f => Sys2Proof.Machine.execIcvt f s
  | .mand f => Sys2Proof.Machine.execMand f s
  | .mor f => Sys2Proof.Machine.execMor f s
  | .mxor f => Sys2Proof.Machine.execMxor f s
  | .mnot f => Sys2Proof.Machine.execMnot f s
  | .mmov f => Sys2Proof.Machine.execMmov f s
  | .mpop f => Sys2Proof.Machine.execMpop f s
  | .mfirst f => Sys2Proof.Machine.execMfirst f s
  | .vote f => Sys2Proof.Machine.execVote f s
  | .shfl f => Sys2Proof.Machine.execShfl f s
  | .bcast f => Sys2Proof.Machine.execBcast f s
  | .lred f => Sys2Proof.Machine.execLred f s
  | .lscan f => Sys2Proof.Machine.execLscan f s
  | .gadd f => Sys2Proof.Machine.execGadd f s
  | .gsub f => Sys2Proof.Machine.execGsub f s
  | .gmul f => Sys2Proof.Machine.execGmul f s
  | .gand f => Sys2Proof.Machine.execGand f s
  | .gor f => Sys2Proof.Machine.execGor f s
  | .gxor f => Sys2Proof.Machine.execGxor f s
  | .gshl f => Sys2Proof.Machine.execGshl f s
  | .gshr f => Sys2Proof.Machine.execGshr f s
  | .gcmp f => Sys2Proof.Machine.execGcmp f s
  | .gmov f => Sys2Proof.Machine.execGmov f s
  | .gsel f => Sys2Proof.Machine.execGsel f s
  | .gadd64 f => Sys2Proof.Machine.execGadd64 f s
  | .gmin f => Sys2Proof.Machine.execGmin f s
  | .gmax f => Sys2Proof.Machine.execGmax f s
  | .gfop f => Sys2Proof.Machine.execGfop f s
  | .gldk f => Sys2Proof.Machine.execGldk f s
  | .bra f => Sys2Proof.Machine.execBra f s
  | .brm f => Sys2Proof.Machine.execBrm f s
  | .brg f => Sys2Proof.Machine.execBrg f s
  | .call f => Sys2Proof.Machine.execCall f s
  | .calli f => Sys2Proof.Machine.execCalli f s
  | .ret f => Sys2Proof.Machine.execRet f s
  | .jmpi f => Sys2Proof.Machine.execJmpi f s
  | .mbegin f => Sys2Proof.Machine.execMbegin f s
  | .mleave f => Sys2Proof.Machine.execMleave f s
  | .mwait f => Sys2Proof.Machine.execMwait f s
  | .exit f => Sys2Proof.Machine.execExit f s
  | .regroup f => Sys2Proof.Machine.execRegroup f s
  | .prio f => Sys2Proof.Machine.execPrio f s
  | .yield f => Sys2Proof.Machine.execYield f s
  | .pushm f => Sys2Proof.Machine.execPushm f s
  | .popm f => Sys2Proof.Machine.execPopm f s
  | .ld f => Sys2Proof.Machine.execLd f s
  | .st f => Sys2Proof.Machine.execSt f s
  | .ldk f => Sys2Proof.Machine.execLdk f s
  | .ldp f => Sys2Proof.Machine.execLdp f s
  | .stp f => Sys2Proof.Machine.execStp f s
  | .atom f => Sys2Proof.Machine.execAtom f s
  | .red f => Sys2Proof.Machine.execRed f s
  | .pref f => Sys2Proof.Machine.execPref f s
  | .fence f => Sys2Proof.Machine.execFence f s
  | .pfence f => Sys2Proof.Machine.execPfence f s
  | .wback f => Sys2Proof.Machine.execWback f s
  | .binfo f => Sys2Proof.Machine.execBinfo f s
  | .rsvq f => Sys2Proof.Machine.execRsvq f s
  | .pgyield f => Sys2Proof.Machine.execPgyield f s
  | .mark f => Sys2Proof.Machine.execMark f s
  | .resid f => Sys2Proof.Machine.execResid f s
  | .sld f => Sys2Proof.Machine.execSld f s
  | .sst f => Sys2Proof.Machine.execSst f s
  | .satom f => Sys2Proof.Machine.execSatom f s
  | .salloc f => Sys2Proof.Machine.execSalloc f s
  | .sfree f => Sys2Proof.Machine.execSfree f s
  | .srenew f => Sys2Proof.Machine.execSrenew f s
  | .sage f => Sys2Proof.Machine.execSage f s
  | .bar f => Sys2Proof.Machine.execBar f s
  | .qperm f => Sys2Proof.Machine.execQperm f s
  | .qpost f => Sys2Proof.Machine.execQpost f s
  | .qtake f => Sys2Proof.Machine.execQtake f s
  | .qfree f => Sys2Proof.Machine.execQfree f s
  | .qinit f => Sys2Proof.Machine.execQinit f s
  | .qstat f => Sys2Proof.Machine.execQstat f s
  | .cpy f => Sys2Proof.Machine.execCpy f s
  | .cpwp f => Sys2Proof.Machine.execCpwp f s
  | .tsr f => Sys2Proof.Machine.execTsr f s
  | .cpfill f => Sys2Proof.Machine.execCpfill f s
  | .cpcancel f => Sys2Proof.Machine.execCpcancel f s
  | .copySegment xCore xCh => Sys2Proof.Machine.execCopySegment xCore xCh s
  | .xmma f => Sys2Proof.Machine.execXmma f s
  | .xzero f => Sys2Proof.Machine.execXzero f s
  | .xfill f => Sys2Proof.Machine.execXfill f s
  | .xrd f => Sys2Proof.Machine.execXrd f s
  | .xwr f => Sys2Proof.Machine.execXwr f s
  | .xscale f => Sys2Proof.Machine.execXscale f s
  | .xdrain f => Sys2Proof.Machine.execXdrain f s
  | .xquant f => Sys2Proof.Machine.execXquant f s
  | .matrixCommand xCore => Sys2Proof.Machine.execMatrixCommand xCore s
  | .nop f => Sys2Proof.Machine.execNop f s
  | .csrr f => Sys2Proof.Machine.execCsrr f s
  | .csrw f => Sys2Proof.Machine.execCsrw f s
  | .rsvaddTransfer xCtx xAmount => Sys2Proof.Machine.execRsvaddTransfer xCtx xAmount s
  | .hintdropRead xCtx => Sys2Proof.Machine.execHintdropRead xCtx s
  | .trap f => Sys2Proof.Machine.execTrap f s
  | .brk f => Sys2Proof.Machine.execBrk f s
  | .tretReplay f => Sys2Proof.Machine.execTretReplay f s
  | .tretSkip f => Sys2Proof.Machine.execTretSkip f s
  | .launch f => Sys2Proof.Machine.execLaunch f s
  | .clock f => Sys2Proof.Machine.execClock f s
  | .sleep f => Sys2Proof.Machine.execSleep f s
  | .sleepEnd xTeam xTid => Sys2Proof.Machine.execSleepEnd xTeam xTid s
  | .waitf f => Sys2Proof.Machine.execWaitf f s
  | .issue xCore xSlot => Sys2Proof.Machine.execIssue xCore xSlot s
  | .clauseFetch xTeam xTid => Sys2Proof.Machine.execClauseFetch xTeam xTid s
  | .localLoad xTeam xIss xLane => Sys2Proof.Machine.execLocalLoad xTeam xIss xLane s
  | .send xTeam xIss xLane => Sys2Proof.Machine.execSend xTeam xIss xLane s
  | .enter xTeam xIss xLane => Sys2Proof.Machine.execEnter xTeam xIss xLane s
  | .leave xCore xEntry => Sys2Proof.Machine.execLeave xCore xEntry s
  | .storeAck xCore xSlice => Sys2Proof.Machine.execStoreAck xCore xSlice s
  | .ownershipGrant xCore xSlice => Sys2Proof.Machine.execOwnershipGrant xCore xSlice s
  | .admissionRefused xCore xSlice => Sys2Proof.Machine.execAdmissionRefused xCore xSlice s
  | .loadReply xCore xSlice => Sys2Proof.Machine.execLoadReply xCore xSlice s
  | .complete xTeam xIss => Sys2Proof.Machine.execComplete xTeam xIss s
  | .port xCore xRow => Sys2Proof.Machine.execPort xCore xRow s
  | .tick => Sys2Proof.Machine.execTick s
  | .walk xCore xWalker => Sys2Proof.Machine.execWalk xCore xWalker s
  | .admissionRequest xLine => Sys2Proof.Machine.execAdmissionRequest xLine s
  | .homeLoadFill xCore xLine => Sys2Proof.Machine.execHomeLoadFill xCore xLine s
  | .homeSisFill xCore xLine => Sys2Proof.Machine.execHomeSisFill xCore xLine s
  | .homeWtLoad xCore xLine => Sys2Proof.Machine.execHomeWtLoad xCore xLine s
  | .ownershipRequest xCore xLine => Sys2Proof.Machine.execOwnershipRequest xCore xLine s
  | .homeWrite xCore xLine => Sys2Proof.Machine.execHomeWrite xCore xLine s
  | .homeAtomic xCore xLine => Sys2Proof.Machine.execHomeAtomic xCore xLine s
  | .walkRead xCore xEa => Sys2Proof.Machine.execWalkRead xCore xEa s
  | .release xCore xLine => Sys2Proof.Machine.execRelease xCore xLine s
  | .evictionNotice xCore xLine => Sys2Proof.Machine.execEvictionNotice xCore xLine s
  | .invalidation xCore xSlice => Sys2Proof.Machine.execInvalidation xCore xSlice s
  | .invalidationAck xCore xLine => Sys2Proof.Machine.execInvalidationAck xCore xLine s
  | .recall xCore xSlice => Sys2Proof.Machine.execRecall xCore xSlice s
  | .recallReply xCore xLine => Sys2Proof.Machine.execRecallReply xCore xLine s
  | .leaseKill xCore xPage => Sys2Proof.Machine.execLeaseKill xCore xPage s
  | .closeMessage xCore xSlice => Sys2Proof.Machine.execCloseMessage xCore xSlice s
  | .closeAck xCore xBillet => Sys2Proof.Machine.execCloseAck xCore xBillet s
  | .billetClose xBillet => Sys2Proof.Machine.execBilletClose xBillet s
  | .l1Eviction xCore xLine => Sys2Proof.Machine.execL1Eviction xCore xLine s
  | .l2Eviction xLine => Sys2Proof.Machine.execL2Eviction xLine s
  | .translationEviction xCore xIdx => Sys2Proof.Machine.execTranslationEviction xCore xIdx s
  | .filterEviction xCore xBillet => Sys2Proof.Machine.execFilterEviction xCore xBillet s
  | .compaction xBillet xFrame => Sys2Proof.Machine.execCompaction xBillet xFrame s
  | .patrolScrub xBillet xFound => Sys2Proof.Machine.execPatrolScrub xBillet xFound s
  | .chipperSelect xPage => Sys2Proof.Machine.execChipperSelect xPage s
  | .demotionCopy xPage => Sys2Proof.Machine.execDemotionCopy xPage s
  | .freeze xPage => Sys2Proof.Machine.execFreeze xPage s
  | .demotionAbandon xPage => Sys2Proof.Machine.execDemotionAbandon xPage s
  | .promotion xPage => Sys2Proof.Machine.execPromotion xPage s
  | .promotionCommit xPage => Sys2Proof.Machine.execPromotionCommit xPage s
  | .leaseSweep xCore => Sys2Proof.Machine.execLeaseSweep xCore s
  | .expirySweep xCore => Sys2Proof.Machine.execExpirySweep xCore s
  | .temperatureReading xCore xDeciC => Sys2Proof.Machine.execTemperatureReading xCore xDeciC s
  | .bandFall xCore => Sys2Proof.Machine.execBandFall xCore s
  | .governorInterval xCore xKhz => Sys2Proof.Machine.execGovernorInterval xCore xKhz s
  | .keepaliveRenew xTeam => Sys2Proof.Machine.execKeepaliveRenew xTeam s
  | .keepaliveEnd xTeam => Sys2Proof.Machine.execKeepaliveEnd xTeam s
  | .retentionSleep xCore => Sys2Proof.Machine.execRetentionSleep xCore s
  | .retentionWake xCore => Sys2Proof.Machine.execRetentionWake xCore s
  | .emergencyRetentionSleep xCore => Sys2Proof.Machine.execEmergencyRetentionSleep xCore s
  | .powerCapExceeded xEnough xEmergency => Sys2Proof.Machine.execPowerCapExceeded xEnough xEmergency s
  | .qnotify xVd xN xQ xIdx => Sys2Proof.Machine.execQnotify xVd xN xQ xIdx s
  | .packetTakeUp xCtx xQ => Sys2Proof.Machine.execPacketTakeUp xCtx xQ s
  | .dependenceMet xCtx xQ xIdx => Sys2Proof.Machine.execDependenceMet xCtx xQ xIdx s
  | .teamPlacement xCtx xQ xIdx xCore => Sys2Proof.Machine.execTeamPlacement xCtx xQ xIdx xCore s
  | .teamRetire xTeam => Sys2Proof.Machine.execTeamRetire xTeam s
  | .packetComplete xCtx xQ xIdx => Sys2Proof.Machine.execPacketComplete xCtx xQ xIdx s
  | .preemptiveDeschedule xCtx xQ xIdx xCore => Sys2Proof.Machine.execPreemptiveDeschedule xCtx xQ xIdx xCore s
  | .teamStop xTeam => Sys2Proof.Machine.execTeamStop xTeam s
  | .stopTimeout xTeam => Sys2Proof.Machine.execStopTimeout xTeam s
  | .teamDrain xTeam => Sys2Proof.Machine.execTeamDrain xTeam s
  | .teamResume xCtx xEntry xCore => Sys2Proof.Machine.execTeamResume xCtx xEntry xCore s
  | .throttleHandoff xCore xSlot => Sys2Proof.Machine.execThrottleHandoff xCore xSlot s
  | .lookout xTeam => Sys2Proof.Machine.execLookout xTeam s
  | .trapDelivery xTeam xTid => Sys2Proof.Machine.execTrapDelivery xTeam xTid s
  | .teamKill xTeam => Sys2Proof.Machine.execTeamKill xTeam s
  | .hostApertureWrite xDa xBytes => Sys2Proof.Machine.execHostApertureWrite xDa xBytes s
  | .hostApertureRead xDa xLen => Sys2Proof.Machine.execHostApertureRead xDa xLen s
  | .hostAtomicop xOp xDa xWide xA xB => Sys2Proof.Machine.execHostAtomicop xOp xDa xWide xA xB s
  | .hostCompletionError xTeam xIss xLane => Sys2Proof.Machine.execHostCompletionError xTeam xIss xLane s
  | .hostCompletionTimeout xTeam xIss xLane => Sys2Proof.Machine.execHostCompletionTimeout xTeam xIss xLane s
  | .thinningDoorbell xCtx => Sys2Proof.Machine.execThinningDoorbell xCtx s
  | .ctxBind xVd xN xCcb => Sys2Proof.Machine.execCtxBind xVd xN xCcb s
  | .ctxDestroy xVd xN => Sys2Proof.Machine.execCtxDestroy xVd xN s
  | .ctxKillTeam xVd xN xQ xIdx xTeam => Sys2Proof.Machine.execCtxKillTeam xVd xN xQ xIdx xTeam s
  | .ctxDescheduleTeam xVd xN xQ xIdx xTeam => Sys2Proof.Machine.execCtxDescheduleTeam xVd xN xQ xIdx xTeam s
  | .ctxDebugReplay xVd xN xPslot => Sys2Proof.Machine.execCtxDebugReplay xVd xN xPslot s
  | .ctxDebugSkip xVd xN xPslot => Sys2Proof.Machine.execCtxDebugSkip xVd xN xPslot s
  | .ctxReloadImages xVd xN => Sys2Proof.Machine.execCtxReloadImages xVd xN s
  | .ctxReserveTransfer xVd xN xAmount => Sys2Proof.Machine.execCtxReserveTransfer xVd xN xAmount s
  | .back xVd xN xPage => Sys2Proof.Machine.execBack xVd xN xPage s
  | .backFixedSize xVd xN xPage => Sys2Proof.Machine.execBackFixedSize xVd xN xPage s
  | .unback xVd xN xPage => Sys2Proof.Machine.execUnback xVd xN xPage s
  | .reassign xVd xN xPage => Sys2Proof.Machine.execReassign xVd xN xPage s
  | .chipperDemote xPage => Sys2Proof.Machine.execChipperDemote xPage s
  | .chipperPromote xPage => Sys2Proof.Machine.execChipperPromote xPage s
  | .lmTrack xVd xOn => Sys2Proof.Machine.execLmTrack xVd xOn s
  | .lmStop xVd => Sys2Proof.Machine.execLmStop xVd s
  | .lmStopComplete xVd => Sys2Proof.Machine.execLmStopComplete xVd s
  | .lmStopRelease xVd => Sys2Proof.Machine.execLmStopRelease xVd s
  | .dirtyWordRead xVd xWord => Sys2Proof.Machine.execDirtyWordRead xVd xWord s
  | .hrlostRead => Sys2Proof.Machine.execHrlostRead s
  | .bpstatRead xPort => Sys2Proof.Machine.execBpstatRead xPort s
  | .pcaplWrite xV => Sys2Proof.Machine.execPcaplWrite xV s
  | .pcaprWrite xV => Sys2Proof.Machine.execPcaprWrite xV s
  | .registerWrite xVd xOff xV => Sys2Proof.Machine.execRegisterWrite xVd xOff xV s
  | .peerLoad xDev xLine => Sys2Proof.Machine.execPeerLoad xDev xLine s
  | .peerStore xDev xPage => Sys2Proof.Machine.execPeerStore xDev xPage s
  | .localPageAccess xPage xStore => Sys2Proof.Machine.execLocalPageAccess xPage xStore s
  | .revocation xDev xPage => Sys2Proof.Machine.execRevocation xDev xPage s
  | .revocationAck xDev xChange xDirty => Sys2Proof.Machine.execRevocationAck xDev xChange xDirty s
  | .revocationTimeout xPage => Sys2Proof.Machine.execRevocationTimeout xPage s
  | .flitReceive xPort xFlit => Sys2Proof.Machine.execFlitReceive xPort xFlit s
  | .nakReplay xPort xSeq => Sys2Proof.Machine.execNakReplay xPort xSeq s
  | .portRecovery xPort xGood xSpareGood => Sys2Proof.Machine.execPortRecovery xPort xGood xSpareGood s
  | .recoveryTimeout xPort => Sys2Proof.Machine.execRecoveryTimeout xPort s
  | .requestGiveUp xTeam xIss xLane => Sys2Proof.Machine.execRequestGiveUp xTeam xIss xLane s
  | .halfWidthEntry xPc xLaneFault => Sys2Proof.Machine.execHalfWidthEntry xPc xLaneFault s
  | .fullWidthReturn xPc => Sys2Proof.Machine.execFullWidthReturn xPc s
  | .powerOn xBoot => Sys2Proof.Machine.execPowerOn xBoot s
  | .spdmChallenge xNonce => Sys2Proof.Machine.execSpdmChallenge xNonce s
  | .migrationKeyAgreement xPeer => Sys2Proof.Machine.execMigrationKeyAgreement xPeer s
  | .pageExport xVd xPage => Sys2Proof.Machine.execPageExport xVd xPage s
  | .pageImport xVd xN xPage xImage => Sys2Proof.Machine.execPageImport xVd xN xPage xImage s
  | .keySlotFill xSlot => Sys2Proof.Machine.execKeySlotFill xSlot s
  | .keySlotRelease xSlot => Sys2Proof.Machine.execKeySlotRelease xSlot s
  | .ageingRead xDie xEold xWear => Sys2Proof.Machine.execAgeingRead xDie xEold xWear s
  | .leaseKillAck xCore xPage => Sys2Proof.Machine.execLeaseKillAck xCore xPage s
  | .recoveryEnd xPort => Sys2Proof.Machine.execRecoveryEnd xPort s
  | .hostCompletion xTeam xIss xLane xBytes => Sys2Proof.Machine.execHostCompletion xTeam xIss xLane xBytes s
  | .subArrayPowerDown xCore => Sys2Proof.Machine.execSubArrayPowerDown xCore s

end Sys2Proof.Machine
end

