-- ==== Sys2Proof/Machine/Schedule.lean ====
section
/-! DEFINITION. Which step is taken (R150, log 2): the agenda's first, once it may be taken; meanwhile, and with an empty agenda, an
issue, a hardware step that the rules enable, or a tick, by turns, so that none of them waits for ever. -/

namespace Sys2Proof.Machine

/-- A list begun at another place. -/
def rotate {α : Type} (n : Nat) (l : List α) : List α := let k := n % (l.length + 1); l.drop k ++ l.take k

/-- The first group that may issue: core, team key, group slot; the issue slots take turns. -/
def nextIssue (s : State) : Option (Nat × Nat × Nat) :=
  let cores := dedup (s.teams.map fun (_, t) => t.core)
  let slots := cores.flatMap fun c => [(c, 0), (c, 1), (c, 2), (c, 3)]
  firstSome (fun (c, slot) => (pickGroup s c slot).map fun (tk, g) => (c, tk, g)) (rotate (s.turn / 2) slots)

/-- After a step from a state: an issue is counted and the issuing bundle forgotten once its instruction has run, then the end of the
step. -/
def conclude (old : State) (i : Instr) (o : Out) : Out :=
  finish (match o with
    | .next s => .next (if i.opcode.isSome then { countIssue old i s with issuer := none } else s)
    | .fault r => .fault r
    | .refused r => .refused r)

/-- A bundle issues: it is prepared, its next word decoded, and the instruction run; a word that is no instruction traps. -/
def issueNow (s : State) (c tk g : Nat) : Out :=
  match prepare s c tk g with
  | (none, s) => finish (.next s)
  | (some w, s) =>
    match decode w with
    | some i => conclude s i (exec i s)
    | none => finish (.next { illegalWord s with issuer := none })

/-! ## Hardware steps that may be enabled -/

/-- Steps of the window, the store buffers and the engines (R150). -/
def windowSteps (s : State) : List (State → Out) :=
  s.teams.flatMap (fun (k, t) =>
    (if t.kill.isSome then [execTeamKill k] else []) ++
    ((List.range t.threads.length).filterMap fun i => (t.threads[i]?).bind fun th =>
      if th.fault.isSome then some (execTrapDelivery k i)
      else if th.fetch && th.st == .runnable then some (execClauseFetch k i)
      else if sleepOver s t.core th then some (execSleepEnd k i) else none) ++
    t.iw.flatMap fun i => execComplete k i.id :: i.lanes.flatMap fun l =>
      if l.stage == .ready || l.stage == .sent || l.stage == .entered then [execLocalLoad k i.id l.lane, execSend k i.id l.lane, execEnter k i.id l.lane, execRequestGiveUp k i.id l.lane] else []) ++
  s.cores.flatMap fun (c, k) =>
    k.sb.map (fun e => execLeave c e.id) ++ k.port.map (fun o => execPort c o.row) ++
    (if k.matq.isEmpty then [] else [execMatrixCommand c]) ++
    (k.copyq.map fun (ch, _) => execCopySegment c ch) ++ (k.holders.map fun (slot, _) => execThrottleHandoff c slot) ++
    k.walkers.flatMap fun (n, w) => if w.ended.isSome then [] else [execWalk c n, execWalkRead c w.entry]
/-- Steps that the head of a channel to a core asks for (R135). -/
def downSteps (c h : Nat) (m : DownMsg) : State → Out :=
  match m with
  | .fill _ _ _ _ _ _ _ => execLoadReply c h
  | .bytes _ _ _ _ _ => execLoadReply c h
  | .poison _ _ _ _ => execLoadReply c h
  | .ack _ _ _ => execStoreAck c h
  | .grant _ _ _ _ _ _ => execOwnershipGrant c h
  | .refuse _ _ _ _ => execAdmissionRefused c h
  | .inv _ => execInvalidation c h
  | .recall _ _ _ => execRecall c h
  | .close _ => execCloseMessage c h
  | .kill p => execLeaseKill c p
/-- The step of a request's sort (R124). -/
def reqStep (r : HomeReq) : State → Out :=
  match r.kind with
  | .fill pol _ _ => if pol = 2 then execHomeSisFill r.core r.line else execHomeLoadFill r.core r.line
  | .wtLoad => execHomeWtLoad r.core r.line
  | .own _ => execOwnershipRequest r.core r.line
  | .write => execHomeWrite r.core r.line
  | .atom _ _ _ => execHomeAtomic r.core r.line
/-- Steps that the head of a channel to a home asks for. -/
def upSteps (c : Nat) (m : UpMsg) : State → Out :=
  match m with
  | .req r => reqStep r
  | .release l _ _ _ => execRelease c l
  | .evict l => execEvictionNotice c l
  | .invAck l => execInvalidationAck c l
  | .recallReply l _ _ _ => execRecallReply c l
  | .closeAck b => execCloseAck c b
  | .killAck p => execLeaseKillAck c p
/-- Lines that may have to give a way up: those of L1 sets with no way free, and of L2 sets with none (R69, R72, R76). -/
def evictSteps (s : State) : List (State → Out) :=
  s.cores.flatMap (fun (c, k) => (k.l1.filter fun (l, _) => 16 ≤ (k.l1.filter fun (x, _) => x % 128 == l % 128).length).map fun (l, _) => execL1Eviction c l) ++
  (s.lines.filter fun (l, x) => x.present && 16 ≤ (s.lines.filter fun (y, z) => z.present && s.l2Set y == s.l2Set l).length).map fun (l, _) => execL2Eviction l
/-- A page import waits, as it does for runs of the sizes it needs (R42, R428). -/
def importWaits (s : State) : Bool :=
  match s.agenda.head? with
  | some (.pageImport v n p img) => (match execPageImport v n p img s with | .refused _ => true | _ => false)
  | _ => false
/-- Runs are moved together where a run of 8 sectors finds no frame, or an import waits for runs (R42). -/
def compactSteps (s : State) : List (State → Out) :=
  if framesShort s || importWaits s then (match compactChoice s with | some (b, f) => [execCompaction b f] | none => []) else []
/-- Steps of the homes and their channels. -/
def homeSteps (s : State) : List (State → Out) :=
  s.cores.flatMap (fun (c, k) =>
    (k.down.filterMap fun (h, q) => q.head?.map (downSteps c h)) ++ k.up.filterMap fun (_, q) => q.head?.map (upSteps c)) ++
  s.lines.flatMap (fun (l, _) => match nextReq s l with | some r => if r.isHost then [] else [execAdmissionRequest l, reqStep r] | none => []) ++
  (s.billets.filter fun (b, d) => d.closing || (d.byGrant && d.opened && (mapGet? s.prt (pageOfBillet b)).isNone)).map (fun (b, _) => execBilletClose b) ++
  evictSteps s ++ compactSteps s ++
  (s.cores.flatMap fun (_, k) => (k.sb.filter fun e => e.sent && e.n == 0 && !e.closed).map fun e => execBilletClose (billetOf e.ea)) ++
  s.migrations.flatMap fun m =>
    if m.up then [execPromotion m.page, execPromotionCommit m.page] else [execDemotionAbandon m.page, execDemotionCopy m.page, execFreeze m.page]
/-- A team of the packet is placed where it fits best. -/
def placeStep (x : Nat) (c : Ctx) (r : Running) (s : State) : Out :=
  match bestCore s x c r.queue r.index r.packet r.avoid with
  | some k => execTeamPlacement x r.queue r.index k s
  | none => notNow "no core fits"
/-- Room is made for it. -/
def roomStep (x : Nat) (c : Ctx) (r : Running) (s : State) : Out :=
  match roomFor s x c r with
  | some (_, _, k, _) => execPreemptiveDeschedule x r.queue r.index k s
  | none => notNow "no core can be made free"
/-- A saved team resumes: on its core, where it is kept alive, else where it fits best. -/
def resumeStep (x : Nat) (c : Ctx) (e q i : Nat) (s : State) : Out :=
  match (keptTeam s x e).map fun (_, t) => t.core with
  | some k => execTeamResume x e k s
  | none => match (findRunning c q i).bind fun r => bestCore s x c q i r.packet none with
    | some k => execTeamResume x e k s
    | none => notNow "no core fits"
/-- Steps of the dispatcher and of pre-emption (R369 to R388). -/
def dispatchSteps (s : State) : List (State → Out) :=
  s.ctxs.flatMap (fun (x, c) =>
    c.running.flatMap (fun r =>
      if !r.depMet then [execDependenceMet x r.queue r.index]
      else if r.unplaced then placeStep x c r :: (if r.prio = 3 && r.waitsSince + 100000 ≤ s.ns then [roomStep x c r] else [])
      else [execPacketComplete x r.queue r.index]) ++
    (c.saved.map fun (e, m) => resumeStep x c e m.queue m.idx) ++
    ((List.range c.qcount).filter fun q => (mapGet? (s.vd c.vd).notify (c.loc * 4096 + q)).isSome).map (execPacketTakeUp x)) ++
  s.teams.flatMap fun (k, t) =>
    [execTeamRetire k, execTeamStop k, execTeamDrain k, execStopTimeout k, execLookout k] ++
    (if t.kept then
      (if renewDue s t then [execKeepaliveRenew k] else []) ++ [execKeepaliveEnd k]
    else [])
/-- Steps of the fabric, of sleeping cores and of commands under way. -/
def partSteps (s : State) : List (State → Out) :=
  s.peerAsks.map (fun (l, st) => execLocalPageAccess (pageOfLine l) st) ++
  s.peerReqs.filterMap (fun (d, m) => match m with
    | .want l st => some (if st then execPeerStore d (pageOfLine l) else execPeerLoad d l)
    | .access _ _ _ _ ea _ st _ _ => some (if st then execPeerStore d (pageOf ea) else execPeerLoad d (lineOf ea))
    | .revoke p _ _ => some (execRevocation d p)
    | .revoked p ds n => some (execRevocationAck d (p, n) ds)
    | _ => none) ++
  (hostOverdue s).map (fun (k, i, l) => execHostCompletionTimeout k i l) ++
  (s.prt.filter fun (_, r) => !r.pend.isEmpty).map (fun (p, _) => execRevocationTimeout p) ++
  s.ports.flatMap (fun (p, x) => (match x.nakFrom with | some q => [execNakReplay p q] | none => []) ++ (if x.state = 3 then [execRecoveryTimeout p] else [])) ++
  s.cores.flatMap (fun (c, k) =>
    (if k.asleep then [execRetentionWake c] else if k.emergency then [execEmergencyRetentionSleep c] else if k.sleepAsked then [execRetentionSleep c] else []) ++
    (if k.belowSince.isEmpty then [] else [execBandFall c])) ++
  s.vds.flatMap fun (v, d) =>
    (if fld d.ctxcmd 1 0 = 1 then [fun s => runCtxCmd s v] else []) ++ (if fld d.bmcmd 1 0 = 1 then [fun s => runBmCmd s v] else []) ++
    (if bit d.lmctl 1 && !bit d.lmctl 2 then [execLmStopComplete v] else []) ++ (if d.asked.isSome then [assignStep v] else [])
/-- The first of them, from this turn's place on, that changes something. -/
def hardwareStep (s : State) : Option Out :=
  firstSome (fun (f : State → Out) => match f s with
    | .next t => if t = s then none else some (.next t)
    | .fault r => some (.fault r)
    | .refused _ => none) (rotate s.turn (windowSteps s ++ homeSteps s ++ dispatchSteps s ++ partSteps s))

/-- The step taken when the agenda names none that may be taken. -/
def autoStep (s : State) : Out :=
  let t := { s with turn := s.turn + 1 }
  let issue : Option Out := (nextIssue s).map fun (c, tk, g) => issueNow t c tk g
  let hardware := fun (_ : Unit) => (hardwareStep s).map fun o => finish (match o with | .next u => .next { u with turn := s.turn + 1, stalled := [] } | o => o)
  let tick := fun (_ : Unit) => conclude t .tick (exec .tick t)
  if s.turn % 64 = 63 then tick ()
  else if s.turn % 2 = 0 then
    match issue with
    | some o => o
    | none => (hardware ()).getD (tick ())
  else
    match hardware () with
    | some o => o
    | none => issue.getD (tick ())

/-- Steps that reach the part through the host port: none is taken before boot releases the link (R430). -/
def fromHost : Instr → Bool
  | .qnotify _ _ _ _ | .hostApertureWrite _ _ | .hostApertureRead _ _ | .hostAtomicop _ _ _ _ _ | .thinningDoorbell _ | .ctxBind _ _ _ | .ctxDestroy _ _
  | .ctxKillTeam _ _ _ _ _ | .ctxDescheduleTeam _ _ _ _ _ | .ctxDebugReplay _ _ _ | .ctxDebugSkip _ _ _ | .ctxReloadImages _ _ | .ctxReserveTransfer _ _ _
  | .back _ _ _ | .backFixedSize _ _ _ | .unback _ _ _ | .reassign _ _ _ | .chipperDemote _ | .chipperPromote _ | .lmTrack _ _ | .lmStop _ | .lmStopRelease _
  | .dirtyWordRead _ _ | .hrlostRead | .bpstatRead _ | .pcaplWrite _ | .registerWrite _ _ _ | .pageExport _ _ | .pageImport _ _ _ _ | .keySlotFill _ | .keySlotRelease _ => true
  | _ => false

/-- The step the agenda names; one that may not be taken yet waits at its head. -/
def agendaStep (i : Instr) (rest : List Instr) (s : State) : Out :=
  if fromHost i && !s.slovi.linkUp then autoStep s
  else
    let t := { s with agenda := rest }
    match conclude t i (exec i (if i.opcode.isSome || i == .tick then t else { t with stalled := [] })) with
    | .refused (.notEnabled _) => autoStep s
    | o => o

end Sys2Proof.Machine
end

