-- ==== Sys2Proof/Machine/Step.lean ====
section
/-! DEFINITION. One step of the machine: the next step of the agenda, or, where it names none, the step of Machine/Schedule.lean. -/

namespace Sys2Proof.Machine

/-- One step (R150). -/
def step (s : State) : Host.Outcome State Fault Refusal :=
  match s.agenda with
  | i :: rest => agendaStep i rest s
  | [] => autoStep s

/-- The state in which the next step runs exactly the instruction of a table word (log 10). -/
def State.withFetchWord (s : State) (nbits w : Nat) : State := placeProbe s (BitVec.ofNat 64 (w % 2 ^ nbits))

end Sys2Proof.Machine
end

