-- ==== Sys2Proof/Safety.lean ====
section
/-! DEFINITION. What the statements are made of: a settled state, an instruction that issues, what an instruction leaves alone, and
what it writes. -/

namespace Sys2Proof

open Machine

/-- No wait of the team has a condition that holds (R182, R281, R314, R365). -/
def TeamSettled (t : Team) : Prop := ∀ th ∈ t.threads, wakes t th = false
/-- No team waits for what has come about. -/
def Settled (s : State) : Prop := ∀ p ∈ s.teams, TeamSettled p.2

/-- The bundle e issues i and nothing puts the issue off or forbids it: admission (R51), acquires (R153), a pfence (R161), the encoding,
footprint, literals and liveness word (R172, R214, R219, R232), handler mode (R392), registers awaited (R290), a full flag (R365), loads
that may be poisoned (R56), an error in a register read (R174). -/
structure Issues (s : State) (i : Instr) (e : Env) : Prop where
  bundle : envOf s = some e
  admitted : loadLike i = true ∨ (e.lanes.map Prod.snd).any (unadmitted e.team) = false
  acquired : acquirePending e.team (e.lanes.map Prod.snd) = false
  unfenced : afterFence i = false ∨ fencePending e.team (e.lanes.map Prod.snd) = false
  legal : Machine.legal e i = true
  live : liveBad e.team e.b.words = false
  outside : e.b.handler = false ∨ nestedInsn i = false
  free : interlocked e i = false
  room : ∀ k, e.flag i = some k → e.grp.flag k < 63
  clean : groupEffect i = false ∨ maybePoisoned e.team (e.lanes.map Prod.snd) = false
  intact : regError s e i = none

/-- Nothing but teams differs: memory, caches, homes, cores, contexts, special registers and every queue are as before. -/
def OnlyTeams (s t : State) : Prop := t = { s with teams := t.teams }

/-- One thread keeps its link stack, private stack pointer, mode and place; of its v registers only those of w change. -/
def ThreadKept (w : Nat → Prop) (th th' : Thread) : Prop :=
  th' = { th with v := th'.v, st := th'.st, rp := th'.rp, fetch := th'.fetch, xfer := th'.xfer, safe := th'.safe, replay := th'.replay } ∧
  ∀ r, ¬ w r → cellGet th'.v r = cellGet th.v r

/-- One group keeps its flags, role and place; of its g registers only those of wg, and of its m registers only those of wm change. -/
def GroupKept (wg wm : Nat → Prop) (gr gr' : Group) : Prop :=
  gr' = { gr with g := gr'.g, m := gr'.m, bundle := gr'.bundle, hold := gr'.hold } ∧
  (∀ r, ¬ wg r → cellGet gr'.g r = cellGet gr.g r) ∧ ∀ k, ¬ wm k → gr'.mask k = gr.mask k

/-- What an instruction that only writes registers leaves alone: everything but its team; of the team everything but its threads and
groups; every other group; every register but those named: v registers by thread, g and m registers of its group. -/
structure Kept (s t : State) (e : Env) (wv : Nat → Nat → Prop) (wg wm : Nat → Prop) : Prop where
  rest : OnlyTeams s t
  others : ∀ k, k ≠ e.tk → t.team k = s.team k
  team : ∃ tm, t.team e.tk = some tm ∧ tm = { e.team with threads := tm.threads, groups := tm.groups }
  threads : ∀ tid th', t.thread e.tk tid = some th' → ∃ th, s.thread e.tk tid = some th ∧ ThreadKept (wv tid) th th'
  group : ∀ gr', t.group e.tk e.g = some gr' → GroupKept wg wm e.grp gr'
  groups : ∀ g, g ≠ e.g → t.group e.tk g = s.group e.tk g

/-- k registers from n on hold x, the lowest 32 bits in the first (R216). -/
def holds (c : Cells 32) (n k x : Nat) : Prop := ∀ j, j < k → cellGet c (n + j) = BitVec.ofNat 32 (x / 2 ^ (32 * j))

/-- A thread's v registers, and a group's g registers. -/
def vHolds (t : State) (tk tid n k x : Nat) : Prop := ∃ th, t.thread tk tid = some th ∧ holds th.v n k x
def gHolds (t : State) (tk g n k x : Nat) : Prop := ∃ gr, t.group tk g = some gr ∧ holds gr.g n k x

/-- The registers of a v destination. -/
def inDest (d : BitVec 11) (k r : Nat) : Prop := ∃ n, opKind d = .v n ∧ n ≤ r ∧ r < n + k
def inGDest (d : BitVec 11) (k r : Nat) : Prop := ∃ n, opKind d = .g n ∧ n ≤ r ∧ r < n + k
def isMDest (d : BitVec 11) (r : Nat) : Prop := opKind d = .m r

/-- A vector instruction completes (R239): every selected lane's destination holds its value, read in the state the instruction
starts in, and nothing else of the registers, memory or special registers changes. -/
def VectorResult (i : Instr) (f : VF) (k : Nat) (val : State → Env → Nat → Nat → Nat) : Prop :=
  ∀ s e, Issues s i e → ∃ t, exec i s = .next t ∧
    (∀ l tid n, (l, tid) ∈ e.sel f.pm f.pn → opKind f.d = .v n → vHolds t e.tk tid n k (val s e l tid)) ∧
    Kept s t e (fun tid r => (∃ l, (l, tid) ∈ e.sel f.pm f.pn) ∧ inDest f.d k r) (fun _ => False) (fun _ => False)

/-- A vector instruction with a truth value completes (R246): 1 or 0 in a v destination; in an m destination the bit of each
selected lane, the other bits as they were. -/
def TruthResult (i : Instr) (f : VF) (val : State → Env → Nat → Nat → Bool) : Prop :=
  ∀ s e, Issues s i e → ∃ t, exec i s = .next t ∧
    (∀ l tid n, (l, tid) ∈ e.sel f.pm f.pn → opKind f.d = .v n → vHolds t e.tk tid n 1 (if val s e l tid then 1 else 0)) ∧
    (∀ k, opKind f.d = .m k → ∃ gr, t.group e.tk e.g = some gr ∧
      (∀ l tid, (l, tid) ∈ e.sel f.pm f.pn → bit (gr.mask k) l = val s e l tid) ∧
      ∀ l, l < 32 → (∀ tid, (l, tid) ∉ e.sel f.pm f.pn) → bit (gr.mask k) l = bit (e.grp.mask k) l) ∧
    Kept s t e (fun tid r => (∃ l, (l, tid) ∈ e.sel f.pm f.pn) ∧ inDest f.d 1 r) (fun _ => False) (isMDest f.d)

/-- A uniform instruction completes (R240): the group's destination holds the value, and nothing else changes. -/
def UniformResult (i : Instr) (d : BitVec 11) (k : Nat) (val : State → Env → Nat) : Prop :=
  ∀ s e, Issues s i e → ∃ t, exec i s = .next t ∧ (∀ n, opKind d = .g n → gHolds t e.tk e.g n k (val s e)) ∧
    Kept s t e (fun _ _ => False) (inGDest d k) (fun _ => False)

/-- A result as R241 and R243 narrow it: clamped to the type's range under SAT, else kept modulo the type's width; a narrow type is
extended to the 32-bit register, a 64-bit type fills its pair. -/
def narrowed (t : Nat) (sat : Bool) (x : Int) : Nat :=
  let y : Int := if sat then max (tyLo t) (min (tyHi t) x) else x
  let v : Int := if tySigned t then (BitVec.ofInt (tyBits t) y).toInt else (BitVec.ofInt (tyBits t) y).toNat
  if wideTy t then (BitVec.ofInt 64 v).toNat else (BitVec.ofInt 32 v).toNat

/-- The exact integer a source of a lane stands for under the instruction's type, and its bits. -/
def opI (f : VF) (c : BitVec 11) (s : State) (e : Env) (tid : Nat) : Int := readTy f.ty (srcNat s e tid c (tySpan f.ty))
def opN (f : VF) (c : BitVec 11) (s : State) (e : Env) (tid : Nat) : Nat := srcNat s e tid c (tySpan f.ty)
/-- A 32-bit source of a lane. -/
def opW (c : BitVec 11) (s : State) (e : Env) (tid : Nat) : Word := src32 s e tid c
/-- Byte j of a word, signed or not (R248). -/
def byteI (signed : Bool) (x : Word) (j : Nat) : Int := if signed then (x.extractLsb' (8 * j) 8).toInt else (x.extractLsb' (8 * j) 8).toNat

/-! ## Control -/

/-- The instruction is the clause's last and no resume point has been set yet (R211, R272). -/
def ClauseEnds (e : Env) : Prop := e.b.index + 1 = hdrCount e.hdr ∧ e.b.next = []
/-- A thread takes a clause address as its next resume point (R180, R272). -/
def GoesTo (t : State) (e : Env) (tid a : Nat) : Prop :=
  ∃ th, t.thread e.tk tid = some th ∧ th.rp.clause = a ∧ th.rp.index = 0 ∧ th.fetch = true ∧ (th.st = .runnable ∨ th.st = .held)
/-- No register is written. -/
def NoRegs (s t : State) (e : Env) : Prop := Kept s t e (fun _ _ => False) (fun _ => False) (fun _ => False)
/-- A transfer of control completes: every thread of the bundle goes where the instruction sends it, and no register changes (R272, R273). -/
def TransferResult (i : Instr) (dest : State → Env → Nat → Nat → Nat) : Prop :=
  ∀ s e, Issues s i e → ClauseEnds e → ∃ t, exec i s = .next t ∧ (∀ l tid, (l, tid) ∈ e.lanes → GoesTo t e tid (dest s e l tid)) ∧ NoRegs s t e
/-- Whether a predicate selects a lane of the bundle. -/
def selects (e : Env) (pm : BitVec 4) (pn : BitVec 1) (l : Nat) : Bool := bit (selMask e.grp pm pn) l
/-- The threads of a bundle, one and all, wait for the same thing and will resume at the fall-through of the clause (R175). -/
def BundleWaits (t : State) (e : Env) (w : Wait) : Prop :=
  ∀ l tid, (l, tid) ∈ e.lanes → ∃ th, t.thread e.tk tid = some th ∧ th.st = .waiting w ∧ th.rp.clause = fallThrough e.b ∧ th.rp.index = 0 ∧ th.fetch = true
/-- The threads of some lanes have taken a fault of the running instruction and are parked (R389, R395). -/
def Parks (t : State) (e : Env) (ls : List (Nat × Nat)) (c : Cause) : Prop :=
  ∀ l tid, (l, tid) ∈ ls → ∃ th f, t.thread e.tk tid = some th ∧ th.st = .parked ∧ th.fault = some f ∧ f.cause = c ∧
    f.word = e.word ∧ f.clause = e.b.clause ∧ f.index = e.b.index ∧ th.rp.clause = e.b.clause ∧ th.rp.index = e.b.index
/-- None of some lanes' threads runs a trap handler. -/
def Outside (e : Env) (ls : List (Nat × Nat)) : Prop := ∀ p ∈ ls, (e.thread p.2).handler = false

/-! ## Issue -/

/-- The v registers of every thread and the g and m registers of every group are as before. -/
def RegsSame (s t : State) : Prop :=
  (∀ k tid, (t.thread k tid).map Thread.v = (s.thread k tid).map Thread.v) ∧
  ∀ k g, (t.group k g).map (fun gr => (gr.g, gr.m)) = (s.group k g).map fun gr => (gr.g, gr.m)
/-- The issue has entered the window behind the team's others, its flag counts one more, and neither registers nor memory have
changed (R150, R290). -/
def Enters (s t : State) (e : Env) (i : Instr) (lanes : List LaneOp) (acq : Option Nat) : Prop :=
  t.mem = s.mem ∧ RegsSame s t ∧
  (∃ tm x, t.team e.tk = some tm ∧ tm.iw = e.team.iw ++ [x] ∧ x.insn = i ∧ x.lanes = lanes ∧ x.acq = acq ∧ x.flag = e.flag i ∧ x.grp = e.g ∧
    x.word = e.word ∧ x.clause = e.b.clause ∧ x.index = e.b.index ∧ x.bundle = e.b.lanes) ∧
  ∃ gr, t.group e.tk e.g = some gr ∧ (∀ k, e.flag i = some k → gr.flag k = e.grp.flag k + 1) ∧ ∀ k, e.flag i ≠ some k → gr.flag k = e.grp.flag k
/-- A load lane (R287, R117). -/
def loadLane (s : State) (e : Env) (f : MF) (g : Target) : LaneOp :=
  { lane := g.lane, tid := g.tid, va := g.va, ea := g.ea, tgt := g.tgt, n := tyBytes f.ty, kind := .load, pol := effectivePol s e.team.ctx f.coh.toNat g.tgt g.pte, ptes := g.lines, lease := leaseLen s e.team.ctx }
/-- The scope of an acquire (R153). -/
def acquireOf (ord scope : BitVec 2) : Option Nat := if ord = 1 ∨ ord = 3 then some scope.toNat else none

/-! ## Homes -/

/-- A request stands alone at its home and nothing keeps it from performing there at once: the line is this device's, not busy, owned and
shared by none, not poisoned, nor found so when its bytes are fetched, its page neither frozen nor granted away nor losing its leases, its
billet not closing, a store admitted and not refused with its issue's others, and L2 has room (R49, R74, R124, R134, R136). No error is to
be found in an array. -/
structure AtHome (s : State) (r : HomeReq) : Prop where
  line : lineOf r.ea = r.line
  core : r.isHost = false
  own : isPeer r.ea = false
  queue : (s.line r.line).queue = [r]
  calm : (s.line r.line).invPend = [] ∧ (s.line r.line).recallPend = [] ∧ (s.line r.line).started = false
  unowned : (s.line r.line).wmask = 0
  unshared : (s.line r.line).sharers = .ptrs []
  billet : (s.billet (billetOfLine r.line)).closing = false
  still : s.frozen (pageOfLine r.line) = false
  granted : grantHeld s r.ea r.kind.isStore = true
  admitted : needsAdmission s r = false
  sound : s.isPoisoned r.line = false
  fills : ∀ cs, (l2Fill s r.line cs).isPoisoned r.line = false
  room : s.l2Room r.line = true
  unkilled : killing s (pageOfLine r.line) = false
  undoomed : doomedLane s r = none
  errors : s.errors = []
/-- The last message of a home's channel to a core. -/
def Replies (t : State) (core ea : Nat) (m : DownMsg) : Prop := ∃ q, mapGet? (t.core core).down (t.slice ea) = some (q ++ [m])
/-- The last message of a core's channel to a home. -/
def Sends (t : State) (core ea : Nat) (m : UpMsg) : Prop := ∃ q, mapGet? (t.core core).up (t.slice ea) = some (q ++ [m])
/-- A byte of the line's billet in a chunk that is not valid in L2: a fill gives it the value that the billet's stored form has (R74). -/
def Unfilled (s : State) (line a : Nat) : Prop := billetOf a = billetOfLine line ∧ bit (s.line (lineOf a)).valid (chunkOf (a % 128)) = false
/-- Memory reads as before but for some addresses. -/
def MemoryKept (s t : State) (w : Nat → Prop) : Prop := ∀ a, ¬ w a → t.readMem a 1 = s.readMem a 1

/-- A result for the whole bundle stands in the destination of every thread of it, or in the group's (R313, R317, R352). -/
def AllHold (t : State) (e : Env) (d : BitVec 11) (k x : Nat) : Prop :=
  (∀ n l tid, opKind d = .v n → (l, tid) ∈ e.lanes → vHolds t e.tk tid n k x) ∧ ∀ n, opKind d = .g n → gHolds t e.tk e.g n k x
/-- Only the destination of such a result may change among the v and g registers. -/
def AllKept (s t : State) (e : Env) (d : BitVec 11) (k : Nat) : Prop :=
  Kept s t e (fun tid r => (∃ l, (l, tid) ∈ e.lanes) ∧ inDest d k r) (inGDest d k) (fun _ => False)
/-- A lane of a scratchpad instruction (R98): lane, thread, address, physical row. -/
def padLane (n : Nat) (kind : LaneKind) (data : Nat → List Byte) (p : Nat × Nat × Nat × Nat) : LaneOp :=
  { lane := p.1, tid := p.2.1, va := p.2.2.1, ea := p.2.2.1, n := n, kind := kind, pol := 1, data := data p.2.1, row := p.2.2.2 }
/-- n bytes at a scratchpad address lie in an allocation of the team, and in a row that is not expired where they are read (R98, R101). -/
def PadLive (s : State) (e : Env) (a n : Nat) (reads : Bool) : Prop :=
  ∃ al row, padPlace e.team a n = some (al, row) ∧ (reads = true → rowExpired (s.core e.core) al row (s.core e.core).rtick = false)
/-- Lanes with their physical rows: lane, thread, address, row. -/
def padPlaces (e : Env) (n : Nat) (ls : List (Nat × Nat × Nat)) : List (Nat × Nat × Nat × Nat) :=
  ls.map fun q => (q.1, q.2.1, q.2.2, ((padPlace e.team q.2.2 n).map Prod.snd).getD 0)
/-- The accesses wait at the core's port, one for each row they name, in lane order (R96, R104). -/
def AtPort (s t : State) (e : Env) (ps : List (Nat × Nat × Nat × Nat)) : Prop :=
  (t.core e.core).port = (s.core e.core).port ++ (dedup (ps.map fun p => p.2.2.2)).map fun r =>
    { team := e.tk, iss := s.nextId, lanes := (ps.filter fun p => p.2.2.2 == r).map Prod.fst, row := r }

/-! ## The matrix engine -/

/-- The conditions for a matrix instruction to enter the queue: the team holds the accumulator store, the bundle has all 32 lanes, the
queue has room, and no access of the bundle waits at the scratchpad's port (R334, R335, R340). -/
structure MatReady (s : State) (e : Env) : Prop where
  acc : e.team.acc = true
  full : e.lanes.length = 32
  room : matCount s e.core e.tk < 8
  clear : padPending e = false
/-- The instruction enters the matrix queue as its last command, of the issuing group, and completes later. -/
def Queues (s t : State) (e : Env) (i : Instr) (p : MatCmd → Prop) : Prop :=
  Enters s t e i [] none ∧ ∃ m, (t.core e.core).matq = (s.core e.core).matq ++ [m] ∧ m.team = e.tk ∧ m.grp = e.g ∧ m.insn = i ∧ p m
/-- The command m at the head of a core's queue can be performed: its team is there, the core is awake, no older engine command of its threads
is to touch its rows (R153), no error waits in an array. -/
structure Heads (s : State) (c : Nat) (m : MatCmd) (rest : List MatCmd) (t : Team) : Prop where
  head : (s.core c).matq = m :: rest
  team : s.team m.team = some t
  awake : (s.core c).asleep = false
  first : ∀ p ∈ m.pads, ∀ i < p.2, engineFirst s c m.team (matTids s m) m.iss (padHandle p.1) (padRow p.1 + i) = false
  errors : s.errors = []
/-- A command has been performed: it has left the queue, and memory is as before. -/
def Performed (s u : State) (c : Nat) (rest : List MatCmd) : Prop := u.mem = s.mem ∧ (u.core c).matq = rest
/-- The cells of a tile's window hold v, row by row; every other cell is as before (R333). -/
def TileSet (s u : State) (c : Nat) (f : XF) (rows cols : Nat) (v : Nat → Nat → Word) : Prop :=
  (∀ i j, i < rows → j < cols → cellGet (u.core c).acc (cellAt f i j) = v i j) ∧
  ∀ k, (∀ i j, i < rows → j < cols → k ≠ cellAt f i j) → cellGet (u.core c).acc k = cellGet (s.core c).acc k
/-- The accumulator store is as before. -/
def AccSame (s u : State) (c : Nat) : Prop := (u.core c).acc = (s.core c).acc
/-- k rows of a core's scratchpad from physical row p on. -/
def rowsOf (s : State) (c p k : Nat) : List Byte := (List.range k).flatMap fun i => padRead s c (p + i) 0 256

/-- An event has taken place. -/
def Happens (i : Instr) (s : State) (p : State → Prop) : Prop := ∃ t, exec i s = .next t ∧ p t

end Sys2Proof
end

