-- ==== Sys2Proof/Certificates/Slice0/Obligations.lean ====
section
/-! DEFINITION. The statements, from the numbered rules of spec/. -/

open Sys2Proof Sys2Proof.Machine

/-! ## Encoding and steps -/

/-- Decoding the word of a well-formed instruction gives it back, every field at every value (R220 to R227, R231). -/
def Obligations.RoundTrip : Prop := ∀ (i : Instr) (w : DWord), i.wellFormed = true → encode i = some w → decode w = some i

/-- Words written out from the spec's encodings decode to the instructions they stand for (R220 to R227, R246, R259, R273, R288, R332, R352). -/
def Obligations.DecodedWords : Prop :=
  decode 0xA08008A0000008C0 = some (.ld { fn := 8, d := 4, base := 640, coh := 0, scope := 0, ord := 0, imm := 8, pm := 12, pn := 0, flg := 0, rsv := 0, nt := 0 }) ∧
  decode 0x01000E01246000C1 = some (.iadd { fn := 0, d := 7, a := 4, b := 1164, c := 0, pm := 12, pn := 0, hold := 0, sat := 1 }) ∧
  decode 0x77200C0080000010 = some (.vote { fn := 2, d := 6, a := 2, b := 0, c := 0, pm := 1, pn := 0, hold := 0, sat := 0 }) ∧
  decode 0xF1052800008000C0 = some (.csrr { fn := 0, d := 660, a := 0, csr := 0x020, n := 0, cf := 0, pm := 12, pn := 0, flg := 0, rsv := 0 }) ∧
  decode 0xA5001002000142C0 = some (.atom { fn := 0, d := 8, base := 8, coh := 0, scope := 0, ord := 0, s := 10, ty := 1, rsv8 := 0, pm := 12, pn := 0, flg := 0, rsv := 0, nt := 0 }) ∧
  decode 0x9400000200000020 = some (.calli { fn := 0, d := 0, a := 8, b := 0, mreg := 0, rsv7 := 0, pm := 2, pn := 0, flg := 0, rsv := 0 }) ∧
  decode 0xE00000A2144A1320 = some (.xmma { fn := 0, d := 0, a := 648, b := 649, tr := 4, tc := 2, pa := 3, pb := 1, rsv2 := 0, flg := 0, rsv := 0, nt := 0 }) ∧
  decode 0 = none ∧ decode 0xFF000000000000C0 = none

/-- With an empty agenda and at an issue's turn, a step runs the instruction that the chosen group's next word decodes to, on the prepared
state, and ends with what every step ends with: the issue counted (R377, R378), the issuer forgotten, what has come about done, and the waits over whose condition
holds (R150, R181, R211); the order of turns is the model's (log 2), and that handlers wait for a due trap of their group its reading (log 100). A word that decodes to nothing traps. -/
def Obligations.StepRunsDecoded : Prop := ∀ (s s1 : State) (c tk g : Nat) (w : DWord),
  s.agenda = [] → s.turn % 2 = 0 → nextIssue s = some (c, tk, g) → prepare { s with turn := s.turn + 1 } c tk g = (some w, s1) →
  s1.issuer = some { core := c, team := tk, grp := g, word := w } ∧
  (∃ b, (s1.group tk g).bind Group.bundle = some b ∧ b.words.getD (1 + b.index) 0 = w) ∧
  (∀ i t, decode w = some i → i.opcode.isSome = true → exec i s1 = .next t → step s = .next (settle (flush { countIssue s1 i t with issuer := none }))) ∧
  (∀ i f, decode w = some i → exec i s1 = .fault f → step s = .fault f) ∧
  (∀ i r, decode w = some i → exec i s1 = .refused r → step s = .refused r) ∧
  (decode w = none → step s = .next (settle (flush { illegalWord s1 with issuer := none })))

/-- A bundle is formed of the threads at the group's first resume point, and its words are those that stand at their clause when it forms, with
the header that stands there then (R180, R181, R211, R213). That a clause in the private window is fetched for all of them by the private slot of
the bundle's first thread is the model's choice (log 86). -/
def Obligations.BundleFormation : Prop := ∀ (s u0 u : State) (tk g tid : Nat) (t : Team) (gr : Group) (th : Thread) (rest : List (Nat × Thread)) (h : DWord)
    (ws : List DWord), s.team tk = some t → t.groups[g]? = some gr → headThreads t g = (tid, th) :: rest → (u.group tk g).isSome = true →
  fencePending t (((tid, th) :: rest).map Prod.fst) = false → kcWord s t.core t.ctx th.pslot th.rp.clause kFetch th.handler = .ok h u0 →
  (∀ p ∈ (tid, th) :: rest, unadmitted t p.1 = false) → waitError u0 tk g (if th.rp.index = 0 then hdrWait h else 0) = none →
  hdrBad h = false → roleAllows gr.role (hdrClass h) = true → (th.rp.index = 0 → gr.flagsClear (hdrWait h) = true) → th.rp.index < hdrCount h →
  kcWords u0 t.core t.ctx th.pslot th.rp.clause kFetch th.handler (hdrWords h) = .ok ws u → clauseBad ws = false →
  ∃ v b, formBundle s tk g = .ok () v ∧ v.mem = u.mem ∧ (v.group tk g).bind Group.bundle = some b ∧ b.words = ws ∧ b.clause = th.rp.clause ∧
    b.index = th.rp.index ∧ b.handler = th.handler ∧ b.lanes = maskOf (((tid, th) :: rest).map fun p => p.2.lane)

/-- After every step no thread waits for what has already come about: barriers, mwaits and flag waits whose condition holds are over (R182,
R281, R314, R365). -/
def Obligations.StepSettles : Prop := ∀ s t : State, step s = .next t → Settled t

/-- At reset no thread waits for what has come about (R182, R281, R314, R365) and memory is in its canonical form; that no team is there and
memory lists nothing is the model's choice (log 1), and so is the agenda, which is empty (log 2). -/
def Obligations.ResetSettled : Prop := Settled State.reset ∧ State.reset.memWf = true ∧ State.reset.teams = [] ∧ State.reset.agenda = []

/-- Vector integer arithmetic (R243, R247, R248, under R239 and R241): every selected lane's destination holds the exact result
narrowed to the type, and everything else is as before. -/
def Obligations.VectorIntegerArithmetic : Prop := ∀ f : VF,
  VectorResult (.iadd f) f 1 (fun s e _ i => narrowed f.ty (f.sat == 1) (opI f f.a s e i + opI f f.b s e i)) ∧
  VectorResult (.isub f) f 1 (fun s e _ i => narrowed f.ty (f.sat == 1) (opI f f.a s e i - opI f f.b s e i)) ∧
  VectorResult (.imul f) f 1 (fun s e _ i => narrowed f.ty (f.sat == 1) (opI f f.a s e i * opI f f.b s e i)) ∧
  VectorResult (.imulh f) f 1 (fun s e _ i => ((BitVec.ofInt 64 (opI f f.a s e i * opI f f.b s e i)).extractLsb' 32 32).toNat) ∧
  VectorResult (.imad f) f 1 (fun s e _ i => narrowed f.ty (f.sat == 1) (opI f f.a s e i * opI f f.b s e i + opI f f.c s e i)) ∧
  VectorResult (.imin f) f 1 (fun s e _ i => narrowed f.ty false (min (opI f f.a s e i) (opI f f.b s e i))) ∧
  VectorResult (.imax f) f 1 (fun s e _ i => narrowed f.ty false (max (opI f f.a s e i) (opI f f.b s e i))) ∧
  VectorResult (.iabs f) f 1 (fun s e _ i => narrowed f.ty (f.sat == 1) |opI f f.a s e i|) ∧
  VectorResult (.ineg f) f 1 (fun s e _ i => narrowed f.ty (f.sat == 1) (-opI f f.a s e i)) ∧
  VectorResult (.iadd64 f) f 2 (fun s e _ i => narrowed f.ty (f.sat == 1) (opI f f.a s e i + opI f f.b s e i)) ∧
  VectorResult (.isub64 f) f 2 (fun s e _ i => narrowed f.ty (f.sat == 1) (opI f f.a s e i - opI f f.b s e i)) ∧
  VectorResult (.imad64 f) f 2 (fun s e _ i => narrowed f.ty (f.sat == 1)
    ((if tySigned f.ty then (opW f.a s e i).toInt * (opW f.b s e i).toInt else (opW f.a s e i).toNat * (opW f.b s e i).toNat) + opI f f.c s e i)) ∧
  VectorResult (.lea f) f 2 (fun s e _ i =>
    (BitVec.ofNat 64 (srcNat s e i f.a 2) + (if tySigned f.ty then (opW f.b s e i).signExtend 64 else (opW f.b s e i).zeroExtend 64) <<<
      ((opW f.c s e i).extractLsb' 0 5).toNat).toNat) ∧
  VectorResult (.idot4 f) f 1 (fun s e _ i => let g := f.ty == 6
    narrowed (if g then 0 else 1) (f.sat == 1) ((if g then (opW f.c s e i).toInt else (opW f.c s e i).toNat) +
      byteI g (opW f.a s e i) 0 * byteI g (opW f.b s e i) 0 + byteI g (opW f.a s e i) 1 * byteI g (opW f.b s e i) 1 +
      byteI g (opW f.a s e i) 2 * byteI g (opW f.b s e i) 2 + byteI g (opW f.a s e i) 3 * byteI g (opW f.b s e i) 3)) ∧
  VectorResult (.isat f) f 1 (fun s e _ i => narrowed f.ty true (opW f.a s e i).toInt)

/-- Bitwise, shift, count, select and move instructions leave their result in every selected lane and nothing else (R244 to R247). -/
def Sys2Proof.Part.VectorLogic : Prop := ∀ f : VF,
  VectorResult (.and f) f (tySpan f.ty) (fun s e _ i => opN f f.a s e i &&& opN f f.b s e i) ∧
  VectorResult (.or f) f (tySpan f.ty) (fun s e _ i => opN f f.a s e i ||| opN f f.b s e i) ∧
  VectorResult (.xor f) f (tySpan f.ty) (fun s e _ i => opN f f.a s e i ^^^ opN f f.b s e i) ∧
  VectorResult (.not f) f (tySpan f.ty) (fun s e _ i => (~~~BitVec.ofNat (tyBits f.ty) (opN f f.a s e i)).toNat) ∧
  VectorResult (.shl f) f (tySpan f.ty) (fun s e _ i =>
    (BitVec.ofNat (tyBits f.ty) (opN f f.a s e i) <<< ((opW f.b s e i).extractLsb' 0 8).toNat).toNat) ∧
  VectorResult (.shr f) f (tySpan f.ty) (fun s e _ i => let x := BitVec.ofNat (tyBits f.ty) (opN f f.a s e i)
    let k := ((opW f.b s e i).extractLsb' 0 8).toNat
    (if tySigned f.ty then x.sshiftRight k else x >>> k).toNat) ∧
  VectorResult (.rot f) f 1 (fun s e _ i => ((opW f.a s e i).rotateLeft (((opW f.b s e i).extractLsb' 0 8).toNat % 32)).toNat) ∧
  VectorResult (.bfx f) f 1 (fun s e _ i => bitField (tySigned f.ty) (opW f.a s e i).toNat (opW f.b s e i).toNat) ∧
  VectorResult (.bfi f) f 1 (fun s e _ i => bitInsert (opW f.a s e i).toNat (opW f.b s e i).toNat (opW f.c s e i).toNat) ∧
  VectorResult (.popc f) f 1 (fun s e _ i => ((List.range (tyBits f.ty)).filter (opN f f.a s e i).testBit).length) ∧
  VectorResult (.clz f) f 1 (fun s e _ i => (BitVec.ofNat (tyBits f.ty) (opN f f.a s e i)).clz.toNat) ∧
  VectorResult (.brev f) f 1 (fun s e _ i => (opW f.a s e i).reverse.toNat) ∧
  VectorResult (.prmt f) f 1 (fun s e _ i => permute (opW f.a s e i).toNat (opW f.b s e i).toNat (opW f.c s e i).toNat) ∧
  VectorResult (.sel f) f (tySpan f.ty) (fun s e l i =>
    if (match opKind f.c with | .m k => bit (e.grp.mask k) l | _ => opW f.c s e i != 0) then opN f f.a s e i else opN f f.b s e i) ∧
  VectorResult (.mov f) f (tySpan f.ty) (fun s e _ i => opN f f.a s e i)

/-- The bit-field, insertion and permute functions, bit by bit (R245). -/
def Sys2Proof.Part.BitFields : Prop := ∀ a b c : Word, ∀ j < 32,
  let pos := (c.extractLsb' 0 8).toNat
  let len := min (c.extractLsb' 8 8).toNat 32
  ((bitField false a.toNat c.toNat).testBit j = (decide (j < len) && a.getLsbD (pos + j))) ∧
  ((bitField true a.toNat c.toNat).testBit j =
    (if len = 0 then false else let q := pos + (if j < len then j else len - 1)
      if q < 32 then a.getLsbD q else a.getLsbD 31)) ∧
  ((bitInsert a.toNat b.toNat c.toNat).testBit j = if pos ≤ j ∧ j < pos + len then a.getLsbD (j - pos) else b.getLsbD j) ∧
  ((permute a.toNat b.toNat c.toNat).testBit j =
    let f := c.extractLsb' (8 * (j / 8)) 8
    let p := (b ++ a).extractLsb' (8 * (f.extractLsb' 0 3).toNat) 8
    match (f.extractLsb' 3 2).toNat with
    | 0 => p.getLsbD (j % 8)
    | 1 => false
    | 2 => p.getLsbD 7
    | _ => p.getLsbD (7 - j % 8))

/-- Logic, shifts, selection and bit fields of vector registers. -/
def Obligations.LogicAndBitFields : Prop := Part.VectorLogic ∧ Part.BitFields

/-- Compare results are truth values, to a v or an m destination (R246, R251). -/
def Obligations.Comparisons : Prop := ∀ f : VF,
  TruthResult (.icmp f) f (fun s e _ i => match f.cnd with
    | 0 => decide (opI f f.a s e i = opI f f.b s e i)
    | 1 => decide (opI f f.a s e i ≠ opI f f.b s e i)
    | 2 => decide (opI f f.a s e i < opI f f.b s e i)
    | 3 => decide (opI f f.a s e i ≤ opI f f.b s e i)
    | 4 => decide (opI f f.b s e i < opI f f.a s e i)
    | _ => decide (opI f f.b s e i ≤ opI f f.a s e i)) ∧
  TruthResult (.fcmp f) f (fun s e _ i => fCmp (fmtOf f.fty) f.cnd (sF s e i f.a (fmtOf f.fty)) (sF s e i f.b (fmtOf f.fty)))

/-- Vector float instructions leave their result, rounded once in the instruction's mode, in every selected lane (R249 to R253). -/
def Sys2Proof.Part.VectorFloat : Prop := ∀ f : VF,
  let F := fmtOf f.fty
  let x := fun (c : BitVec 11) (s : State) (e : Env) (i : Nat) => sF s e i c F
  VectorResult (.fadd f) f 1 (fun s e _ i => satF F f.sat (addVal F f.rnd (F.val (x f.a s e i)) (F.val (x f.b s e i)))) ∧
  VectorResult (.fsub f) f 1 (fun s e _ i => satF F f.sat (addVal F f.rnd (F.val (x f.a s e i)) (F.val (x f.b s e i)).neg)) ∧
  VectorResult (.fmul f) f 1 (fun s e _ i => satF F f.sat (packVal F f.rnd (mulVal (F.val (x f.a s e i)) (F.val (x f.b s e i))))) ∧
  VectorResult (.ffma f) f 1 (fun s e _ i => satF F f.sat (addVal F f.rnd (mulVal (F.val (x f.a s e i)) (F.val (x f.b s e i))) (F.val (x f.c s e i)))) ∧
  VectorResult (.fdiv f) f 1 (fun s e _ i => satF F f.sat (divVal F f.rnd (F.val (x f.a s e i)) (F.val (x f.b s e i)))) ∧
  VectorResult (.fsqrt f) f 1 (fun s e _ i => fSqrt F f.rnd (x f.a s e i)) ∧
  VectorResult (.frcp f) f 1 (fun s e _ i => fRcp F f.rnd (x f.a s e i)) ∧
  VectorResult (.fmin f) f 1 (fun s e _ i => fMin F (x f.a s e i) (x f.b s e i)) ∧
  VectorResult (.fmax f) f 1 (fun s e _ i => fMax F (x f.a s e i) (x f.b s e i)) ∧
  VectorResult (.frsq f) f 1 (fun s e _ i => fRsq F (x f.a s e i)) ∧
  VectorResult (.fex2 f) f 1 (fun s e _ i => fEx2 F (x f.a s e i)) ∧
  VectorResult (.flg2 f) f 1 (fun s e _ i => fLg2 F (x f.a s e i)) ∧
  VectorResult (.fsin f) f 1 (fun s e _ i => fSin F (x f.a s e i)) ∧
  VectorResult (.fcos f) f 1 (fun s e _ i => fCos F (x f.a s e i)) ∧
  VectorResult (.ftanh f) f 1 (fun s e _ i => fTanh F (x f.a s e i)) ∧
  VectorResult (.fclass f) f 1 (fun s e _ i => fClass F (x f.a s e i)) ∧
  VectorResult (.frnd f) f 1 (fun s e _ i => fRnd F f.rnd (x f.a s e i))

/-- One rounding is exact on what a format holds, a NaN gives the canonical NaN, and sums and products do not depend on the order of
their operands (R234, R236, R237). -/
def Sys2Proof.Part.FloatRounding : Prop := ∀ F ∈ [fmtF32, fmtF16, fmtBF16], ∀ mode x y : Nat, x < 2 * F.sign → y < 2 * F.sign →
  (F.val x ≠ .nan → packVal F mode (F.val x) = x ∧ fMul F mode x F.one = x) ∧
  (F.val x = .nan → fAdd F mode x y = F.nan ∧ fSub F mode x y = F.nan ∧ fMul F mode x y = F.nan ∧ fDiv F mode x y = F.nan) ∧
  fAdd F mode x y = fAdd F mode y x ∧ fMul F mode x y = fMul F mode y x ∧
  fAdd F mode x y < 2 * F.sign ∧ fMul F mode x y < 2 * F.sign

/-- Packed halves work on each half by itself (R254). -/
def Sys2Proof.Part.PackedHalves : Prop := ∀ f : VF,
  let F := fmtOf f.fty
  let h := fun (c : BitVec 11) (s : State) (e : Env) (i n : Nat) => sH s e i c F n
  let two := fun (x : State → Env → Nat → Nat → Nat) (s : State) (e : Env) (_ i : Nat) => x s e i 0 + x s e i 1 * 2 ^ 16
  VectorResult (.hadd2 f) f 1 (two fun s e i n => satF F f.sat (fAdd F f.rnd (h f.a s e i n) (h f.b s e i n))) ∧
  VectorResult (.hmul2 f) f 1 (two fun s e i n => satF F f.sat (fMul F f.rnd (h f.a s e i n) (h f.b s e i n))) ∧
  VectorResult (.hfma2 f) f 1 (two fun s e i n => satF F f.sat (fFma F f.rnd (h f.a s e i n) (h f.b s e i n) (h f.c s e i n))) ∧
  VectorResult (.hmin2 f) f 1 (two fun s e i n => fMin F (h f.a s e i n) (h f.b s e i n)) ∧
  VectorResult (.hmax2 f) f 1 (two fun s e i n => fMax F (h f.a s e i n) (h f.b s e i n))

/-- Conversions leave the converted value in every selected lane (R255 to R258). -/
def Sys2Proof.Part.Conversions : Prop := ∀ f : VF,
  VectorResult (.fcvt f) f 1 (fun s e _ i => fCvt (fmtTy f.cvtSrc) (fmtTy f.cvtDst) f.rnd (sF s e i f.a (fmtTy f.cvtSrc))) ∧
  VectorResult (.fcvti f) f (tySpan f.cvtDst) (fun s e _ i =>
    narrowed f.cvtDst false (fCvtI (fmtTy f.cvtSrc) f.rnd (tyLo f.cvtDst) (tyHi f.cvtDst) (sF s e i f.a (fmtTy f.cvtSrc)))) ∧
  VectorResult (.icvtf f) f 1 (fun s e _ i => iCvtF (fmtTy f.cvtDst) f.rnd (readTy f.cvtSrc (srcNat s e i f.a (tySpan f.cvtSrc)))) ∧
  VectorResult (.icvt f) f (tySpan f.cvtDst) (fun s e _ i =>
    narrowed f.cvtDst (f.sat == 1) (readTy f.cvtSrc (srcNat s e i f.a (tySpan f.cvtSrc))))

/-- Floating point: arithmetic in every rounding, packed halves, conversions. -/
def Obligations.FloatArithmetic : Prop := Part.VectorFloat ∧ Part.FloatRounding ∧ Part.PackedHalves ∧ Part.Conversions

/-- Mask instructions combine the lanes' bits (R263, R264); mpop and mfirst count and find them (R265). -/
def Sys2Proof.Part.Masks : Prop := ∀ f : VF,
  TruthResult (.mand f) f (fun s e l i => laneBit s e l i f.a && laneBit s e l i f.b) ∧
  TruthResult (.mor f) f (fun s e l i => laneBit s e l i f.a || laneBit s e l i f.b) ∧
  TruthResult (.mxor f) f (fun s e l i => xor (laneBit s e l i f.a) (laneBit s e l i f.b)) ∧
  TruthResult (.mnot f) f (fun s e l i => !laneBit s e l i f.a) ∧
  TruthResult (.mmov f) f (fun s e l i => laneBit s e l i f.a) ∧
  VectorResult (.mpop f) f 1 (fun s e _ _ => (e.sel f.pm f.pn).countP fun p => laneBit s e p.1 p.2 f.a) ∧
  VectorResult (.mfirst f) f 1 (fun s e _ _ => (((e.sel f.pm f.pn).find? fun p => laneBit s e p.1 p.2 f.a).map Prod.fst).getD 32)

/-- Vote, shuffle, broadcast, reduction and scan over the lanes of bundle and predicate (R266 to R271). That a float sum over a single
lane leaves its bits, a NaN's too, is the model's choice (log 115). -/
def Sys2Proof.Part.LaneExchange : Prop := ∀ f : VF,
  VectorResult (.vote f) f 1 (fun s e _ _ => let P := e.sel f.pm f.pn
    match f.fn.toNat with
    | 0 => if P.any (fun p => laneBit s e p.1 p.2 f.a) then 1 else 0
    | 1 => if P.all (fun p => laneBit s e p.1 p.2 f.a) then 1 else 0
    | _ => (maskOf ((P.filter fun p => laneBit s e p.1 p.2 f.a).map Prod.fst) : LaneMask).toNat) ∧
  VectorResult (.shfl f) f 1 (fun s e l i => laneValue (participants s e f) (shuffleFrom (participants s e f) f.fn.toNat l (opW f.b s e i).toNat) l) ∧
  VectorResult (.bcast f) f 1 (fun s e l _ => laneValue (participants s e f) ((uni32 s e f.b).toNat % 32) l) ∧
  VectorResult (.lred f) f 1 (fun s e _ _ => foldAll f.ty f.redTy ((e.sel f.pm f.pn).map fun p => foldValue s e f f.ty p.2)) ∧
  VectorResult (.lscan f) f 1 (fun s e l _ => foldAll (f.ty % 8) f.redTy
    (((e.sel f.pm f.pn).filter fun p => if f.ty < 8 then decide (p.1 ≤ l) else decide (p.1 < l)).map fun p => foldValue s e f (f.ty % 8) p.2))

/-- Mask registers, and what lanes give one another. -/
def Obligations.MasksAndLanes : Prop := Part.Masks ∧ Part.LaneExchange

/-- Uniform instructions write the group's destination once and nothing else (R240, R259, R260). -/
def Obligations.UniformArithmetic : Prop := ∀ f : VF,
  let x := fun (c : BitVec 11) (s : State) (e : Env) => opI f c s e 0
  let n := fun (c : BitVec 11) (s : State) (e : Env) => opN f c s e 0
  let k := fun (s : State) (e : Env) => ((opW f.b s e 0).extractLsb' 0 8).toNat
  UniformResult (.gadd f) f.d 1 (fun s e => narrowed f.ty (f.sat == 1) (x f.a s e + x f.b s e)) ∧
  UniformResult (.gsub f) f.d 1 (fun s e => narrowed f.ty (f.sat == 1) (x f.a s e - x f.b s e)) ∧
  UniformResult (.gmul f) f.d 1 (fun s e => narrowed f.ty (f.sat == 1) (x f.a s e * x f.b s e)) ∧
  UniformResult (.gand f) f.d (tySpan f.ty) (fun s e => n f.a s e &&& n f.b s e) ∧
  UniformResult (.gor f) f.d (tySpan f.ty) (fun s e => n f.a s e ||| n f.b s e) ∧
  UniformResult (.gxor f) f.d (tySpan f.ty) (fun s e => n f.a s e ^^^ n f.b s e) ∧
  UniformResult (.gshl f) f.d (tySpan f.ty) (fun s e => (BitVec.ofNat (tyBits f.ty) (n f.a s e) <<< k s e).toNat) ∧
  UniformResult (.gshr f) f.d (tySpan f.ty) (fun s e => let y := BitVec.ofNat (tyBits f.ty) (n f.a s e)
    (if tySigned f.ty then y.sshiftRight (k s e) else y >>> k s e).toNat) ∧
  UniformResult (.gcmp f) f.d 1 (fun s e => if cmpInt f.cnd (x f.a s e) (x f.b s e) then 1 else 0) ∧
  UniformResult (.gmov f) f.d (tySpan f.ty) (fun s e => n f.a s e) ∧
  UniformResult (.gsel f) f.d (tySpan f.ty) (fun s e => if uni32 s e f.c = 0 then n f.b s e else n f.a s e) ∧
  UniformResult (.gadd64 f) f.d 2 (fun s e => narrowed f.ty (f.sat == 1) (x f.a s e + x f.b s e)) ∧
  UniformResult (.gmin f) f.d (tySpan f.ty) (fun s e => narrowed f.ty false (min (x f.a s e) (x f.b s e))) ∧
  UniformResult (.gmax f) f.d (tySpan f.ty) (fun s e => narrowed f.ty false (max (x f.a s e) (x f.b s e))) ∧
  UniformResult (.gfop f) f.d 1 (fun s e => let y := fun (c : BitVec 11) => (uni32 s e c true).toNat
    match f.ty with
    | 0 => fAdd fmtF32 0 (y f.a) (y f.b)
    | 1 => fSub fmtF32 0 (y f.a) (y f.b)
    | 2 => fMul fmtF32 0 (y f.a) (y f.b)
    | 3 => fFma fmtF32 0 (y f.a) (y f.b) (y f.c)
    | 4 => fMin fmtF32 (y f.a) (y f.b)
    | _ => fMax fmtF32 (y f.a) (y f.b))

/-! ## Control -/

/-- Branches send the selected threads that take them to the target and the others to the fall-through (R272 to R274, R278). That brg's A may be any uniform
source is the model's choice (log 114). -/
def Sys2Proof.Part.Branches : Prop :=
  (∀ f : BF, TransferResult (.bra f) (fun _ e l _ => if selects e f.pm f.pn l then targetOf e f else fallThrough e.b)) ∧
  (∀ f : BF, TransferResult (.brm f) (fun _ e l _ =>
    if selects e f.pm f.pn l && (bit (e.grp.mask f.mreg.toNat) l == (f.fn == 0)) then targetOf e f else fallThrough e.b)) ∧
  (∀ f : BF, TransferResult (.brg f) (fun s e l _ =>
    if selects e f.pm f.pn l && ((uni32 s e f.a != 0) == (f.fn == 0)) then targetOf e f else fallThrough e.b)) ∧
  (∀ f : OF, TransferResult (.jmpi f) (fun _ e l tid => if selects e f.pm f.pn l then (src64 e tid f.a).toNat else fallThrough e.b))

/-- call and calli push the fall-through on the link stack of every selected thread and send it to the target; ret pops it and goes
there (R277, R278). The other threads fall through with their link stacks as they were. -/
def Sys2Proof.Part.Calls : Prop :=
  (∀ (f : BF) (s : State) (e : Env), Issues s (.call f) e → ClauseEnds e → (s.ctx e.team.ctx).isSome = true →
    (∀ p ∈ e.sel f.pm f.pn, (e.thread p.2).link.length < 4) →
    ∃ t, exec (.call f) s = .next t ∧ OnlyTeams s t ∧ ∀ l tid, (l, tid) ∈ e.lanes →
      GoesTo t e tid (if selects e f.pm f.pn l then targetOf e f else fallThrough e.b) ∧ ∃ th, t.thread e.tk tid = some th ∧
        th.link = if selects e f.pm f.pn l then (e.thread tid).link ++ [BitVec.ofNat 64 (fallThrough e.b)] else (e.thread tid).link) ∧
  (∀ (f : OF) (s : State) (e : Env), Issues s (.calli f) e → ClauseEnds e → (s.ctx e.team.ctx).isSome = true →
    (∀ p ∈ e.sel f.pm f.pn, (e.thread p.2).link.length < 4) →
    ∃ t, exec (.calli f) s = .next t ∧ OnlyTeams s t ∧ ∀ l tid, (l, tid) ∈ e.lanes →
      GoesTo t e tid (if selects e f.pm f.pn l then (src64 e tid f.a).toNat else fallThrough e.b) ∧ ∃ th, t.thread e.tk tid = some th ∧
        th.link = if selects e f.pm f.pn l then (e.thread tid).link ++ [BitVec.ofNat 64 (fallThrough e.b)] else (e.thread tid).link) ∧
  (∀ (f : OF) (s : State) (e : Env), Issues s (.ret f) e → ClauseEnds e → (s.ctx e.team.ctx).isSome = true →
    (∀ p ∈ e.sel f.pm f.pn, (e.thread p.2).link ≠ []) →
    ∃ t, exec (.ret f) s = .next t ∧ OnlyTeams s t ∧ ∀ l tid, (l, tid) ∈ e.lanes →
      GoesTo t e tid (if selects e f.pm f.pn l then ((e.thread tid).link.getLastD 0).toNat else fallThrough e.b) ∧
      ∃ th, t.thread e.tk tid = some th ∧ th.link = if selects e f.pm f.pn l then (e.thread tid).link.dropLast else (e.thread tid).link)

/-- Branches, calls and returns. -/
def Obligations.BranchesAndCalls : Prop := Part.Branches ∧ Part.Calls

/-- pushm moves a thread's link stack and its registers to the private stack and popm brings registers back; past the stack's end
they take LNKOVF and LNKUNF, and popm with links held takes LNKORDER (R276, R279). Stated for a bundle of one thread, whose private
stack accesses are those of stackStore and stackLoad. -/
def Sys2Proof.Part.Frames : Prop := ∀ (f : OF) (s : State) (e : Env) (c : Ctx) (l tid : Nat),
  e.lanes = [(l, tid)] → s.ctx e.team.ctx = some c →
  let th := e.thread tid
  let k := frameCount f.b
  let size := 8 * ((k + 1) / 2)
  (Issues s (.pushm f) e →
    (∀ u, th.sp + 8 * th.link.length + size ≤ spillSize c →
      stackStore s e l tid (stackAddr c th.sp) (th.link.flatMap (fun x => leBytes 8 x.toNat) ++
        (cellsGet th.v f.a.toNat k).flatMap wordBytes ++ (if k % 2 = 1 then List.replicate 4 0 else [])) = .ok () u →
      ∃ t, exec (.pushm f) s = .next t ∧
        t = advance (u.updThread e.tk tid fun x => { x with sp := th.sp + 8 * th.link.length + size, link := [] }) e) ∧
    (spillSize c < th.sp + 8 * th.link.length + size → th.handler = false → ∃ t, exec (.pushm f) s = .next t ∧ Parks t e [(l, tid)] .lnkovf)) ∧
  (Issues s (.popm f) e →
    (∀ bs u, th.link = [] → size ≤ th.sp → stackLoad s e l tid (stackAddr c (th.sp - size)) (4 * k) = .ok bs u →
      ∃ t, exec (.popm f) s = .next t ∧
        t = advance (u.updThread e.tk tid fun x => { x with sp := th.sp - size, v := cellsSet th.v f.a.toNat (toWords bs) }) e) ∧
    (th.link ≠ [] → th.handler = false → ∃ t, exec (.popm f) s = .next t ∧ Parks t e [(l, tid)] .lnkorder) ∧
    (th.link = [] → th.sp < size → th.handler = false → ∃ t, exec (.popm f) s = .next t ∧ Parks t e [(l, tid)] .lnkunf))

/-- call and calli with four entries on chip spill the oldest to the private stack, or take LNKOVF where it has no room; ret with none on chip
reloads one, or takes LNKUNF where the stack is empty (R277, R278). Stated for a selected bundle of one thread. -/
def Sys2Proof.Part.LinkSpills : Prop := ∀ (s : State) (e : Env) (c : Ctx) (l tid : Nat), e.lanes = [(l, tid)] → s.ctx e.team.ctx = some c →
  let th := e.thread tid
  let spilled := fun (u : State) (a : Nat) => advance (transferTo (u.updThread e.tk tid fun x =>
    { x with sp := x.sp + 8, link := x.link.drop 1 ++ [BitVec.ofNat 64 (fallThrough e.b)] }) e l a) e
  (∀ (f : BF) (u : State), Issues s (.call f) e → selects e f.pm f.pn l = true → 4 ≤ th.link.length →
    (th.sp + 8 ≤ spillSize c → stackStore s e l tid (stackAddr c th.sp) (leBytes 8 (th.link.headD 0).toNat) = .ok () u →
      ∃ t, exec (.call f) s = .next t ∧ t = spilled u (targetOf e f)) ∧
    (spillSize c < th.sp + 8 → th.handler = false → ∃ t, exec (.call f) s = .next t ∧ Parks t e [(l, tid)] .lnkovf)) ∧
  (∀ (f : OF) (u : State), Issues s (.calli f) e → selects e f.pm f.pn l = true → 4 ≤ th.link.length →
    (th.sp + 8 ≤ spillSize c → stackStore s e l tid (stackAddr c th.sp) (leBytes 8 (th.link.headD 0).toNat) = .ok () u →
      ∃ t, exec (.calli f) s = .next t ∧ t = spilled u (src64 e tid f.a).toNat) ∧
    (spillSize c < th.sp + 8 → th.handler = false → ∃ t, exec (.calli f) s = .next t ∧ Parks t e [(l, tid)] .lnkovf)) ∧
  (∀ (f : OF) (bs : List Byte) (u : State), Issues s (.ret f) e → selects e f.pm f.pn l = true → th.link = [] →
    (8 ≤ th.sp → stackLoad s e l tid (stackAddr c (th.sp - 8)) 8 = .ok bs u →
      ∃ t, exec (.ret f) s = .next t ∧ t = advance (transferTo (u.updThread e.tk tid fun x => { x with sp := x.sp - 8 }) e l (leNat bs)) e) ∧
    (th.sp < 8 → th.handler = false → ∃ t, exec (.ret f) s = .next t ∧ Parks t e [(l, tid)] .lnkunf))

/-- The private stack of a bundle of one thread: register frames, and the link stack's spills and reloads, each access made in one step (the model's
reading, log 11); a ret whose stack holds a pushm frame on top reloads the 8 bytes below SP, as R278's pop() has it, where R279 speaks of the frame's
first 8 bytes: that clause is the model's choice (log 74). -/
def Obligations.PrivateStack : Prop := Part.Frames ∧ Part.LinkSpills

/-- mbegin writes the bundle's lanes to its mask register and mleave takes the selected lanes out of it; an mwait that is released
makes the bundle wait (R182, R281). -/
def Sys2Proof.Part.Reconvergence : Prop := ∀ (f : OF) (s : State) (e : Env),
  (Issues s (.mbegin f) e → ∃ t, exec (.mbegin f) s = .next t ∧ (∃ gr, t.group e.tk e.g = some gr ∧ gr.mask f.mreg.toNat = e.b.lanes) ∧
    Kept s t e (fun _ _ => False) (fun _ => False) (· = f.mreg.toNat)) ∧
  (Issues s (.mleave f) e → ∃ t, exec (.mleave f) s = .next t ∧
    (∃ gr, t.group e.tk e.g = some gr ∧ ∀ l < 32, bit (gr.mask f.mreg.toNat) l = true ↔
      bit (e.grp.mask f.mreg.toNat) l = true ∧ ∀ tid, (l, tid) ∉ e.sel f.pm f.pn) ∧
    Kept s t e (fun _ _ => False) (fun _ => False) (· = f.mreg.toNat)) ∧
  (Issues s (.mwait f) e → coreReleased e.team (e.lanes.map Prod.snd) = true →
    ∃ t, exec (.mwait f) s = .next t ∧ BundleWaits t e (.mwait f.mreg.toNat) ∧ OnlyTeams s t)

/-- exit ends the selected threads: their links go and their lanes leave every mask register (R282); prio sets the priority of the
selected threads' next resume points (R283); yield sets a mark at the fall-through, at 256 while its priority is still to be read, whose set W is the group's other entries (R284); regroup makes the bundle wait
with its keys, or traps where the group is not flagged, a flag is not zero or another address is open (R187, R285). -/
def Sys2Proof.Part.ThreadEnds : Prop := ∀ (f : OF) (s : State) (e : Env),
  (Issues s (.exit f) e → e.sel f.pm f.pn = [] ∨ (releasedBy s e ((e.sel f.pm f.pn).map Prod.snd) 2).1 = true →
    ∃ t, exec (.exit f) s = .next t ∧ ∀ l tid, (l, tid) ∈ e.sel f.pm f.pn →
      (∃ th, t.thread e.tk tid = some th ∧ th.st = .exited ∧ th.link = [] ∧ th.sp = 0) ∧
      ∃ gr, t.group e.tk e.g = some gr ∧ ∀ k < 12, bit (gr.mask k) l = false) ∧
  (Issues s (.prio f) e → ∃ t, exec (.prio f) s = .next t ∧ OnlyTeams s t ∧ ∀ l tid, (l, tid) ∈ e.sel f.pm f.pn →
    ∃ th, t.thread e.tk tid = some th ∧ th.setPrio = some ((src32 s e tid f.a).toNat % 256)) ∧
  (Issues s (.yield f) e → ∃ t, exec (.yield f) s = .next t ∧ OnlyTeams s t ∧
    ∃ gr, t.group e.tk e.g = some gr ∧ let r : Resume := { prio := 256, clause := fallThrough e.b }
      let w := (groupEntries e.team e.g).filter fun x => !x.same r
      gr.marks = if w = [] then e.grp.marks else e.grp.marks ++ [{ place := r, wait := w }]) ∧
  (Issues s (.regroup f) e → e.grp.flagged = true → coreReleased e.team (e.lanes.map Prod.snd) = true → e.grp.flagMask = 0 →
    (∀ a, e.team.rgAddr = some a → a = e.b.clause) →
    ∃ t, exec (.regroup f) s = .next t ∧ BundleWaits t e .regroup ∧ OnlyTeams s t ∧
      (∃ tm, t.team e.tk = some tm ∧ tm.rgAddr = some e.b.clause) ∧
      ∀ l tid, (l, tid) ∈ e.lanes → ∃ th, t.thread e.tk tid = some th ∧ th.key = (src32 s e tid f.a).toNat % 256) ∧
  (Issues s (.regroup f) e → Outside e e.lanes → e.grp.flagged = false → ∃ t, exec (.regroup f) s = .next t ∧ Parks t e e.lanes .illinsn) ∧
  (Issues s (.regroup f) e → Outside e e.lanes → e.grp.flagged = true → coreReleased e.team (e.lanes.map Prod.snd) = true → e.grp.flagMask ≠ 0 →
    ∃ t, exec (.regroup f) s = .next t ∧ Parks t e e.lanes .rgflags) ∧
  (∀ a, Issues s (.regroup f) e → Outside e e.lanes → e.grp.flagged = true → coreReleased e.team (e.lanes.map Prod.snd) = true → e.grp.flagMask = 0 →
    e.team.rgAddr = some a → a ≠ e.b.clause → ∃ t, exec (.regroup f) s = .next t ∧ Parks t e e.lanes .rgaddr)

/-- Reconvergence, exit, priority, yield and regroup. -/
def Obligations.ThreadControl : Prop := Part.Reconvergence ∧ Part.ThreadEnds

/-! ## System instructions -/

/-- nop changes nothing and completes when it issues; its only word is 0xF000_0000_0000_00C0 (R353). -/
def Obligations.NopOnlyAdvances : Prop :=
  (∀ f : SF, (Instr.nop f).wellFormed = true → encode (.nop f) = some 0xF0000000000000C0) ∧
  ∀ (f : SF) (s : State) (e : Env), Issues s (.nop f) e → ∃ t, exec (.nop f) s = .next t ∧ NoRegs s t e ∧ t = advance s e

/-- csrr writes the named register to every thread of the bundle or to the group (R352, R354); reading csr.hintdrop clears it (R27). -/
def Sys2Proof.Part.CsrRead : Prop := ∀ (f : SF) (s : State) (e : Env), Issues s (.csrr f) e →
  ∃ t, exec (.csrr f) s = .next t ∧
    (∀ n l tid, opKind f.d = .v n → (l, tid) ∈ e.lanes → vHolds t e.tk tid n (csrSpan f.csr) (csrValue s e.core e.team f.csr.toNat).toNat) ∧
    (∀ n, opKind f.d = .g n → gHolds t e.tk e.g n (csrSpan f.csr) (csrValue s e.core e.team f.csr.toNat).toNat) ∧
    (∀ c, f.csr = 6 → s.ctx e.team.ctx = some c → t.ctx e.team.ctx = some { c with hintdrop := 0 }) ∧
    (f.csr ≠ 6 → Kept s t e (fun tid r => (∃ l, (l, tid) ∈ e.lanes) ∧ inDest f.d (csrSpan f.csr) r) (inGDest f.d (csrSpan f.csr)) (fun _ => False))

/-- csrw from a kernel writes csr.nvr, csr.lease, csr.xidle and csr.tret under their access codes, is ignored where the table says so, and takes
ILLINSN on the driver's registers (R354, R355). That csr.tret is one register to a core, whose RISE a team of any context there clears, is the model's
choice (log 117). -/
def Sys2Proof.Part.CsrWrite : Prop := ∀ (f : SF) (s : State) (e : Env), Issues s (.csrw f) e →
  let v := (uni32 s e f.a)
  (∀ c, s.ctx e.team.ctx = some c → f.csr = 1 → ∃ t, exec (.csrw f) s = .next t ∧ t.ctx e.team.ctx = some { c with nvr := v &&& 1 }) ∧
  (∀ c, s.ctx e.team.ctx = some c → f.csr = 2 → ∃ t, exec (.csrw f) s = .next t ∧ t.ctx e.team.ctx = some { c with lease := v &&& 0x1FFF }) ∧
  (∀ c, s.ctx e.team.ctx = some c → f.csr = 3 → ∃ t, exec (.csrw f) s = .next t ∧ t.ctx e.team.ctx = some { c with xidle := v &&& 0xFFFF }) ∧
  (f.csr = 5 → ∃ t, exec (.csrw f) s = .next t ∧ (t.core e.core).tret = (s.core e.core).tret &&& ~~~(v &&& 0x80000000)) ∧
  (0x10 ≤ f.csr.toNat → f.csr.toNat ≤ 0x19 → Outside e e.lanes → ∃ t, exec (.csrw f) s = .next t ∧ Parks t e e.lanes .illinsn) ∧
  (0x20 ≤ f.csr.toNat → f.csr.toNat ≤ 0x23 → e.b.handler = false → Outside e e.lanes →
    ∃ t, exec (.csrw f) s = .next t ∧ Parks t e e.lanes .illinsn) ∧
  (f.csr.toNat < 8 → f.csr.toNat ∉ [1, 2, 3, 5] → ∃ t, exec (.csrw f) s = .next t ∧ NoRegs s t e) ∧
  (0x30 ≤ f.csr.toNat → ∃ t, exec (.csrw f) s = .next t ∧ NoRegs s t e) ∧
  (e.b.handler = true → f.csr.toNat ∈ [0x20, 0x21, 0x23] → ∃ t, exec (.csrw f) s = .next t ∧ NoRegs s t e) ∧
  (e.b.handler = true → f.csr = 0x22 → ∃ t, exec (.csrw f) s = .next t ∧
    t = advance (writeRsvadd s e.team.ctx ((uni64 e f.a).extractLsb' 0 37)) e)

/-- A write of csr.rsvadd by a handler, or the transfer alone, moves AMOUNT sectors between the pool and the reserve, or reports that
one of them is short (R60). -/
def Sys2Proof.Part.ReserveTransfer : Prop := ∀ (s : State) (x : Nat) (amount : BitVec 37) (c : Ctx), s.ctx x = some c →
  let a := amount.toInt
  let pool := s.poolOf c.vd
  let moved : Bool := decide (a ≤ pool) && decide (-a ≤ c.reserve)
  ∃ t c', exec (.rsvaddTransfer x amount) s = .next t ∧ t.ctx x = some c' ∧
    c'.rsvadd.extractLsb' 0 37 = amount ∧
    (c'.rsvadd.extractLsb' 62 2).toNat = (if moved then 0 else if 0 < a then 1 else 2) ∧
    (c'.reserve : Int) = (if moved then c.reserve + a else c.reserve) ∧
    (t.pool : Int) = (if moved then s.pool - a else s.pool) ∧ t.mem = s.mem ∧ t.teams = s.teams

/-- A read of csr.hintdrop by the host gives the count and clears it (R27). -/
def Sys2Proof.Part.HintdropRead : Prop := ∀ (s : State) (x : Nat) (c : Ctx), s.ctx x = some c →
  ∃ t, exec (.hintdropRead x) s = .next t ∧ t.hostRd = c.hintdrop.zeroExtend 64 ∧ t.ctx x = some { c with hintdrop := 0 } ∧ t.mem = s.mem ∧ t.teams = s.teams

/-- Special registers as csrr and csrw, and the driver, reach them. -/
def Obligations.SpecialRegisters : Prop := Part.CsrRead ∧ Part.CsrWrite ∧ Part.ReserveTransfer ∧ Part.HintdropRead

/-- trap and brk park the selected threads with TRAPI and BRKPT, the code from the instruction in each thread's fault; in handler mode they
kill the team with that cause and code, and the kill record holds the code; brk in handler mode under EN parks for the debugger (R361, R392, R401). -/
def Obligations.SoftwareTraps : Prop := ∀ (f : SF) (s : State) (e : Env),
  (Issues s (.trap f) e → e.b.handler = false → Outside e (e.sel f.pm f.pn) → ∃ t, exec (.trap f) s = .next t ∧ Parks t e (e.sel f.pm f.pn) .trapi ∧
    ∀ l tid, (l, tid) ∈ e.sel f.pm f.pn → ∃ th g, t.thread e.tk tid = some th ∧ th.fault = some g ∧ g.code = f.n.toNat) ∧
  (Issues s (.brk f) e → e.b.handler = false → Outside e (e.sel f.pm f.pn) → ∃ t, exec (.brk f) s = .next t ∧ Parks t e (e.sel f.pm f.pn) .brkpt ∧
    ∀ l tid, (l, tid) ∈ e.sel f.pm f.pn → ∃ th g, t.thread e.tk tid = some th ∧ th.fault = some g ∧ g.code = f.n.toNat) ∧
  (Issues s (.trap f) e → e.b.handler = true → e.sel f.pm f.pn ≠ [] → e.team.kill = none →
    ∃ t tm k, exec (.trap f) s = .next t ∧ t.team e.tk = some tm ∧ tm.kill = some k ∧ k.cause = .trapi ∧ k.code = f.n.toNat) ∧
  (Issues s (.brk f) e → e.b.handler = true → (∀ c, s.ctx e.team.ctx = some c → bit c.dbgctl 0 = false) → e.sel f.pm f.pn ≠ [] → e.team.kill = none →
    ∃ t tm k, exec (.brk f) s = .next t ∧ t.team e.tk = some tm ∧ tm.kill = some k ∧ k.cause = .brkpt ∧ k.code = f.n.toNat) ∧
  (∀ c, Issues s (.brk f) e → e.b.handler = true → s.ctx e.team.ctx = some c → bit c.dbgctl 0 = true →
    ∃ t, exec (.brk f) s = .next t ∧ ∀ l tid, (l, tid) ∈ e.sel f.pm f.pn →
      ∃ th, t.thread e.tk tid = some th ∧ th.st = .parked ∧ th.dbg = true ∧ th.rp.clause = e.b.clause ∧ th.rp.index = e.b.index) ∧
  ∀ (u : State) (tm : Team) (k : FaultInfo), leNat (((killRecord u tm k).drop 5).take 1) = k.code % 256

/-- tret outside a handler takes ILLINSN; in a handler every thread of the bundle returns from its record, and the bundle ends
(R362, R392). -/
def Sys2Proof.Part.TrapReturn : Prop := ∀ (f : SF) (s : State) (e : Env),
  (∀ i ∈ [Instr.tretReplay f, Instr.tretSkip f], Issues s i e → e.b.handler = false → Outside e e.lanes → ∃ t, exec i s = .next t ∧ Parks t e e.lanes .illinsn) ∧
  (∀ u, Issues s (.tretReplay f) e → e.b.handler = true → issuesOpen e = false →
    e.lanes.foldl (fun (acc : Virt Unit) p => acc.bind fun _ s => returnFrom s e.tk p.2 false) (.ok () s) = .ok () u →
    ∃ t, exec (.tretReplay f) s = .next t ∧ t = leaveBundle u e.tk e.g e.b.lanes) ∧
  (∀ u, Issues s (.tretSkip f) e → e.b.handler = true → issuesOpen e = false →
    e.lanes.foldl (fun (acc : Virt Unit) p => acc.bind fun _ s => returnFrom s e.tk p.2 true) (.ok () s) = .ok () u →
    ∃ t, exec (.tretSkip f) s = .next t ∧ t = leaveBundle u e.tk e.g e.b.lanes)

/-- What a thread resumes from is its trap record: clause, priority and index, one further under tret.skip (R362, R395). -/
def Sys2Proof.Part.ReturnFromRecord : Prop := ∀ (s : State) (tk tid : Nat) (skip : Bool) (t : Team) (c : Ctx) (th : Thread) (bs : List Byte) (u : State),
  s.team tk = some t → s.ctx t.ctx = some c → t.threads[tid]? = some th →
  virtRead s (some t.core) t.ctx th.pslot (recordAddr c th.pslot) 128 kRead true = .ok bs u → (u.thread tk tid).isSome = true →
  (parseRecord bs th.fetchTrap).fetch = false →
  ∃ v th', returnFrom s tk tid skip = .ok () v ∧ v.thread tk tid = some th' ∧ th'.handler = false ∧
    th'.rp.clause = leNat ((bs.drop 8).take 8) ∧ th'.rp.prio = leNat ((bs.drop 17).take 1) ∧
    th'.rp.index = leNat ((bs.drop 16).take 1) + (if skip then 1 else 0)

/-- The trap record holds its fields where R395 puts them. -/
def Sys2Proof.Part.TrapRecordLayout : Prop := ∀ (f : FaultInfo) (killed : Bool),
  let r := trapRecord f killed
  let at_ := fun o n => leNat ((r.drop o).take n)
  r.length = 128 ∧ at_ 0 1 = f.cause.number % 256 ∧ at_ 1 1 = f.code % 256 ∧ at_ 2 1 = (if killed then 1 else 0) ∧
  at_ 4 4 = f.word.toNat % 2 ^ 32 ∧ at_ 8 8 = f.clause % 2 ^ 64 ∧ at_ 0x10 1 = f.index % 256 ∧ at_ 0x11 1 = f.prio % 256 ∧ at_ 0x12 1 = f.lane % 256 ∧
  at_ 0x14 4 = f.bundle.toNat ∧ at_ 0x18 4 = f.done.toNat ∧ at_ 0x1C 4 = f.refused.toNat ∧
  (∀ j < 4, at_ (0x20 + 8 * j) 8 = f.addrs.getD j 0 % 2 ^ 64) ∧ at_ 0x40 8 = f.reserve % 2 ^ 36 ∧ at_ 0x48 4 = f.pmark.toNat ∧ at_ 0x4C 4 = f.aux % 2 ^ 32 ∧
  at_ 0x50 4 = f.word.toNat / 2 ^ 32 ∧ at_ 0x54 4 = f.grp.toNat ∧ at_ 0x58 8 = f.time % 2 ^ 64 ∧ at_ 0x60 2 = f.core % 2 ^ 16

/-- The trap record, and the return from it. -/
def Obligations.TrapRecords : Prop := Part.TrapReturn ∧ Part.ReturnFromRecord ∧ Part.TrapRecordLayout

/-- launch posts the packet, read at its homes or from the host, and writes status and index to its pair; a packet's address that translates
but is no multiple of 64 takes MISALIGN in the whole bundle (R366). -/
def Sys2Proof.Part.Launch : Prop := ∀ (f : SF) (s u v w : State) (e : Env) (lane tid : Nat) (g : Target) (ts : List Target) (r : Nat × Nat),
  Issues s (.launch f) e → released s e 2 = (true, u) → e.lanes.headD (0, 0) = (lane, tid) →
  checkLanes u e [(lane, tid, (uni64 e f.a).toNat)] 64 kRead false = .ok (g :: ts) → v = dropEnded u e.core e.team.ctx →
  ((uni64 e f.a).toNat % 64 = 0 →
    ((readPacket v e.core e.team.ctx g.tgt g.ea).toVirt g.va).bind (fun pkt s => launchStep s e.team.ctx e.core (e.thread tid).pslot pkt) = .ok r w →
    ∃ t, exec (.launch f) s = .next t ∧ t = advance (progress (writeG w e f.d 2 (r.1 + r.2 % 2 ^ 32 * 2 ^ 32)) e.tk) e) ∧
  ((uni64 e f.a).toNat % 64 ≠ 0 → Outside e e.lanes → ∃ t, exec (.launch f) s = .next t ∧ Parks t e e.lanes .misalign)

/-- clock writes cycles or nanoseconds to a pair (R363); sleep makes the bundle wait and no longer than to its tick (R364); waitf waits
while the flag is above its bound (R365). -/
def Sys2Proof.Part.TimedWaits : Prop := ∀ (f : SF) (s : State) (e : Env),
  (Issues s (.clock f) e → ∃ t, exec (.clock f) s = .next t ∧ let x := if f.a = 1792 then (s.core e.core).cycles else s.ns
    (∀ n l tid, opKind f.d = .v n → (l, tid) ∈ e.lanes → vHolds t e.tk tid n 2 x) ∧ (∀ n, opKind f.d = .g n → gHolds t e.tk e.g n 2 x) ∧
    Kept s t e (fun tid r => (∃ l, (l, tid) ∈ e.lanes) ∧ inDest f.d 2 r) (inGDest f.d 2) (fun _ => False)) ∧
  (Issues s (.sleep f) e → let n := (uni32 s e f.a).toNat % 65536
    (n = 0 → ∃ t, exec (.sleep f) s = .next t ∧ NoRegs s t e) ∧
    (n ≠ 0 → ∃ t, exec (.sleep f) s = .next t ∧ OnlyTeams s t ∧ BundleWaits t e (.sleep ((s.core e.core).rtotal + n)))) ∧
  (Issues s (.waitf f) e →
    (e.grp.flag f.cf.toNat ≤ f.n.toNat → ∃ t, exec (.waitf f) s = .next t ∧ NoRegs s t e) ∧
    (f.n.toNat < e.grp.flag f.cf.toNat → ∃ t, exec (.waitf f) s = .next t ∧ OnlyTeams s t ∧ BundleWaits t e (.waitf f.cf.toNat f.n.toNat))) ∧
  (∀ (k tid : Nat) (tm : Team) (th : Thread), s.team k = some tm → tm.threads[tid]? = some th → sleepOver s tm.core th = true →
    (s.core tm.core).asleep = false → tm.kill = none → tm.kept = false →
    ∃ t, exec (.sleepEnd k tid) s = .next t ∧ OnlyTeams s t ∧ ∃ tm' : Team, t.team k = some tm' ∧ tm'.lookout = 0 ∧
      ∀ (j : Nat) (th' : Thread), tm'.threads[j]? = some th' → sleepOver s tm.core th' = false)

/-- launch, clock, sleep, waitf and the end of a sleep, which for every thread of the team whose deadline has passed is one step: the model's reading
(log 24); Lookout starts anew there (R387). -/
def Obligations.LaunchAndWaits : Prop := Part.Launch ∧ Part.TimedWaits

/-! ## The window, the store buffer and completion -/

/-- A ready load lane is answered by the store buffer or L1, or, where no lane of its instruction has to wait for the line, its line is asked for,
owned words of it given up first where its policy is not OWN (R119, R151, R289). -/
def Sys2Proof.Part.LoadLanes : Prop := ∀ (s : State) (k iss lane : Nat) (tm : Team) (i : Inflight) (l : LaneOp),
  laneOf s k iss lane = some (tm, i, l) → l.kind = .load → l.stage = .ready → i.scratch = false → mustFollow tm iss l = false →
  (∀ bs, l1Lookup s tm.core l = .hit bs → ((newestOverlap (s.core tm.core) l).isSome = true ∨ l1Read s tm.core l.ea = (false, s)) →
    ∃ t tm' i', exec (.localLoad k iss lane) s = .next t ∧ laneOf t k iss lane = some (tm', i', { l with stage := .returned, result := bs }) ∧
      OnlyTeams s t) ∧
  (l1Lookup s tm.core l = .miss → (i.lanes.map LaneOp.lane).Nodup → l.tgt = 1 ∨ (lineWaits s tm i l = false ∧ (l.pol = 1 ∨ l1Way s tm.core (lineOf l.ea) = true)) →
    ∃ t tm' i' l', exec (.send k iss lane) s = .next t ∧ laneOf t k iss lane = some (tm', i', l') ∧ l'.stage = .sent ∧ t.mem = s.mem ∧
      (l.tgt ≠ 1 → ∃ r q, (mapGet? (t.core tm.core).up (s.slice l.ea)) = some (q ++ [.req r]) ∧ r.core = tm.core ∧ r.line = lineOf l.ea ∧
        r.team = k ∧ r.iss = iss ∧ r.lane = lane ∧ r.ctx = tm.ctx ∧
        (l.pol ≠ 0 → ((t.core tm.core).l1Line (lineOf l.ea)).owned &&& wordsMask (l.ea % 128) l.n = 0)) ∧
      (l.tgt = 1 → t.hostOut = s.hostOut ++ [.read l.ea l.n]))

/-- A ready store-class lane enters the store buffer behind the core's other entries, admitted unless its admission is still to be asked for,
once nothing else of the core waits on a translation through its line (R20, R48, R49, R150). -/
def Sys2Proof.Part.StoreEntry : Prop := ∀ (s : State) (k iss lane : Nat) (tm : Team) (i : Inflight) (l : LaneOp),
  laneOf s k iss lane = some (tm, i, l) → l.kind ≠ .load → l.stage = .ready → i.scratch = false → mustFollow tm iss l = false → l.n ≠ 0 →
  (∀ o ∈ i.lanes, o.lane < lane → o.stage ≠ .ready) → (∀ e ∈ (s.core tm.core).sb, overlaps e.tgt e.ea e.n l.tgt l.ea l.n = false) →
  (l.tgt ≠ 1 → othersDepend s tm.core (lineOf l.ea) iss = false) → ∃ t tm' i' l' e, exec (.enter k iss lane) s = .next t ∧ (t.core tm.core).sb = (s.core tm.core).sb ++ [e] ∧
    e.ea = l.ea ∧ e.n = l.n ∧ e.data = l.data ∧ e.kind = l.kind ∧ e.pol = l.pol ∧ e.sent = false ∧
    e.admitted = !l.unadmitted ∧ e.ptes = l.ptes ∧ e.tgt = l.tgt ∧ e.iss = iss ∧ e.lane = lane ∧
    laneOf t k iss lane = some (tm', i', l') ∧ l'.stage = .entered ∧ l'.sb = e.id ∧ t.mem = s.mem

/-- A lane's way from the window: a load served in the core or sent, a store into the store buffer. -/
def Obligations.CoreSide : Prop := Part.LoadLanes ∧ Part.StoreEntry

/-- The oldest entry for a home leaves the store buffer: to the host port, into words its core owns, or as a request (R150, R152,
R167); nothing of the line is then on its way to the core, and nothing else waits on a translation through it. A write-back is marked sent
and completes once its billet is closed (R67). -/
def Obligations.StoreLeaves : Prop := ∀ (s : State) (c : Nat) (e : SbEntry) (rest : List SbEntry),
  (s.core c).sb = e :: rest → (∀ x ∈ rest, x.id ≠ e.id) →
  (e.sent = false → e.n ≠ 0 → e.tgt = 1 → e.kind = .store → ∃ t, exec (.leave c e.id) s = .next t ∧
    (t.core c).sb.map SbEntry.id = rest.map SbEntry.id ∧ t.hostOut = s.hostOut ++ [.write e.ea e.data] ∧
    t.hostPend = s.hostPend ++ [{ core := c, entry := e.id, team := e.team, iss := e.iss, ea := e.ea, ctx := e.ctx, since := s.ns }] ∧ t.mem = s.mem) ∧
  (∀ op ty ret, e.sent = false → e.n ≠ 0 → e.tgt = 1 → e.kind = .atom op ty ret → ∃ t, exec (.leave c e.id) s = .next t ∧
    (t.core c).sb = { e with sent := true } :: rest ∧ t.hostOut = s.hostOut ++ [.atomic e.ea op ty e.data] ∧ t.mem = s.mem) ∧
  (e.sent = false → e.n ≠ 0 → e.tgt ≠ 1 → e.kind = .store → e.pol = 0 → wordsMask (e.ea % 128) e.n ≠ 0 →
    ((s.core c).l1Line (lineOf e.ea)).owned &&& wordsMask (e.ea % 128) e.n = wordsMask (e.ea % 128) e.n →
    ownInFlight (s.core c) (lineOf e.ea) (wordsMask (e.ea % 128) e.n) = false →
    ∃ t, exec (.leave c e.id) s = .next t ∧ (t.core c).sb.map SbEntry.id = rest.map SbEntry.id ∧ t.mem = s.mem ∧
      ((t.core c).l1Line (lineOf e.ea)).data = cellsSet ((s.core c).l1Line (lineOf e.ea)).data (e.ea % 128) e.data) ∧
  (e.sent = false → e.n ≠ 0 → e.tgt ≠ 1 → ((s.core c).l1Line (lineOf e.ea)).owned = 0 → wordsMask (e.ea % 128) e.n ≠ 0 →
    ownInFlight (s.core c) (lineOf e.ea) (wordsMask (e.ea % 128) e.n) = false → copyComing s c (lineOf e.ea) = false →
    (e.pol = 0 → e.kind = .store → l1Way s c (lineOf e.ea) = true) → othersDepend s c (lineOf e.ea) e.iss = false →
    ∃ t r q, exec (.leave c e.id) s = .next t ∧ (t.core c).sb = { e with sent := true } :: rest ∧ t.mem = s.mem ∧
      mapGet? (t.core c).up (s.slice e.ea) = some (q ++ [.req r]) ∧ r.sb = e.id ∧ r.line = lineOf e.ea ∧ r.data = e.data ∧ r.mark = !e.admitted ∧
      r.held = ((s.core c).l1Line (lineOf e.ea)).held) ∧
  (e.sent = false → e.n = 0 → ∃ t, exec (.leave c e.id) s = .next t ∧ (t.core c).sb = { e with sent := true } :: rest) ∧
  (e.sent = true → e.n = 0 → e.closed = true → ∃ t, exec (.leave c e.id) s = .next t ∧
    (t.core c).sb.map SbEntry.id = rest.map SbEntry.id ∧ t.mem = s.mem)

/-- Replies for store-buffer entries: an acknowledgement and a grant end the entry, and bring its billet into the filter where they say so, a
refusal marks the lane (R48 to R50, R150, R152). -/
def Sys2Proof.Part.StoreReplies : Prop := ∀ (s u : State) (c h : Nat) (e : SbEntry),
  (u.core c).sb.find? (fun x => x.id == e.id) = some e →
  (∀ old opens, takeDown s c h = some (.ack e.id old opens, u) → ∃ t, exec (.storeAck c h) s = .next t ∧ t.mem = s.mem ∧
    (∀ x ∈ (t.core c).sb, x.id ≠ e.id) ∧ (opens = true → billetOf e.ea ∈ (t.core c).filter) ∧ (opens = false → (t.core c).filter = (u.core c).filter) ∧
    (∀ tm i l, laneOf u e.team e.iss e.lane = some (tm, i, l) → ∃ tm' i' l', laneOf t e.team e.iss e.lane = some (tm', i', l') ∧
      l'.stage = .performed ∧ l'.result = old ∧ l'.unadmitted = false)) ∧
  (∀ line words chunks data opens, line = lineOf e.ea → words ≠ 0 → takeDown s c h = some (.grant e.id line words chunks data opens, u) →
    ∃ t, exec (.ownershipGrant c h) s = .next t ∧ t.mem = s.mem ∧ (∀ x ∈ (t.core c).sb, x.id ≠ e.id) ∧
      (opens = true → billetOf e.ea ∈ (t.core c).filter) ∧ (opens = false → (t.core c).filter = (u.core c).filter) ∧
      ((t.core c).l1Line line).owned = ((u.core c).l1Line line).owned ||| words ∧
      (∀ j < ((u.core c).l1Line line).chunks.length, words &&& chunkWords (setBit 0 j true) ≠ 0 → ((t.core c).l1Line line).chunks[j]? = some .tracked) ∧
      (e.data ≠ [] → e.ea % 128 + e.data.length ≤ 128 → cellsGet ((t.core c).l1Line line).data (e.ea % 128) e.data.length = e.data)) ∧
  (∀ billet reserve cause, takeDown s c h = some (.refuse e.id billet reserve cause, u) → ∃ t, exec (.admissionRefused c h) s = .next t ∧ t.mem = s.mem ∧
    (∀ x ∈ (t.core c).sb, x.id ≠ e.id) ∧
    (∀ tm i l, laneOf u e.team e.iss e.lane = some (tm, i, l) → ∃ tm' i' l', laneOf t e.team e.iss e.lane = some (tm', i', l') ∧
      l'.stage = .refused ∧ l'.cause = cause ∧ l'.billet = billet ∧ l'.reserve = reserve))

/-- A load reply fills the asked chunks of the line and answers the lanes that went in its request, with the bytes the line then holds or, for a
load under WT, with those the reply brings (R123, R150, R289). -/
def Sys2Proof.Part.LoadReplies : Prop := ∀ (s u : State) (c h k iss lane : Nat),
  (∀ (line : Nat) (chunks : BitVec 8) (data : Cells 8) (lease : Option (BitVec 16)), takeDown s c h = some (.fill k iss lane line chunks data lease, u) →
  ∃ t, exec (.loadReply c h) s = .next t ∧ t.mem = s.mem ∧
    (∀ j, bit chunks j = true → j < ((u.core c).l1Line line).chunks.length →
      ((t.core c).l1Line line).chunks[j]? = some (if (((u.core c).l1Line line).chunks.getD j .empty).isTracked then .tracked
        else match lease with | some x => .leased x | none => .tracked)) ∧
    (∀ tm i l, laneOf u k iss l.lane = some (tm, i, l) → l ∈ answered i lane → ∃ tm' i' l', laneOf t k iss l.lane = some (tm', i', l') ∧
      l'.stage = .returned ∧ l'.result = l1Bytes (installChunks ((u.core c).l1Line line) chunks data
        (match lease with | some x => .leased x | none => .tracked)) l.ea l.n)) ∧
  (∀ (base : Nat) (bs : List Byte), takeDown s c h = some (.bytes k iss lane base bs, u) →
    ∃ t, exec (.loadReply c h) s = .next t ∧ t.mem = s.mem ∧ (t.core c).l1 = (u.core c).l1 ∧
      ∀ tm i l, laneOf u k iss l.lane = some (tm, i, l) → l ∈ answered i lane → ∃ tm' i' l', laneOf t k iss l.lane = some (tm', i', l') ∧
        l'.stage = .returned ∧ l'.result = (bs.drop (l.ea - base)).take l.n)

/-- Replies from the homes reach their lanes. -/
def Obligations.RepliesToCores : Prop := Part.StoreReplies ∧ Part.LoadReplies

/-- An issue whose lanes have all returned or performed leaves the window: its flag goes down by one and every live thread's v
destination holds its lane's result (R150, R290). -/
def Sys2Proof.Part.Completion : Prop := ∀ (s : State) (k iss : Nat) (tm : Team) (i : Inflight) (gr : Group) (d : BitVec 11) (ty n : Nat),
  s.team k = some tm → findIss tm iss = some i → s.group k i.grp = some gr → (s.core tm.core).asleep = false → i.engine = false → i.fence = none →
  (∀ l ∈ i.lanes, l.stage = .returned ∨ l.stage = .performed) → heldByOlder tm i = false → (i.lanes.map LaneOp.tid).Nodup →
  resultOf i.insn = some (d, ty, false) → opKind d = .v n →
  ∃ t tm' gr', exec (.complete k iss) s = .next t ∧ t.team k = some tm' ∧ findIss tm' iss = none ∧ t.mem = s.mem ∧
    t.group k i.grp = some gr' ∧ gr'.g = gr.g ∧ gr'.m = gr.m ∧
    (∀ f, i.flag = some f → gr'.flag f = gr.flag f - 1) ∧ (∀ f, i.flag ≠ some f → gr'.flag f = gr.flag f) ∧
    ∀ l ∈ i.lanes, ∀ th, tm.threads[l.tid]? = some th →
      (th.live = true → vHolds t k l.tid n (tySpan ty) (extendTo ty (leNat l.result))) ∧ (th.live = false → t.thread k l.tid = some th)

/-- An issue with lanes refused for want of reserve or of a tier block, every older instruction complete, makes their threads take the capacity
cause, with the lanes done and refused (R53, R88); where both causes are among them all take CAPREFUSE, which is the model's reading (log 40). -/
def Sys2Proof.Part.CapacityRefusal : Prop := ∀ (s : State) (k iss : Nat) (tm : Team) (i : Inflight),
  s.team k = some tm → findIss tm iss = some i → (s.group k i.grp).isSome = true → (s.core tm.core).asleep = false → i.engine = false → i.fence = none →
  i.acq = none → resultOf i.insn = none → (∀ l ∈ i.lanes, l.stage = .refused → l.cause = .caprefuse ∨ l.cause = .tiershort) →
  (∀ f, i.insn ≠ .launch f) → (∀ l ∈ i.lanes, l.stage = .performed ∨ l.stage = .refused) → heldByOlder tm i = false →
  olderComplete tm i ((i.lanes.filter fun l => l.stage == .refused).map LaneOp.tid) = true →
  ∃ t, exec (.complete k iss) s = .next t ∧ ∀ l ∈ i.lanes, l.stage = .refused → ∀ th, tm.threads[l.tid]? = some th → th.handler = false →
    ∃ th' f, t.thread k l.tid = some th' ∧ th'.st = .parked ∧ th'.fault = some f ∧
      f.cause = (if i.lanes.any fun l => l.stage == .refused && l.cause == .caprefuse then .caprefuse else .tiershort) ∧
      f.done = maskOf ((i.lanes.filter fun l => l.stage == .performed).map LaneOp.lane) ∧
      f.refused = maskOf ((i.lanes.filter fun l => l.stage == .refused).map LaneOp.lane) ∧ f.reserve = i.lastReserve

/-- A host completion gives a sent load lane its bytes; an error, or 50 ms without an answer, gives it ones, and neither comes as a timeout
before (R167, R412). -/
def Sys2Proof.Part.HostCompletions : Prop := ∀ (s : State) (k iss lane : Nat) (tm : Team) (i : Inflight) (l : LaneOp),
  laneOf s k iss lane = some (tm, i, l) → l.tgt = 1 → l.kind = .load → l.stage = .sent →
  (∀ bs, l.n ≤ bs.length → ∃ t tm' i', exec (.hostCompletion k iss lane bs) s = .next t ∧
    laneOf t k iss lane = some (tm', i', { l with stage := .returned, result := bs.take l.n })) ∧
  (∃ t tm' i', exec (.hostCompletionError k iss lane) s = .next t ∧
    laneOf t k iss lane = some (tm', i', { l with stage := .returned, result := List.replicate l.n (BitVec.allOnes 8) })) ∧
  (l.since + 50000000 ≤ s.ns → ∃ t tm' i', exec (.hostCompletionTimeout k iss lane) s = .next t ∧
    laneOf t k iss lane = some (tm', i', { l with stage := .returned, result := List.replicate l.n (BitVec.allOnes 8) })) ∧
  (s.ns < l.since + 50000000 → ∃ n, exec (.hostCompletionTimeout k iss lane) s = .refused (.notEnabled n))

/-- Issues complete, are refused for capacity, or end with the host's answer. -/
def Obligations.Completions : Prop := Part.Completion ∧ Part.CapacityRefusal ∧ Part.HostCompletions

/-! ## Memory instructions at issue -/

/-- Loads whose lanes all translate, and which no engine write of their threads stands before, enter the window with one lane per selected thread;
nothing is loaded yet (R287, R291 to R295; that a lane behind an engine write waits at its issue is the model's reading, log 103). -/
def Sys2Proof.Part.LoadIssue : Prop := ∀ (f : MF) (s : State) (e : Env) (g : Target) (ts : List Target),
  (Issues s (.ld f) e → checkLanes s e (mAddrs e f) (tyBytes f.ty) kRead true = .ok (g :: ts) →
    engineHolds (dropEnded s e.core e.team.ctx) e (tyBytes f.ty) (g :: ts) = false →
    ∃ t, exec (.ld f) s = .next t ∧ Enters s t e (.ld f) ((g :: ts).map (loadLane s e f)) (acquireOf f.ord f.scope)) ∧
  (Issues s (.ldp f) e → checkLanes s e (packedAddrs e f (tyBytes f.ty)) (tyBytes f.ty) kRead true = .ok (g :: ts) →
    engineHolds (dropEnded s e.core e.team.ctx) e (tyBytes f.ty) (g :: ts) = false →
    ∃ t, exec (.ldp f) s = .next t ∧ Enters s t e (.ldp f) ((g :: ts).map (loadLane s e f)) (acquireOf f.ord f.scope))

/-- Stores and atomics, once a release they carry is satisfied and no engine write of their threads stands before them (log 103, the model's
reading), enter the window with their data (R293, R295, R297). That the data of st and stp may be any 32-bit source is the model's choice (log 113). -/
def Sys2Proof.Part.StoreIssue : Prop := ∀ (s u : State) (e : Env) (g : Target) (ts : List Target),
  (∀ f : MF, Issues s (.st f) e → (if f.ord = 2 then released s e f.scope.toNat else (true, s)) = (true, u) →
    checkLanes u e (mAddrs e f) (tyBytes f.ty) kWrite true = .ok (g :: ts) →
    engineHolds (dropEnded u e.core e.team.ctx) e (tyBytes f.ty) (g :: ts) = false →
    ∃ t, exec (.st f) s = .next t ∧ Enters s t e (.st f) ((g :: ts).map fun g => storeLane s e g (tyBytes f.ty)
      (effectivePol s e.team.ctx f.coh.toNat g.tgt g.pte) .store (leBytes (tyBytes f.ty) (srcNat s e g.tid f.d (tySpan f.ty)))) none) ∧
  (∀ f : MF, Issues s (.stp f) e → (if f.ord = 2 then released s e f.scope.toNat else (true, s)) = (true, u) →
    checkLanes u e (packedAddrs e f (tyBytes f.ty)) (tyBytes f.ty) kWrite true = .ok (g :: ts) →
    engineHolds (dropEnded u e.core e.team.ctx) e (tyBytes f.ty) (g :: ts) = false →
    ∃ t, exec (.stp f) s = .next t ∧ Enters s t e (.stp f) ((g :: ts).map fun g => storeLane s e g (tyBytes f.ty)
      (effectivePol s e.team.ctx f.coh.toNat g.tgt g.pte) .store (leBytes (tyBytes f.ty) (srcNat s e g.tid f.d (tySpan f.ty)))) none) ∧
  (∀ f : MAF, (∀ x ∈ g :: ts, x.tgt = 1 → hostAtomOk f.fn.toNat f.ty.toNat = true) →
    (if f.ord = 2 ∨ f.ord = 3 then released s e f.scope.toNat else (true, s)) = (true, u) →
    checkLanes u e ((e.sel f.pm f.pn).map fun p => (p.1, p.2, (src64 e p.2 f.base).toNat)) (tyBytes f.ty.toNat) kRmw true = .ok (g :: ts) →
    engineHolds (dropEnded u e.core e.team.ctx) e (tyBytes f.ty.toNat) (g :: ts) = false →
    (Issues s (.atom f) e → ∃ t, exec (.atom f) s = .next t ∧ Enters s t e (.atom f) ((g :: ts).map fun g => storeLane s e g (tyBytes f.ty.toNat) 1
      (.atom f.fn.toNat f.ty.toNat true) (atomBytes s e f g.tid)) (acquireOf f.ord f.scope)) ∧
    (Issues s (.red f) e → ∃ t, exec (.red f) s = .next t ∧ Enters s t e (.red f) ((g :: ts).map fun g => storeLane s e g (tyBytes f.ty.toNat) 1
      (.atom f.fn.toNat f.ty.toNat false) (atomBytes s e f g.tid)) none))

/-- Loads, stores, atomics and reductions enter the window. -/
def Obligations.MemoryIssue : Prop := Part.LoadIssue ∧ Part.StoreIssue

/-- A lane that faults in translation stops every lane: no lane performs, the threads of bundle and predicate take the cause and the bundle's
other threads go on (R23, R287): that all of them take it is the model's reading (log 72); an atomic the host cannot serve takes HOSTATOM (R299). That a lane whose
address is not aligned counts with MISALIGN alone, also at or above 2^57, is the model's choice (log 94). -/
def Obligations.AccessFaults : Prop := ∀ (s u v : State) (e : Env) (g : FaultInfo),
  (∀ (f : MF), ∀ p ∈ [(Instr.ld f, mAddrs e f), (.ldp f, packedAddrs e f (tyBytes f.ty))], Issues s p.1 e → Outside e (e.sel f.pm f.pn) →
    checkLanes s e p.2 (tyBytes f.ty) kRead true = .fault g u →
    ∃ t, exec p.1 s = .next t ∧ Parks t e (e.sel f.pm f.pn) g.cause ∧ t = faultSel u e (e.sel f.pm f.pn) g ∧ t.mem = s.mem ∧ RegsSame s t) ∧
  (∀ (f : MF), ∀ p ∈ [(Instr.st f, mAddrs e f), (.stp f, packedAddrs e f (tyBytes f.ty))], Issues s p.1 e → Outside e (e.sel f.pm f.pn) →
    (if f.ord = 2 then released s e f.scope.toNat else (true, s)) = (true, v) → checkLanes v e p.2 (tyBytes f.ty) kWrite true = .fault g u →
    ∃ t, exec p.1 s = .next t ∧ Parks t e (e.sel f.pm f.pn) g.cause ∧ t = faultSel u e (e.sel f.pm f.pn) g ∧ t.mem = s.mem ∧ RegsSame s t) ∧
  (∀ (f : MAF), ∀ i ∈ [Instr.atom f, .red f], Issues s i e → Outside e (e.sel f.pm f.pn) →
    (if f.ord = 2 ∨ f.ord = 3 then released s e f.scope.toNat else (true, s)) = (true, v) →
    let as := (e.sel f.pm f.pn).map fun p => (p.1, p.2, (src64 e p.2 f.base).toNat)
    (checkLanes v e as (tyBytes f.ty.toNat) kRmw true = .fault g u →
      ∃ t, exec i s = .next t ∧ Parks t e (e.sel f.pm f.pn) g.cause ∧ t = faultSel u e (e.sel f.pm f.pn) g ∧ t.mem = s.mem ∧ RegsSame s t) ∧
    (∀ (x : Target) (ts : List Target), x ∈ ts → x.tgt = 1 → hostAtomOk f.fn.toNat f.ty.toNat = false → checkLanes v e as (tyBytes f.ty.toNat) kRmw true = .ok ts →
      ∃ t, exec i s = .next t ∧ Parks t e (e.sel f.pm f.pn) .hostatom ∧ t.mem = s.mem ∧ RegsSame s t)) ∧
  (∀ tid va n kind, (s.ctx e.team.ctx).isSome = true → 2 ^ 57 ≤ va → checkLane s e tid va n kind false = .fault .noncanon [va] 0 ∧
    (va % n = 0 → checkLane s e tid va n kind true = .fault .noncanon [va] 0)) ∧
  (∀ tid va n kind, va % n ≠ 0 → checkLane s e tid va n kind true = .fault .misalign [va] 0)

/-- Loads through the constant path are made at issue, in the constant cache: ldk enters the window with its lanes' bytes, and gldk with its bytes
for every thread of the bundle, its address relocated by the slot of the bundle's first thread, which is the model's choice (log 76); their
completion writes them, gldk's to the group's destination (R51, R150, R160, R261, R296). -/
def Sys2Proof.Part.ConstantLoads : Prop := ∀ (s u : State) (e : Env) (g : Target) (ts : List Target),
  (∀ (f : MF) (lanes : List LaneOp), Issues s (.ldk f) e → checkLanes s e (mAddrs e f) (tyBytes f.ty) kRead true = .ok (g :: ts) →
    kcLanes (dropEnded s e.core e.team.ctx) e (tyBytes f.ty) (g :: ts) = (some lanes, u) →
    ∃ t, exec (.ldk f) s = .next t ∧ Enters u t e (.ldk f) lanes none ∧ RegsSame s t ∧
      lanes.map (fun l => (l.lane, l.tid)) = (g :: ts).map (fun g => (g.lane, g.tid)) ∧ ∀ l ∈ lanes, l.stage = .returned ∨ l.stage = .poisoned) ∧
  (∀ (f : VF) (l tid : Nat) (bs : List Byte), Issues s (.gldk f) e → e.lanes.head? = some (l, tid) →
    checkLanes s e [(l, tid, addrPlus (uni64 e f.a).toNat (src32 s e 0 f.b).toInt / tyBytes f.ty * tyBytes f.ty)] (tyBytes f.ty) kRead false = .ok (g :: ts) →
    kcRead (dropEnded s e.core e.team.ctx) e.core e.team.ctx g.tgt g.ea (tyBytes f.ty) = .ok bs u →
    ∃ t lanes, exec (.gldk f) s = .next t ∧ Enters u t e (.gldk f) lanes none ∧ RegsSame s t ∧
      lanes.map (fun l => (l.lane, l.tid)) = e.lanes ∧ ∀ l ∈ lanes, l.stage = .returned ∧ l.result = bs) ∧
  (∀ (k iss : Nat) (tm : Team) (i : Inflight) (gr : Group) (f : VF) (bs : List Byte) (n : Nat), s.team k = some tm → findIss tm iss = some i →
    s.group k i.grp = some gr → (s.core tm.core).asleep = false → i.insn = .gldk f → i.engine = false → i.fence = none → i.lanes ≠ [] →
    (∀ l ∈ i.lanes, l.stage = .returned ∧ l.result = bs) → heldByOlder tm i = false → opKind f.d = .g n →
    ∃ t, exec (.complete k iss) s = .next t ∧ gHolds t k i.grp n (tySpan f.ty) (extendTo f.ty (leNat bs)))

/-- A fence that is satisfied completes, and one that acquires at dev or sys scope leaves no leased copy; pfence enters the window with the
entries the store buffer holds, and completes, emptying the constant cache, once those and its threads' older stores have performed
(R156, R158, R161, R300, R301). -/
def Sys2Proof.Part.Fences : Prop := ∀ (f : MF) (s u : State) (e : Env),
  (Issues s (.fence f) e → let ord := if f.ord = 0 then 3 else f.ord.toNat
    (if 2 ≤ ord then released s e f.scope.toNat else (true, s)) = (true, u) →
    (ord % 2 = 1 → openLanes e.team (e.lanes.map Prod.snd) (fun i l => l.openLoad || (i.scratch && l.stage != .performed && l.stage != .returned)) = false) →
    ∃ t, exec (.fence f) s = .next t ∧ t.mem = s.mem ∧ RegsSame s t ∧
      (ord % 2 = 1 → 2 ≤ f.scope.toNat → ∀ p ∈ (t.core e.core).l1, ∀ h ∈ p.2.chunks, h.isLeased = false)) ∧
  (Issues s (.pfence f) e → (∀ i ∈ e.team.iw, i.id ≠ s.nextId) → ∃ t tm x, exec (.pfence f) s = .next t ∧ Enters s t e (.pfence f) [] none ∧
    t.team e.tk = some tm ∧ tm.iw = e.team.iw ++ [x] ∧ x.fence = some ((s.core e.core).sb.map SbEntry.id) ∧ x.tids = e.lanes.map Prod.snd) ∧
  (∀ (k iss : Nat) (tm : Team) (i : Inflight) (gr : Group) (ids : List Nat), s.team k = some tm → findIss tm iss = some i → s.group k i.grp = some gr →
    (s.core tm.core).asleep = false → i.fence = some ids → (∀ x ∈ (s.core tm.core).sb, x.id ∉ ids) → writesOpen (olderThan tm iss) i.tids = false →
    ∃ t tm' gr', exec (.complete k iss) s = .next t ∧ t.mem = s.mem ∧ RegsSame s t ∧ (t.core tm.core).kc = [] ∧ t.team k = some tm' ∧
      findIss tm' iss = none ∧ t.group k i.grp = some gr' ∧ ∀ n, i.flag = some n → gr'.flag n = gr.flag n - 1)

/-- Hints never fault: lanes that do not translate are counted in csr.hintdrop, and with none left the hint changes nothing else;
a hint of a peer's page does nothing and is not counted, which is the model's choice (log 96), and a hot hint whose promotion the pool does not
meet does nothing (R27, R302, R303). -/
def Sys2Proof.Part.Hints : Prop := ∀ (f : MF) (s u : State) (e : Env) (ts : List Target), hintLanes s e (mAddrs e f) = (some ts, u) →
  (Issues s (.pref f) e → ∃ t, exec (.pref f) s = .next t ∧ (ts = [] → t = advance u e) ∧
    t = advance ((dedup ((ts.filter fun g => g.tgt == 0).map fun g => lineOf g.ea)).foldl (fun v line => prefetch v e (f.fn == 1)
      ((((ts.filter fun g => g.tgt == 0).find? fun g => lineOf g.ea == line).map fun g => effectivePol v e.team.ctx f.coh.toNat g.tgt g.pte).getD 1) line) u) e) ∧
  (Issues s (.resid f) e → ∃ t, exec (.resid f) s = .next t ∧ (ts = [] → t = advance u e) ∧ t.mem = s.mem ∧ RegsSame s t ∧
    ∀ p, p ∈ (ts.filter fun g => g.tgt == 0).map (fun g => pageOf g.ea) → ∀ x, s.page p = some x → ∃ y, t.page p = some y ∧
      (f.fn = 0 → (s.billet (p * 256)).loc ≠ 1 ∨ promotionNeed s p ≤ s.poolOf (s.vdOfPage p) → y.hotUntil = s.ns + 1000000) ∧
      (f.fn = 0 → (s.billet (p * 256)).loc = 1 → s.poolOf (s.vdOfPage p) < promotionNeed s p → y.hotUntil = x.hotUntil) ∧ (f.fn ≠ 0 → y.count = 0)) ∧
  (∀ c, s.ctx e.team.ctx = some c → ∃ k, k ≤ (mAddrs e f).length ∧ ts.length + k = (mAddrs e f).length ∧
    u.ctx e.team.ctx = some { c with hintdrop := BitVec.ofNat 32 (min 0xFFFFFFFF (c.hintdrop.toNat + k)) })

/-- Constant loads, fences and hints. -/
def Obligations.ConstantFenceHint : Prop := Part.ConstantLoads ∧ Part.Fences ∧ Part.Hints

/-- Capacity instructions at issue: wback enters the window, binfo enters it with what the descriptors hold, rsvq writes what the home holds,
mark sets the progress mark (R51, R58, R65 to R67, R304, R305, R308). Stated for binfo where no error waits in an array. -/
def Sys2Proof.Part.CapacityIssue : Prop := ∀ (f : MF) (s : State) (e : Env) (ts : List Target),
  (Issues s (.wback f) e → checkLanes s e (mAddrs e f) 1 kWrite false = .ok ts → ts.filter (fun g => g.tgt == 0) ≠ [] →
    engineHolds (dropEnded s e.core e.team.ctx) e 256 (wholeBillets (ts.filter fun g => g.tgt == 0)) = false →
    ∃ t, exec (.wback f) s = .next t ∧ Enters s t e (.wback f) ((ts.filter fun g => g.tgt == 0).map fun g =>
      ({ lane := g.lane, tid := g.tid, va := g.va, ea := g.ea / 256 * 256, n := 0, kind := .store, pol := 1, ptes := g.lines } : LaneOp)) none) ∧
  (Issues s (.binfo f) e → checkLanes s e (mAddrs e f) 1 kRead false = .ok ts → ts ≠ [] → s.errors = [] →
    (∀ g ∈ ts, ∀ i ∈ e.team.iw, ∀ l ∈ i.lanes, l.tid = g.tid → l.tgt = 0 → billetOf l.ea = billetOf g.ea → l.openStore = false ∧ l.openLoad = false) →
    engineHolds (dropEnded s e.core e.team.ctx) e 256 (wholeBillets (ts.filter fun g => g.tgt == 0)) = false →
    ∃ t, exec (.binfo f) s = .next t ∧ Enters s t e (.binfo f) (ts.map fun g =>
      ({ lane := g.lane, tid := g.tid, va := g.va, ea := g.ea, tgt := g.tgt, n := 4, kind := .load, pol := 1, ptes := g.lines, stage := .returned,
         result := leBytes 4 (if g.tgt = 0 then let b := s.billet (billetOf g.ea)
           (BitVec.ofNat 32 ((if b.poison then 2 ^ 31 else 0) + (if b.opened then 2 ^ 30 else 0) + (if b.loc = 1 then 2 ^ 29 else 0) + b.reloc * 256 + b.nsec * 16 + b.cls)).toNat
         else 7) } : LaneOp)) none) ∧
  (∀ c, Issues s (.rsvq f) e → s.ctx e.team.ctx = some c → ∃ t, exec (.rsvq f) s = .next t ∧
    (∀ l tid n, (l, tid) ∈ e.sel f.pm f.pn → opKind f.d = .v n → vHolds t e.tk tid n 2 c.reserve) ∧
    (∀ n, opKind f.d = .g n → gHolds t e.tk e.g n 2 c.reserve) ∧
    Kept s t e (fun tid r => (∃ l, (l, tid) ∈ e.sel f.pm f.pn) ∧ inDest f.d 2 r) (inGDest f.d 2) (fun _ => False)) ∧
  (Issues s (.mark f) e → storesOpen e.team.iw (e.lanes.map Prod.snd) = false →
    ∃ t tm, exec (.mark f) s = .next t ∧ OnlyTeams s t ∧ RegsSame s t ∧ t.team e.tk = some tm ∧ tm.pmark = uni32 s e f.d ∧ tm.lookout = 0)

/-- pgyield, once its lanes have come to their ends and what it told the driver is to be seen, writes each lane's status, whether it began in
this step or before; a surrendered page reads zero afterwards and every other page reads as before (R63, R64, R307). That a lane is translated again
at its turn is the model's reading (log 102). -/
def Sys2Proof.Part.PageYield : Prop :=
  (∀ (f : MF) (s u v : State) (e : Env) (ts : List Target) (ys zs : List YieldLane) (n : Nat), Issues s (.pgyield f) e →
    ((e.b.yields = [] ∧ ts ≠ [] ∧ (∃ w, released s e 2 = (true, w) ∧ checkLanes w e (mAddrs e f) 1 kWrite false = .ok ts ∧ u = dropEnded w e.core e.team.ctx) ∧
        allPerformed e.team (e.lanes.map Prod.snd) = true ∧ ys = ts.map yieldStart) ∨ (e.b.yields ≠ [] ∧ ys = e.b.yields ∧ u = s)) →
    yieldRun (4 * ys.length + 4) (setYields u e []) e [] ys = (zs, v, true) → (∀ y ∈ zs, y.stage = 2) → v.posted e.team.ctx = true → opKind f.d = .v n →
    (zs.map YieldLane.tid).Nodup → ∃ t, exec (.pgyield f) s = .next t ∧
      ∀ y ∈ zs, (v.thread e.tk y.tid).isSome = true → vHolds t e.tk y.tid n 1 y.status) ∧
  ∀ (s : State) (p x : Nat), s.memWf = true → (∀ a, pageOf a = p → (surrender s p x).readMem a 1 = [0]) ∧
    (∀ a, pageOf a ≠ p → (surrender s p x).readMem a 1 = s.readMem a 1) ∧ (surrender s p x).memWf = true

/-- The capacity instructions. -/
def Obligations.CapacityInstructions : Prop := Part.CapacityIssue ∧ Part.PageYield

/-- A walk that has read an entry ends, goes on to the next table, or is to set A and D, as R18 says; an entry in a page that is not
backed ends it with UNBACKED (R16, R18, R38). -/
def Sys2Proof.Part.Walks : Prop := ∀ (s : State) (c n : Nat) (w : Walker), mapGet? (s.core c).walkers n = some w → w.ended = none → w.cas = none →
  (∀ pte, w.got = some pte → w.poisoned = false → ∃ t w', exec (.walk c n) s = .next t ∧ t.mem = s.mem ∧ t.teams = s.teams ∧
    mapGet? (t.core c).walkers n = some w' ∧ w'.lines = w.lines ++ [lineOf w.entry] ∧ w'.got = none ∧
    (pteV pte = false → w'.ended = some (.fault .notmapped w.lvl w.entry)) ∧
    (pteV pte = true → formatBad pte w.lvl = true → w'.ended = some (.fault .format w.lvl w.entry)) ∧
    (pteV pte = true → formatBad pte w.lvl = false → pteLeaf pte = true → permitted pte w.kind w.sys = false →
      w'.ended = some (.fault .permission w.lvl w.entry)) ∧
    (pteV pte = true → formatBad pte w.lvl = false → pteLeaf pte = true → permitted pte w.kind w.sys = true → needsUpdate pte w.kind = true →
      w'.ended = none ∧ w'.cas = some (w.entry, pte)) ∧
    (pteV pte = true → formatBad pte w.lvl = false → pteLeaf pte = true → permitted pte w.kind w.sys = true → needsUpdate pte w.kind = false →
      w'.ended = some (.ok pte w.lvl)) ∧
    (pteV pte = true → formatBad pte w.lvl = false → pteLeaf pte = false → w'.ended = none ∧ w'.table = fld pte 53 8 * 256 ∧ w'.lvl = w.lvl - 1)) ∧
  (w.got = none → tlbPointer (s.core c) w = none → s.page (pageOf w.entry) = none → ∃ t, exec (.walk c n) s = .next t ∧
    mapGet? (t.core c).walkers n = some { w with ended := some (.fault .unbacked w.lvl (w.entry / 256 * 256)) }) ∧
  (∀ x u pte, (s.core c).walkers.find? (fun p => p.2.ended.isNone && p.2.got.isNone && p.2.cas.isNone && p.2.entry == x) = some (n, w) →
    (s.page (pageOf x)).isSome = true → homeWalkRead s (some c) x = .ok pte u → ∃ t, exec (.walkRead c x) s = .next t ∧
      mapGet? (t.core c).walkers n = some { w with got := some pte } ∧ pte = BitVec.ofNat 64 (leNat (t.readMem x 8)))

/-- The private window is relocated by the context and the thread's slot, and bounded by its stride (R11); a leaf's target is its frame with
the address's low bits (R15). -/
def Sys2Proof.Part.Relocation : Prop := ∀ (c : Ctx) (pslot va n : Nat),
  let stride := c.privstride.toNat % 2 ^ 24 * 256
  let g := fld c.privbase 56 16 * 65536 + pslot * stride + va % 2 ^ 48
  (va < 0x01FF000000000000 → relocate c pslot va n = some va) ∧
  (0x01FF000000000000 ≤ va → va < 2 ^ 57 → stride < va % 2 ^ 48 + n → relocate c pslot va n = none) ∧
  (0x01FF000000000000 ≤ va → va < 2 ^ 57 → va % 2 ^ 48 + n ≤ stride → g < 0x01FF000000000000 → relocate c pslot va n = some g) ∧
  ∀ (p : DWord) (lvl : Nat), pteTgt p < 2 → pteTarget p lvl va = (pteTgt p, fld p 53 16 * 65536 + va % 2 ^ levelBits lvl)

/-- Walks, what they leave, and the private window's relocation. -/
def Obligations.Translation : Prop := Part.Walks ∧ Part.Relocation

/-! ## Homes and coherence -/

/-- A load served at its home: under OWN and WIS the core becomes a sharer, under SIS the line takes a lease, under WT the bytes alone
go; memory is what the fill of L2 leaves, and the fill gives values to chunks alone that were not valid in L2 (R74, R124, R127, R130). -/
def Obligations.HomeLoads : Prop := ∀ (s : State) (r : HomeReq), AtHome s r →
  let bytes := fun (v : State) => cellsSet ([] : Cells 8) 0 (v.readMem (r.line * 128) 128)
  (∀ cs, MemoryKept s (l2Fill s r.line cs) (Unfilled s r.line)) ∧
  (∀ pol chunks lease, r.kind = .fill pol chunks lease → pol ≠ 2 → ∃ t, exec (.homeLoadFill r.core r.line) s = .next t ∧
    t.mem = (l2Fill s r.line chunks).mem ∧ (t.line r.line).queue = [] ∧ (t.line r.line).sharers.records r.core = true ∧
    Replies t r.core r.ea (.fill r.team r.iss r.lane r.line chunks (bytes (l2Fill s r.line chunks)) none)) ∧
  (∀ chunks lease, r.kind = .fill 2 chunks lease → ∃ t, exec (.homeSisFill r.core r.line) s = .next t ∧ t.mem = (l2Fill s r.line chunks).mem ∧
    (t.line r.line).queue = [] ∧ (t.line r.line).lv = true ∧ (t.line r.line).sharers = .ptrs [] ∧
    Replies t r.core r.ea (.fill r.team r.iss r.lane r.line chunks (bytes (l2Fill s r.line chunks)) (some (s.homeClk + BitVec.ofNat 16 lease)))) ∧
  (r.kind = .wtLoad → let v := l2Fill s r.line (chunksOf (r.ea % 128) r.n)
    ∃ t, exec (.homeWtLoad r.core r.line) s = .next t ∧ t.mem = v.mem ∧ (t.line r.line).queue = [] ∧
      (t.line r.line).sharers = .ptrs [] ∧ Replies t r.core r.ea (.bytes r.team r.iss r.lane r.ea (v.readMem r.ea r.n)))

/-- A store-class request performed at its home: a write puts its bytes in memory, an atomic the result of R298, and both acknowledge; an
ownership request makes the core the words' owner; the reply says whether the billet is open, for the core's filter (R50, R124, R150, R298). Chunks that were not valid in L2 are filled first (R74). -/
def Sys2Proof.Part.HomeStores : Prop := ∀ (s : State) (r : HomeReq), AtHome s r →
  (r.kind = .write → ∃ t, exec (.homeWrite r.core r.line) s = .next t ∧ t.readMem r.ea r.data.length = r.data ∧
    MemoryKept s t (fun a => (r.ea ≤ a ∧ a < r.ea + r.data.length) ∨ Unfilled s r.line a) ∧ (t.line r.line).queue = [] ∧
    Replies t r.core r.ea (.ack r.sb [] (s.billet (billetOfLine r.line)).opened)) ∧
  (∀ op ty ret, r.kind = .atom op ty ret → let old := (l2Fill s r.line (chunksOf (r.ea % 128) r.n)).readMem r.ea r.n
    ∃ t, exec (.homeAtomic r.core r.line) s = .next t ∧ t.readMem r.ea r.n = atomResult op ty old r.data ∧
      MemoryKept s t (fun a => (r.ea ≤ a ∧ a < r.ea + r.n) ∨ Unfilled s r.line a) ∧ (t.line r.line).queue = [] ∧ Replies t r.core r.ea (.ack r.sb old (s.billet (billetOfLine r.line)).opened)) ∧
  (∀ words, r.kind = .own words → words ≠ 0 → let chunks : BitVec 8 := maskOf ((bitsOf words).map (· / 4))
    let v := l2Fill s r.line chunks
    ∃ t, exec (.ownershipRequest r.core r.line) s = .next t ∧ t.mem = v.mem ∧ (t.line r.line).queue = [] ∧
      (t.line r.line).wmask = words ∧ (t.line r.line).owner = r.core ∧ (t.line r.line).sharers = .ptrs [r.core] ∧
      Replies t r.core r.ea (.grant r.sb r.line words chunks (cellsSet ([] : Cells 8) 0 (v.readMem (r.line * 128) 128)) (s.billet (billetOfLine r.line)).opened))

/-- Integer and bitwise atomics, compare-and-swap, and the wrapping increment and decrement (R298), on 32-bit operands. -/
def Sys2Proof.Part.AtomicResults : Prop := ∀ old a x : Word,
  let f := fun op ty => BitVec.ofNat 32 (leNat (atomResult op ty (leBytes 4 old.toNat) (leBytes 4 a.toNat ++ leBytes 4 x.toNat)))
  f 0 1 = old + a ∧ f 1 0 = (if a.slt old then a else old) ∧ f 1 1 = (if a.ult old then a else old) ∧ f 2 0 = (if old.slt a then a else old) ∧
  f 2 1 = (if old.ult a then a else old) ∧ f 3 8 = old &&& a ∧ f 4 8 = old ||| a ∧ f 5 8 = old ^^^ a ∧ f 6 8 = a ∧
  f 7 8 = (if old = a then x else old) ∧ f 8 1 = (if a.ule old then 0 else old + 1) ∧ f 9 1 = (if old = 0 ∨ a.ult old then a else old - 1)

/-- Writes, atomics and ownership at a home. -/
def Obligations.HomeWrites : Prop := Part.HomeStores ∧ Part.AtomicResults

/-- Admission: a billet that is not open is opened against the reserve of the storing context where the reserve meets eight sectors less those the
billet holds, and refused with the reserve as it stands where it does not; a page that is not backed refuses with UNBACKED (R38, R45, R49, R52). Stated
where no error waits in an array. -/
def Obligations.Admission : Prop := ∀ (s : State) (line : Nat) (r : HomeReq) (c : Ctx), s.errors = [] →
  nextReq s line = some r → needsAdmission s r = true → poisonedAtom s r = false → s.frozen (pageOfLine line) = false → grantHeld s r.ea true = true →
  r.line = line → lineOf r.ea = line → doomedLane s r = none → r.isHost = false → s.ctx r.ctx = some c →
  let d := s.billet (billetOfLine line)
  d.closing = false → d.loc = 0 → d.opened = false →
  (s.page (pageOfLine line) = none → ∃ t, exec (.admissionRequest line) s = .next t ∧ t.ctx r.ctx = some c ∧ t.mem = s.mem ∧
    Replies t r.core r.ea (.refuse r.sb (billetOfLine line) 0 .unbacked)) ∧
  ((s.page (pageOfLine line)).isSome = true → 8 - d.count ≤ c.reserve → ∃ t, exec (.admissionRequest line) s = .next t ∧ t.ctx r.ctx = some { c with reserve := c.reserve - (8 - d.count) } ∧
    (t.billet (billetOfLine line)).opened = true ∧ (t.billet (billetOfLine line)).rctx = r.ctx ∧ (t.line line).admitted = true ∧ t.mem = s.mem) ∧
  ((s.page (pageOfLine line)).isSome = true → c.reserve < 8 - d.count → ∃ t, exec (.admissionRequest line) s = .next t ∧ t.ctx r.ctx = some c ∧
    (t.billet (billetOfLine line)).opened = false ∧ Replies t r.core r.ea (.refuse r.sb (billetOfLine line) c.reserve .caprefuse) ∧ t.mem = s.mem)

/-- Messages of a core at a home: released and recalled words it owned are its no longer and their written bytes are in memory, an
eviction notice takes its pointer out, acknowledgements end what waits for them (R124, R125, R134, R137 to R140); that a lease kill's acknowledgement travels to the home of the page's
first billet is the model's choice (log 75). Stated where no error waits in an array. -/
def Sys2Proof.Part.HomeMessages : Prop := ∀ (s u : State) (c line : Nat), s.errors = [] →
  (∀ words written data, takeUp s c (line * 128) = some (.release line words written data, u) → (u.line line).owner = c →
    ∃ t, exec (.release c line) s = .next t ∧ (t.line line).wmask = (u.line line).wmask &&& ~~~words ∧
      MemoryKept s t (fun a => (lineOf a = line ∧ bit (written &&& (u.line line).wmask) (a % 128 / 4) = true) ∨ Unfilled s line a) ∧
      ∀ i < 128, bit (written &&& (u.line line).wmask) (i / 4) = true → t.readMem (line * 128 + i) 1 = [cellGet data i]) ∧
  (∀ words written data, takeUp s c (line * 128) = some (.recallReply line words written data, u) → (u.line line).owner = c →
    ∃ t, exec (.recallReply c line) s = .next t ∧ (t.line line).wmask = (u.line line).wmask &&& ~~~words ∧ c ∉ (t.line line).recallPend ∧
      ∀ i < 128, bit (written &&& (u.line line).wmask) (i / 4) = true → t.readMem (line * 128 + i) 1 = [cellGet data i]) ∧
  (takeUp s c (line * 128) = some (.evict line, u) → ∃ t, exec (.evictionNotice c line) s = .next t ∧ t.mem = s.mem ∧
    (t.line line).sharers.names c = false) ∧
  (takeUp s c (line * 128) = some (.invAck line, u) → ∃ t, exec (.invalidationAck c line) s = .next t ∧ t.mem = s.mem ∧
    (t.line line).invPend = (u.line line).invPend.filter (· != c)) ∧
  (∀ p, takeUp s c (p * 65536) = some (.killAck p, u) → ∃ t, exec (.leaseKillAck c p) s = .next t ∧ t.mem = s.mem ∧
    ∀ cs, mapGet? u.kills p = some cs → mapGet? t.kills p = some (cs.filter (· != c))) ∧
  (∀ b, takeUp s c (b * 256) = some (.closeAck b, u) → ∃ t, exec (.closeAck c b) s = .next t ∧ t.mem = s.mem ∧
    (t.billet b).closePend = (u.billet b).closePend.filter (· != c))

/-- Messages of a home at a core: an invalidation ends tracked copies of the line, a recall returns owned words with their data, a lease
kill, on the channel of the home of the page's first billet (the model's choice, log 75), ends leased copies in the page, a close takes the
billet out of the filter (R50, R123, R125, R134). Stated where no error waits in an array. -/
def Sys2Proof.Part.CoreMessages : Prop := ∀ (s u : State) (c h : Nat), s.errors = [] →
  (∀ line, takeDown s c h = some (.inv line, u) → ∃ t, exec (.invalidation c h) s = .next t ∧ t.mem = s.mem ∧
    ((t.core c).l1Line line).held = false ∧ line ∈ (t.core c).owedInv ∧ ∀ e ∈ (t.core c).tlb, line ∉ e.lines) ∧
  (∀ line words forWrite, takeDown s c h = some (.recall line words forWrite, u) → ∃ t, exec (.recall c h) s = .next t ∧ t.mem = s.mem ∧
    ((t.core c).l1Line line).owned &&& words = 0 ∧ let x := (u.core c).l1Line line
      Sends t c (line * 128) (.recallReply line (x.owned &&& words) (x.written &&& (x.owned &&& words)) x.data)) ∧
  (∀ p, takeDown s c (s.slice (p * 65536)) = some (.kill p, u) → ∃ t, exec (.leaseKill c p) s = .next t ∧ t.mem = s.mem ∧
    (∀ q ∈ (t.core c).l1, pageOfLine q.1 = p → ∀ x ∈ q.2.chunks, x.isLeased = false) ∧ Sends t c (p * 65536) (.killAck p)) ∧
  (∀ b, takeDown s c h = some (.close b, u) → ∃ t, exec (.closeMessage c h) s = .next t ∧ t.mem = s.mem ∧
    b ∉ (t.core c).filter ∧ b ∈ (t.core c).owedClose)

/-- Messages between cores and homes. -/
def Obligations.Messages : Prop := Part.HomeMessages ∧ Part.CoreMessages

/-- A close that may be finished encodes the billet, whose bytes not in L2 are those of its stored form, finds a place for the run, and credits
eight sectors less its new size to the context that opened it; a stored form that fails its check poisons the billet instead (R35, R41, R46,
R47, R75). Stated where no error waits in an array. -/
def Sys2Proof.Part.BilletClose : Prop := ∀ (s : State) (b : Nat) (c : Ctx), s.errors = [] →
  (s.billet b).opened = true → (s.billet b).closing = true → (s.billet b).discard = false → closeReady s b = true →
  s.isPoisoned (2 * b) = false → s.isPoisoned (2 * b + 1) = false → (s.line (2 * b)).wmask = 0 → (s.line (2 * b + 1)).wmask = 0 →
  s.ctx (s.billet b).rctx = some c → ((s.page (pageOfBillet b)).map Page.fixed).getD false = false →
  let whole := (s.line (2 * b)).valid == 0xFF && (s.line (2 * b + 1)).valid == 0xFF
  (∀ bs, (if whole then some (s.readMem (b * 256) 256) else storedValue s b) = some bs →
    let v := if whole then s else fillBytes s b bs
    let e := encodeClass (toWords (v.readMem (b * 256) 256))
    (placeRun s b e.2).isSome = true → ∃ t, exec (.billetClose b) s = .next t ∧ t.mem = v.mem ∧ (t.billet b).opened = false ∧ (t.billet b).closing = false ∧
      (t.billet b).cls = e.1 ∧ (t.billet b).nsec = e.2 ∧ t.ctx (s.billet b).rctx = some { c with reserve := c.reserve + (8 - e.2) }) ∧
  (whole = false → storedValue s b = none → ∃ t, exec (.billetClose b) s = .next t ∧ t.mem = s.mem ∧ (t.billet b).opened = false ∧
    (t.billet b).poison = true ∧ t.ctx (s.billet b).rctx = some { c with reserve := c.reserve + (8 - (s.billet b).count) })

/-- The encoder picks a candidate of the fewest sectors, its payload fits them, and decoding gives the 64 words back (R32 to R35). -/
def Sys2Proof.Part.Codec : Prop := ∀ (ws : List Word) (rest : List Byte), ws.length = 64 →
  let e := encodeClass ws
  e ∈ candidates ws ∧ (∀ c ∈ candidates ws, e.2 ≤ c.2) ∧ (2 ≤ e.1 → (payload e.1 ws).length ≤ 32 * e.2) ∧ e.2 ≤ 8 ∧
  decodePayload e.1 (payload e.1 ws ++ rest) = some (ws, rest)

/-- Evictions: L1 gives owned words up as it drops a line of which nothing is in flight, and a notice takes the core's translations from the
line with it; L2 drops a clean line that no core holds and first calls in what cores hold; translations and filter entries go silently (R21, R48,
R72, R76, R122, R139). Stated where no error waits in an array. -/
def Sys2Proof.Part.Evictions : Prop := ∀ (s : State) (c line : Nat), s.errors = [] →
  (l1MayLeave s c line = true →
    ∃ t, exec (.l1Eviction c line) s = .next t ∧ t.mem = s.mem ∧ mapGet? (t.core c).l1 line = none ∧ let x := (s.core c).l1Line line
      (x.held = true → Sends t c (line * 128) (.evict line) ∧ ∀ y ∈ (t.core c).tlb, line ∉ y.lines) ∧
      (x.held = false → x.owned ≠ 0 → Sends t c (line * 128) (.release line x.owned (x.written &&& x.owned) x.data))) ∧
  ((s.line line).present = true → (s.line line).busy = false → (s.line line).started = false → s.sharerCores (s.line line).sharers = [] →
    (s.line line).wmask = 0 → (s.line line).dirty = false → (s.line line).psn = false → s.calm line = true →
    ∃ t, exec (.l2Eviction line) s = .next t ∧ t.mem = s.mem ∧ (t.line line).present = false ∧ (t.line line).valid = 0 ∧ (t.line line).lv = false) ∧
  ((s.line line).present = true → (s.line line).busy = false → (s.line line).started = false → s.sharerCores (s.line line).sharers ≠ [] →
    ∃ t, exec (.l2Eviction line) s = .next t ∧ t.mem = s.mem ∧ (t.line line).invPend = s.sharerCores (s.line line).sharers ∧ (t.line line).sharers = .ptrs []) ∧
  (∀ i < (s.core c).tlb.length, ∃ t, exec (.translationEviction c i) s = .next t ∧ t.mem = s.mem ∧ t.teams = s.teams ∧ (t.core c).tlb = (s.core c).tlb.eraseIdx i) ∧
  (∀ b ∈ (s.core c).filter, ∃ t, exec (.filterEviction c b) s = .next t ∧ t.mem = s.mem ∧ t.teams = s.teams ∧ b ∉ (t.core c).filter)

/-- A billet's close, its classes, and evictions. -/
def Obligations.BilletsAndEvictions : Prop := Part.BilletClose ∧ Part.Codec ∧ Part.Evictions

/-! ## The scratchpad, the barrier and the token queues -/

/-- sld, sst and satom complete their issue on every lane that lies in the team's allocations (aligned, for satom), in a row that is not
expired where the lane reads: they enter the window and wait at the port. A lane outside its allocation takes SBOUND and a read of an expired
row SSTALE; that all threads of bundle and predicate take it is the reading of log 72 (R98, R101, R104, R310 to R312). Stated where no error
waits in an array. -/
def Sys2Proof.Part.PadIssue : Prop := ∀ (s : State) (e : Env), s.errors = [] →
  (∀ f : MF, Issues s (.sld f) e → e.sel f.pm f.pn ≠ [] → (∀ q ∈ padAddrs s e f, PadLive s e q.2.2 (tyBytes f.ty) true) →
    ∃ t, exec (.sld f) s = .next t ∧ let ps := padPlaces e (tyBytes f.ty) (padAddrs s e f)
      Enters s t e (.sld f) (ps.map (padLane (tyBytes f.ty) .load fun _ => [])) (if f.ord = 1 then some f.scope.toNat else none) ∧ AtPort s t e ps) ∧
  (∀ f : MF, Issues s (.sst f) e → e.sel f.pm f.pn ≠ [] → (f.ord = 2 → (released s e f.scope.toNat).1 = true) →
    (∀ q ∈ padAddrs s e f, PadLive s e q.2.2 (tyBytes f.ty) false) → ∃ t, exec (.sst f) s = .next t ∧ let ps := padPlaces e (tyBytes f.ty) (padAddrs s e f)
      Enters s t e (.sst f) (ps.map (padLane (tyBytes f.ty) .store fun tid => leBytes (tyBytes f.ty) (srcNat s e tid f.d (tySpan f.ty)))) none ∧ AtPort s t e ps) ∧
  (∀ f : MAF, Issues s (.satom f) e → e.sel f.pm f.pn ≠ [] → (f.ord = 2 ∨ f.ord = 3 → (released s e f.scope.toNat).1 = true) →
    let qs := (e.sel f.pm f.pn).map fun q => (q.1, q.2, (src32 s e q.2 f.base).toNat)
    (∀ q ∈ qs, q.2.2 % tyBytes f.ty.toNat = 0 ∧ PadLive s e q.2.2 (tyBytes f.ty.toNat) true) →
    ∃ t, exec (.satom f) s = .next t ∧ let ps := padPlaces e (tyBytes f.ty.toNat) qs
      Enters s t e (.satom f) (ps.map (padLane (tyBytes f.ty.toNat) (.atom f.fn.toNat f.ty.toNat true) fun tid => atomBytes s e f tid)) (acquireOf f.ord f.scope) ∧
      AtPort s t e ps) ∧
  (∀ (f : MF) (a : Nat), Issues s (.sld f) e → Outside e (e.sel f.pm f.pn) → (∃ l tid, (l, tid, a) ∈ padAddrs s e f) → padPlace e.team a (tyBytes f.ty) = none →
    ∃ t, exec (.sld f) s = .next t ∧ Parks t e (e.sel f.pm f.pn) .sbound) ∧
  (∀ (f : MF) (l tid a : Nat) (al : Alloc) (row : Nat), Issues s (.sld f) e → Outside e (e.sel f.pm f.pn) → (l, tid, a) ∈ padAddrs s e f →
    (∀ q ∈ padAddrs s e f, (padPlace e.team q.2.2 (tyBytes f.ty)).isSome = true) → padPlace e.team a (tyBytes f.ty) = some (al, row) →
    rowExpired (s.core e.core) al row (s.core e.core).rtick = true → ∃ t, exec (.sld f) s = .next t ∧ Parks t e (e.sel f.pm f.pn) .sstale)

/-- The oldest access that waits for a row performs there, once no older engine command of its threads is to touch the row, for all the lanes
that share it: a load takes the row's bytes; a store and an atomic put theirs there, and each of the two restamps the row and zeroes the other
bytes of an expired one (R96, R103, R104, R153). Stated where no error waits in an array. -/
def Sys2Proof.Part.PadAccess : Prop := ∀ (s : State) (c row : Nat) (o : PortOp), s.errors = [] →
  (s.core c).port.find? (fun o => o.row == row) = some o →
  (∀ x ∈ o.ops s, engineFirst s c o.team [x.2.2.tid] o.iss (padHandle x.2.2.va) (padRow x.2.2.va) = false) →
  (∃ t, exec (.port c row) s = .next t ∧ t.mem = s.mem ∧ (t.core c).port = removeFirst (· == o) (s.core c).port ∧
    t = o.lanes.foldl (portLane c o) (s.updCore c fun k => { k with port := removeFirst (· == o) k.port })) ∧
  ∀ (lane : Nat) (tm : Team) (i : Inflight) (l : LaneOp) (al : Alloc), o.lanes = [lane] → laneOf s o.team o.iss lane = some (tm, i, l) → l.row = row →
  mapGet? tm.allocs (padHandle l.va) = some al →
  let old := cellsGet (s.core c).pad (row * 256 + padByte l.va) l.n
  let k := s.core c
  (l.kind = .load → ∃ t tm' i', exec (.port c row) s = .next t ∧ laneOf t o.team o.iss lane = some (tm', i', { l with stage := .returned, result := old }) ∧
    (t.core c).pad = k.pad ∧ t.mem = s.mem) ∧
  (l.kind = .store → ∃ t tm' i', exec (.port c row) s = .next t ∧ laneOf t o.team o.iss lane = some (tm', i', { l with stage := .performed, result := [] }) ∧
    t.mem = s.mem ∧ (t.core c).row row = { stamp := k.rtick, exp := false } ∧
    cellsGet (t.core c).pad (row * 256 + padByte l.va) l.data.length = l.data ∧
    ∀ j < 256, ¬ (padByte l.va ≤ j ∧ j < padByte l.va + l.data.length) →
      cellGet (t.core c).pad (row * 256 + j) = if rowExpired k al row k.rtick then 0 else cellGet k.pad (row * 256 + j)) ∧
  (∀ op ty ret, l.kind = .atom op ty ret → ∃ t tm' i', exec (.port c row) s = .next t ∧
    laneOf t o.team o.iss lane = some (tm', i', { l with stage := .performed, result := old }) ∧ t.mem = s.mem ∧
    (t.core c).row row = { stamp := k.rtick, exp := false } ∧
    cellsGet (t.core c).pad (row * 256 + padByte l.va) l.n = atomResult op ty old l.data ∧
    ∀ j < 256, ¬ (padByte l.va ≤ j ∧ j < padByte l.va + l.n) →
      cellGet (t.core c).pad (row * 256 + j) = if rowExpired k al row k.rtick then 0 else cellGet k.pad (row * 256 + j))

/-- Scratchpad accesses, from issue to the row. -/
def Obligations.ScratchpadAccess : Prop := Part.PadIssue ∧ Part.PadAccess

/-- salloc gives its status, by the order of R102's table, and its handle, and zeroes and stamps the rows it takes; sfree gives the handle back and marks the team's copies of the allocation to stop; srenew restamps live rows and counts
expired ones; sage gives the least time left (R100 to R102, R105 to R107, R313). -/
def Obligations.PadManagement : Prop := ∀ (f : OF) (s : State) (e : Env), s.errors = [] →
  (Issues s (.salloc f) e →
    let n := (uni32 s e f.a).toNat
    let l := (uni32 s e f.b).toNat
    ∃ t, exec (.salloc f) s = .next t ∧ t.mem = s.mem ∧
      (n = 0 ∨ 3072 < n → AllHold t e f.d 1 (4 * 2 ^ 28) ∧ AllKept s t e f.d 1) ∧
      (n ≠ 0 → n ≤ 3072 → l = 0 ∨ 1023 < l ∨ (s.core e.team.core).tretTicks < l → AllHold t e f.d 1 (3 * 2 ^ 28) ∧ AllKept s t e f.d 1) ∧
      (n ≠ 0 → n ≤ 3072 → l ≠ 0 → l ≤ 1023 → l ≤ (s.core e.team.core).tretTicks →
        ((∀ h < 8, (mapGet? e.team.allocs h).isSome = true) → AllHold t e f.d 1 (2 * 2 ^ 28) ∧ AllKept s t e f.d 1) ∧
        ((∃ h < 8, mapGet? e.team.allocs h = none) →
          (∀ g, g + granules n ≤ e.team.spg → ∃ x ∈ e.team.allocs, x.2.gran < g + granules n ∧ g < x.2.gran + granules x.2.n) →
          AllHold t e f.d 1 (2 ^ 28) ∧ AllKept s t e f.d 1)) ∧
      (∀ h g, allocDecide s e.team n l = (0, h, g) → AllHold t e f.d 1 h ∧ (∃ tm, t.team e.tk = some tm ∧ mapGet? tm.allocs h = some { n := n, life := l, gran := g }) ∧
        ∀ j < granules n * 16, (t.core e.core).row ((e.team.block + g) * 16 + j) = { stamp := (s.core e.core).rtick, exp := false } ∧
          ∀ b < 256, cellGet (t.core e.core).pad (((e.team.block + g) * 16 + j) * 256 + b) = 0)) ∧
  (Issues s (.sfree f) e → let h := (uni32 s e f.a).toNat
    (∀ al, h < 8 → mapGet? e.team.allocs h = some al →
      (∀ o ∈ (s.core e.core).port, o.team = e.tk → let p := (e.team.block + al.gran) * 16
        o.row < p ∨ p + granules al.n * 16 ≤ o.row) →
      (∀ m ∈ (s.core e.core).matq, m.team = e.tk → ∀ x ∈ m.pads, padHandle x.1 ≠ h) →
      ∃ t tm, exec (.sfree f) s = .next t ∧ t.mem = s.mem ∧ RegsSame s t ∧ t.team e.tk = some tm ∧ mapGet? tm.allocs h = none ∧
        ∀ ch, ∀ x ∈ queueAt t e.core ch, x.team = e.tk → (∃ a ∈ x.pads, padHandle a = h) → x.freed.isSome = true) ∧
    (Outside e e.lanes → 8 ≤ h ∨ mapGet? e.team.allocs h = none → ∃ t, exec (.sfree f) s = .next t ∧ Parks t e e.lanes .sbound)) ∧
  (∀ al p, Issues s (.srenew f) e → let a := (uni32 s e f.a).toNat
    let k := (uni32 s e f.b).toNat
    padRows e.team a k = some (al, p) → rowsBusy s e p k (padHandle a) (padRow a) = false →
    ∃ t, exec (.srenew f) s = .next t ∧ t.mem = s.mem ∧
      AllHold t e f.d 1 ((List.range k).countP fun i => rowExpired (s.core e.core) al (p + i) (s.core e.core).rtick) ∧
      ∀ i < k, (t.core e.core).row (p + i) = if rowExpired (s.core e.core) al (p + i) (s.core e.core).rtick then (s.core e.core).row (p + i)
        else { stamp := (s.core e.core).rtick, exp := false }) ∧
  (∀ al p, Issues s (.sage f) e → let a := (uni32 s e f.a).toNat
    let k := (uni32 s e f.b).toNat
    padRows e.team a k = some (al, p) → rowsBusy s e p k (padHandle a) (padRow a) = false →
    ∃ t, exec (.sage f) s = .next t ∧ AllHold t e f.d 1 (ageWord (s.core e.core) al p k) ∧ AllKept s t e f.d 1) ∧
  (∀ i ∈ [Instr.srenew f, Instr.sage f], Issues s i e → Outside e e.lanes → padRows e.team (uni32 s e f.a).toNat (uni32 s e f.b).toNat = none →
    ∃ t, exec i s = .next t ∧ Parks t e e.lanes .sbound)

/-- bar, once released, makes the bundle wait and counts its threads as arrived (R314). -/
def Sys2Proof.Part.Barrier : Prop := ∀ (f : OF) (s : State) (e : Env), Issues s (.bar f) e → coreReleased e.team (e.lanes.map Prod.snd) = true →
  ∃ t tm, exec (.bar f) s = .next t ∧ OnlyTeams s t ∧ RegsSame s t ∧ BundleWaits t e .bar ∧ t.team e.tk = some tm ∧
    tm.arrived = e.team.arrived ++ e.lanes.map Prod.snd

/-- The token queues: a permit and a token are taken where one is free and none waits, else the bundle waits behind the others; qpost and
qfree turn a pending slot into a token and a permit, and serve the bundle that waits; qinit and qstat set and show the counts; each case that
R320 names takes QBAD and changes no queue (R316 to R320). -/
def Sys2Proof.Part.TokenQueues : Prop := ∀ (f : OF) (s : State) (e : Env) (x : TokQ), let q := (uni32 s e f.a).toNat
  let bad := fun i => ∃ t tm, exec i s = .next t ∧ Parks t e e.lanes .qbad ∧ t.team e.tk = some tm ∧ tm.queues = e.team.queues
  (queueOf s e.tk q = some x → x.slots ≠ 0 →
    (Issues s (.qperm f) e → x.pwait = [] → 0 < x.perm → ∃ t, exec (.qperm f) s = .next t ∧ AllHold t e f.d 1 x.pidx ∧
      queueOf t e.tk q = some { x with pidx := (x.pidx + 1) % x.slots, perm := x.perm - 1, ppend := x.ppend + 1 }) ∧
    (Issues s (.qtake f) e → x.twait = [] → 0 < x.tok → ∃ t, exec (.qtake f) s = .next t ∧ AllHold t e f.d 1 x.tidx ∧
      queueOf t e.tk q = some { x with tidx := (x.tidx + 1) % x.slots, tok := x.tok - 1, fpend := x.fpend + 1 }) ∧
    (Issues s (.qperm f) e → x.pwait ≠ [] ∨ x.perm = 0 → ∃ t, exec (.qperm f) s = .next t ∧ BundleWaits t e (.qperm q) ∧ RegsSame s t ∧
      queueOf t e.tk q = some { x with pwait := x.pwait ++ [(e.lanes.map Prod.snd, f.d.toNat)] }) ∧
    (Issues s (.qtake f) e → x.twait ≠ [] ∨ x.tok = 0 → ∃ t, exec (.qtake f) s = .next t ∧ BundleWaits t e (.qtake q) ∧ RegsSame s t ∧
      queueOf t e.tk q = some { x with twait := x.twait ++ [(e.lanes.map Prod.snd, f.d.toNat)] })) ∧
  (queueOf s e.tk q = some x → coreReleased e.team (e.lanes.map Prod.snd) = true →
    (Issues s (.qpost f) e → x.ppend ≠ 0 → x.pwait = [] → x.twait = [] → ∃ t, exec (.qpost f) s = .next t ∧ RegsSame s t ∧
      queueOf t e.tk q = some { x with ppend := x.ppend - 1, tok := x.tok + 1 }) ∧
    (∀ w, Issues s (.qpost f) e → x.ppend ≠ 0 → x.pwait = [] → x.twait = [w] → x.tok = 0 → (∀ l tid, (l, tid) ∈ e.lanes → tid ∉ w.1) →
      ∃ t, exec (.qpost f) s = .next t ∧
        queueOf t e.tk q = some { x with ppend := x.ppend - 1, tok := 0, twait := [], tidx := (x.tidx + 1) % x.slots, fpend := x.fpend + 1 } ∧
        ∀ tid ∈ w.1, ∀ th, t.thread e.tk tid = some th → th.st = .runnable) ∧
    (Issues s (.qfree f) e → x.fpend ≠ 0 → x.pwait = [] → x.twait = [] → ∃ t, exec (.qfree f) s = .next t ∧ RegsSame s t ∧
      queueOf t e.tk q = some { x with fpend := x.fpend - 1, perm := x.perm + 1 }) ∧
    (Issues s (.qpost f) e → Outside e e.lanes → x.ppend = 0 → bad (.qpost f)) ∧
    (Issues s (.qfree f) e → Outside e e.lanes → x.fpend = 0 → bad (.qfree f))) ∧
  (queueOf s e.tk q = some x → Issues s (.qinit f) e → let n := (uni32 s e f.b).toNat
    (n ≠ 0 → n ≤ 64 → x.pwait = [] → x.twait = [] → ∃ t, exec (.qinit f) s = .next t ∧ RegsSame s t ∧
      queueOf t e.tk q = some { x with slots := n, perm := n, ppend := 0, tok := 0, fpend := 0, pidx := 0, tidx := 0 }) ∧
    (Outside e e.lanes → n = 0 ∨ 64 < n → bad (.qinit f))) ∧
  (queueOf s e.tk q = some x → Issues s (.qstat f) e → ∃ t, exec (.qstat f) s = .next t ∧ AllKept s t e f.d 1 ∧
    AllHold t e f.d 1 (x.slots * 2 ^ 24 + x.perm * 2 ^ 16 + x.tok * 2 ^ 8 + x.tidx)) ∧
  (queueOf s e.tk q = some x → x.slots = 0 → Outside e e.lanes → ∀ i ∈ [Instr.qperm f, Instr.qtake f], Issues s i e → bad i) ∧
  (queueOf s e.tk q = none → Outside e e.lanes →
    (∀ i ∈ [Instr.qperm f, Instr.qtake f, Instr.qinit f, Instr.qstat f], Issues s i e → bad i) ∧
    (coreReleased e.team (e.lanes.map Prod.snd) = true → ∀ i ∈ [Instr.qpost f, Instr.qfree f], Issues s i e → bad i))

/-- The barrier and the token queues. -/
def Obligations.BarrierAndQueues : Prop := Part.Barrier ∧ Part.TokenQueues

/-! ## Copy channels -/

/-- Copy commands enter the queue of their channel; cpy and cpfill count in their flag until they end (R321, R323, R327). One that writes memory waits
at its issue while a drain to memory of its thread is open, and is not issued behind a full queue: the first is the model's reading (log 103). -/
def Sys2Proof.Part.CopyIssue : Prop := ∀ (f : CF) (s : State) (e : Env) (l tid : Nat), e.lanes.head? = some (l, tid) →
  (queueAt s e.core f.ch.toNat).length < 16 →
  (Issues s (.cpy f) e → behindDrain e (.cpy f) tid = false → ∃ t c, exec (.cpy f) s = .next t ∧ Enters s t e (.cpy f) [] none ∧ queueAt t e.core f.ch.toNat = queueAt s e.core f.ch.toNat ++ [c] ∧
    c.op = 0 ∧ c.team = e.tk ∧ c.tid = tid ∧ c.fn = f.fn.toNat ∧ c.done = 0 ∧ c.started = false ∧ c.iss = s.nextId ∧
    (f.fn.toNat / 2 % 2 = 0 → c.len = (uni32 s e f.b).toNat ∧
      c.dst = (if f.fn.toNat / 4 % 2 = 0 then (uni64 e f.d).toNat else (uni32 s e f.d).toNat) ∧
      c.src = (if f.fn.toNat / 4 / 2 = 0 then (uni64 e f.a).toNat else (uni32 s e f.a).toNat)) ∧
    (f.fn.toNat / 2 % 2 = 1 → c.rcd = (uni64 e f.b).toNat)) ∧
  (Issues s (.cpfill f) e → behindDrain e (.cpfill f) tid = false → ∃ t c, exec (.cpfill f) s = .next t ∧ Enters s t e (.cpfill f) [] none ∧
    queueAt t e.core f.ch.toNat = queueAt s e.core f.ch.toNat ++ [c] ∧ c.op = 2 ∧ c.team = e.tk ∧ c.tid = tid ∧ c.fn = f.fn.toNat ∧
    c.src = (uni32 s e f.a).toNat ∧ c.done = 0 ∧ c.started = false ∧ c.iss = s.nextId ∧
    (f.fn.toNat / 2 % 2 = 0 → c.len = (uni32 s e f.b).toNat)) ∧
  (Issues s (.tsr f) e → ∃ t c, exec (.tsr f) s = .next t ∧ t.mem = s.mem ∧ RegsSame s t ∧
    queueAt t e.core f.ch.toNat = queueAt s e.core f.ch.toNat ++ [c] ∧ c.op = 1 ∧ c.team = e.tk ∧ c.rcd = (uni64 e f.a).toNat)

/-- cpwp gives the channel's write pointer and status; cpcancel takes the team's commands off the channel, clears its stop and enters the window,
which it leaves, its flag going down, in a step of its own (R328, R331). -/
def Sys2Proof.Part.CopyControl : Prop := ∀ (f : CF) (s : State) (e : Env),
  (Issues s (.cpwp f) e → let x := chanOf s e.tk f.ch.toNat
    let q := ((queueAt s e.core f.ch.toNat).filter fun c => c.team == e.tk).length
    ∃ t, exec (.cpwp f) s = .next t ∧ Kept s t e (fun _ _ => False) (inGDest f.d 2) (fun _ => False) ∧ ∀ n, opKind f.d = .g n →
      gHolds t e.tk e.g n 2 (x.wp.toNat + ((if x.stopped then 2 else if 0 < q then 1 else 0) * 2 ^ 30 + x.cause * 2 ^ 16 + x.disc * 2 ^ 8 + q) * 2 ^ 32)) ∧
  (Issues s (.cpcancel f) e → f.ch.toNat < e.team.chans.length → ∃ t, exec (.cpcancel f) s = .next t ∧ t.mem = s.mem ∧ RegsSame s t ∧
    queueAt t e.core f.ch.toNat = (queueAt s e.core f.ch.toNat).filter (fun c => c.team != e.tk) ∧
    let x := chanOf t e.tk f.ch.toNat
    x.stopped = false ∧ x.cause = 0 ∧ x.disc = 0 ∧ x.cpfa = 0 ∧ x.cprsv = 0 ∧ x.wp = (chanOf s e.tk f.ch.toNat).wp ∧
    ∃ tm y, t.team e.tk = some tm ∧ y ∈ tm.iw ∧ y.insn = .cpcancel f ∧ y.flag = e.flag (.cpcancel f) ∧ y.lanes = [] ∧ y.engine = false) ∧
  (∀ (k iss : Nat) (tm : Team) (i : Inflight) (gr : Group), s.team k = some tm → findIss tm iss = some i → s.group k i.grp = some gr →
    (s.core tm.core).asleep = false → i.insn = .cpcancel f → i.lanes = [] → i.engine = false → i.fence = none → i.acq = none →
    ∃ t tm' gr', exec (.complete k iss) s = .next t ∧ t.mem = s.mem ∧ RegsSame s t ∧ t.team k = some tm' ∧ findIss tm' iss = none ∧
      t.group k i.grp = some gr' ∧ ∀ n, i.flag = some n → gr'.flag n = gr.flag n - 1)

/-- The copy instructions. -/
def Obligations.CopyInstructions : Prop := Part.CopyIssue ∧ Part.CopyControl

/-- A channel's head command: on a stopped channel it is discarded; unstarted, its checks start or stop it; started, it moves one segment once
no older access of its thread comes first, its write pointer counts the bytes, and it leaves once all have moved; one whose allocation has been
freed stops with SBOUND; tsr sets the channel's shape (R107, R153, R321, R324, R327 to R330). -/
def Obligations.CopySegments : Prop := ∀ (s : State) (core ch : Nat) (c : CopyCmd) (rest : List CopyCmd) (tm : Team) (x : ChanState),
  queueAt s core ch = c :: rest → s.team c.team = some tm → tm.chans[ch]? = some x → (s.core core).asleep = false → c.suspended = false →
  (x.stopped = true → ∃ t, exec (.copySegment core ch) s = .next t ∧ t.mem = s.mem ∧ queueAt t core ch = rest ∧
    chanOf t c.team ch = { x with disc := min 255 (x.disc + 1) }) ∧
  (x.stopped = false → copyHeld s core tm c = false → c.started = false → c.op ≠ 1 → c.op ≠ 4 → c.shapedBit = false → startChecks tm c = none →
    ∃ t, exec (.copySegment core ch) s = .next t ∧ t.mem = s.mem ∧ t.teams = s.teams ∧ queueAt t core ch = { c with started := true } :: rest) ∧
  (∀ st, x.stopped = false → copyHeld s core tm c = false → c.started = false → c.op ≠ 1 → c.op ≠ 4 → c.shapedBit = false → startChecks tm c = some st →
    ∃ t, exec (.copySegment core ch) s = .next t ∧ t.mem = s.mem ∧ queueAt t core ch = rest ∧ (chanOf t c.team ch).stopped = true ∧
      (chanOf t c.team ch).cause = st.cause.number ∧ (chanOf t c.team ch).cpfa = BitVec.ofNat 64 st.addr) ∧
  (∀ a al p, x.stopped = false → copyHeld s core tm c = false → c.started = true → c.op = 2 → c.freed = none → c.dstSide = .pad a → s.errors = [] →
    let n := segLen c c.done c.len 1
    let y := padAt a c.done
    let m := if c.shapedBit then (shapeOf c.shape).e else 4
    padPlace tm y n = some (al, p) → ∃ t, exec (.copySegment core ch) s = .next t ∧ t.mem = s.mem ∧
      cellsGet (t.core core).pad (p * 256 + padByte y) n = (List.range n).map (fun i => BitVec.ofNat 8 (c.src / 2 ^ (8 * ((c.done + i) % m)))) ∧
      (chanOf t c.team ch).wp = x.wp + BitVec.ofNat 32 n ∧
      queueAt t core ch = if c.len ≤ c.done + n then rest else { c with done := c.done + n, inside := none } :: rest) ∧
  (∀ bs d u v, x.stopped = false → copyHeld s core tm c = false → c.started = true → c.op ≠ 1 → c.freed = none →
    let ps := ((tm.threads[c.tid]?).map Thread.pslot).getD 0
    readSeg s core tm ps c c.done (segLen c c.done c.len 1) = .ok bs none u → writeSeg u core tm ps c c.done bs = .ok d none v →
    ∃ t, exec (.copySegment core ch) s = .next t ∧ t.mem = v.mem ∧ (c.done + d < c.len → ∃ y, queueAt t core ch =
      y :: (queueAt v core ch).drop 1 ∧ y = { c with done := c.done + d, inside := y.inside }) ∧ (c.len ≤ c.done + d → queueAt t core ch = (queueAt v core ch).drop 1)) ∧
  (∀ a ∈ c.here, x.stopped = false → copyHeld s core tm c = false → c.started = true → c.op ≠ 1 → c.freed = some (padHandle a) →
    ∃ t, exec (.copySegment core ch) s = .next t ∧ t.mem = s.mem ∧ queueAt t core ch = rest ∧ (chanOf t c.team ch).stopped = true ∧
      (chanOf t c.team ch).cause = Cause.sbound.number) ∧
  (∀ ws u, x.stopped = false → copyHeld s core tm c = false → c.op = 1 →
    readRecord s core c (((tm.threads[c.tid]?).map Thread.pslot).getD 0) = .ok ws none u → u.team c.team = some tm →
    ∃ t, exec (.copySegment core ch) s = .next t ∧ t.mem = u.mem ∧ queueAt t core ch = (queueAt u core ch).drop 1 ∧
      chanOf t c.team ch = { x with shape := ws, shapeAddr := c.rcd })

/-! ## The matrix engine -/

/-- A matrix instruction enters the core's matrix queue behind the commands there, once for its group, with the values of its uniform
operands and, for xwr, of its v block (R333 to R335, R340, R341). -/
def Sys2Proof.Part.MatrixIssue : Prop := ∀ (f : XF) (s : State) (e : Env), MatReady s e →
  let a := (uni32 s e f.a).toNat
  let b := (uni32 s e f.b).toNat
  (Issues s (.xmma f) e → (padOperands s e [(a, (xmmaRows f).1), (b, (xmmaRows f).2)] true).1 = none →
    Happens (.xmma f) s fun t => Queues s t e (.xmma f) fun m => m.a = a ∧ m.b = b) ∧
  (Issues s (.xzero f) e → Happens (.xzero f) s fun t => Queues s t e (.xzero f) fun _ => True) ∧
  (Issues s (.xfill f) e → Happens (.xfill f) s fun t => Queues s t e (.xfill f) fun m => m.a = a) ∧
  (Issues s (.xrd f) e → Happens (.xrd f) s fun t => Queues s t e (.xrd f) fun m => m.owners = e.lanes) ∧
  (Issues s (.xwr f) e → Happens (.xwr f) s fun t => Queues s t e (.xwr f) fun m =>
    m.vals = e.lanes.map fun p => (List.range 16).map fun j => src32 s e p.2 (f.a + BitVec.ofNat 11 j)) ∧
  (Issues s (.xscale f) e → Happens (.xscale f) s fun t => Queues s t e (.xscale f) fun m => m.b = (uni32 s e f.b true).toNat) ∧
  (Issues s (.xdrain f) e → f.fn.toNat % 4 = 0 → Happens (.xdrain f) s fun t => Queues s t e (.xdrain f) fun m => m.owners = e.lanes) ∧
  (Issues s (.xdrain f) e → f.fn.toNat % 4 = 1 → (padOperands s e [(a, 64)] (f.fn.toNat = 5)).1 = none →
    Happens (.xdrain f) s fun t => Queues s t e (.xdrain f) fun m => m.a = a) ∧
  (Issues s (.xdrain f) e → f.fn.toNat % 4 = 2 → Happens (.xdrain f) s fun t => Queues s t e (.xdrain f) fun m => m.a = (uni64 e f.a).toNat) ∧
  (Issues s (.xquant f) e → (padOperands s e [(a, 2 * (f.fn.toNat + 1))] false).1 = none → (padByte b = 0 ∨ padByte b = 128) → (padRows e.team b 1).isSome = true →
    Happens (.xquant f) s fun t => Queues s t e (.xquant f) fun m => m.a = a ∧ m.b = b)

/-- A matrix instruction of a team without the accumulator flag takes ILLINSN, one whose bundle has fewer than 32 threads ILLCONV, and an
operand whose BYTE is not zero or whose rows leave their allocation SBOUND, each in every thread of the bundle; a full queue puts the issue
off and changes nothing of the machine's (R334, R335, R340, R341). -/
def Sys2Proof.Part.MatrixFaults : Prop := ∀ (f : XF) (s : State) (e : Env), Outside e e.lanes →
  (∀ i ∈ [Instr.xmma f, .xzero f, .xfill f, .xrd f, .xwr f, .xscale f, .xdrain f, .xquant f], Issues s i e →
    (e.team.acc = false → Happens i s fun t => Parks t e e.lanes .illinsn) ∧
    (e.team.acc = true → e.lanes.length ≠ 32 → Happens i s fun t => Parks t e e.lanes .illconv) ∧
    (e.team.acc = true → e.lanes.length = 32 → 8 ≤ matCount s e.core e.tk → exec i s = .next (stallAt s e))) ∧
  (Issues s (.xmma f) e → MatReady s e → (padByte (uni32 s e f.a).toNat ≠ 0 ∨ padRows e.team (uni32 s e f.a).toNat (xmmaRows f).1 = none) →
    Happens (.xmma f) s fun t => Parks t e e.lanes .sbound) ∧
  (∀ al p i, Issues s (.xmma f) e → MatReady s e → padByte (uni32 s e f.a).toNat = 0 → padRows e.team (uni32 s e f.a).toNat (xmmaRows f).1 = some (al, p) →
    padBounds e (uni32 s e f.b).toNat (xmmaRows f).2 = none → i < (xmmaRows f).1 →
    rowExpired (s.core e.core) al (p + i) (s.core e.core).rtick = true → Happens (.xmma f) s fun t => Parks t e e.lanes .sstale)

/-- The matrix instructions as they issue. -/
def Obligations.MatrixInstructions : Prop := Part.MatrixIssue ∧ Part.MatrixFaults

/-- The engine performs the command at its queue's head: the tile's cells, the destination registers or the scratchpad rows take its values,
and nothing else of the accumulator store changes; registers are those of the threads that stood in the lanes at the issue (R333, R336, R340, R342 to R348). Stated where no error waits in an array. -/
def Sys2Proof.Part.MatrixCommands : Prop := ∀ (f : XF) (s : State) (c : Nat) (m : MatCmd) (rest : List MatCmd) (t : Team), Heads s c m rest t →
  let x := getCell (s.core c) f
  (m.insn = .xzero f → Happens (.matrixCommand c) s fun u => Performed s u c rest ∧ TileSet s u c f 64 64 fun _ _ => 0) ∧
  (m.insn = .xfill f → Happens (.matrixCommand c) s fun u => Performed s u c rest ∧ TileSet s u c f 64 64 fun _ _ => BitVec.ofNat 32 m.a) ∧
  (m.insn = .xwr f → Happens (.matrixCommand c) s fun u => Performed s u c rest ∧ TileSet s u c f 32 16 fun l j => (m.vals.getD l []).getD j 0) ∧
  (m.insn = .xscale f → Happens (.matrixCommand c) s fun u => Performed s u c rest ∧
    TileSet s u c f 64 64 fun i j => BitVec.ofNat 32 (scaleCell f m.nvr m.b (x i j))) ∧
  (∀ al p bl q, m.insn = .xmma f → padRows t m.a (xmmaRows f).1 = some (al, p) → padRows t m.b (xmmaRows f).2 = some (bl, q) →
    let as := rowsOf s c p (xmmaRows f).1
    let bs := rowsOf s c q (xmmaRows f).2
    Happens (.matrixCommand c) s fun u => Performed s u c rest ∧
      (f.fn = 0 → TileSet s u c f 64 64 fun i n => BitVec.ofInt 32 ((x i n : Int) +
        ((List.range 64).map fun k => planeElem as (f.pa.toNat + 1) i k * planeElem bs (f.pb.toNat + 1) n k).sum)) ∧
      (f.fn ≠ 0 → TileSet s u c f 64 64 fun i n => BitVec.ofNat 32 (mmaCell f m.nvr as bs (x i n) i n))) ∧
  (m.insn = .xrd f → (m.owners.map Prod.snd).Nodup → Happens (.matrixCommand c) s fun u => Performed s u c rest ∧ AccSame s u c ∧ ∀ l tid j, l < 32 →
    m.owners.find? (fun p => p.1 == l) = some (l, tid) → (s.thread m.team tid).isSome = true → j < 16 →
    ∃ th, u.thread m.team tid = some th ∧ cellGet th.v (f.d.toNat + j) = BitVec.ofNat 32 (x l j)) ∧
  (m.insn = .xdrain f → f.fn.toNat % 4 = 0 → (m.owners.map Prod.snd).Nodup → Happens (.matrixCommand c) s fun u => Performed s u c rest ∧ AccSame s u c ∧
    ∀ l tid j, l < 32 → m.owners.find? (fun p => p.1 == l) = some (l, tid) → (s.thread m.team tid).isSome = true → j < 64 → ∃ th, u.thread m.team tid = some th ∧
      cellGet th.v (f.d.toNat + j) = BitVec.ofNat 32 (x l j) ∧ cellGet th.v (f.d.toNat + 64 + j) = BitVec.ofNat 32 (x (32 + l) j)) ∧
  (∀ al p, m.insn = .xdrain f → f.fn.toNat = 1 → (∀ i, i < 64 → padRows t (m.a + 256 * i) 1 = some (al, p + i)) →
    Happens (.matrixCommand c) s fun u => Performed s u c rest ∧ AccSame s u c ∧ ∀ i j, i < 64 → j < 64 →
      leNat (padRead u c (p + i) (4 * j) 4) = x i j) ∧
  (∀ al p, m.insn = .xdrain f → f.fn.toNat = 5 → padRows t m.a 64 = some (al, p) → (∀ i, i < 64 → padRows t (m.a + 256 * i) 1 = some (al, p + i)) →
    Happens (.matrixCommand c) s fun u => Performed s u c rest ∧ AccSame s u c ∧ ∀ i j, i < 64 → j < 64 →
      leNat (padRead u c (p + i) (4 * j) 4) = addCell (f.pa == 1) m.nvr (leNat (padRead s c (p + i) (4 * j) 4)) (x i j) % 2 ^ 32) ∧
  (m.insn = .xdrain f → f.fn.toNat % 4 = 2 → (queueAt s c f.b.toNat).length < 16 → Happens (.matrixCommand c) s fun u => Performed s u c rest ∧ AccSame s u c ∧
    ∃ y, queueAt u c f.b.toNat = queueAt s c f.b.toNat ++ [y] ∧ y.op = 4 ∧ y.team = m.team ∧ y.dst = m.a % 2 ^ 32 ∧
      y.stream = (List.range 64).flatMap fun i => (List.range 64).flatMap fun j => leBytes 4 (x i j)) ∧
  (m.insn = .xdrain f → f.fn.toNat % 4 = 2 → 16 ≤ (queueAt s c f.b.toNat).length → ∃ n, exec (.matrixCommand c) s = .refused (.notEnabled n)) ∧
  (∀ al p bl r, m.insn = .xquant f → (∀ i, i < 2 * (f.fn.toNat + 1) → padRows t (m.a + 256 * i) 1 = some (al, p + i)) →
    padPlace t m.b 128 = some (bl, r) → (∀ i, i < 2 * (f.fn.toNat + 1) → r ≠ p + i) →
    let q := fun i => quantRow (f.fn.toNat + 1) ((List.range 64).map fun k => if m.nvr % 2 = 1 then x i k else ftz fmtF32 (x i k))
    Happens (.matrixCommand c) s fun u => Performed s u c rest ∧ AccSame s u c ∧
      (∀ b i, b ≤ f.fn.toNat → i < 64 → padRead u c (p + (b * 64 + i) / 32) ((b * 64 + i) % 32 * 8) 8 = blockPlane (q i).2 b) ∧
      padRead u c r (padByte m.b) 128 = (List.range 64).flatMap fun i => leBytes 2 (q i).1)

/-- The sub-arrays power down after csr.xidle.CYCLES cycles without a command, never where it is 0, and only time changes (R349). -/
def Sys2Proof.Part.SubArrays : Prop := ∀ (s : State) (c k : Nat) (t : Team) (x : Ctx), (s.core c).accOwner = some k → s.team k = some t → s.ctx t.ctx = some x →
  (s.core c).matq = [] → (s.core c).subPowered = true →
  (x.xidle.toNat % 65536 ≠ 0 → (s.core c).subIdleSince + x.xidle.toNat % 65536 ≤ (s.core c).cycles →
    Happens (.subArrayPowerDown c) s fun u => u = s.updCore c (fun k => { k with subPowered := false })) ∧
  (x.xidle.toNat % 65536 = 0 → ∃ n, exec (.subArrayPowerDown c) s = .refused (.notEnabled n))

/-- The matrix engine. -/
def Obligations.MatrixEngine : Prop := Part.MatrixCommands ∧ Part.SubArrays

/-! ## Illegal uses, traps and kills -/

/-- An instruction whose use is illegal takes ILLINSN in every thread of the bundle (for a liveness word that names a block outside the
footprint the first instruction takes it: the model's reading, log 71); one that waits for admission, for an acquire, for a register or for a flag
changes nothing but that its group has been put off, or that a correctable error of a register it reads is corrected first; an uncorrectable one
is RPOISON (R51, R93, R153, R174, R232, R290, R365). -/
def Obligations.IllegalUse : Prop := ∀ (i : Instr) (s : State) (e : Env), i.opcode.isSome = true →
  (gate s i = .illegal e → Outside e e.lanes → Happens i s fun t => Parks t e e.lanes .illinsn) ∧
  (∀ u, envOf s = some e → gate s i = .wait u → exec i s = .next u ∧ ((∀ p ls, regError s e i ≠ some (true, p, ls)) → u = stallAt s e) ∧
    ∀ p ls, regError s e i = some (true, p, ls) → u = stallAt s e ∨ u = (s.takeError 10 p).2) ∧
  (∀ p ls v, envOf s = some e → regError s e i = some (false, p, ls) → gate s i = .poison v → Outside e ls → Happens i s fun t => t = v ∧ Parks t e ls .rpoison) ∧
  (gate s i = .nested e → e.lanes ≠ [] → (∀ p ∈ e.lanes, (e.thread p.2).handler = true) → e.team.kill = none → Happens i s fun t => ∃ tm k, t.team e.tk = some tm ∧ tm.kill = some k ∧ k.cause = .nested)

/-- R393: with no handler installed a cause that a handler would take kills the team with that cause, and the kill is never relaunched; BRKPT
under csr.dbgctl.EN parks the thread for the debugger instead. -/
def Obligations.NoHandler : Prop := ∀ (s : State) (tk tid : Nat) (t : Team) (c : Ctx) (th : Thread) (f : FaultInfo),
  s.team tk = some t → s.ctx t.ctx = some c → t.threads[tid]? = some th → th.fault = some f → th.st = .parked → t.kill = none →
  s.posted t.ctx = true → threadBusy t tid = false → f.cause.handling = .handler → handlerEntry c = 0 →
  ((f.cause ≠ .brkpt ∨ bit c.dbgctl 0 = false) → Happens (.trapDelivery tk tid) s fun u =>
    ∃ tm k, u.team tk = some tm ∧ tm.kill = some k ∧ k.cause = f.cause ∧ relaunches tm k = false) ∧
  (∀ v y, f.cause = .brkpt → bit c.dbgctl 0 = true → writeRecord s t tid f false = .ok () v → v.thread tk tid = some y →
    Happens (.trapDelivery tk tid) s fun u => u.thread tk tid = some { y with fault := none, dbg := true })

/-- A trap with a handler installed is delivered once the thread's older instructions are complete: the record is written, the thread takes
an acquire, and resumes at the handler's first clause in handler mode; a record that cannot be written kills the team with TAREA, and
a cause of record and kill kills it with its own (R391, R392, R397). -/
def Obligations.TrapDelivery : Prop := ∀ (s v : State) (tk tid : Nat) (t : Team) (c : Ctx) (th : Thread) (f : FaultInfo),
  s.team tk = some t → s.ctx t.ctx = some c → t.threads[tid]? = some th → th.fault = some f → t.kill = none → s.posted t.ctx = true → threadBusy t tid = false →
  (∀ y, f.cause.handling = .handler → handlerEntry c ≠ 0 → (f.cause ≠ .brkpt ∨ bit c.dbgctl 0 = false) → writeRecord s t tid f false = .ok () v →
    v.thread tk tid = some y → Happens (.trapDelivery tk tid) s fun u => u.mem = v.mem ∧
      (∃ z, u.thread tk tid = some z ∧ z.handler = true ∧ z.fault = none ∧ z.st = .runnable ∧ z.rp.clause = handlerEntry c ∧ z.rp.index = 0 ∧ z.v = y.v) ∧
      u.core t.core = (v.core t.core).dropLeases) ∧
  (∀ r as n m tm, f.cause.handling = .handler → handlerEntry c ≠ 0 → writeRecord s t tid f false = .fault r as n m v → v.team tk = some tm → tm.kill = none →
    Happens (.trapDelivery tk tid) s fun u => ∃ tm k, u.team tk = some tm ∧ tm.kill = some k ∧ k.cause = .tarea) ∧
  (∀ tm, f.cause.handling = .recordKill → writeRecord s t tid f true = .ok () v → v.team tk = some tm → tm.kill = none →
    Happens (.trapDelivery tk tid) s fun u => u.mem = v.mem ∧ ∃ tm k, u.team tk = some tm ∧ tm.kill = some k ∧ k.cause = f.cause) ∧
  (f.cause.handling = .kill → ∃ n, exec (.trapDelivery tk tid) s = .refused (.notEnabled n))

/-- Lookout past its limit kills the team; a kill begins by clearing the window, the engines and the flags; once the team is idle it ends in
the records, the removal of the team and the packet's count; a team whose threads have all exited retires (R168, R176, R387, R400, R402). -/
def Obligations.TeamEnds : Prop := ∀ (s v : State) (k : Nat) (t : Team), s.team k = some t → t.kept = false →
  (t.kill = none → lookoutLimit t < t.lookout → Happens (.lookout k) s fun u => u.mem = s.mem ∧
    ∃ tm f, u.team k = some tm ∧ tm.kill = some f ∧ f.cause = .lookout) ∧
  (∀ f, t.kill = some f → t.killing = false → (∀ gr ∈ t.groups, ∀ b, gr.bundle = some b → b.yields = []) → ((beginKill s k t).core t.core).sb ≠ [] → Happens (.teamKill k) s fun u => u.mem = s.mem ∧
    (∃ tm, u.team k = some tm ∧ tm.killing = true ∧ tm.iw = [] ∧ ∀ gr ∈ tm.groups, gr.cf = []) ∧
    (u.core t.core).matq = (s.core t.core).matq.filter (fun m => m.team != k) ∧ ∀ x ∈ (u.core t.core).sb, x.team = k → x.admitted = true ∨ x.sent = true) ∧
  (∀ f, t.kill = some f → t.killing = true → (∀ gr ∈ t.groups, ∀ b, gr.bundle = some b → b.yields = []) → s.posted t.ctx = true → teamReleased s k t = (true, s) → teamIdle s k t = true → writeRetires s t f = .ok () v →
    Happens (.teamKill k) s fun u => u.team k = none ∧ u.mem = v.mem ∧ ∀ c r, v.ctx t.ctx = some c → findRunning c t.queue t.pidx = some r →
      ∃ c' r', u.ctx t.ctx = some c' ∧ findRunning c' t.queue t.pidx = some r' ∧ r'.placed = r.placed - 1 ∧
        (relaunches t f = true → r'.again = r.again ++ [{ team := t.index, count := t.relaunches + 1, mark := t.pmark, avoid := some t.core, since := v.ns }]) ∧ (relaunches t f = false → r'.killed = true)) ∧
  (t.kill = none → (∀ th ∈ t.threads, th.st = .exited) → (∀ g ∈ t.groups, g.flagMask = 0) → teamIdle s k t = true → s.posted t.ctx = true → teamReleased s k t = (true, v) →
    Happens (.teamRetire k) s fun u => u.team k = none ∧ u.mem = v.mem ∧ ∀ c r, v.ctx t.ctx = some c → findRunning c t.queue t.pidx = some r →
      ∃ c' r', u.ctx t.ctx = some c' ∧ findRunning c' t.queue t.pidx = some r' ∧ r'.placed = r.placed - 1)

/-! ## Scheduling -/

/-- A deschedule begins when it is asked for, is reported when it takes longer than 10 ms, drains the team and writes its record; the saved
team is found under the record's entry, with what a record has no place for beside it, which is the model's choice (log 14) (R380 to R383, R416). -/
def Obligations.Deschedule : Prop := ∀ (s : State) (k : Nat) (t : Team), s.team k = some t → t.kept = false →
  (t.asked = true → t.stopping = false → t.kill = none → Happens (.teamStop k) s fun u => u.mem = s.mem ∧ RegsSame s u ∧
    ∃ tm, u.team k = some tm ∧ tm.stopping = true ∧ tm.stopStart = s.ns) ∧
  (t.stopping = true → t.drained = false → t.stopReported = false → stopped t = false → t.stopStart + 10000000 ≤ s.ns → Happens (.stopTimeout k) s fun u =>
    u.mem = s.mem ∧ RegsSame s u ∧ u.posts = s.posts ++ [.health t.ctx (healthRecord 6 0 0 0 0 t.queue t.index 0 0 t.core t.pidx s.ns)] ∧
    ∃ tm, u.team k = some tm ∧ tm.stopReported = true) ∧
  (t.stopping = true → t.kill = none → t.drained = false → stopped t = true → t.snap = none → (s.core t.core).sb ≠ [] →
    Happens (.teamDrain k) s fun u => u.mem = s.mem ∧ RegsSame s u ∧ ∃ tm, u.team k = some tm ∧ tm.drained = true) ∧
  (∀ (s1 s2 s3 s4 : State) (t1 t2 : Team) (c : Ctx) (bs : List Byte) (entry : Nat), t.stopping = true → t.kill = none → (t.drained = true ∨ stopped t = true) →
    let d := s.updTeam k fun t => { t with drained := true }
    teamReleased (if (s.core t.core).matq.any (fun m => m.team == k) then d else suspendCopies d k t.core true) k t = (true, s1) → s1.team k = some t1 →
    drainDone s1 k t1 = true → s1.ctx t1.ctx = some c → saveError s1 k t1 = none → knownPrios s1 t1 = .ok t2 s2 → saveRecord s2 k t2 (keeps s1 t1) = (bs, s3) →
    storeRecord s3 t1.ctx c bs = .ok (some entry) s4 → Happens (.teamDrain k) s fun u => u.mem = s4.mem ∧ (keeps s1 t1 = false → u.team k = none) ∧
      ∀ c', s4.ctx t1.ctx = some c' → ∃ c2, u.ctx t1.ctx = some c2 ∧ mapGet? c2.saved entry = some { queue := t1.queue, idx := t1.pidx, team := t1.index, relaunches := t1.relaunches, core := t1.core, beside := besideOf s4 k t2 })

/-- A saved team resumes on a core that fits, with what its record holds; a kept team's rows are renewed, and keep-alive ends in a record that
holds them; a PRIO 3 team that has waited 100 microseconds has teams of lower priority descheduled for it (R112, R113, R376, R382, R386). Which of the
chosen teams keep their granules, and that a saved team resumes before a team of higher priority that fits nowhere, are the model's readings (log
87); what a record has no place for stands beside it (log 14); which teams' waiting makes room and ends keep-alive is the model's choice (log 89), and
so is what a stop and restored records leave to be placed (log 106). -/
def Obligations.Resume : Prop :=
  (∀ (s s1 s2 s3 : State) (x e core q idx team n last tk : Nat) (c : Ctx) (bs : List Byte) (r : Running) (b : Beside) (old : Bool), s.ctx x = some c → s.posted x = true →
    mapGet? c.saved e = some { queue := q, idx := idx, team := team, relaunches := n, core := last, beside := b, restored := old } → loadRecord s x c e = .ok bs s1 → keptTeam s1 x e = none → stopAsked s1 c.vd = false → c.destroying = false →
    findRunning c q idx = some r → fits s1 x c q idx (pktWords ((bs.drop 0x40).take 64)) core [] [] = true → higherFits s1 c.vd r.prio = false →
    rebuildTeam (rouse s1 core) x e core c bs = (tk, s2) → freeRecord (packetAcquire s2 r core) x c e = .ok () s3 →
    Happens (.teamResume x e core) s fun u => u.mem = s3.mem ∧ u.team tk = s3.team tk ∧ ∀ c', u.ctx x = some c' → mapGet? c'.saved e = none) ∧
  (∀ (s : State) (k : Nat) (t : Team), s.team k = some t → t.kept = true → s.errors = [] → Happens (.keepaliveRenew k) s fun u => u.mem = s.mem ∧
    (∃ tm, u.team k = some tm ∧ tm.renewTick = (s.core t.core).rtotal) ∧
    ∀ h al i, (h, al) ∈ t.allocs → i < al.n → let p := (t.block + al.gran) * 16 + i
      rowExpired (s.core t.core) al p (s.core t.core).rtick = false → (u.core t.core).row p = { stamp := (s.core t.core).rtick, exp := false }) ∧
  (∀ (s v : State) (k e : Nat) (t : Team) (c : Ctx), s.team k = some t → s.ctx t.ctx = some c → t.kept = true →
    (t.keptSince + c.keepalive.toNat % 2 ^ 20 ≤ (s.core t.core).rtotal ∨ blockWanted s k t = true ∨ stopAsked s c.vd = true) →
    ((loadRecord s t.ctx c t.entry).bind fun bs s =>
      let (bs', s) := rewriteRecord (renewRows s t) t bs
      (freeRecord s t.ctx c t.entry).bind fun _ s => storeRecord s t.ctx c bs') = .ok (some e) v →
    Happens (.keepaliveEnd k) s fun u => u.mem = v.mem ∧ u.team k = none ∧ ∀ c', v.ctx t.ctx = some c' →
      ∃ c2, u.ctx t.ctx = some c2 ∧ mapGet? c2.saved e = some { queue := t.queue, idx := t.pidx, team := t.index, relaunches := t.relaunches, core := t.core, beside := (((mapGet? c'.saved t.entry).map Saved.beside).getD {}) }) ∧
  (∀ (s v : State) (x q idx core : Nat) (c : Ctx) (r r' : Running) (g : List Nat), s.ctx x = some c → findRunning c q idx = some r → r.prio = 3 → mayPlace s c r = true →
    r.waitsSince + 100000 ≤ s.ns → bestCore s x c q idx r.packet r.avoid = none → roomFor s x c r = some (v, r', core, g) →
    Happens (.preemptiveDeschedule x q idx core) s fun u => u.mem = s.mem ∧ RegsSame s u ∧
      ∀ k t, k ∈ g → s.team k = some t → ∃ tm, u.team k = some tm ∧ tm.asked = true ∧ tm.mayKeep = (keepersOf v x c r' core g).contains k)

/-- The dispatcher: a notify register keeps the largest index written; a valid packet below it is taken up, with the priority its descriptor then
holds (the model's reading, log 41), and its descriptor's RIDX moves on, a bad one stops its queue; the dependence is met; teams are placed on the preferred core, the queues of one priority by turns (whom a turn passes over is the model's reading, log 87); a packet whose teams are gone
completes (R368 to R375). Which team of a packet comes next is the model's choice (log 107), and so is what restored packets wait for (log 106). -/
def Obligations.Dispatch : Prop := ∀ (s s1 s2 s3 : State) (x q : Nat) (c : Ctx), s.ctx x = some c →
  (∀ v n (i : BitVec 64), mapGet? (s.vd v).ctxs n = some x → q < 4096 → c.stopped.contains q = false → Happens (.qnotify v n q i) s fun u =>
    u.mem = s.mem ∧ u.teams = s.teams ∧ notifyOf u v n q = max (notifyOf s v n q) i.toNat) ∧
  (∀ slot d bs, freeEntry c = some slot → s.posted x = true → q < c.qcount → c.stopped.contains q = false → stopAsked s c.vd = false → c.destroying = false →
    readDesc s x c q = .ok d s1 → descLog d ≠ 0 → descErr d = 0 → descRidx d < notifyOf s1 c.vd c.loc q → descRidx d < descWidx d →
    virtRead s1 none x 0 (slotAddr d (descRidx d)) 64 kRead true = .ok bs s2 → descDevOk d = false →
    (∀ c', packetError c q (pktWords bs) = none → writeDesc s2 x c q 24 (leBytes 8 (descRidx d + 1)) = .ok () s3 → s3.ctx x = some c' →
      Happens (.packetTakeUp x q) s fun u => u.mem = s3.mem ∧ u.teams = s3.teams ∧ ∃ cu r, u.ctx x = some cu ∧ cu.running = c'.running ++ [r] ∧
        r.queue = q ∧ r.index = descRidx d ∧ r.packet = pktWords bs ∧ r.slot = slot ∧ r.prio = descPrio d ∧ r.next = 0 ∧ r.placed = 0) ∧
    (∀ code, packetError c q (pktWords bs) = some code → stopQueue s2 x c q code (descRidx d) true = .ok () s3 → Happens (.packetTakeUp x q) s fun u => u = s3 ∧
      ∀ c', u.ctx x = some c' → q ∈ c'.stopped)) ∧
  (∀ idx r d, findRunning c q idx = some r → r.depMet = false → readDesc s x c q = .ok d s1 → (pktOrdr r.packet = true → descCidx d = idx) → (s1.ctx x = some c) →
    r.packet.getD 7 0 = 0 → Happens (.dependenceMet x q idx) s fun u => u.mem = s1.mem ∧ u.teams = s1.teams ∧
      ∃ cu ru, u.ctx x = some cu ∧ findRunning cu q idx = some ru ∧ ru.depMet = true) ∧
  (∀ idx core r, findRunning c q idx = some r → s.posted x = true → r.depMet = true → r.again = [] → r.next < pktTeams r.packet → stopAsked s c.vd = false → c.destroying = false →
    (r.restored = true → ∀ p ∈ c.saved, p.2.restored = false) →
    slotsFree c r.packet = true → bestCore s x c q idx r.packet none = some core → higherWaits s c.vd r.prio = false → turnWaits s c.vd r.prio x q = false →
    Happens (.teamPlacement x q idx core) s fun u => u.mem = s.mem ∧ (u.core core).asleep = false ∧
      (∃ t, u.team s.nextId = some t ∧ t.ctx = x ∧ t.queue = q ∧ t.pidx = idx ∧ t.index = r.next ∧ t.core = core ∧ t.packet = r.packet ∧
        t.threads.length = pktT r.packet ∧ (∀ th ∈ t.threads, th.st = .runnable ∧ th.rp.clause = (r.packet.getD 1 0).toNat ∧ th.rp.index = 0) ∧
        t.groups.length = pktG r.packet + pktS r.packet ∧ t.allocs = [] ∧ t.kill = none) ∧
      mapGet? (u.vd c.vd).placed r.prio = some (x * 4096 + q) ∧
      ∃ cu ru, u.ctx x = some cu ∧ findRunning cu q idx = some ru ∧ ru.next = r.next + 1 ∧ ru.placed = r.placed + 1) ∧
  (∀ idx r, findRunning c q idx = some r → s.posted x = true → r.depMet = true → pktTeams r.packet ≤ r.next → r.again = [] → r.placed = 0 → r.killed = false →
    (pktRel r.packet = true → pktScope r.packet = 3 → ∀ h ∈ s.hostPend, h.team ∉ r.members) →
    (if (r.packet.getD 6 0).toNat = 0 then Virt.ok false s else addSignal s x (r.packet.getD 6 0).toNat) = .ok false s1 →
    finishPacket s1 x q idx = .ok () s2 → exec (.packetComplete x q idx) s = .next s2 ∧ ∀ cu, s2.ctx x = some cu → findRunning cu q idx = none)

/-- Context commands leave CTXCMD's status: a command on a number without a context is rejected (2), and a bind takes the lowest free number of
the package, which are the model's choices (log 99); the control block's images are taken modulo their registers' width (log 45), csr.acap's also above its limit
(log 111); destroy and kill begin with every team they
name marked for DRVKILL (1); a deschedule asks the team to stop; the debugger sends its thread on; a reload takes the images' values;
a transfer moves reserve (R60, R361, R414, R415). -/
def Obligations.ContextCommands : Prop := ∀ (s : State) (v n : Nat),
  (ctxOf s v n = none → ∀ (a b d : Nat) (w : BitVec 37),
    (Happens (.ctxDestroy v n) s fun u => (u.vd v).ctxcmd = cmdValue 2 n 2 ∧ u.mem = s.mem ∧ u.teams = s.teams) ∧
    (Happens (.ctxKillTeam v n a b d) s fun u => (u.vd v).ctxcmd = cmdValue 3 n 2 ∧ u.mem = s.mem ∧ u.teams = s.teams) ∧
    (Happens (.ctxDescheduleTeam v n a b d) s fun u => (u.vd v).ctxcmd = cmdValue 4 n 2 ∧ u.mem = s.mem ∧ u.teams = s.teams) ∧
    (Happens (.ctxDebugReplay v n a) s fun u => (u.vd v).ctxcmd = cmdValue 5 n 2 ∧ u.mem = s.mem ∧ u.teams = s.teams) ∧
    (Happens (.ctxDebugSkip v n a) s fun u => (u.vd v).ctxcmd = cmdValue 6 n 2 ∧ u.mem = s.mem ∧ u.teams = s.teams) ∧
    (Happens (.ctxReloadImages v n) s fun u => (u.vd v).ctxcmd = cmdValue 7 n 2 ∧ u.mem = s.mem ∧ u.teams = s.teams) ∧
    (Happens (.ctxReserveTransfer v n w) s fun u => (u.vd v).ctxcmd = cmdValue 8 n 2 ∧ u.mem = s.mem ∧ u.teams = s.teams)) ∧
  (∀ (ccb : BitVec 64) x b w, n < 256 → ctxOf s v n = none → ccb.toNat % 4096 = 0 → ccb.toNat < daLimit → (s.page (pageOf ccb.toNat)).isSome = true →
    (List.range 4096).find? (fun x => (s.ctx x).isNone) = some x → readAt (setArgs s v ccb.toNat (s.vd v).ctxarg1.toNat) ccb.toNat 4096 = .ok b w →
    (s.vd v).keyBase ≤ num b 0x1C 4 % 1024 → num b 0x1C 4 % 1024 < (s.vd v).keyBase + (s.vd v).keyCount → num b 0x48 8 % 2 ^ 36 ≤ w.poolOf v → (List.range 24).filterMap (fun i => runningFrom b i w.ns) = [] → Happens (.ctxBind v n ccb) s fun u =>
      (u.vd v).ctxcmd = cmdValue 1 n 0 ∧ u.ctx x = some (ctxFromCcb v n x ccb.toNat b) ∧ ctxOf u v n = some x ∧ u.mem = w.mem ∧ u.teams = w.teams) ∧
  (∀ x c, ctxOf s v n = some x → s.ctx x = some c →
    (c.destroying = false → Happens (.ctxDestroy v n) s fun u => (u.vd v).ctxcmd = cmdValue 2 n 1 ∧ u.mem = s.mem ∧
      (∃ cu, u.ctx x = some cu ∧ cu.destroying = true) ∧
      ∀ k t, s.team k = some t → t.ctx = x → ∃ tm f, u.team k = some tm ∧ tm.kill = some f ∧ (t.kill = none → f.cause = .drvkill)) ∧
    (∀ q idx team k t, findTeam s x q idx team = some (k, t) → s.team k = some t → t.kill = none → Happens (.ctxKillTeam v n q idx team) s fun u =>
      (u.vd v).ctxcmd = cmdValue 3 n 1 ∧ u.mem = s.mem ∧ ∃ tm f, u.team k = some tm ∧ tm.kill = some f ∧ f.cause = .drvkill) ∧
    (∀ q idx team k t, findTeam s x q idx team = some (k, t) → s.team k = some t → t.kept = false → t.asked = false → cmdBusy s v 4 n = false →
      Happens (.ctxDescheduleTeam v n q idx team) s fun u => (u.vd v).ctxcmd = cmdValue 4 n 1 ∧ u.mem = s.mem ∧ ∃ tm, u.team k = some tm ∧ tm.asked = true) ∧
    (∀ pslot tk tid th, debugThread s x pslot = some (tk, tid, th) → s.thread tk tid = some th → th.handler = true →
      (Happens (.ctxDebugReplay v n pslot) s fun u => (u.vd v).ctxcmd = cmdValue 5 n 0 ∧ u.mem = s.mem ∧
        ∃ tu, u.thread tk tid = some tu ∧ tu.st = .runnable ∧ tu.dbg = false ∧ tu.rp.index = th.rp.index ∧ tu.rp.clause = th.rp.clause) ∧
      (Happens (.ctxDebugSkip v n pslot) s fun u => (u.vd v).ctxcmd = cmdValue 6 n 0 ∧ u.mem = s.mem ∧
        ∃ tu, u.thread tk tid = some tu ∧ tu.st = .runnable ∧ tu.dbg = false ∧ tu.rp.index = th.rp.index + 1 ∧ tu.rp.clause = th.rp.clause)) ∧
    (∀ b w, readAt s (c.ccb + 0x50) 112 = .ok b w → w.ctx x = some c → Happens (.ctxReloadImages v n) s fun u => (u.vd v).ctxcmd = cmdValue 7 n 0 ∧ u.mem = w.mem ∧
      ∃ cu, u.ctx x = some cu ∧ cu.rsvcap.toNat = leNat ((b.drop 72).take 8) % 2 ^ 36 ∧ cu.acap.toNat = leNat ((b.drop 32).take 8) % 2 ^ 25 ∧
        cu.dbgctl.toNat = leNat ((b.drop 64).take 8) % 2) ∧
    (∀ (a : BitVec 37) st w, transferReserve s x a = (st, w) → Happens (.ctxReserveTransfer v n a) s fun u =>
      (u.vd v).ctxcmd = cmdValue 8 n (if st = 0 then 0 else 2) ∧ u.mem = w.mem ∧ ((u.vd v).ctxarg1 = BitVec.ofNat 64 st)))

/-! ## Time, sleep and power -/

/-- A tick is 64 ns: every core's and the homes' lease clocks count one, the microsecond clocks where one has passed, all in exact agreement
(the model's choice within what R99 and R128 allow, log 13); each microsecond the governors leave PKGW and THR as they then are, the clock that a cap
leaves being the model's (log 50); the sweeps drop what has expired; memory is untouched (R99, R108, R128, R131, R179, R436). -/
def Sys2Proof.Part.Time : Prop := ∀ (s : State) (c : Nat),
  (Happens .tick s fun u => u.ns = s.ns + 64 ∧ u.homeClk = s.homeClk + 1 ∧ u.mem = s.mem ∧ RegsSame s u ∧
    ∀ k, mapGet? s.cores c = some k → ∃ k', mapGet? u.cores c = some k' ∧ k'.lclk = k.lclk + 1 ∧ k'.pad = k.pad ∧ k'.acc = k.acc ∧
      k'.rtick = (if (s.ns + 64) / 1000 ≠ s.ns / 1000 then k.rtick + 1 else k.rtick)) ∧
  ((s.ns + 64) / 1000 ≠ s.ns / 1000 → Happens .tick s fun u => bit u.regs.pwrstat 7 = throttled u ∧ fld (u.regs.pwrstat.zeroExtend 64) 31 20 = packageWatts u % 4096) ∧
  ((s.core c).lclk.toNat % 16384 = 0 → Happens (.leaseSweep c) s fun u => u.mem = s.mem ∧ u.teams = s.teams ∧
    (∀ l x, mapGet? (u.core c).l1 l = some x → ∀ e, Holding.leased e ∈ x.chunks → leaseLive e (s.core c).lclk = true) ∧
    ∀ l, (u.line l).lv = true → leaseLive (u.line l).lexp s.homeClk = true) ∧
  ((s.core c).rtick.toNat % 16384 = 0 → s.errors = [] → Happens (.expirySweep c) s fun u => u.mem = s.mem ∧ u.teams = s.teams ∧
    ∀ k t h al i, (k, t) ∈ s.teams → t.core = c → (h, al) ∈ t.allocs → i < al.n → let p := (t.block + al.gran) * 16 + i
      leff (s.core c) al < rowAge (s.core c) p (s.core c).rtick → ((u.core c).row p).exp = true)

/-- A rising temperature moves csr.tret to its band at once, a falling one only after the boundary's millisecond, to the lowest band whose
boundaries have all been passed so long (the model's reading, log 52); the governor sets a clock, PKGW and THR, which shows a cap that holds a clock
below 1.25 GHz, by a ratio that is the model's (log 50) (R100, R436). -/
def Sys2Proof.Part.Temperature : Prop := ∀ (s : State) (c d : Nat),
  (Happens (.temperatureReading c d) s fun u => u.mem = s.mem ∧ u.teams = s.teams ∧ (u.core c).temp = d ∧
    ((s.core c).firstReading = true → (u.core c).band = bandOf d ∧ (u.core c).tretTicks = bandTret (bandOf d)) ∧
    ((s.core c).firstReading = false → (s.core c).band < bandOf d → (u.core c).band = bandOf d ∧ (u.core c).tretTicks = bandTret (bandOf d) ∧ bit (u.core c).tret 31 = true) ∧
    ((s.core c).firstReading = false → bandOf d ≤ (s.core c).band → (u.core c).tret = (s.core c).tret)) ∧
  (fallTo s (s.core c) (s.core c).band ≠ (s.core c).band → Happens (.bandFall c) s fun u => u.mem = s.mem ∧ u.teams = s.teams ∧
    (u.core c).band = fallTo s (s.core c) (s.core c).band ∧ (u.core c).tretTicks = bandTret (u.core c).band) ∧
  (fallTo s (s.core c) (s.core c).band = (s.core c).band → ∃ n, exec (.bandFall c) s = .refused (.notEnabled n)) ∧
  (400000 ≤ d → d ≤ 1500000 → Happens (.governorInterval c d) s fun u => u.mem = s.mem ∧ u.teams = s.teams ∧ (u.core c).clockKHz = d ∧
    bit u.regs.pwrstat 7 = throttled u ∧ fld (u.regs.pwrstat.zeroExtend 64) 31 20 = packageWatts u % 4096)

/-- Time, sweeps, temperature bands and clocks. -/
def Obligations.TimeAndTemperature : Prop := Part.Time ∧ Part.Temperature

/-- Retention sleep: a drained core without work sleeps and gives up its copies; it wakes when a thread could run, its scratchpad rows
expired; a trip or an emergency cap stops issue first. For a core that a cap has asked to sleep the governor's step is the leave to wake (the
model's choice, log 81), and a cap that power exceeds with every clock at its floor, or the board's emergency input, asks cores to sleep, those of
the hottest die in an emergency (which die of equal ones is log 53) (R110, R111, R133, R436). What has drained leaves no copy command inside a billet, by the reading of log 105. -/
def Obligations.RetentionSleep : Prop := ∀ (s : State) (c : Nat), let k := s.core c
  (s.coreEnabled c = true → k.asleep = false → k.emergency = false → (k.sleepAsked = true ∨ noAllocation s c = true ∧ noRunnable s c = true) → coreDrained s c = true →
    Happens (.retentionSleep c) s fun u => (u.core c).asleep = true ∧ (u.core c).l1 = [] ∧ (u.core c).filter = [] ∧ (u.core c).tlb = [] ∧ (u.core c).kc = []) ∧
  (∀ d, k.asleep = true → k.sleepAsked = true → 400000 ≤ d → d ≤ 1500000 → Happens (.governorInterval c d) s fun u => (u.core c).wakeAllowed = true ∧ (u.core c).asleep = true) ∧
  (k.asleep = true → k.sleepAsked = true → (k.wakeAllowed = false ∨ 1150 < k.temp) → ∃ n, exec (.retentionWake c) s = .refused (.notEnabled n)) ∧
  (k.asleep = true → (k.sleepAsked = false ∨ (k.wakeAllowed = true ∧ k.temp ≤ 1150)) → (k.sleepAsked = true ∨ wakeWanted s c = true) → Happens (.retentionWake c) s fun u => u.mem = s.mem ∧
    (u.core c).asleep = false ∧ (u.core c).sleepAsked = false ∧ (∀ p, p < padRowCount → ((u.core c).row p).exp = true) ∧
    ∀ i t, s.team i = some t → t.core = c → ∃ tm : Team, u.team i = some tm ∧ ∀ (j : Nat) (th : Thread), t.threads[j]? = some th → sleepOver s c th = true →
      ∃ tu : Thread, tm.threads[j]? = some tu ∧ tu.st = .runnable) ∧
  (s.coreEnabled c = true → k.asleep = false → (k.emergency = true ∨ 1150 < k.temp) → coreDrained s c = true →
    Happens (.emergencyRetentionSleep c) s fun u => (u.core c).asleep = true ∧ (k.l1 = [] → (u.core c).emergency = true ∧ bit u.regs.pwrstat 6 = true ∧ u.mem = s.mem)) ∧
  (s.coreEnabled c = true → k.asleep = false → k.emergency = false → 1150 < k.temp → coreDrained s c = false →
    Happens (.emergencyRetentionSleep c) s fun u => u.mem = s.mem ∧ u.teams = s.teams ∧ (u.core c).sleepAsked = true ∧ (u.core c).emergency = true) ∧
  (powerOver s = false → ∀ enough, ∃ n, exec (.powerCapExceeded enough false) s = .refused (.notEnabled n)) ∧
  (∀ enough emergency, (emergency = true ∨ powerOver s = true) → Happens (.powerCapExceeded enough emergency) s fun u => u.mem = s.mem ∧ u.teams = s.teams ∧
    (c ∈ s.enabledCores → k.asleep = false → noAllocation s c = true → (u.core c).sleepAsked = true ∧ (u.core c).wakeAllowed = false) ∧
    (c ∈ s.enabledCores → k.asleep = false → enough = false → c / 160 = hottestDie s → noAllocation s c = false → (u.core c).sleepAsked = true ∧ (u.core c).emergency = true))

/-- Issue, clause fetch and throttling: an issue slot's instruction is the next step; the fetched header stands with its thread, and a
misaligned or non-canonical target is the thread's trap (NONCANON where it is both: the model's choice, log 73); a throttled slot's older holder, a
holder for 1,024 cycles, gives way, and none before (R150, R180, R211, R377, R378). Groups are ready by the reading of log 100. -/
def Obligations.Fetching : Prop := ∀ (s s1 : State) (a b : Nat),
  (∀ tk g w i, pickGroup s a b = some (tk, g) → prepare s a tk g = (some w, s1) → decode w = some i → exec (.issue a b) s = .next { s1 with agenda := i :: s1.agenda }) ∧
  (∀ t th, s.team a = some t → t.threads[b]? = some th → th.fetch = true → (th.st = .runnable ∨ th.st = .held) → t.kill = none → t.drained = false → fencePending t [b] = false →
    (∀ h, th.rp.clause < 2 ^ 57 → th.rp.clause % 8 = 0 → kcWord s t.core t.ctx th.pslot th.rp.clause kFetch th.handler = .ok h s1 → hdrBad h = false →
      roleAllows (((t.groups[th.grp]?).map Group.role).getD 0) (hdrClass h) = true → th.rp.index < hdrCount h → (s1.thread a b) = some th →
      Happens (.clauseFetch a b) s fun u => u.mem = s1.mem ∧ ∃ tu, u.thread a b = some tu ∧ tu.hdr = h ∧ tu.fetch = false ∧ tu.rp.clause = th.rp.clause ∧
        tu.rp.index = th.rp.index ∧ tu.rp.prio = th.setPrio.getD (hdrPrio h)) ∧
    (th.handler = false → 2 ^ 57 ≤ th.rp.clause → Happens (.clauseFetch a b) s fun u => u.mem = s.mem ∧
      ∃ tu f, u.thread a b = some tu ∧ tu.st = .parked ∧ tu.fault = some f ∧ f.cause = .noncanon) ∧
    (th.handler = false → th.rp.clause < 2 ^ 57 → th.rp.clause % 8 ≠ 0 → Happens (.clauseFetch a b) s fun u => u.mem = s.mem ∧
      ∃ tu f, u.thread a b = some tu ∧ tu.st = .parked ∧ tu.fault = some f ∧ f.cause = .badclause)) ∧
  (∀ hs x xs, mapGet? (s.core a).holders b = some hs → ((mapGet? (s.core a).heldSince b).getD []).headD 0 + 1024 ≤ (s.core a).cycles →
    (readyGroups { s with cores := mapSet s.cores a { s.core a with holders := mapErase (s.core a).holders b } } a b).filter
      (fun p => !hs.contains (p.1 * 64 + p.2.1) && ((s.team p.1).map fun t => groupClass t p.2.1 == 2).getD false) = x :: xs →
    Happens (.throttleHandoff a b) s fun u => u.mem = s.mem ∧ u.teams = s.teams ∧ ∃ n, mapGet? (u.core a).holders b = some (hs.drop 1 ++ [n])) ∧
  (∀ hs, mapGet? (s.core a).holders b = some hs → (s.core a).cycles < ((mapGet? (s.core a).heldSince b).getD []).headD 0 + 1024 →
    ∃ n, exec (.throttleHandoff a b) s = .refused (.notEnabled n))

/-! ## Capacity -/

/-- The driver's page commands: a page is backed with every byte zero and belongs to its context; unbacked, it is gone; reassigned, its owner
changes; a command that may not be done leaves STATUS 2 and nothing else (R30, R39, R418). -/
def Sys2Proof.Part.PageCommands : Prop := ∀ (s : State) (v n p : Nat),
  let status := fun (u : State) (op st : Nat) => (u.vd v).bmcmd = BitVec.ofNat 64 (op * 2 ^ 60 + n % 4096 * 2 ^ 48 + p % 2 ^ 32 * 2 ^ 16 + st)
  (∀ x w, ctxOf s v n = some x → backPage s v x p false = .done w → Happens (.back v n p) s fun u => status u 1 0 ∧
    (∃ g, u.page p = some g ∧ g.ctx = x ∧ g.fixed = false) ∧ MemoryKept s u (fun a => pageOf a = p) ∧ ∀ a, pageOf a = p → u.readMem a 1 = [0]) ∧
  (∀ x w, ctxOf s v n = some x → backPage s v x p true = .done w → Happens (.backFixedSize v n p) s fun u => status u 2 0 ∧
    (∃ g, u.page p = some g ∧ g.ctx = x ∧ g.fixed = true) ∧ MemoryKept s u (fun a => pageOf a = p) ∧ ∀ a, pageOf a = p → u.readMem a 1 = [0]) ∧
  ((s.page p).isSome = true → (Happens (.back v n p) s fun u => status u 1 2 ∧ u.mem = s.mem ∧ u.pages = s.pages) ∧
    Happens (.backFixedSize v n p) s fun u => status u 2 2 ∧ u.mem = s.mem ∧ u.pages = s.pages) ∧
  (s.page p = none → (Happens (.unback v n p) s fun u => status u 3 2 ∧ u.mem = s.mem ∧ u.pages = s.pages) ∧
    Happens (.reassign v n p) s fun u => status u 4 2 ∧ u.mem = s.mem ∧ u.pages = s.pages) ∧
  (∀ g w, s.page p = some g → inWindow s v p = true → (ctxOf s v n).isSome = true → pageEnds s p = .ready w → Happens (.unback v n p) s fun u =>
    status u 3 0 ∧ u.page p = none ∧ MemoryKept s u (fun a => pageOf a = p) ∧ ∀ a, pageOf a = p → u.readMem a 1 = [0]) ∧
  (∀ g x c, s.page p = some g → ctxOf s v n = some x → s.ctx x = some c → inWindow s v p = true → (g.ctx = x ∨ capAllows c = true) →
    (g.key = c.key → Happens (.reassign v n p) s fun u => status u 4 0 ∧ (∃ g', u.page p = some g' ∧ g'.ctx = x ∧ g'.key = c.key) ∧ u.mem = s.mem) ∧
    (∀ w, g.key ≠ c.key → pageEnds s p = .ready w → Happens (.reassign v n p) s fun u => status u 4 0 ∧ (∃ g', u.page p = some g' ∧ g'.ctx = x ∧ g'.key = c.key) ∧
      MemoryKept s u (fun a => pageOf a = p) ∧ ∀ a, pageOf a = p → u.readMem a 1 = [0])) ∧
  (∀ g w, s.page p = some g → inWindow s v p = true → (ctxOf s v n).isSome = true → pageEnds s p = .waits w → setBm w v 3 n p 1 ≠ s →
    Happens (.unback v n p) s fun u => status u 3 1 ∧ u.mem = w.mem ∧ u.pages = w.pages)

/-- The Thinning mailbox's word is taken at a doorbell; one that asks for nothing, PEND with LEFT = 0, is met there, PEND cleared and the driver
notified with SEQ; compaction moves a run and changes STACK and SECT alone; the scrubber counts what it corrects and poisons what it cannot, for
a billet without a run the whole page, which is the model's reading (log 47) (R42, R56, R62, R63, R84). -/
def Sys2Proof.Part.Upkeep : Prop := ∀ (s w : State) (b f : Nat),
  (∀ c d bs, s.ctx b = some c → s.posted b = true → readAt s c.ccb 8 = .ok bs w → w.ctx b = some d → let m := mailbox (BitVec.ofNat 64 (leNat bs))
    ((bit m 47 = false ∨ fld m 35 0 ≠ 0) → Happens (.thinningDoorbell b) s fun u => u.mem = w.mem ∧ u.posts = w.posts ∧ ∃ cu, u.ctx b = some cu ∧ cu.balloon = m) ∧
    (bit m 47 = true → fld m 35 0 = 0 → Happens (.thinningDoorbell b) s fun u => u.mem = w.mem ∧
      (∃ cu, u.ctx b = some cu ∧ bit cu.balloon 47 = false ∧ fld cu.balloon 63 48 = fld m 63 48) ∧
      ∃ x r, u.posts = w.posts ++ [.bytes b d.ccb x, .health b r] ∧ bit (BitVec.ofNat 64 (leNat x)) 47 = false ∧ r.take 1 = [4] ∧ leNat ((r.drop 8).take 2) = fld m 63 48)) ∧
  (∀ o, s.errors = [] → let d := s.billet b
    d.opened = false → d.closing = false → d.loc = 0 → 1 ≤ d.nsec → d.nsec ≤ 8 → 2 ≤ d.cls → d.poison = false → f < Config.numStacks * Config.framesPerStack →
    runFits ((mapGet? s.frames f).getD 0) d.nsec = some o → Happens (.compaction b f) s fun u => u.mem = s.mem ∧
      u.billet b = { d with stack := f / Config.framesPerStack, sect := BitVec.ofNat 32 (f % Config.framesPerStack * 8 + o) } ∧ ∀ x, x ≠ b → u.billet x = s.billet x) ∧
  ((s.page (pageOfBillet b)).isSome = true → s.errors = [] → (exec (.patrolScrub b .clean) s = .next s) ∧
    (Happens (.patrolScrub b .correctable) s fun u => u.mem = s.mem ∧ u.regs.corrections = s.regs.corrections + 1) ∧
    ((s.billet b).held ≠ 0 → Happens (.patrolScrub b .uncorrectable) s fun u => u.mem = s.mem ∧ (u.billet b).poison = true) ∧
    ((s.billet b).held = 0 → Happens (.patrolScrub b .uncorrectable) s fun u => u.mem = s.mem ∧ ∀ i, i < 256 → (u.billet (pageOfBillet b * 256 + i)).poison = true))

/-- The driver's page commands, the Thinning doorbell, compaction and scrubbing. -/
def Obligations.PageUpkeep : Prop := Part.PageCommands ∧ Part.Upkeep

/-- What billets read as where L2 does not hold them is the same in two states. -/
def Sys2Proof.StoredAs (s u : State) (P : Nat → Prop) : Prop := ∀ b, P b → storedValue u b = storedValue s b
/-- The place of a billet's run in HBM4. -/
def Sys2Proof.placeOf (s : State) (b : Nat) : Nat := runPlace (s.billet b).stack (s.billet b).sect.toNat

/-- Decoding gives back what was encoded: a page's image (R85, R86) and a billet's run (R34, R35). -/
def Sys2Proof.Part.Images : Prop :=
  (∀ ws : List (List Word), ws.length = 256 → (∀ x ∈ ws, x.length = 64) → tierDecode (tierImage ws) = some ws ∧ (tierImage ws).length % 4096 = 0) ∧
  ∀ ws : List Word, ws.length = 64 → 2 ≤ (encodeClass ws).1 →
    decodeRun (encodeClass ws).1 (encodeClass ws).2 (runBytes (encodeClass ws).1 (encodeClass ws).2 ws) = some (ws.flatMap wordBytes)

/-- Chipper: a cold page or one the driver names starts a demotion, a hot one does not; its image is copied into tier blocks; the freeze holds the
page's requests, commits with every descriptor at the tier's block, begins another pass, or gives up where the page is poisoned; a promotion
writes runs and then gives the page back its place; at most eight migrations run at once. The bytes at the homes stay throughout, and so does
the stored form that chunks outside L2 are read from: the runs and entries of the memory-side cache of every billet before the commit, the image
in the tier, which is the copy of the billets' words, after it, and after a promotion the runs written from that image (R85 to R91, R303, R419).
What makes a page cold is the reading of log 80, the two homes of a byte that of log 66, the page in migration that of log 64, and the numbers of
tier blocks that of log 67; that a fixed-size page is never demoted, and what counts as a translation of another key slot, are the model's (logs 15
and 79), and so is which errors abandon a demotion (log 109). -/
def Sys2Proof.Part.Migrates : Prop := ∀ (s w : State) (p : Nat),
  let flushed := fun (u : State) => s.errors = [] → StoredAs s u fun b => (mapGet? s.msc b).isSome = true ∨
    ∀ q x, (q, x) ∈ s.msc → pageOfBillet q = p → x.dirty = true → placeOf s q ≠ placeOf s b
  let calm := s.billets.any (fun (b, d) => pageOfBillet b == p && d.opened) = false
  let cmd := fun (u : State) (op st : Nat) => u.regs.chcmd = BitVec.ofNat 64 (op * 2 ^ 62 + p % 2 ^ 32 * 2 ^ 16 + st)
  (∀ g, s.page p = some g → chEn s = true → isCold s g = true → mayDemote s p = true → calm → Happens (.chipperSelect p) s fun u =>
    u.mem = s.mem ∧ flushed u ∧ u.migrations = s.migrations ++ [{ page := p, up := false }]) ∧
  (mayDemote s p = true → calm → Happens (.chipperDemote p) s fun u => cmd u 1 1 ∧ u.mem = s.mem ∧ flushed u ∧ u.migrations = s.migrations ++ [{ page := p, up := false }]) ∧
  (mayDemote s p = false → Happens (.chipperDemote p) s fun u => cmd u 1 2 ∧ u.mem = s.mem ∧ u.migrations = s.migrations) ∧
  (∀ g, s.page p = some g → (s.ns < g.hotUntil ∨ g.fixed = true ∨ 8 ≤ s.migrations.length) → Happens (.chipperDemote p) s fun u => cmd u 1 2 ∧ u.mem = s.mem ∧ u.migrations = s.migrations) ∧
  (inTier s p = true → (∀ m ∈ s.migrations, m.page ≠ p) → s.migrations.length < 8 → promotionNeed s p ≤ s.poolOf (s.vdOfPage p) → Happens (.chipperPromote p) s fun u =>
    cmd u 2 1 ∧ u.mem = s.mem ∧ StoredAs s u (fun _ => True) ∧ u.migrations = s.migrations ++ [{ page := p, up := true }]) ∧
  ((inTier s p = false ∨ 8 ≤ s.migrations.length) → Happens (.chipperPromote p) s fun u => cmd u 2 2 ∧ u.mem = s.mem ∧ u.migrations = s.migrations) ∧
  (∀ m, findMig s p false = some m → chRetry s < m.retries → Happens (.demotionAbandon p) s fun u => u.mem = s.mem ∧ StoredAs s u (fun _ => True) ∧ findMig u p false = none ∧ inTier u p = false) ∧
  (∀ m b v ws, findMig s p false = some m → m.stage = 0 → calm →
    pageRead (flushMsc s p) p = (false, v) →
    pageWords v p = some ws → tierRun v ((tierImage ws).length / 4096) = some b → (v.page p).isSome = true → findMig v p false = some m → Happens (.demotionCopy p) s fun u => u.mem = s.mem ∧ StoredAs v u (fun _ => True) ∧
    u.tierRead p b ((tierImage ws).length / 4096) = tierImage ws ∧ (∃ g, u.page p = some g ∧ g.tierBlock = b ∧ g.tierLen = (tierImage ws).length / 4096) ∧ ∃ m', findMig u p false = some m' ∧ m'.stage = 1 ∧ m'.dirty = false) ∧
  (∀ m, findMig s p false = some m → m.stage = 1 → pagePoisoned s p = true → Happens (.freeze p) s fun u => u.mem = s.mem ∧ StoredAs s u (fun _ => True) ∧
    findMig u p false = none ∧ inTier u p = false) ∧
  (∀ m, findMig s p false = some m → m.stage = 1 → pagePoisoned s p = false → pageCalm s p = false → m.frozen = false → Happens (.freeze p) s fun u =>
    u.mem = s.mem ∧ StoredAs s u (fun _ => True) ∧ ∃ m', findMig u p false = some m' ∧ m'.frozen = true) ∧
  (∀ m g, findMig s p false = some m → m.stage = 1 → pagePoisoned s p = false → pageCalm s p = true → m.dirty = false → heldStores s p = false → calm → s.page p = some g →
    Happens (.freeze p) s fun u => u.mem = s.mem ∧ StoredAs s u (fun b => pageOfBillet b ≠ p) ∧ tierValue u p = tierValue s p ∧ findMig u p false = none ∧ mapGet? u.tier p = some g.tierBlock ∧
      ∀ i, i < 256 → (u.billet (p * 256 + i)).loc = 1 ∧ (u.billet (p * 256 + i)).sect = tierSect g.tierBlock) ∧
  (∀ m, findMig s p false = some m → m.stage = 1 → pagePoisoned s p = false → pageCalm s p = true → m.dirty = true → m.retries < chRetry s → Happens (.freeze p) s fun u =>
    u.mem = s.mem ∧ StoredAs s u (fun _ => True) ∧
    ∃ m', findMig u p false = some m' ∧ m'.stage = 0 ∧ m'.retries = m.retries + 1) ∧
  (∀ m ws rs, findMig s p true = some m → m.stage = 0 → inTier s p = true → promotionNeed s p ≤ s.poolOf (s.vdOfPage p) → s.errors = [] → tierValue s p = some ws →
    writeRuns (s.poolTake (s.vdOfPage p) (promotionNeed s p)) p (some ws) = some (rs, w) → findMig w p true = some m → Happens (.promotion p) s fun u => u.mem = s.mem ∧
      let at' := fun i => runPlace (rs.getD i (0, 0)).1 (rs.getD i (0, 0)).2
      let used := fun i => i < 256 ∧ (s.billet (p * 256 + i)).count ≠ 0
      tierValue u p = tierValue s p ∧ StoredAs s u (fun b => (mapGet? s.msc b).isSome = true ∨ ∀ i, used i → at' i ≠ placeOf s b) ∧
      (∀ i, used i → (∀ j, used j → j ≠ i → at' j ≠ at' i) → let d := s.billet (p * 256 + i)
        mapGet? u.hbm (at' i) = some (s.sealRun (p * 256 + i) (runBytes d.cls d.nsec (ws.getD i [])))) ∧
      ∃ m', findMig u p true = some m' ∧ m'.stage = 1 ∧ m'.runs = rs) ∧
  (∀ m, findMig s p true = some m → m.stage = 1 → pageCalm s p = true → Happens (.promotionCommit p) s fun u => u.mem = s.mem ∧ inTier u p = false ∧
    StoredAs s u (fun b => pageOfBillet b ≠ p) ∧ findMig u p true = none ∧ ∀ i, i < 256 → let b := p * 256 + i
      (u.billet b).loc = 0 ∧ (u.billet b).stack = (m.runs.getD i (0, 0)).1 ∧
      (∀ ws, tierValue s p = some ws → (s.billet b).cls = 1 → (u.billet b).sect = (ws.getD i []).headD 0) ∧
      (2 ≤ (s.billet b).cls → (m.runs.getD i (0, 0)).2 < 2 ^ 32 → mapGet? s.msc b = none →
        storedValue u b = runValue s b (mapGet? s.hbm (runPlace (m.runs.getD i (0, 0)).1 (m.runs.getD i (0, 0)).2))))

/-- Demotion and promotion, and the stored forms they write. -/
def Obligations.Migration : Prop := Part.Images ∧ Part.Migrates

/-! ## The fabric -/

/-- Ports: a flit in sequence is taken and its number counted, one with a bad CRC, a replayed one too, answered with a negative acknowledgement; a replay sends the
buffer again from the number named and counts it; recovery keeps the width the good lanes give, and ends up or down (R421 to R424). A
pseudo-channel goes to half width for heat or a lane fault, and back where heat alone sent it there (R83). -/
def Obligations.Ports : Prop := ∀ (s : State) (p : Nat), let x := s.port p
  (∀ f, x.state = 2 → f.crcOk = true → f.nak = false → f.seq = x.rxSeq → Happens (.flitReceive p f) s fun u => (u.port p).rxSeq = x.rxSeq + 1 ∧ (u.port p).nakSent = false) ∧
  (∀ f, x.state = 2 → f.crcOk = false → Happens (.flitReceive p f) s fun u => u.mem = s.mem ∧ (u.port p).nakSent = true ∧
    (u.port p).rxSeq = x.rxSeq ∧ ∃ y, (u.port p).out = x.out ++ [y] ∧ y.nak = true ∧ y.ack = x.rxSeq) ∧
  (∀ q, x.state = 2 → (x.replayBuf.dropWhile fun f => f.seq.toNat != q % 4096) ≠ [] → Happens (.nakReplay p q) s fun u => u.mem = s.mem ∧ (u.port p).nakFrom = none ∧
    (u.port p).out = x.out ++ x.replayBuf.dropWhile (fun f => f.seq.toNat != q % 4096) ∧ (u.port p).retry = min 65535 (x.retry + 1)) ∧
  (∀ spare, x.state = 2 → x.spared = false → Happens (.portRecovery p 4 spare) s fun u => u.mem = s.mem ∧ (u.port p).state = 3 ∧ (u.port p).width = x.width ∧
    (u.port p).recoverySince = some s.ns) ∧
  (x.state = 2 → x.spared = false → x.width ≠ 1 → Happens (.portRecovery p 3 true) s fun u => u.mem = s.mem ∧ (u.port p).state = 3 ∧ (u.port p).width = 2 ∧ (u.port p).spared = true) ∧
  (x.state = 2 → x.spared = false → Happens (.portRecovery p 2 false) s fun u => u.mem = s.mem ∧ (u.port p).state = 3 ∧ (u.port p).width = 1 ∧ (u.port p).spared = false) ∧
  (x.state = 2 → x.spared = false → Happens (.portRecovery p 0 false) s fun u => u.mem = s.mem ∧ (u.port p).state = 0 ∧ (u.port p).width = 0 ∧ (u.port p).spared = false) ∧
  (∀ t, x.state = 3 → x.recoverySince = some t → s.ns < t + linkTimeout → Happens (.recoveryEnd p) s fun u => u.mem = s.mem ∧ (u.port p).state = 2 ∧
    (u.port p).out = x.out ++ x.replayBuf ∧ (u.port p).recoverySince = none) ∧
  (∀ t, x.state = 3 → x.recoverySince = some t → t + linkTimeout ≤ s.ns → Happens (.recoveryTimeout p) s fun u => u.mem = s.mem ∧ (u.port p).state = 0 ∧ (u.port p).width = 0) ∧
  (∀ fault, (fault = true ∨ tooHot s p = true) → mapGet? s.halfWidth p = none → Happens (.halfWidthEntry p fault) s fun u => u.mem = s.mem ∧ mapGet? u.halfWidth p = some fault) ∧
  (mapGet? s.halfWidth p = some false → Happens (.fullWidthReturn p) s fun u => u.mem = s.mem ∧ mapGet? u.halfWidth p = none)

/-- Grants of pages between devices: a load shares the page, a store makes it exclusive once nobody else holds it and its billets are admitted;
this device asks a page back, gives a peer's page back with the lines that are dirty, takes what comes back, dirty lines and poisoned ones among
it, discards an answer to a change that is over, and poisons a page that does not come back; a page without a record is answered as bare, which is the model's message (log 48), and a request with no
route is answered with poison (R142 to R148, R423). -/
def Obligations.PeerPages : Prop := ∀ (s w : State) (d l : Nat), let p := pageOfLine l
  (∀ r bs, (s.page p).isSome = true → (∀ m, (d, m) ∉ s.peerReqs) → recFor s p = some r → r.pend = [] → s.posted 4096 = true → s.l2Room l = true → r.pstate ≠ 2 → readLine s (l * 128) 128 = .ok bs w →
    Happens (.peerLoad d l) s fun u => u.mem = w.mem ∧ (∃ q, u.fabricOut = q ++ [(d, .lineData l bs)]) ∧
      ((r.coarse = true ∨ d ∉ r.devs) → ∃ r', mapGet? u.prt p = some r' ∧ r'.pstate = 1)) ∧
  ((s.page p).isSome = true → (∀ m, (d, m) ∉ s.peerReqs) → recFor s p = none → Happens (.peerLoad d l) s fun u => u.mem = s.mem ∧ u.fabricOut = s.fabricOut ++ [(d, .bare p)]) ∧
  (s.page p = none → exec (.peerLoad d l) s = .fault (.unbackedAccess (l * 128))) ∧
  (∀ r c, (s.page p).isSome = true → (∀ m, (d, m) ∉ s.peerReqs) → recFor s p = some r → r.pend = [] → s.posted 4096 = true → ¬(r.pstate = 2 ∧ r.xdev = d) → (∀ x ∈ holdersOf s r, x = d) →
    pageAtRest s p = true → inTier s p = false → s.ctx (s.ownerOf (p * 65536)) = some c → pageDebit s p ≤ c.reserve →
    Happens (.peerStore d p) s fun u => (d, .pageGrant p 2) ∈ u.fabricOut ∧ ∃ r', mapGet? u.prt p = some r' ∧ r'.pstate = 2 ∧ r'.xdev = d) ∧
  (∀ r c, (s.page p).isSome = true → (∀ m, (d, m) ∉ s.peerReqs) → recFor s p = some r → r.pend = [] → s.posted 4096 = true → ¬(r.pstate = 2 ∧ r.xdev = d) → (∀ x ∈ holdersOf s r, x = d) →
    pageAtRest s p = true → inTier s p = false → s.ctx (s.ownerOf (p * 65536)) = some c → c.reserve < pageDebit s p →
    Happens (.peerStore d p) s fun u => u.mem = s.mem ∧ u.fabricOut = s.fabricOut ++ [(d, .pageRefuse p false c.reserve)]) ∧
  (∀ r, mapGet? s.prt p = some r → (∃ x ∈ s.peerAsks, pageOfLine x.1 = p ∧ x.2 = true) → r.pend = [] → s.posted 4096 = true → Happens (.localPageAccess p true) s fun u => u.mem = s.mem ∧
    (∀ x ∈ holdersOf s r, (x, .revoke p false s.nextId) ∈ u.fabricOut) ∧ ∃ r', mapGet? u.prt p = some r' ∧ r'.pend = holdersOf s r ∧ r'.change = s.nextId) ∧
  ((∀ x y, (x, y) ∈ s.lines → pageOfLine x = peerPage d p → s.calm x = true) → (∀ m, (d, m) ∉ s.peerReqs) →
    let ls := (s.lines.filter fun (x, _) => pageOfLine x == peerPage d p).map Prod.fst
    let v := ls.foldl l2Error (ls.foldl (fun (v : State) x => invalidateNow (recallNow v x (BitVec.allOnes 32) true) x none) s)
    Happens (.revocation d p) s fun u => u.mem = v.mem ∧ mapGet? u.proxy (peerPage d p) = none ∧ (∀ x ∈ ls, (u.line x).present = false ∧ (u.line x).dirty = false) ∧
      u.fabricOut = v.fabricOut ++ [(d, .revoked p (ls.filterMap fun x =>
        if (v.line x).dirty then some (x % 2 ^ 47, if (v.line x).psn then [] else v.readMem (x * 128) 128) else none) 0)]) ∧
  (∀ r dirty, mapGet? s.prt p = some r → s.posted 4096 = true → d ∈ r.pend → (∀ m, (d, m) ∉ s.peerReqs) → (dirty.map Prod.fst).Nodup →
    (∀ x ∈ dirty, pageOfLine x.1 = p ∧ (x.2 = [] ∨ x.2.length = 128) ∧ s.l2Room x.1 = true) → Happens (.revocationAck d (p, r.change) dirty) s fun u =>
      MemoryKept s u (fun a => lineOf a ∈ dirty.map Prod.fst) ∧ (∀ x ∈ dirty, x.2 ≠ [] → u.readMem (x.1 * 128) 128 = x.2) ∧
      (∀ x ∈ dirty, x.2 = [] → u.isPoisoned x.1 = true) ∧
      (r.demote = false → r.coarse = false → (∀ x ∈ r.devs, x = d) → mapGet? u.prt p = none) ∧
      (r.demote = false → r.coarse = false → (∃ x ∈ r.devs, x ≠ d) → ∃ r', mapGet? u.prt p = some r' ∧ r'.devs = r.devs.filter (· != d) ∧ r'.pend = r.pend.filter (· != d)) ∧
      (r.demote = true → ∃ r', mapGet? u.prt p = some r' ∧ r'.pstate = 1 ∧ r'.devs = [d])) ∧
  (∀ r dirty n, mapGet? s.prt p = some r → (d ∉ r.pend ∨ r.change ≠ n) → (∀ m, (d, m) ∉ s.peerReqs) → exec (.revocationAck d (p, n) dirty) s = .next s) ∧
  (∀ r, mapGet? s.prt p = some r → s.posted 4096 = true → r.pend ≠ [] → r.since + linkTimeout ≤ s.ns → Happens (.revocationTimeout p) s fun u => u.mem = s.mem ∧ mapGet? u.prt p = none ∧
    ∀ i, i < 256 → (u.billet (p * 256 + i)).poison = true) ∧
  (∀ tk iss t i y r, laneOf s tk iss d = some (t, i, y) → isPeer y.ea = true → y.tgt ≠ 1 → routeLost s (peerDev y.ea) = true →
    (s.line (lineOf y.ea)).queue.find? (fun r => r.team == tk && r.iss == iss && r.lane == d) = some r →
    (y.kind = .load → Happens (.requestGiveUp tk iss d) s fun u => u.mem = s.mem ∧ Replies u t.core y.ea (.poison tk iss d 0)) ∧
    (y.kind = .store → Happens (.requestGiveUp tk iss d) s fun u => u.mem = s.mem ∧ Replies u t.core y.ea (.ack r.sb [] false)))

/-! ## The host and the Slovi complex -/

/-- Host accesses: where nothing waits at their lines, an aperture read gives the bytes at the homes, a write within a line is the home's write,
an AtomicOp gives the old value and writes the new; where something does, the access takes its place behind it at each line; a page that is not
backed is not there (R370, R411, R438). -/
def Obligations.HostAccesses : Prop := ∀ (s w : State) (a : Nat),
  let clear := fun (n : Nat) => ∀ l ∈ hostSpan a n, (s.line l).queue = []
  let behind := fun (i : Instr) (n : Nat) => (∃ l ∈ hostSpan a n, hostTurn s l = false) → (∃ l ∈ hostSpan a n, hostPlaced s l = false) →
    Happens i s fun u => u.mem = s.mem ∧ u.teams = s.teams ∧ u.agenda = i :: s.agenda ∧ ∀ l ∈ hostSpan a n, hostPlaced s l = false →
      ∃ r : HomeReq, r.isHost = true ∧ (u.line l).queue = (s.line l).queue ++ [r]
  (∀ n, n ≠ 0 → rangeBacked s a n = true → behind (.hostApertureRead a n) n) ∧
  (∀ bs, bs ≠ [] → rangeBacked s a bs.length = true → behind (.hostApertureWrite a bs) bs.length) ∧
  (∀ n bs, n ≠ 0 → rangeBacked s a n = true → clear n → readAt s a n = .ok bs w → Happens (.hostApertureRead a n) s fun u => u.hostBytes = bs ∧ u.mem = w.mem ∧ u.teams = w.teams) ∧
  (∀ n, n ≠ 0 → rangeBacked s a n = false → exec (.hostApertureRead a n) s = .fault (.unbackedAccess a)) ∧
  (∀ bs, bs ≠ [] → rangeBacked s a bs.length = true → clear bs.length → a % 128 + bs.length ≤ 128 → writeLine s (s.ownerOf a) a bs = .ok () w → exec (.hostApertureWrite a bs) s = .next w) ∧
  (∀ bs, bs ≠ [] → rangeBacked s a bs.length = false → exec (.hostApertureWrite a bs) s = .fault (.unbackedAccess a)) ∧
  (∀ (wide : Bool) (x y : BitVec 64) (old : List Byte), let n := if wide then 8 else 4
    let m := 2 ^ (8 * n)
    let done := fun (op : HostOp) (new : Nat) => Happens (.hostAtomicop op a wide x y) s fun u => u.mem = w.mem ∧ u.readMem a n = leBytes n new ∧
      u.hostBytes = old ∧ u.hostRd = BitVec.ofNat 64 (leNat old)
    rangeBacked s a n = true → isPeer a = false → a % n = 0 → clear n →
    (rmwLine s (s.ownerOf a) a n (fun old => leBytes n ((leNat old + x.toNat) % m)) = .ok old w → done .fetchAdd ((leNat old + x.toNat) % m)) ∧
    (rmwLine s (s.ownerOf a) a n (fun _ => leBytes n (x.toNat % m)) = .ok old w → done .swap (x.toNat % m)) ∧
    (rmwLine s (s.ownerOf a) a n (fun old => leBytes n (if leNat old = x.toNat % m then y.toNat % m else leNat old)) = .ok old w →
      done .cas (if leNat old = x.toNat % m then y.toNat % m else leNat old)))

/-- Registers the host reads and writes: the lost-record count and a port's retry count clear as they are read, a dirty-page word is read and
cleared but for pages still written, the power caps keep their defined bits, and a write of an argument register stores it (R5, R414,
R417, R424, R426, R427, R435, R436). That a stop first places again the teams that were killed is the model's choice (log 106). -/
def Obligations.HostRegisters : Prop := ∀ (s : State) (v p : Nat) (x : BitVec 64) (y : BitVec 32),
  (Happens .hrlostRead s fun u => u.hostRd = s.regs.hrlost ∧ u.regs.hrlost = 0 ∧ u.mem = s.mem ∧ u.teams = s.teams) ∧
  (Happens (.bpstatRead p) s fun u => u.hostRd = BitVec.ofNat 64 (bpstat (s.port p)) ∧ (u.port p).retry = 0 ∧ u.mem = s.mem ∧ u.teams = s.teams) ∧
  (Happens (.pcaplWrite y) s fun u => u.regs.pcapl = y &&& 0x80000FFF ∧ u.mem = s.mem ∧ u.teams = s.teams) ∧
  (Happens (.pcaprWrite y) s fun u => u.regs.pcapr = y &&& 0x80000FFF ∧ u.mem = s.mem ∧ u.teams = s.teams) ∧
  (Happens (.registerWrite v 0x08 x) s fun u => (u.vd v).ctxarg0 = x ∧ u.mem = s.mem ∧ u.teams = s.teams) ∧
  (Happens (.registerWrite v 0x10 x) s fun u => (u.vd v).ctxarg1 = x ∧ u.mem = s.mem ∧ u.teams = s.teams) ∧
  (Happens (.registerWrite 0 0x200 x) s fun u => u.regs.chctl = x.truncate 32 &&& 0x8700FFFF ∧ u.mem = s.mem ∧ u.teams = s.teams) ∧
  (v ≠ 0 → exec (.registerWrite v 0x200 x) s = .next s) ∧
  (∀ on, Happens (.lmTrack v on) s fun u => bit (u.vd v).lmctl 0 = on ∧ u.mem = s.mem ∧ u.teams = s.teams) ∧
  (Happens (.lmStop v) s fun u => bit (u.vd v).lmctl 1 = true ∧ bit (u.vd v).lmctl 2 = false ∧ u.mem = s.mem ∧
    ∀ k t c, s.team k = some t → s.ctx t.ctx = some c → c.vd = v → t.kept = false → ∃ tm, u.team k = some tm ∧ tm.asked = true ∧ tm.mayKeep = false) ∧
  (stopAsked s v = true → bit (s.vd v).lmctl 2 = false → (∀ k t, (k, t) ∈ s.teams → (s.ctx t.ctx).map Ctx.vd ≠ some v) →
    (∀ b d, (b, d) ∈ s.billets → d.opened = true → inWindow s v (pageOfBillet b) = false) → (∀ x c, (x, c) ∈ s.ctxs → c.vd = v → s.posted x = true) →
    (∀ y ∈ placers s v, placeable s y.1 y.2 = false) → ∀ w, writeTables s v = .ok () w → Happens (.lmStopComplete v) s fun u => bit (u.vd v).lmctl 2 = true ∧ u.mem = w.mem ∧ u.teams = w.teams) ∧
  (Happens (.lmStopRelease v) s fun u => bit (u.vd v).lmctl 1 = false ∧ bit (u.vd v).lmctl 2 = false ∧ u.mem = s.mem ∧ u.teams = s.teams) ∧
  (Happens (.dirtyWordRead v p) s fun u => u.hostRd = (mapGet? (s.vd v).dirty p).getD 0 ∧ u.mem = s.mem ∧ u.teams = s.teams ∧
    ∀ i, i < 64 → bit ((mapGet? (u.vd v).dirty p).getD 0) i = (decide (64 * p + i < (s.vd v).count) && pageHot s ((s.vd v).base + 64 * p + i)))

/-- Pages leave and enter under the agreed migration key: an export recalls the page's owned words and gives its image encrypted; an import backs
the page or ends what it held, and rebuilds its billets, or poisons them where the image fails its check; key slots are filled from the
random source and emptied (R29, R428). What hostRd then shows, and that a page with poison has no image, are the model's choices (logs 51 and 16). -/
def Obligations.PageImages : Prop := ∀ (s : State) (v n p : Nat) (key : BitVec 256), s.slovi.migKey = some key →
  (∀ bad w, let ls := (s.lines.filter fun (l, _) => pageOfLine l == p).map Prod.fst
    (s.page p).isSome = true → inWindow s v p = true → (∀ l ∈ ls, s.calm l = true) →
    pageRead (ls.foldl (fun s l => recallNow s l (BitVec.allOnes 32) false) s) p = (bad, w) →
    (∀ ws, bad = false → pagePoisoned w p = false → (if inTier w p then tierValue w p else pageWords w p) = some ws → Happens (.pageExport v p) s fun u =>
      u.mem = w.mem ∧ u.hostBytes = crypt Config.xtsEncrypt key ((p - (w.vd v).base) * 32) (tierImage ws)) ∧
    ((bad = true ∨ pagePoisoned w p = true) → Happens (.pageExport v p) s fun u => u.mem = w.mem ∧ u.hostBytes = [])) ∧
  (∀ w fixed img, importPage s v n p = .ready w fixed → match tierDecode (crypt Config.xtsDecrypt key ((p - (w.vd v).base) * 32) img) with
    | some ws => ∀ z fz, (List.range 256).foldl (fun (acc : Importing) i => acc.bind fun s f => importBillet s v (p * 256 + i) f (ws.getD i [])) (.ready w fixed) = .ready z fz →
      Happens (.pageImport v n p img) s fun u => u.hostRd = 0 ∧ u.mem = z.mem ∧ u.pages = z.pages
    | none => Happens (.pageImport v n p img) s fun u => u.hostRd = 0 ∧ ∀ i, i < 256 → (u.billet (p * 256 + i)).poison = true) ∧
  (∀ w img, importPage s v n p = .waits w → w ≠ s → Happens (.pageImport v n p img) s fun u => u.hostRd = 1 ∧ u.mem = w.mem ∧ u.pages = w.pages) ∧
  (∀ img, importPage s v n p = .rejected → Happens (.pageImport v n p img) s fun u => u.hostRd = 2 ∧ u.mem = s.mem ∧ u.pages = s.pages) ∧
  (mapGet? s.slovi.keys n = none → Happens (.keySlotFill n) s fun u => mapGet? u.slovi.keys n = some (Config.randomDraw s.slovi.draws) ∧
    u.slovi.draws = s.slovi.draws + 1 ∧ u.mem = s.mem) ∧
  (Happens (.keySlotRelease n) s fun u => mapGet? u.slovi.keys n = none ∧ u.mem = s.mem ∧ ∀ q m, findMig u q false = some m → (s.page q).map Page.key ≠ some n)

/-- Power-on, attestation, key agreement and a read of the ageing monitors each answer a next state from every state. The bytes that are measured of
an image's header and of an amendment are laid out as the model presumes (log 17). Boot: a source that fails
step 1 or an image that is not accepted stops boot with the link down; accepted, the images raise the fuse counters and are measured in
order, and the link comes up; whatever happens nothing of the run before is left but what power-on keeps (log 54). Attestation signs the
evidence; a peer is answered with evidence over its nonce, and gets a key only where its own is certified, signed and over this part's nonce; the
ageing monitors leave their values (R430 to R434, R437). -/
def Obligations.Boot : Prop := ∀ (s : State),
  (∀ b, ∃ u, exec (.powerOn b) s = .next u ∧ u.mem = [] ∧ u.teams = [] ∧ u.ctxs = [] ∧ u.pages = [] ∧
    (b.sourceOk = false → u.slovi.failedStep = some 1 ∧ u.slovi.linkUp = false) ∧
    (b.sourceOk = true → b.images.length ≠ 4 → u.slovi.failedStep = some 2 ∧ u.slovi.linkUp = false) ∧
    (∀ i x, b.sourceOk = true → b.images[i]? = some x → imageOk (powerOnState s).slovi b i x = false → u.slovi.failedStep = some 2 ∧ u.slovi.linkUp = false) ∧
    (b.sourceOk = true → b.images.length = 4 → (∀ i x, b.images[i]? = some x → imageOk (powerOnState s).slovi b i x = true) → b.selfTestOk = true →
      u.slovi.linkUp = true ∧ u.slovi.failedStep = none ∧ u.slovi.step = 6 ∧ u.slovi.fuses = b.images.map (fun i => i.version.toNat)) ∧
    (∀ a0 a1 a2 a3, b.sourceOk = true → b.images = [a0, a1, a2, a3] → (∀ i x, b.images[i]? = some x → imageOk (powerOnState s).slovi b i x = true) →
      let next := fun (m : List Byte) (i : Image) (more : List Byte) => sha3 (m ++ sha3 (headerBytes i ++ i.body ++ more))
      u.slovi.measure = next (next (next (next (List.replicate 64 0) a0 []) a1 []) a2 []) a3
        (if s.slovi.baseRecord = a3.body then amendBytes s.slovi.amendments s.slovi.amendSigs else [])) ∧
    (b.sourceOk = true → b.images.length = 4 → (∀ i x, b.images[i]? = some x → imageOk (powerOnState s).slovi b i x = true) → b.selfTestOk = false →
      u.slovi.failedStep = some 4 ∧ u.slovi.linkUp = false)) ∧
  (∀ n, ∃ u, exec (.spdmChallenge n) s = .next u ∧ u.slovi.evidence = evidenceOf s.slovi n ∧ u.slovi.signature = Config.mldsaSign (evidenceOf s.slovi n) ∧
    u.mem = s.mem ∧ u.teams = s.teams) ∧
  (∀ q, ∃ u, exec (.migrationKeyAgreement q) s = .next u ∧ u.mem = s.mem ∧ u.teams = s.teams ∧
    u.slovi.evidence = evidenceOf s.slovi q.nonce ∧ u.slovi.signature = Config.mldsaSign (evidenceOf s.slovi q.nonce) ∧ u.slovi.draws = s.slovi.draws + 1 ∧
    let ok := Config.chainVerify s.slovi.rootKey q.key q.chain && Config.mldsaVerify q.key q.evidence q.signature &&
      q.evidence.take 32 == leBytes 32 (Config.randomDraw s.slovi.draws).toNat && !q.kem.isEmpty
    u.slovi.migKey = (if ok then some (Config.migrationKey (q.key ++ q.kem)) else none) ∧ u.slovi.peerKey = (if ok then q.key else [])) ∧
  (∀ d e w, ∃ u, exec (.ageingRead d e w) s = .next u ∧ u.mem = s.mem ∧ u.teams = s.teams ∧
    (d < s.regs.age.length → u.regs.age.getD d 0 = BitVec.ofNat 32 (min e 65535 * 65536 + w % 256 * 256)) ∧
    u.posts = s.posts ++ (if ageStepOf (min e 65535) < s.regs.ageStep.getD d 4 then [.device (simpleRecord s 13 d)] else []))
end

