-- ==== Sys2Proof/Laws/Cells.lean ====
section
/-! SUPPORT. Reads after writes, and the canonical form, for sparse arrays, maps and lists. -/

namespace Sys2Proof.Machine

/-! ## Sparse arrays -/

@[simp] theorem cellGet_nil {w : Nat} (i : Nat) : cellGet ([] : Cells w) i = 0 := rfl

theorem cellGet_erase {w : Nat} (c : Cells w) (i j : Nat) : cellGet (cellErase c i) j = if j = i then 0 else cellGet c j := by
  induction c with
  | nil => simp [cellErase]
  | cons p rest ih =>
    obtain ⟨k, v⟩ := p
    simp only [cellErase, List.filter_cons] at ih ⊢
    by_cases hk : k = i
    · subst hk; simp only [bne_self_eq_false, Bool.false_eq_true, if_false, ih, cellGet]; split <;> simp_all
    · have : (k != i) = true := by simp [hk]
      simp only [this, if_true, cellGet, ih]; split <;> split <;> simp_all

theorem cellGet_put {w : Nat} (c : Cells w) (i j : Nat) (x : BitVec w) : cellGet (cellPut c i x) j = if j = i then x else cellGet c j := by
  induction c with
  | nil => simp [cellPut, cellGet]
  | cons p rest ih =>
    obtain ⟨k, v⟩ := p
    simp only [cellPut]; split
    · subst_vars; simp only [cellGet]; split <;> simp_all
    · split
      · simp only [cellGet]
      · simp only [cellGet, ih]; split <;> split <;> simp_all

/-- A read after a write. -/
theorem cellGet_set {w : Nat} (c : Cells w) (i j : Nat) (x : BitVec w) : cellGet (cellSet c i x) j = if j = i then x else cellGet c j := by
  unfold cellSet; split
  · subst_vars; rw [cellGet_erase]
  · exact cellGet_put c i j x

/-- A read after a write of several. -/
theorem cellGet_sets {w : Nat} (xs : List (BitVec w)) (c : Cells w) (n j : Nat) :
    cellGet (cellsSet c n xs) j = if n ≤ j ∧ j < n + xs.length then xs.getD (j - n) 0 else cellGet c j := by
  induction xs generalizing c n with
  | nil => simp [cellsSet]
  | cons x xs ih =>
    rw [cellsSet, ih, cellGet_set]
    simp only [List.length_cons]
    by_cases h1 : j = n
    · subst h1; simp
    · by_cases h2 : n + 1 ≤ j ∧ j < n + 1 + xs.length
      · rw [if_pos h2, if_pos (by omega)]
        obtain ⟨m, rfl⟩ : ∃ m, j = n + 1 + m := ⟨j - (n + 1), by omega⟩
        simp [show n + 1 + m - n = m + 1 by omega]
      · rw [if_neg h2, if_neg h1, if_neg (by omega)]

theorem cellsWfFrom_mono {w : Nat} {c : Cells w} {a b : Nat} (h : cellsWfFrom b c = true) (hab : a ≤ b) : cellsWfFrom a c = true := by
  cases c with
  | nil => rfl
  | cons p rest => simp [cellsWfFrom] at h ⊢; exact ⟨⟨by omega, h.1.2⟩, h.2⟩

theorem cellErase_wf {w : Nat} {c : Cells w} {lo : Nat} (i : Nat) (h : cellsWfFrom lo c = true) : cellsWfFrom lo (cellErase c i) = true := by
  induction c generalizing lo with
  | nil => rfl
  | cons p rest ih =>
    obtain ⟨k, v⟩ := p
    simp only [cellsWfFrom, Bool.and_eq_true, decide_eq_true_eq] at h
    simp only [cellErase, List.filter_cons] at ih ⊢
    split
    · simp only [cellsWfFrom, Bool.and_eq_true, decide_eq_true_eq]; exact ⟨h.1, ih h.2⟩
    · exact cellsWfFrom_mono (ih h.2) (by omega)

theorem cellPut_wf {w : Nat} {c : Cells w} {lo i : Nat} {x : BitVec w} (h : cellsWfFrom lo c = true) (hi : lo ≤ i) (hx : x ≠ 0) :
    cellsWfFrom lo (cellPut c i x) = true := by
  induction c generalizing lo with
  | nil => simp [cellPut, cellsWfFrom, hi]; exact hx
  | cons p rest ih =>
    obtain ⟨k, v⟩ := p
    simp only [cellsWfFrom, Bool.and_eq_true, decide_eq_true_eq] at h
    simp only [cellPut]; split
    · subst_vars; simp only [cellsWfFrom, Bool.and_eq_true, decide_eq_true_eq]; exact ⟨⟨hi, hx⟩, h.2⟩
    · split
      · simp only [cellsWfFrom, Bool.and_eq_true, decide_eq_true_eq]; exact ⟨⟨hi, hx⟩, ⟨by omega, h.1.2⟩, h.2⟩
      · simp only [cellsWfFrom, Bool.and_eq_true, decide_eq_true_eq]; exact ⟨h.1, ih h.2 (by omega)⟩

/-- Writes keep the canonical form. -/
theorem cellSet_wf {w : Nat} {c : Cells w} (i : Nat) (x : BitVec w) (h : cellsWf c = true) : cellsWf (cellSet c i x) = true := by
  unfold cellSet cellsWf; split
  · exact cellErase_wf i h
  · exact cellPut_wf h (Nat.zero_le i) ‹_›

theorem cellsSet_wf {w : Nat} (xs : List (BitVec w)) {c : Cells w} (n : Nat) (h : cellsWf c = true) : cellsWf (cellsSet c n xs) = true := by
  induction xs generalizing c n with
  | nil => exact h
  | cons x xs ih => exact ih (n + 1) (cellSet_wf n x h)

theorem cellsZero_wf {w : Nat} (k : Nat) {c : Cells w} (n : Nat) (h : cellsWf c = true) : cellsWf (cellsZero c n k) = true := by
  induction k generalizing c with
  | zero => exact h
  | succ k ih => exact ih (cellSet_wf _ 0 h)

theorem filter_wfFrom {w : Nat} (q : Nat × BitVec w → Bool) {c : Cells w} {lo : Nat} (h : cellsWfFrom lo c = true) :
    cellsWfFrom lo (c.filter q) = true := by
  induction c generalizing lo with
  | nil => rfl
  | cons p rest ih =>
    obtain ⟨k, v⟩ := p
    simp only [cellsWfFrom, Bool.and_eq_true, decide_eq_true_eq] at h
    simp only [List.filter_cons]
    split
    · simp only [cellsWfFrom, Bool.and_eq_true, decide_eq_true_eq]; exact ⟨h.1, ih h.2⟩
    · exact cellsWfFrom_mono (ih h.2) (by omega)

theorem cellsWfFrom_lt {w : Nat} {c : Cells w} {lo j : Nat} (h : cellsWfFrom lo c = true) (hj : j < lo) : cellGet c j = 0 := by
  induction c generalizing lo with
  | nil => rfl
  | cons p rest ih =>
    obtain ⟨k, v⟩ := p
    simp only [cellsWfFrom, Bool.and_eq_true, decide_eq_true_eq] at h
    simp only [cellGet]; rw [if_neg (by omega)]; exact ih h.2 (by omega)

/-- Equal contents are equal data in the canonical form. -/
theorem cells_ext {w : Nat} {a b : Cells w} {la lb : Nat} (ha : cellsWfFrom la a = true) (hb : cellsWfFrom lb b = true)
    (h : ∀ i, cellGet a i = cellGet b i) : a = b := by
  induction a generalizing b la lb with
  | nil =>
    cases b with
    | nil => rfl
    | cons p rest =>
      obtain ⟨k, v⟩ := p
      have := h k
      simp only [cellsWfFrom, Bool.and_eq_true, decide_eq_true_eq] at hb
      simp [cellGet] at this; exact absurd this.symm hb.1.2
  | cons p ra ih =>
    obtain ⟨k, v⟩ := p
    simp only [cellsWfFrom, Bool.and_eq_true, decide_eq_true_eq] at ha
    cases b with
    | nil => have := h k; simp [cellGet] at this; exact absurd this ha.1.2
    | cons q rb =>
      obtain ⟨k', v'⟩ := q
      simp only [cellsWfFrom, Bool.and_eq_true, decide_eq_true_eq] at hb
      have hk : k = k' := by
        rcases Nat.lt_trichotomy k k' with hlt | heq | hgt
        · have := h k
          simp only [cellGet, if_true] at this
          rw [if_neg (by omega), cellsWfFrom_lt hb.2 (by omega)] at this
          exact absurd this ha.1.2
        · exact heq
        · have := h k'
          simp only [cellGet, if_true] at this
          rw [if_neg (by omega), cellsWfFrom_lt ha.2 (by omega)] at this
          exact absurd this.symm hb.1.2
      subst hk
      have hv : v = v' := by have := h k; simpa [cellGet] using this
      subst hv
      congr 1
      refine ih ha.2 hb.2 fun i => ?_
      have hi := h i
      by_cases hik : i = k
      · subst hik; rw [cellsWfFrom_lt ha.2 (by omega), cellsWfFrom_lt hb.2 (by omega)]
      · simpa [cellGet, hik] using hi

/-! ## Maps -/

@[simp] theorem mapGet_nil {α : Type} (i : Nat) : mapGet? ([] : Map α) i = none := rfl

theorem mapGet_set {α : Type} (m : Map α) (i j : Nat) (x : α) : mapGet? (mapSet m i x) j = if j = i then some x else mapGet? m j := by
  induction m with
  | nil => simp [mapSet, mapGet?]
  | cons p rest ih =>
    obtain ⟨k, v⟩ := p
    simp only [mapSet]; split
    · subst_vars; simp only [mapGet?]; split <;> simp_all
    · split
      · simp only [mapGet?]
      · simp only [mapGet?, ih]; split <;> split <;> simp_all

theorem mapGet_erase {α : Type} (m : Map α) (i j : Nat) : mapGet? (mapErase m i) j = if j = i then none else mapGet? m j := by
  induction m with
  | nil => simp [mapErase]
  | cons p rest ih =>
    obtain ⟨k, v⟩ := p
    simp only [mapErase, List.filter_cons] at ih ⊢
    by_cases hk : k = i
    · subst hk; simp only [bne_self_eq_false, Bool.false_eq_true, if_false, ih, mapGet?]; split <;> simp_all
    · have : (k != i) = true := by simp [hk]
      simp only [this, if_true, mapGet?, ih]; split <;> split <;> simp_all

/-! ## Lists -/

theorem listUpd_get {α : Type} (l : List α) (i j : Nat) (f : α → α) : (listUpd l i f)[j]? = if j = i then (l[j]?).map f else l[j]? := by
  simp only [listUpd, List.getElem?_mapIdx]; split
  · simp [*]
  · cases l[j]? <;> simp [*]

@[simp] theorem listUpd_length {α : Type} (l : List α) (i : Nat) (f : α → α) : (listUpd l i f).length = l.length := by
  simp [listUpd]

/-! ## Memory -/

/-- A byte read after a write. -/
theorem readMem_write (s : State) (ea a : Nat) (bs : List Byte) :
    cellGet (s.writeMem ea bs).mem a = if ea ≤ a ∧ a < ea + bs.length then bs.getD (a - ea) 0 else cellGet s.mem a :=
  cellGet_sets bs s.mem ea a

theorem writeMem_wf (s : State) (ea : Nat) (bs : List Byte) (h : s.memWf = true) : (s.writeMem ea bs).memWf = true :=
  cellsSet_wf bs ea h

theorem reset_memWf : State.reset.memWf = true := rfl

end Sys2Proof.Machine
end

