-- ==== Sys2Proof/Laws/Exec.lean ====
section
/-! SUPPORT. Each instruction and hardware step goes to its own meaning. -/

namespace Sys2Proof.Machine

variable (s : State)

@[simp] theorem exec_iadd (f : VF) : exec (.iadd f) s = execIadd f s := rfl
@[simp] theorem exec_isub (f : VF) : exec (.isub f) s = execIsub f s := rfl
@[simp] theorem exec_imul (f : VF) : exec (.imul f) s = execImul f s := rfl
@[simp] theorem exec_imulh (f : VF) : exec (.imulh f) s = execImulh f s := rfl
@[simp] theorem exec_imad (f : VF) : exec (.imad f) s = execImad f s := rfl
@[simp] theorem exec_imin (f : VF) : exec (.imin f) s = execImin f s := rfl
@[simp] theorem exec_imax (f : VF) : exec (.imax f) s = execImax f s := rfl
@[simp] theorem exec_iabs (f : VF) : exec (.iabs f) s = execIabs f s := rfl
@[simp] theorem exec_ineg (f : VF) : exec (.ineg f) s = execIneg f s := rfl
@[simp] theorem exec_and (f : VF) : exec (.and f) s = execAnd f s := rfl
@[simp] theorem exec_or (f : VF) : exec (.or f) s = execOr f s := rfl
@[simp] theorem exec_xor (f : VF) : exec (.xor f) s = execXor f s := rfl
@[simp] theorem exec_not (f : VF) : exec (.not f) s = execNot f s := rfl
@[simp] theorem exec_shl (f : VF) : exec (.shl f) s = execShl f s := rfl
@[simp] theorem exec_shr (f : VF) : exec (.shr f) s = execShr f s := rfl
@[simp] theorem exec_rot (f : VF) : exec (.rot f) s = execRot f s := rfl
@[simp] theorem exec_bfx (f : VF) : exec (.bfx f) s = execBfx f s := rfl
@[simp] theorem exec_bfi (f : VF) : exec (.bfi f) s = execBfi f s := rfl
@[simp] theorem exec_popc (f : VF) : exec (.popc f) s = execPopc f s := rfl
@[simp] theorem exec_clz (f : VF) : exec (.clz f) s = execClz f s := rfl
@[simp] theorem exec_brev (f : VF) : exec (.brev f) s = execBrev f s := rfl
@[simp] theorem exec_prmt (f : VF) : exec (.prmt f) s = execPrmt f s := rfl
@[simp] theorem exec_sel (f : VF) : exec (.sel f) s = execSel f s := rfl
@[simp] theorem exec_icmp (f : VF) : exec (.icmp f) s = execIcmp f s := rfl
@[simp] theorem exec_iadd64 (f : VF) : exec (.iadd64 f) s = execIadd64 f s := rfl
@[simp] theorem exec_isub64 (f : VF) : exec (.isub64 f) s = execIsub64 f s := rfl
@[simp] theorem exec_imad64 (f : VF) : exec (.imad64 f) s = execImad64 f s := rfl
@[simp] theorem exec_lea (f : VF) : exec (.lea f) s = execLea f s := rfl
@[simp] theorem exec_mov (f : VF) : exec (.mov f) s = execMov f s := rfl
@[simp] theorem exec_idot4 (f : VF) : exec (.idot4 f) s = execIdot4 f s := rfl
@[simp] theorem exec_isat (f : VF) : exec (.isat f) s = execIsat f s := rfl
@[simp] theorem exec_fadd (f : VF) : exec (.fadd f) s = execFadd f s := rfl
@[simp] theorem exec_fsub (f : VF) : exec (.fsub f) s = execFsub f s := rfl
@[simp] theorem exec_fmul (f : VF) : exec (.fmul f) s = execFmul f s := rfl
@[simp] theorem exec_ffma (f : VF) : exec (.ffma f) s = execFfma f s := rfl
@[simp] theorem exec_fdiv (f : VF) : exec (.fdiv f) s = execFdiv f s := rfl
@[simp] theorem exec_fsqrt (f : VF) : exec (.fsqrt f) s = execFsqrt f s := rfl
@[simp] theorem exec_frcp (f : VF) : exec (.frcp f) s = execFrcp f s := rfl
@[simp] theorem exec_fmin (f : VF) : exec (.fmin f) s = execFmin f s := rfl
@[simp] theorem exec_fmax (f : VF) : exec (.fmax f) s = execFmax f s := rfl
@[simp] theorem exec_fcmp (f : VF) : exec (.fcmp f) s = execFcmp f s := rfl
@[simp] theorem exec_frsq (f : VF) : exec (.frsq f) s = execFrsq f s := rfl
@[simp] theorem exec_fex2 (f : VF) : exec (.fex2 f) s = execFex2 f s := rfl
@[simp] theorem exec_flg2 (f : VF) : exec (.flg2 f) s = execFlg2 f s := rfl
@[simp] theorem exec_fsin (f : VF) : exec (.fsin f) s = execFsin f s := rfl
@[simp] theorem exec_fcos (f : VF) : exec (.fcos f) s = execFcos f s := rfl
@[simp] theorem exec_ftanh (f : VF) : exec (.ftanh f) s = execFtanh f s := rfl
@[simp] theorem exec_fclass (f : VF) : exec (.fclass f) s = execFclass f s := rfl
@[simp] theorem exec_frnd (f : VF) : exec (.frnd f) s = execFrnd f s := rfl
@[simp] theorem exec_hadd2 (f : VF) : exec (.hadd2 f) s = execHadd2 f s := rfl
@[simp] theorem exec_hmul2 (f : VF) : exec (.hmul2 f) s = execHmul2 f s := rfl
@[simp] theorem exec_hfma2 (f : VF) : exec (.hfma2 f) s = execHfma2 f s := rfl
@[simp] theorem exec_hmin2 (f : VF) : exec (.hmin2 f) s = execHmin2 f s := rfl
@[simp] theorem exec_hmax2 (f : VF) : exec (.hmax2 f) s = execHmax2 f s := rfl
@[simp] theorem exec_fcvt (f : VF) : exec (.fcvt f) s = execFcvt f s := rfl
@[simp] theorem exec_fcvti (f : VF) : exec (.fcvti f) s = execFcvti f s := rfl
@[simp] theorem exec_icvtf (f : VF) : exec (.icvtf f) s = execIcvtf f s := rfl
@[simp] theorem exec_icvt (f : VF) : exec (.icvt f) s = execIcvt f s := rfl
@[simp] theorem exec_mand (f : VF) : exec (.mand f) s = execMand f s := rfl
@[simp] theorem exec_mor (f : VF) : exec (.mor f) s = execMor f s := rfl
@[simp] theorem exec_mxor (f : VF) : exec (.mxor f) s = execMxor f s := rfl
@[simp] theorem exec_mnot (f : VF) : exec (.mnot f) s = execMnot f s := rfl
@[simp] theorem exec_mmov (f : VF) : exec (.mmov f) s = execMmov f s := rfl
@[simp] theorem exec_mpop (f : VF) : exec (.mpop f) s = execMpop f s := rfl
@[simp] theorem exec_mfirst (f : VF) : exec (.mfirst f) s = execMfirst f s := rfl
@[simp] theorem exec_vote (f : VF) : exec (.vote f) s = execVote f s := rfl
@[simp] theorem exec_shfl (f : VF) : exec (.shfl f) s = execShfl f s := rfl
@[simp] theorem exec_bcast (f : VF) : exec (.bcast f) s = execBcast f s := rfl
@[simp] theorem exec_lred (f : VF) : exec (.lred f) s = execLred f s := rfl
@[simp] theorem exec_lscan (f : VF) : exec (.lscan f) s = execLscan f s := rfl
@[simp] theorem exec_gadd (f : VF) : exec (.gadd f) s = execGadd f s := rfl
@[simp] theorem exec_gsub (f : VF) : exec (.gsub f) s = execGsub f s := rfl
@[simp] theorem exec_gmul (f : VF) : exec (.gmul f) s = execGmul f s := rfl
@[simp] theorem exec_gand (f : VF) : exec (.gand f) s = execGand f s := rfl
@[simp] theorem exec_gor (f : VF) : exec (.gor f) s = execGor f s := rfl
@[simp] theorem exec_gxor (f : VF) : exec (.gxor f) s = execGxor f s := rfl
@[simp] theorem exec_gshl (f : VF) : exec (.gshl f) s = execGshl f s := rfl
@[simp] theorem exec_gshr (f : VF) : exec (.gshr f) s = execGshr f s := rfl
@[simp] theorem exec_gcmp (f : VF) : exec (.gcmp f) s = execGcmp f s := rfl
@[simp] theorem exec_gmov (f : VF) : exec (.gmov f) s = execGmov f s := rfl
@[simp] theorem exec_gsel (f : VF) : exec (.gsel f) s = execGsel f s := rfl
@[simp] theorem exec_gadd64 (f : VF) : exec (.gadd64 f) s = execGadd64 f s := rfl
@[simp] theorem exec_gmin (f : VF) : exec (.gmin f) s = execGmin f s := rfl
@[simp] theorem exec_gmax (f : VF) : exec (.gmax f) s = execGmax f s := rfl
@[simp] theorem exec_gfop (f : VF) : exec (.gfop f) s = execGfop f s := rfl
@[simp] theorem exec_gldk (f : VF) : exec (.gldk f) s = execGldk f s := rfl
@[simp] theorem exec_bra (f : BF) : exec (.bra f) s = execBra f s := rfl
@[simp] theorem exec_brm (f : BF) : exec (.brm f) s = execBrm f s := rfl
@[simp] theorem exec_brg (f : BF) : exec (.brg f) s = execBrg f s := rfl
@[simp] theorem exec_call (f : BF) : exec (.call f) s = execCall f s := rfl
@[simp] theorem exec_calli (f : OF) : exec (.calli f) s = execCalli f s := rfl
@[simp] theorem exec_ret (f : OF) : exec (.ret f) s = execRet f s := rfl
@[simp] theorem exec_jmpi (f : OF) : exec (.jmpi f) s = execJmpi f s := rfl
@[simp] theorem exec_mbegin (f : OF) : exec (.mbegin f) s = execMbegin f s := rfl
@[simp] theorem exec_mleave (f : OF) : exec (.mleave f) s = execMleave f s := rfl
@[simp] theorem exec_mwait (f : OF) : exec (.mwait f) s = execMwait f s := rfl
@[simp] theorem exec_exit (f : OF) : exec (.exit f) s = execExit f s := rfl
@[simp] theorem exec_regroup (f : OF) : exec (.regroup f) s = execRegroup f s := rfl
@[simp] theorem exec_prio (f : OF) : exec (.prio f) s = execPrio f s := rfl
@[simp] theorem exec_yield (f : OF) : exec (.yield f) s = execYield f s := rfl
@[simp] theorem exec_pushm (f : OF) : exec (.pushm f) s = execPushm f s := rfl
@[simp] theorem exec_popm (f : OF) : exec (.popm f) s = execPopm f s := rfl
@[simp] theorem exec_ld (f : MF) : exec (.ld f) s = execLd f s := rfl
@[simp] theorem exec_st (f : MF) : exec (.st f) s = execSt f s := rfl
@[simp] theorem exec_ldk (f : MF) : exec (.ldk f) s = execLdk f s := rfl
@[simp] theorem exec_ldp (f : MF) : exec (.ldp f) s = execLdp f s := rfl
@[simp] theorem exec_stp (f : MF) : exec (.stp f) s = execStp f s := rfl
@[simp] theorem exec_atom (f : MAF) : exec (.atom f) s = execAtom f s := rfl
@[simp] theorem exec_red (f : MAF) : exec (.red f) s = execRed f s := rfl
@[simp] theorem exec_pref (f : MF) : exec (.pref f) s = execPref f s := rfl
@[simp] theorem exec_fence (f : MF) : exec (.fence f) s = execFence f s := rfl
@[simp] theorem exec_pfence (f : MF) : exec (.pfence f) s = execPfence f s := rfl
@[simp] theorem exec_wback (f : MF) : exec (.wback f) s = execWback f s := rfl
@[simp] theorem exec_binfo (f : MF) : exec (.binfo f) s = execBinfo f s := rfl
@[simp] theorem exec_rsvq (f : MF) : exec (.rsvq f) s = execRsvq f s := rfl
@[simp] theorem exec_pgyield (f : MF) : exec (.pgyield f) s = execPgyield f s := rfl
@[simp] theorem exec_mark (f : MF) : exec (.mark f) s = execMark f s := rfl
@[simp] theorem exec_resid (f : MF) : exec (.resid f) s = execResid f s := rfl
@[simp] theorem exec_sld (f : MF) : exec (.sld f) s = execSld f s := rfl
@[simp] theorem exec_sst (f : MF) : exec (.sst f) s = execSst f s := rfl
@[simp] theorem exec_satom (f : MAF) : exec (.satom f) s = execSatom f s := rfl
@[simp] theorem exec_salloc (f : OF) : exec (.salloc f) s = execSalloc f s := rfl
@[simp] theorem exec_sfree (f : OF) : exec (.sfree f) s = execSfree f s := rfl
@[simp] theorem exec_srenew (f : OF) : exec (.srenew f) s = execSrenew f s := rfl
@[simp] theorem exec_sage (f : OF) : exec (.sage f) s = execSage f s := rfl
@[simp] theorem exec_bar (f : OF) : exec (.bar f) s = execBar f s := rfl
@[simp] theorem exec_qperm (f : OF) : exec (.qperm f) s = execQperm f s := rfl
@[simp] theorem exec_qpost (f : OF) : exec (.qpost f) s = execQpost f s := rfl
@[simp] theorem exec_qtake (f : OF) : exec (.qtake f) s = execQtake f s := rfl
@[simp] theorem exec_qfree (f : OF) : exec (.qfree f) s = execQfree f s := rfl
@[simp] theorem exec_qinit (f : OF) : exec (.qinit f) s = execQinit f s := rfl
@[simp] theorem exec_qstat (f : OF) : exec (.qstat f) s = execQstat f s := rfl
@[simp] theorem exec_cpy (f : CF) : exec (.cpy f) s = execCpy f s := rfl
@[simp] theorem exec_cpwp (f : CF) : exec (.cpwp f) s = execCpwp f s := rfl
@[simp] theorem exec_tsr (f : CF) : exec (.tsr f) s = execTsr f s := rfl
@[simp] theorem exec_cpfill (f : CF) : exec (.cpfill f) s = execCpfill f s := rfl
@[simp] theorem exec_cpcancel (f : CF) : exec (.cpcancel f) s = execCpcancel f s := rfl
@[simp] theorem exec_copySegment (core : Nat) (ch : Nat) : exec (.copySegment core ch) s = execCopySegment core ch s := rfl
@[simp] theorem exec_xmma (f : XF) : exec (.xmma f) s = execXmma f s := rfl
@[simp] theorem exec_xzero (f : XF) : exec (.xzero f) s = execXzero f s := rfl
@[simp] theorem exec_xfill (f : XF) : exec (.xfill f) s = execXfill f s := rfl
@[simp] theorem exec_xrd (f : XF) : exec (.xrd f) s = execXrd f s := rfl
@[simp] theorem exec_xwr (f : XF) : exec (.xwr f) s = execXwr f s := rfl
@[simp] theorem exec_xscale (f : XF) : exec (.xscale f) s = execXscale f s := rfl
@[simp] theorem exec_xdrain (f : XF) : exec (.xdrain f) s = execXdrain f s := rfl
@[simp] theorem exec_xquant (f : XF) : exec (.xquant f) s = execXquant f s := rfl
@[simp] theorem exec_matrixCommand (core : Nat) : exec (.matrixCommand core) s = execMatrixCommand core s := rfl
@[simp] theorem exec_nop (f : SF) : exec (.nop f) s = execNop f s := rfl
@[simp] theorem exec_csrr (f : SF) : exec (.csrr f) s = execCsrr f s := rfl
@[simp] theorem exec_csrw (f : SF) : exec (.csrw f) s = execCsrw f s := rfl
@[simp] theorem exec_rsvaddTransfer (ctx : Nat) (amount : BitVec 37) : exec (.rsvaddTransfer ctx amount) s = execRsvaddTransfer ctx amount s := rfl
@[simp] theorem exec_hintdropRead (ctx : Nat) : exec (.hintdropRead ctx) s = execHintdropRead ctx s := rfl
@[simp] theorem exec_trap (f : SF) : exec (.trap f) s = execTrap f s := rfl
@[simp] theorem exec_brk (f : SF) : exec (.brk f) s = execBrk f s := rfl
@[simp] theorem exec_tretReplay (f : SF) : exec (.tretReplay f) s = execTretReplay f s := rfl
@[simp] theorem exec_tretSkip (f : SF) : exec (.tretSkip f) s = execTretSkip f s := rfl
@[simp] theorem exec_launch (f : SF) : exec (.launch f) s = execLaunch f s := rfl
@[simp] theorem exec_clock (f : SF) : exec (.clock f) s = execClock f s := rfl
@[simp] theorem exec_sleep (f : SF) : exec (.sleep f) s = execSleep f s := rfl
@[simp] theorem exec_sleepEnd (team : Nat) (tid : Nat) : exec (.sleepEnd team tid) s = execSleepEnd team tid s := rfl
@[simp] theorem exec_waitf (f : SF) : exec (.waitf f) s = execWaitf f s := rfl
@[simp] theorem exec_issue (core : Nat) (slot : Nat) : exec (.issue core slot) s = execIssue core slot s := rfl
@[simp] theorem exec_clauseFetch (team : Nat) (tid : Nat) : exec (.clauseFetch team tid) s = execClauseFetch team tid s := rfl
@[simp] theorem exec_localLoad (team : Nat) (iss : Nat) (lane : Nat) : exec (.localLoad team iss lane) s = execLocalLoad team iss lane s := rfl
@[simp] theorem exec_send (team : Nat) (iss : Nat) (lane : Nat) : exec (.send team iss lane) s = execSend team iss lane s := rfl
@[simp] theorem exec_enter (team : Nat) (iss : Nat) (lane : Nat) : exec (.enter team iss lane) s = execEnter team iss lane s := rfl
@[simp] theorem exec_leave (core : Nat) (entry : Nat) : exec (.leave core entry) s = execLeave core entry s := rfl
@[simp] theorem exec_storeAck (core : Nat) (slice : Nat) : exec (.storeAck core slice) s = execStoreAck core slice s := rfl
@[simp] theorem exec_ownershipGrant (core : Nat) (slice : Nat) : exec (.ownershipGrant core slice) s = execOwnershipGrant core slice s := rfl
@[simp] theorem exec_admissionRefused (core : Nat) (slice : Nat) : exec (.admissionRefused core slice) s = execAdmissionRefused core slice s := rfl
@[simp] theorem exec_loadReply (core : Nat) (slice : Nat) : exec (.loadReply core slice) s = execLoadReply core slice s := rfl
@[simp] theorem exec_complete (team : Nat) (iss : Nat) : exec (.complete team iss) s = execComplete team iss s := rfl
@[simp] theorem exec_port (core : Nat) (row : Nat) : exec (.port core row) s = execPort core row s := rfl
@[simp] theorem exec_tick : exec .tick s = execTick s := rfl
@[simp] theorem exec_walk (core : Nat) (walker : Nat) : exec (.walk core walker) s = execWalk core walker s := rfl
@[simp] theorem exec_admissionRequest (line : Nat) : exec (.admissionRequest line) s = execAdmissionRequest line s := rfl
@[simp] theorem exec_homeLoadFill (core : Nat) (line : Nat) : exec (.homeLoadFill core line) s = execHomeLoadFill core line s := rfl
@[simp] theorem exec_homeSisFill (core : Nat) (line : Nat) : exec (.homeSisFill core line) s = execHomeSisFill core line s := rfl
@[simp] theorem exec_homeWtLoad (core : Nat) (line : Nat) : exec (.homeWtLoad core line) s = execHomeWtLoad core line s := rfl
@[simp] theorem exec_ownershipRequest (core : Nat) (line : Nat) : exec (.ownershipRequest core line) s = execOwnershipRequest core line s := rfl
@[simp] theorem exec_homeWrite (core : Nat) (line : Nat) : exec (.homeWrite core line) s = execHomeWrite core line s := rfl
@[simp] theorem exec_homeAtomic (core : Nat) (line : Nat) : exec (.homeAtomic core line) s = execHomeAtomic core line s := rfl
@[simp] theorem exec_walkRead (core : Nat) (ea : Nat) : exec (.walkRead core ea) s = execWalkRead core ea s := rfl
@[simp] theorem exec_release (core : Nat) (line : Nat) : exec (.release core line) s = execRelease core line s := rfl
@[simp] theorem exec_evictionNotice (core : Nat) (line : Nat) : exec (.evictionNotice core line) s = execEvictionNotice core line s := rfl
@[simp] theorem exec_invalidation (core : Nat) (slice : Nat) : exec (.invalidation core slice) s = execInvalidation core slice s := rfl
@[simp] theorem exec_invalidationAck (core : Nat) (line : Nat) : exec (.invalidationAck core line) s = execInvalidationAck core line s := rfl
@[simp] theorem exec_recall (core : Nat) (slice : Nat) : exec (.recall core slice) s = execRecall core slice s := rfl
@[simp] theorem exec_recallReply (core : Nat) (line : Nat) : exec (.recallReply core line) s = execRecallReply core line s := rfl
@[simp] theorem exec_leaseKill (core : Nat) (page : Nat) : exec (.leaseKill core page) s = execLeaseKill core page s := rfl
@[simp] theorem exec_closeMessage (core : Nat) (slice : Nat) : exec (.closeMessage core slice) s = execCloseMessage core slice s := rfl
@[simp] theorem exec_closeAck (core : Nat) (billet : Nat) : exec (.closeAck core billet) s = execCloseAck core billet s := rfl
@[simp] theorem exec_billetClose (billet : Nat) : exec (.billetClose billet) s = execBilletClose billet s := rfl
@[simp] theorem exec_l1Eviction (core : Nat) (line : Nat) : exec (.l1Eviction core line) s = execL1Eviction core line s := rfl
@[simp] theorem exec_l2Eviction (line : Nat) : exec (.l2Eviction line) s = execL2Eviction line s := rfl
@[simp] theorem exec_translationEviction (core : Nat) (idx : Nat) : exec (.translationEviction core idx) s = execTranslationEviction core idx s := rfl
@[simp] theorem exec_filterEviction (core : Nat) (billet : Nat) : exec (.filterEviction core billet) s = execFilterEviction core billet s := rfl
@[simp] theorem exec_compaction (billet : Nat) (frame : Nat) : exec (.compaction billet frame) s = execCompaction billet frame s := rfl
@[simp] theorem exec_patrolScrub (billet : Nat) (found : ErrKind) : exec (.patrolScrub billet found) s = execPatrolScrub billet found s := rfl
@[simp] theorem exec_chipperSelect (page : Nat) : exec (.chipperSelect page) s = execChipperSelect page s := rfl
@[simp] theorem exec_demotionCopy (page : Nat) : exec (.demotionCopy page) s = execDemotionCopy page s := rfl
@[simp] theorem exec_freeze (page : Nat) : exec (.freeze page) s = execFreeze page s := rfl
@[simp] theorem exec_demotionAbandon (page : Nat) : exec (.demotionAbandon page) s = execDemotionAbandon page s := rfl
@[simp] theorem exec_promotion (page : Nat) : exec (.promotion page) s = execPromotion page s := rfl
@[simp] theorem exec_promotionCommit (page : Nat) : exec (.promotionCommit page) s = execPromotionCommit page s := rfl
@[simp] theorem exec_leaseSweep (core : Nat) : exec (.leaseSweep core) s = execLeaseSweep core s := rfl
@[simp] theorem exec_expirySweep (core : Nat) : exec (.expirySweep core) s = execExpirySweep core s := rfl
@[simp] theorem exec_temperatureReading (core : Nat) (deciC : Nat) : exec (.temperatureReading core deciC) s = execTemperatureReading core deciC s := rfl
@[simp] theorem exec_bandFall (core : Nat) : exec (.bandFall core) s = execBandFall core s := rfl
@[simp] theorem exec_governorInterval (core : Nat) (khz : Nat) : exec (.governorInterval core khz) s = execGovernorInterval core khz s := rfl
@[simp] theorem exec_keepaliveRenew (team : Nat) : exec (.keepaliveRenew team) s = execKeepaliveRenew team s := rfl
@[simp] theorem exec_keepaliveEnd (team : Nat) : exec (.keepaliveEnd team) s = execKeepaliveEnd team s := rfl
@[simp] theorem exec_retentionSleep (core : Nat) : exec (.retentionSleep core) s = execRetentionSleep core s := rfl
@[simp] theorem exec_retentionWake (core : Nat) : exec (.retentionWake core) s = execRetentionWake core s := rfl
@[simp] theorem exec_emergencyRetentionSleep (core : Nat) : exec (.emergencyRetentionSleep core) s = execEmergencyRetentionSleep core s := rfl
@[simp] theorem exec_powerCapExceeded (enough : Bool) (emergency : Bool) : exec (.powerCapExceeded enough emergency) s = execPowerCapExceeded enough emergency s := rfl
@[simp] theorem exec_qnotify (vd : Nat) (n : Nat) (q : Nat) (idx : BitVec 64) : exec (.qnotify vd n q idx) s = execQnotify vd n q idx s := rfl
@[simp] theorem exec_packetTakeUp (ctx : Nat) (q : Nat) : exec (.packetTakeUp ctx q) s = execPacketTakeUp ctx q s := rfl
@[simp] theorem exec_dependenceMet (ctx : Nat) (q : Nat) (idx : Nat) : exec (.dependenceMet ctx q idx) s = execDependenceMet ctx q idx s := rfl
@[simp] theorem exec_teamPlacement (ctx : Nat) (q : Nat) (idx : Nat) (core : Nat) : exec (.teamPlacement ctx q idx core) s = execTeamPlacement ctx q idx core s := rfl
@[simp] theorem exec_teamRetire (team : Nat) : exec (.teamRetire team) s = execTeamRetire team s := rfl
@[simp] theorem exec_packetComplete (ctx : Nat) (q : Nat) (idx : Nat) : exec (.packetComplete ctx q idx) s = execPacketComplete ctx q idx s := rfl
@[simp] theorem exec_preemptiveDeschedule (ctx : Nat) (q : Nat) (idx : Nat) (core : Nat) : exec (.preemptiveDeschedule ctx q idx core) s = execPreemptiveDeschedule ctx q idx core s := rfl
@[simp] theorem exec_teamStop (team : Nat) : exec (.teamStop team) s = execTeamStop team s := rfl
@[simp] theorem exec_stopTimeout (team : Nat) : exec (.stopTimeout team) s = execStopTimeout team s := rfl
@[simp] theorem exec_teamDrain (team : Nat) : exec (.teamDrain team) s = execTeamDrain team s := rfl
@[simp] theorem exec_teamResume (ctx : Nat) (entry : Nat) (core : Nat) : exec (.teamResume ctx entry core) s = execTeamResume ctx entry core s := rfl
@[simp] theorem exec_throttleHandoff (core : Nat) (slot : Nat) : exec (.throttleHandoff core slot) s = execThrottleHandoff core slot s := rfl
@[simp] theorem exec_lookout (team : Nat) : exec (.lookout team) s = execLookout team s := rfl
@[simp] theorem exec_trapDelivery (team : Nat) (tid : Nat) : exec (.trapDelivery team tid) s = execTrapDelivery team tid s := rfl
@[simp] theorem exec_teamKill (team : Nat) : exec (.teamKill team) s = execTeamKill team s := rfl
@[simp] theorem exec_hostApertureWrite (da : Nat) (bytes : List Byte) : exec (.hostApertureWrite da bytes) s = execHostApertureWrite da bytes s := rfl
@[simp] theorem exec_hostApertureRead (da : Nat) (len : Nat) : exec (.hostApertureRead da len) s = execHostApertureRead da len s := rfl
@[simp] theorem exec_hostAtomicop (op : HostOp) (da : Nat) (wide : Bool) (a : BitVec 64) (b : BitVec 64) : exec (.hostAtomicop op da wide a b) s = execHostAtomicop op da wide a b s := rfl
@[simp] theorem exec_hostCompletionError (team : Nat) (iss : Nat) (lane : Nat) : exec (.hostCompletionError team iss lane) s = execHostCompletionError team iss lane s := rfl
@[simp] theorem exec_hostCompletionTimeout (team : Nat) (iss : Nat) (lane : Nat) : exec (.hostCompletionTimeout team iss lane) s = execHostCompletionTimeout team iss lane s := rfl
@[simp] theorem exec_thinningDoorbell (ctx : Nat) : exec (.thinningDoorbell ctx) s = execThinningDoorbell ctx s := rfl
@[simp] theorem exec_ctxBind (vd : Nat) (n : Nat) (ccb : BitVec 64) : exec (.ctxBind vd n ccb) s = execCtxBind vd n ccb s := rfl
@[simp] theorem exec_ctxDestroy (vd : Nat) (n : Nat) : exec (.ctxDestroy vd n) s = execCtxDestroy vd n s := rfl
@[simp] theorem exec_ctxKillTeam (vd : Nat) (n : Nat) (q : Nat) (idx : Nat) (team : Nat) : exec (.ctxKillTeam vd n q idx team) s = execCtxKillTeam vd n q idx team s := rfl
@[simp] theorem exec_ctxDescheduleTeam (vd : Nat) (n : Nat) (q : Nat) (idx : Nat) (team : Nat) : exec (.ctxDescheduleTeam vd n q idx team) s = execCtxDescheduleTeam vd n q idx team s := rfl
@[simp] theorem exec_ctxDebugReplay (vd : Nat) (n : Nat) (pslot : Nat) : exec (.ctxDebugReplay vd n pslot) s = execCtxDebugReplay vd n pslot s := rfl
@[simp] theorem exec_ctxDebugSkip (vd : Nat) (n : Nat) (pslot : Nat) : exec (.ctxDebugSkip vd n pslot) s = execCtxDebugSkip vd n pslot s := rfl
@[simp] theorem exec_ctxReloadImages (vd : Nat) (n : Nat) : exec (.ctxReloadImages vd n) s = execCtxReloadImages vd n s := rfl
@[simp] theorem exec_ctxReserveTransfer (vd : Nat) (n : Nat) (amount : BitVec 37) : exec (.ctxReserveTransfer vd n amount) s = execCtxReserveTransfer vd n amount s := rfl
@[simp] theorem exec_back (vd : Nat) (n : Nat) (page : Nat) : exec (.back vd n page) s = execBack vd n page s := rfl
@[simp] theorem exec_backFixedSize (vd : Nat) (n : Nat) (page : Nat) : exec (.backFixedSize vd n page) s = execBackFixedSize vd n page s := rfl
@[simp] theorem exec_unback (vd : Nat) (n : Nat) (page : Nat) : exec (.unback vd n page) s = execUnback vd n page s := rfl
@[simp] theorem exec_reassign (vd : Nat) (n : Nat) (page : Nat) : exec (.reassign vd n page) s = execReassign vd n page s := rfl
@[simp] theorem exec_chipperDemote (page : Nat) : exec (.chipperDemote page) s = execChipperDemote page s := rfl
@[simp] theorem exec_chipperPromote (page : Nat) : exec (.chipperPromote page) s = execChipperPromote page s := rfl
@[simp] theorem exec_lmTrack (vd : Nat) (on : Bool) : exec (.lmTrack vd on) s = execLmTrack vd on s := rfl
@[simp] theorem exec_lmStop (vd : Nat) : exec (.lmStop vd) s = execLmStop vd s := rfl
@[simp] theorem exec_lmStopComplete (vd : Nat) : exec (.lmStopComplete vd) s = execLmStopComplete vd s := rfl
@[simp] theorem exec_lmStopRelease (vd : Nat) : exec (.lmStopRelease vd) s = execLmStopRelease vd s := rfl
@[simp] theorem exec_dirtyWordRead (vd : Nat) (word : Nat) : exec (.dirtyWordRead vd word) s = execDirtyWordRead vd word s := rfl
@[simp] theorem exec_hrlostRead : exec .hrlostRead s = execHrlostRead s := rfl
@[simp] theorem exec_bpstatRead (port : Nat) : exec (.bpstatRead port) s = execBpstatRead port s := rfl
@[simp] theorem exec_pcaplWrite (v : BitVec 32) : exec (.pcaplWrite v) s = execPcaplWrite v s := rfl
@[simp] theorem exec_pcaprWrite (v : BitVec 32) : exec (.pcaprWrite v) s = execPcaprWrite v s := rfl
@[simp] theorem exec_registerWrite (vd : Nat) (off : Nat) (v : BitVec 64) : exec (.registerWrite vd off v) s = execRegisterWrite vd off v s := rfl
@[simp] theorem exec_peerLoad (dev : Nat) (line : Nat) : exec (.peerLoad dev line) s = execPeerLoad dev line s := rfl
@[simp] theorem exec_peerStore (dev : Nat) (page : Nat) : exec (.peerStore dev page) s = execPeerStore dev page s := rfl
@[simp] theorem exec_localPageAccess (page : Nat) (store : Bool) : exec (.localPageAccess page store) s = execLocalPageAccess page store s := rfl
@[simp] theorem exec_revocation (dev : Nat) (page : Nat) : exec (.revocation dev page) s = execRevocation dev page s := rfl
@[simp] theorem exec_revocationAck (dev : Nat) (change : Nat × Nat) (dirty : List (Nat × List Byte)) : exec (.revocationAck dev change dirty) s = execRevocationAck dev change dirty s := rfl
@[simp] theorem exec_revocationTimeout (page : Nat) : exec (.revocationTimeout page) s = execRevocationTimeout page s := rfl
@[simp] theorem exec_flitReceive (port : Nat) (flit : Flit) : exec (.flitReceive port flit) s = execFlitReceive port flit s := rfl
@[simp] theorem exec_nakReplay (port : Nat) (seq : Nat) : exec (.nakReplay port seq) s = execNakReplay port seq s := rfl
@[simp] theorem exec_portRecovery (port : Nat) (good : Nat) (spareGood : Bool) : exec (.portRecovery port good spareGood) s = execPortRecovery port good spareGood s := rfl
@[simp] theorem exec_recoveryTimeout (port : Nat) : exec (.recoveryTimeout port) s = execRecoveryTimeout port s := rfl
@[simp] theorem exec_requestGiveUp (team : Nat) (iss : Nat) (lane : Nat) : exec (.requestGiveUp team iss lane) s = execRequestGiveUp team iss lane s := rfl
@[simp] theorem exec_halfWidthEntry (pc : Nat) (laneFault : Bool) : exec (.halfWidthEntry pc laneFault) s = execHalfWidthEntry pc laneFault s := rfl
@[simp] theorem exec_fullWidthReturn (pc : Nat) : exec (.fullWidthReturn pc) s = execFullWidthReturn pc s := rfl
@[simp] theorem exec_powerOn (boot : BootInput) : exec (.powerOn boot) s = execPowerOn boot s := rfl
@[simp] theorem exec_spdmChallenge (nonce : BitVec 256) : exec (.spdmChallenge nonce) s = execSpdmChallenge nonce s := rfl
@[simp] theorem exec_migrationKeyAgreement (peer : PeerEvidence) : exec (.migrationKeyAgreement peer) s = execMigrationKeyAgreement peer s := rfl
@[simp] theorem exec_pageExport (vd : Nat) (page : Nat) : exec (.pageExport vd page) s = execPageExport vd page s := rfl
@[simp] theorem exec_pageImport (vd : Nat) (n : Nat) (page : Nat) (image : List Byte) : exec (.pageImport vd n page image) s = execPageImport vd n page image s := rfl
@[simp] theorem exec_keySlotFill (slot : Nat) : exec (.keySlotFill slot) s = execKeySlotFill slot s := rfl
@[simp] theorem exec_keySlotRelease (slot : Nat) : exec (.keySlotRelease slot) s = execKeySlotRelease slot s := rfl
@[simp] theorem exec_ageingRead (die : Nat) (eold : Nat) (wear : Nat) : exec (.ageingRead die eold wear) s = execAgeingRead die eold wear s := rfl
@[simp] theorem exec_leaseKillAck (core : Nat) (page : Nat) : exec (.leaseKillAck core page) s = execLeaseKillAck core page s := rfl
@[simp] theorem exec_recoveryEnd (port : Nat) : exec (.recoveryEnd port) s = execRecoveryEnd port s := rfl
@[simp] theorem exec_hostCompletion (team : Nat) (iss : Nat) (lane : Nat) (bytes : List Byte) : exec (.hostCompletion team iss lane bytes) s = execHostCompletion team iss lane bytes s := rfl
@[simp] theorem exec_subArrayPowerDown (core : Nat) : exec (.subArrayPowerDown core) s = execSubArrayPowerDown core s := rfl

end Sys2Proof.Machine
end

