-- ==== Sys2Proof/Laws/State.lean ====
section
/-! SUPPORT. One lemma per field of the state and per update: the update leaves the field as it was. -/

namespace Sys2Proof.Machine

@[simp] theorem updCore_agenda (s : State) (c : Nat) (f : Core → Core) : (s.updCore c f).agenda = s.agenda := rfl
@[simp] theorem updCore_issuer (s : State) (c : Nat) (f : Core → Core) : (s.updCore c f).issuer = s.issuer := rfl
@[simp] theorem updCore_turn (s : State) (c : Nat) (f : Core → Core) : (s.updCore c f).turn = s.turn := rfl
@[simp] theorem updCore_stalled (s : State) (c : Nat) (f : Core → Core) : (s.updCore c f).stalled = s.stalled := rfl
@[simp] theorem updCore_free (s : State) (c : Nat) (f : Core → Core) : (s.updCore c f).free = s.free := rfl
@[simp] theorem updCore_nextId (s : State) (c : Nat) (f : Core → Core) : (s.updCore c f).nextId = s.nextId := rfl
@[simp] theorem updCore_hostRd (s : State) (c : Nat) (f : Core → Core) : (s.updCore c f).hostRd = s.hostRd := rfl
@[simp] theorem updCore_hostBytes (s : State) (c : Nat) (f : Core → Core) : (s.updCore c f).hostBytes = s.hostBytes := rfl
@[simp] theorem updCore_errors (s : State) (c : Nat) (f : Core → Core) : (s.updCore c f).errors = s.errors := rfl
@[simp] theorem updCore_mem (s : State) (c : Nat) (f : Core → Core) : (s.updCore c f).mem = s.mem := rfl
@[simp] theorem updCore_lines (s : State) (c : Nat) (f : Core → Core) : (s.updCore c f).lines = s.lines := rfl
@[simp] theorem updCore_billets (s : State) (c : Nat) (f : Core → Core) : (s.updCore c f).billets = s.billets := rfl
@[simp] theorem updCore_pages (s : State) (c : Nat) (f : Core → Core) : (s.updCore c f).pages = s.pages := rfl
@[simp] theorem updCore_frames (s : State) (c : Nat) (f : Core → Core) : (s.updCore c f).frames = s.frames := rfl
@[simp] theorem updCore_pool (s : State) (c : Nat) (f : Core → Core) : (s.updCore c f).pool = s.pool := rfl
@[simp] theorem updCore_msc (s : State) (c : Nat) (f : Core → Core) : (s.updCore c f).msc = s.msc := rfl
@[simp] theorem updCore_hbm (s : State) (c : Nat) (f : Core → Core) : (s.updCore c f).hbm = s.hbm := rfl
@[simp] theorem updCore_descs (s : State) (c : Nat) (f : Core → Core) : (s.updCore c f).descs = s.descs := rfl
@[simp] theorem updCore_migrations (s : State) (c : Nat) (f : Core → Core) : (s.updCore c f).migrations = s.migrations := rfl
@[simp] theorem updCore_tier (s : State) (c : Nat) (f : Core → Core) : (s.updCore c f).tier = s.tier := rfl
@[simp] theorem updCore_tierData (s : State) (c : Nat) (f : Core → Core) : (s.updCore c f).tierData = s.tierData := rfl
@[simp] theorem updCore_homeClk (s : State) (c : Nat) (f : Core → Core) : (s.updCore c f).homeClk = s.homeClk := rfl
@[simp] theorem updCore_halfWidth (s : State) (c : Nat) (f : Core → Core) : (s.updCore c f).halfWidth = s.halfWidth := rfl
@[simp] theorem updCore_prt (s : State) (c : Nat) (f : Core → Core) : (s.updCore c f).prt = s.prt := rfl
@[simp] theorem updCore_proxy (s : State) (c : Nat) (f : Core → Core) : (s.updCore c f).proxy = s.proxy := rfl
@[simp] theorem updCore_teams (s : State) (c : Nat) (f : Core → Core) : (s.updCore c f).teams = s.teams := rfl
@[simp] theorem updCore_ctxs (s : State) (c : Nat) (f : Core → Core) : (s.updCore c f).ctxs = s.ctxs := rfl
@[simp] theorem updCore_coreVd (s : State) (c : Nat) (f : Core → Core) : (s.updCore c f).coreVd = s.coreVd := rfl
@[simp] theorem updCore_vds (s : State) (c : Nat) (f : Core → Core) : (s.updCore c f).vds = s.vds := rfl
@[simp] theorem updCore_ports (s : State) (c : Nat) (f : Core → Core) : (s.updCore c f).ports = s.ports := rfl
@[simp] theorem updCore_slovi (s : State) (c : Nat) (f : Core → Core) : (s.updCore c f).slovi = s.slovi := rfl
@[simp] theorem updCore_regs (s : State) (c : Nat) (f : Core → Core) : (s.updCore c f).regs = s.regs := rfl
@[simp] theorem updCore_ns (s : State) (c : Nat) (f : Core → Core) : (s.updCore c f).ns = s.ns := rfl
@[simp] theorem updCore_posts (s : State) (c : Nat) (f : Core → Core) : (s.updCore c f).posts = s.posts := rfl
@[simp] theorem updCore_hostOut (s : State) (c : Nat) (f : Core → Core) : (s.updCore c f).hostOut = s.hostOut := rfl
@[simp] theorem updCore_hostPend (s : State) (c : Nat) (f : Core → Core) : (s.updCore c f).hostPend = s.hostPend := rfl
@[simp] theorem updCore_hostReads (s : State) (c : Nat) (f : Core → Core) : (s.updCore c f).hostReads = s.hostReads := rfl
@[simp] theorem updCore_fabricOut (s : State) (c : Nat) (f : Core → Core) : (s.updCore c f).fabricOut = s.fabricOut := rfl
@[simp] theorem updCore_peerAsks (s : State) (c : Nat) (f : Core → Core) : (s.updCore c f).peerAsks = s.peerAsks := rfl
@[simp] theorem updCore_peerReqs (s : State) (c : Nat) (f : Core → Core) : (s.updCore c f).peerReqs = s.peerReqs := rfl
@[simp] theorem updCore_kills (s : State) (c : Nat) (f : Core → Core) : (s.updCore c f).kills = s.kills := rfl

@[simp] theorem updLine_agenda (s : State) (l : Nat) (f : Line → Line) : (s.updLine l f).agenda = s.agenda := rfl
@[simp] theorem updLine_issuer (s : State) (l : Nat) (f : Line → Line) : (s.updLine l f).issuer = s.issuer := rfl
@[simp] theorem updLine_turn (s : State) (l : Nat) (f : Line → Line) : (s.updLine l f).turn = s.turn := rfl
@[simp] theorem updLine_stalled (s : State) (l : Nat) (f : Line → Line) : (s.updLine l f).stalled = s.stalled := rfl
@[simp] theorem updLine_free (s : State) (l : Nat) (f : Line → Line) : (s.updLine l f).free = s.free := rfl
@[simp] theorem updLine_nextId (s : State) (l : Nat) (f : Line → Line) : (s.updLine l f).nextId = s.nextId := rfl
@[simp] theorem updLine_hostRd (s : State) (l : Nat) (f : Line → Line) : (s.updLine l f).hostRd = s.hostRd := rfl
@[simp] theorem updLine_hostBytes (s : State) (l : Nat) (f : Line → Line) : (s.updLine l f).hostBytes = s.hostBytes := rfl
@[simp] theorem updLine_errors (s : State) (l : Nat) (f : Line → Line) : (s.updLine l f).errors = s.errors := rfl
@[simp] theorem updLine_mem (s : State) (l : Nat) (f : Line → Line) : (s.updLine l f).mem = s.mem := rfl
@[simp] theorem updLine_billets (s : State) (l : Nat) (f : Line → Line) : (s.updLine l f).billets = s.billets := rfl
@[simp] theorem updLine_pages (s : State) (l : Nat) (f : Line → Line) : (s.updLine l f).pages = s.pages := rfl
@[simp] theorem updLine_frames (s : State) (l : Nat) (f : Line → Line) : (s.updLine l f).frames = s.frames := rfl
@[simp] theorem updLine_pool (s : State) (l : Nat) (f : Line → Line) : (s.updLine l f).pool = s.pool := rfl
@[simp] theorem updLine_msc (s : State) (l : Nat) (f : Line → Line) : (s.updLine l f).msc = s.msc := rfl
@[simp] theorem updLine_hbm (s : State) (l : Nat) (f : Line → Line) : (s.updLine l f).hbm = s.hbm := rfl
@[simp] theorem updLine_descs (s : State) (l : Nat) (f : Line → Line) : (s.updLine l f).descs = s.descs := rfl
@[simp] theorem updLine_migrations (s : State) (l : Nat) (f : Line → Line) : (s.updLine l f).migrations = s.migrations := rfl
@[simp] theorem updLine_tier (s : State) (l : Nat) (f : Line → Line) : (s.updLine l f).tier = s.tier := rfl
@[simp] theorem updLine_tierData (s : State) (l : Nat) (f : Line → Line) : (s.updLine l f).tierData = s.tierData := rfl
@[simp] theorem updLine_homeClk (s : State) (l : Nat) (f : Line → Line) : (s.updLine l f).homeClk = s.homeClk := rfl
@[simp] theorem updLine_halfWidth (s : State) (l : Nat) (f : Line → Line) : (s.updLine l f).halfWidth = s.halfWidth := rfl
@[simp] theorem updLine_prt (s : State) (l : Nat) (f : Line → Line) : (s.updLine l f).prt = s.prt := rfl
@[simp] theorem updLine_proxy (s : State) (l : Nat) (f : Line → Line) : (s.updLine l f).proxy = s.proxy := rfl
@[simp] theorem updLine_cores (s : State) (l : Nat) (f : Line → Line) : (s.updLine l f).cores = s.cores := rfl
@[simp] theorem updLine_teams (s : State) (l : Nat) (f : Line → Line) : (s.updLine l f).teams = s.teams := rfl
@[simp] theorem updLine_ctxs (s : State) (l : Nat) (f : Line → Line) : (s.updLine l f).ctxs = s.ctxs := rfl
@[simp] theorem updLine_coreVd (s : State) (l : Nat) (f : Line → Line) : (s.updLine l f).coreVd = s.coreVd := rfl
@[simp] theorem updLine_vds (s : State) (l : Nat) (f : Line → Line) : (s.updLine l f).vds = s.vds := rfl
@[simp] theorem updLine_ports (s : State) (l : Nat) (f : Line → Line) : (s.updLine l f).ports = s.ports := rfl
@[simp] theorem updLine_slovi (s : State) (l : Nat) (f : Line → Line) : (s.updLine l f).slovi = s.slovi := rfl
@[simp] theorem updLine_regs (s : State) (l : Nat) (f : Line → Line) : (s.updLine l f).regs = s.regs := rfl
@[simp] theorem updLine_ns (s : State) (l : Nat) (f : Line → Line) : (s.updLine l f).ns = s.ns := rfl
@[simp] theorem updLine_posts (s : State) (l : Nat) (f : Line → Line) : (s.updLine l f).posts = s.posts := rfl
@[simp] theorem updLine_hostOut (s : State) (l : Nat) (f : Line → Line) : (s.updLine l f).hostOut = s.hostOut := rfl
@[simp] theorem updLine_hostPend (s : State) (l : Nat) (f : Line → Line) : (s.updLine l f).hostPend = s.hostPend := rfl
@[simp] theorem updLine_hostReads (s : State) (l : Nat) (f : Line → Line) : (s.updLine l f).hostReads = s.hostReads := rfl
@[simp] theorem updLine_fabricOut (s : State) (l : Nat) (f : Line → Line) : (s.updLine l f).fabricOut = s.fabricOut := rfl
@[simp] theorem updLine_peerAsks (s : State) (l : Nat) (f : Line → Line) : (s.updLine l f).peerAsks = s.peerAsks := rfl
@[simp] theorem updLine_peerReqs (s : State) (l : Nat) (f : Line → Line) : (s.updLine l f).peerReqs = s.peerReqs := rfl
@[simp] theorem updLine_kills (s : State) (l : Nat) (f : Line → Line) : (s.updLine l f).kills = s.kills := rfl

@[simp] theorem updBillet_agenda (s : State) (b : Nat) (f : Billet → Billet) : (s.updBillet b f).agenda = s.agenda := rfl
@[simp] theorem updBillet_issuer (s : State) (b : Nat) (f : Billet → Billet) : (s.updBillet b f).issuer = s.issuer := rfl
@[simp] theorem updBillet_turn (s : State) (b : Nat) (f : Billet → Billet) : (s.updBillet b f).turn = s.turn := rfl
@[simp] theorem updBillet_stalled (s : State) (b : Nat) (f : Billet → Billet) : (s.updBillet b f).stalled = s.stalled := rfl
@[simp] theorem updBillet_free (s : State) (b : Nat) (f : Billet → Billet) : (s.updBillet b f).free = s.free := rfl
@[simp] theorem updBillet_nextId (s : State) (b : Nat) (f : Billet → Billet) : (s.updBillet b f).nextId = s.nextId := rfl
@[simp] theorem updBillet_hostRd (s : State) (b : Nat) (f : Billet → Billet) : (s.updBillet b f).hostRd = s.hostRd := rfl
@[simp] theorem updBillet_hostBytes (s : State) (b : Nat) (f : Billet → Billet) : (s.updBillet b f).hostBytes = s.hostBytes := rfl
@[simp] theorem updBillet_errors (s : State) (b : Nat) (f : Billet → Billet) : (s.updBillet b f).errors = s.errors := rfl
@[simp] theorem updBillet_mem (s : State) (b : Nat) (f : Billet → Billet) : (s.updBillet b f).mem = s.mem := rfl
@[simp] theorem updBillet_lines (s : State) (b : Nat) (f : Billet → Billet) : (s.updBillet b f).lines = s.lines := rfl
@[simp] theorem updBillet_pages (s : State) (b : Nat) (f : Billet → Billet) : (s.updBillet b f).pages = s.pages := rfl
@[simp] theorem updBillet_frames (s : State) (b : Nat) (f : Billet → Billet) : (s.updBillet b f).frames = s.frames := rfl
@[simp] theorem updBillet_pool (s : State) (b : Nat) (f : Billet → Billet) : (s.updBillet b f).pool = s.pool := rfl
@[simp] theorem updBillet_msc (s : State) (b : Nat) (f : Billet → Billet) : (s.updBillet b f).msc = s.msc := rfl
@[simp] theorem updBillet_hbm (s : State) (b : Nat) (f : Billet → Billet) : (s.updBillet b f).hbm = s.hbm := rfl
@[simp] theorem updBillet_descs (s : State) (b : Nat) (f : Billet → Billet) : (s.updBillet b f).descs = s.descs := rfl
@[simp] theorem updBillet_migrations (s : State) (b : Nat) (f : Billet → Billet) : (s.updBillet b f).migrations = s.migrations := rfl
@[simp] theorem updBillet_tier (s : State) (b : Nat) (f : Billet → Billet) : (s.updBillet b f).tier = s.tier := rfl
@[simp] theorem updBillet_tierData (s : State) (b : Nat) (f : Billet → Billet) : (s.updBillet b f).tierData = s.tierData := rfl
@[simp] theorem updBillet_homeClk (s : State) (b : Nat) (f : Billet → Billet) : (s.updBillet b f).homeClk = s.homeClk := rfl
@[simp] theorem updBillet_halfWidth (s : State) (b : Nat) (f : Billet → Billet) : (s.updBillet b f).halfWidth = s.halfWidth := rfl
@[simp] theorem updBillet_prt (s : State) (b : Nat) (f : Billet → Billet) : (s.updBillet b f).prt = s.prt := rfl
@[simp] theorem updBillet_proxy (s : State) (b : Nat) (f : Billet → Billet) : (s.updBillet b f).proxy = s.proxy := rfl
@[simp] theorem updBillet_cores (s : State) (b : Nat) (f : Billet → Billet) : (s.updBillet b f).cores = s.cores := rfl
@[simp] theorem updBillet_teams (s : State) (b : Nat) (f : Billet → Billet) : (s.updBillet b f).teams = s.teams := rfl
@[simp] theorem updBillet_ctxs (s : State) (b : Nat) (f : Billet → Billet) : (s.updBillet b f).ctxs = s.ctxs := rfl
@[simp] theorem updBillet_coreVd (s : State) (b : Nat) (f : Billet → Billet) : (s.updBillet b f).coreVd = s.coreVd := rfl
@[simp] theorem updBillet_vds (s : State) (b : Nat) (f : Billet → Billet) : (s.updBillet b f).vds = s.vds := rfl
@[simp] theorem updBillet_ports (s : State) (b : Nat) (f : Billet → Billet) : (s.updBillet b f).ports = s.ports := rfl
@[simp] theorem updBillet_slovi (s : State) (b : Nat) (f : Billet → Billet) : (s.updBillet b f).slovi = s.slovi := rfl
@[simp] theorem updBillet_regs (s : State) (b : Nat) (f : Billet → Billet) : (s.updBillet b f).regs = s.regs := rfl
@[simp] theorem updBillet_ns (s : State) (b : Nat) (f : Billet → Billet) : (s.updBillet b f).ns = s.ns := rfl
@[simp] theorem updBillet_posts (s : State) (b : Nat) (f : Billet → Billet) : (s.updBillet b f).posts = s.posts := rfl
@[simp] theorem updBillet_hostOut (s : State) (b : Nat) (f : Billet → Billet) : (s.updBillet b f).hostOut = s.hostOut := rfl
@[simp] theorem updBillet_hostPend (s : State) (b : Nat) (f : Billet → Billet) : (s.updBillet b f).hostPend = s.hostPend := rfl
@[simp] theorem updBillet_hostReads (s : State) (b : Nat) (f : Billet → Billet) : (s.updBillet b f).hostReads = s.hostReads := rfl
@[simp] theorem updBillet_fabricOut (s : State) (b : Nat) (f : Billet → Billet) : (s.updBillet b f).fabricOut = s.fabricOut := rfl
@[simp] theorem updBillet_peerAsks (s : State) (b : Nat) (f : Billet → Billet) : (s.updBillet b f).peerAsks = s.peerAsks := rfl
@[simp] theorem updBillet_peerReqs (s : State) (b : Nat) (f : Billet → Billet) : (s.updBillet b f).peerReqs = s.peerReqs := rfl
@[simp] theorem updBillet_kills (s : State) (b : Nat) (f : Billet → Billet) : (s.updBillet b f).kills = s.kills := rfl

@[simp] theorem updVd_agenda (s : State) (v : Nat) (f : Vd → Vd) : (s.updVd v f).agenda = s.agenda := rfl
@[simp] theorem updVd_issuer (s : State) (v : Nat) (f : Vd → Vd) : (s.updVd v f).issuer = s.issuer := rfl
@[simp] theorem updVd_turn (s : State) (v : Nat) (f : Vd → Vd) : (s.updVd v f).turn = s.turn := rfl
@[simp] theorem updVd_stalled (s : State) (v : Nat) (f : Vd → Vd) : (s.updVd v f).stalled = s.stalled := rfl
@[simp] theorem updVd_free (s : State) (v : Nat) (f : Vd → Vd) : (s.updVd v f).free = s.free := rfl
@[simp] theorem updVd_nextId (s : State) (v : Nat) (f : Vd → Vd) : (s.updVd v f).nextId = s.nextId := rfl
@[simp] theorem updVd_hostRd (s : State) (v : Nat) (f : Vd → Vd) : (s.updVd v f).hostRd = s.hostRd := rfl
@[simp] theorem updVd_hostBytes (s : State) (v : Nat) (f : Vd → Vd) : (s.updVd v f).hostBytes = s.hostBytes := rfl
@[simp] theorem updVd_errors (s : State) (v : Nat) (f : Vd → Vd) : (s.updVd v f).errors = s.errors := rfl
@[simp] theorem updVd_mem (s : State) (v : Nat) (f : Vd → Vd) : (s.updVd v f).mem = s.mem := rfl
@[simp] theorem updVd_lines (s : State) (v : Nat) (f : Vd → Vd) : (s.updVd v f).lines = s.lines := rfl
@[simp] theorem updVd_billets (s : State) (v : Nat) (f : Vd → Vd) : (s.updVd v f).billets = s.billets := rfl
@[simp] theorem updVd_pages (s : State) (v : Nat) (f : Vd → Vd) : (s.updVd v f).pages = s.pages := rfl
@[simp] theorem updVd_frames (s : State) (v : Nat) (f : Vd → Vd) : (s.updVd v f).frames = s.frames := rfl
@[simp] theorem updVd_pool (s : State) (v : Nat) (f : Vd → Vd) : (s.updVd v f).pool = s.pool := rfl
@[simp] theorem updVd_msc (s : State) (v : Nat) (f : Vd → Vd) : (s.updVd v f).msc = s.msc := rfl
@[simp] theorem updVd_hbm (s : State) (v : Nat) (f : Vd → Vd) : (s.updVd v f).hbm = s.hbm := rfl
@[simp] theorem updVd_descs (s : State) (v : Nat) (f : Vd → Vd) : (s.updVd v f).descs = s.descs := rfl
@[simp] theorem updVd_migrations (s : State) (v : Nat) (f : Vd → Vd) : (s.updVd v f).migrations = s.migrations := rfl
@[simp] theorem updVd_tier (s : State) (v : Nat) (f : Vd → Vd) : (s.updVd v f).tier = s.tier := rfl
@[simp] theorem updVd_tierData (s : State) (v : Nat) (f : Vd → Vd) : (s.updVd v f).tierData = s.tierData := rfl
@[simp] theorem updVd_homeClk (s : State) (v : Nat) (f : Vd → Vd) : (s.updVd v f).homeClk = s.homeClk := rfl
@[simp] theorem updVd_halfWidth (s : State) (v : Nat) (f : Vd → Vd) : (s.updVd v f).halfWidth = s.halfWidth := rfl
@[simp] theorem updVd_prt (s : State) (v : Nat) (f : Vd → Vd) : (s.updVd v f).prt = s.prt := rfl
@[simp] theorem updVd_proxy (s : State) (v : Nat) (f : Vd → Vd) : (s.updVd v f).proxy = s.proxy := rfl
@[simp] theorem updVd_cores (s : State) (v : Nat) (f : Vd → Vd) : (s.updVd v f).cores = s.cores := rfl
@[simp] theorem updVd_teams (s : State) (v : Nat) (f : Vd → Vd) : (s.updVd v f).teams = s.teams := rfl
@[simp] theorem updVd_ctxs (s : State) (v : Nat) (f : Vd → Vd) : (s.updVd v f).ctxs = s.ctxs := rfl
@[simp] theorem updVd_coreVd (s : State) (v : Nat) (f : Vd → Vd) : (s.updVd v f).coreVd = s.coreVd := rfl
@[simp] theorem updVd_ports (s : State) (v : Nat) (f : Vd → Vd) : (s.updVd v f).ports = s.ports := rfl
@[simp] theorem updVd_slovi (s : State) (v : Nat) (f : Vd → Vd) : (s.updVd v f).slovi = s.slovi := rfl
@[simp] theorem updVd_regs (s : State) (v : Nat) (f : Vd → Vd) : (s.updVd v f).regs = s.regs := rfl
@[simp] theorem updVd_ns (s : State) (v : Nat) (f : Vd → Vd) : (s.updVd v f).ns = s.ns := rfl
@[simp] theorem updVd_posts (s : State) (v : Nat) (f : Vd → Vd) : (s.updVd v f).posts = s.posts := rfl
@[simp] theorem updVd_hostOut (s : State) (v : Nat) (f : Vd → Vd) : (s.updVd v f).hostOut = s.hostOut := rfl
@[simp] theorem updVd_hostPend (s : State) (v : Nat) (f : Vd → Vd) : (s.updVd v f).hostPend = s.hostPend := rfl
@[simp] theorem updVd_hostReads (s : State) (v : Nat) (f : Vd → Vd) : (s.updVd v f).hostReads = s.hostReads := rfl
@[simp] theorem updVd_fabricOut (s : State) (v : Nat) (f : Vd → Vd) : (s.updVd v f).fabricOut = s.fabricOut := rfl
@[simp] theorem updVd_peerAsks (s : State) (v : Nat) (f : Vd → Vd) : (s.updVd v f).peerAsks = s.peerAsks := rfl
@[simp] theorem updVd_peerReqs (s : State) (v : Nat) (f : Vd → Vd) : (s.updVd v f).peerReqs = s.peerReqs := rfl
@[simp] theorem updVd_kills (s : State) (v : Nat) (f : Vd → Vd) : (s.updVd v f).kills = s.kills := rfl

@[simp] theorem updPort_agenda (s : State) (p : Nat) (f : Port → Port) : (s.updPort p f).agenda = s.agenda := rfl
@[simp] theorem updPort_issuer (s : State) (p : Nat) (f : Port → Port) : (s.updPort p f).issuer = s.issuer := rfl
@[simp] theorem updPort_turn (s : State) (p : Nat) (f : Port → Port) : (s.updPort p f).turn = s.turn := rfl
@[simp] theorem updPort_stalled (s : State) (p : Nat) (f : Port → Port) : (s.updPort p f).stalled = s.stalled := rfl
@[simp] theorem updPort_free (s : State) (p : Nat) (f : Port → Port) : (s.updPort p f).free = s.free := rfl
@[simp] theorem updPort_nextId (s : State) (p : Nat) (f : Port → Port) : (s.updPort p f).nextId = s.nextId := rfl
@[simp] theorem updPort_hostRd (s : State) (p : Nat) (f : Port → Port) : (s.updPort p f).hostRd = s.hostRd := rfl
@[simp] theorem updPort_hostBytes (s : State) (p : Nat) (f : Port → Port) : (s.updPort p f).hostBytes = s.hostBytes := rfl
@[simp] theorem updPort_errors (s : State) (p : Nat) (f : Port → Port) : (s.updPort p f).errors = s.errors := rfl
@[simp] theorem updPort_mem (s : State) (p : Nat) (f : Port → Port) : (s.updPort p f).mem = s.mem := rfl
@[simp] theorem updPort_lines (s : State) (p : Nat) (f : Port → Port) : (s.updPort p f).lines = s.lines := rfl
@[simp] theorem updPort_billets (s : State) (p : Nat) (f : Port → Port) : (s.updPort p f).billets = s.billets := rfl
@[simp] theorem updPort_pages (s : State) (p : Nat) (f : Port → Port) : (s.updPort p f).pages = s.pages := rfl
@[simp] theorem updPort_frames (s : State) (p : Nat) (f : Port → Port) : (s.updPort p f).frames = s.frames := rfl
@[simp] theorem updPort_pool (s : State) (p : Nat) (f : Port → Port) : (s.updPort p f).pool = s.pool := rfl
@[simp] theorem updPort_msc (s : State) (p : Nat) (f : Port → Port) : (s.updPort p f).msc = s.msc := rfl
@[simp] theorem updPort_hbm (s : State) (p : Nat) (f : Port → Port) : (s.updPort p f).hbm = s.hbm := rfl
@[simp] theorem updPort_descs (s : State) (p : Nat) (f : Port → Port) : (s.updPort p f).descs = s.descs := rfl
@[simp] theorem updPort_migrations (s : State) (p : Nat) (f : Port → Port) : (s.updPort p f).migrations = s.migrations := rfl
@[simp] theorem updPort_tier (s : State) (p : Nat) (f : Port → Port) : (s.updPort p f).tier = s.tier := rfl
@[simp] theorem updPort_tierData (s : State) (p : Nat) (f : Port → Port) : (s.updPort p f).tierData = s.tierData := rfl
@[simp] theorem updPort_homeClk (s : State) (p : Nat) (f : Port → Port) : (s.updPort p f).homeClk = s.homeClk := rfl
@[simp] theorem updPort_halfWidth (s : State) (p : Nat) (f : Port → Port) : (s.updPort p f).halfWidth = s.halfWidth := rfl
@[simp] theorem updPort_prt (s : State) (p : Nat) (f : Port → Port) : (s.updPort p f).prt = s.prt := rfl
@[simp] theorem updPort_proxy (s : State) (p : Nat) (f : Port → Port) : (s.updPort p f).proxy = s.proxy := rfl
@[simp] theorem updPort_cores (s : State) (p : Nat) (f : Port → Port) : (s.updPort p f).cores = s.cores := rfl
@[simp] theorem updPort_teams (s : State) (p : Nat) (f : Port → Port) : (s.updPort p f).teams = s.teams := rfl
@[simp] theorem updPort_ctxs (s : State) (p : Nat) (f : Port → Port) : (s.updPort p f).ctxs = s.ctxs := rfl
@[simp] theorem updPort_coreVd (s : State) (p : Nat) (f : Port → Port) : (s.updPort p f).coreVd = s.coreVd := rfl
@[simp] theorem updPort_vds (s : State) (p : Nat) (f : Port → Port) : (s.updPort p f).vds = s.vds := rfl
@[simp] theorem updPort_slovi (s : State) (p : Nat) (f : Port → Port) : (s.updPort p f).slovi = s.slovi := rfl
@[simp] theorem updPort_regs (s : State) (p : Nat) (f : Port → Port) : (s.updPort p f).regs = s.regs := rfl
@[simp] theorem updPort_ns (s : State) (p : Nat) (f : Port → Port) : (s.updPort p f).ns = s.ns := rfl
@[simp] theorem updPort_posts (s : State) (p : Nat) (f : Port → Port) : (s.updPort p f).posts = s.posts := rfl
@[simp] theorem updPort_hostOut (s : State) (p : Nat) (f : Port → Port) : (s.updPort p f).hostOut = s.hostOut := rfl
@[simp] theorem updPort_hostPend (s : State) (p : Nat) (f : Port → Port) : (s.updPort p f).hostPend = s.hostPend := rfl
@[simp] theorem updPort_hostReads (s : State) (p : Nat) (f : Port → Port) : (s.updPort p f).hostReads = s.hostReads := rfl
@[simp] theorem updPort_fabricOut (s : State) (p : Nat) (f : Port → Port) : (s.updPort p f).fabricOut = s.fabricOut := rfl
@[simp] theorem updPort_peerAsks (s : State) (p : Nat) (f : Port → Port) : (s.updPort p f).peerAsks = s.peerAsks := rfl
@[simp] theorem updPort_peerReqs (s : State) (p : Nat) (f : Port → Port) : (s.updPort p f).peerReqs = s.peerReqs := rfl
@[simp] theorem updPort_kills (s : State) (p : Nat) (f : Port → Port) : (s.updPort p f).kills = s.kills := rfl

@[simp] theorem updReg_agenda (s : State) (f : Regs → Regs) : (s.updReg f).agenda = s.agenda := rfl
@[simp] theorem updReg_issuer (s : State) (f : Regs → Regs) : (s.updReg f).issuer = s.issuer := rfl
@[simp] theorem updReg_turn (s : State) (f : Regs → Regs) : (s.updReg f).turn = s.turn := rfl
@[simp] theorem updReg_stalled (s : State) (f : Regs → Regs) : (s.updReg f).stalled = s.stalled := rfl
@[simp] theorem updReg_free (s : State) (f : Regs → Regs) : (s.updReg f).free = s.free := rfl
@[simp] theorem updReg_nextId (s : State) (f : Regs → Regs) : (s.updReg f).nextId = s.nextId := rfl
@[simp] theorem updReg_hostRd (s : State) (f : Regs → Regs) : (s.updReg f).hostRd = s.hostRd := rfl
@[simp] theorem updReg_hostBytes (s : State) (f : Regs → Regs) : (s.updReg f).hostBytes = s.hostBytes := rfl
@[simp] theorem updReg_errors (s : State) (f : Regs → Regs) : (s.updReg f).errors = s.errors := rfl
@[simp] theorem updReg_mem (s : State) (f : Regs → Regs) : (s.updReg f).mem = s.mem := rfl
@[simp] theorem updReg_lines (s : State) (f : Regs → Regs) : (s.updReg f).lines = s.lines := rfl
@[simp] theorem updReg_billets (s : State) (f : Regs → Regs) : (s.updReg f).billets = s.billets := rfl
@[simp] theorem updReg_pages (s : State) (f : Regs → Regs) : (s.updReg f).pages = s.pages := rfl
@[simp] theorem updReg_frames (s : State) (f : Regs → Regs) : (s.updReg f).frames = s.frames := rfl
@[simp] theorem updReg_pool (s : State) (f : Regs → Regs) : (s.updReg f).pool = s.pool := rfl
@[simp] theorem updReg_msc (s : State) (f : Regs → Regs) : (s.updReg f).msc = s.msc := rfl
@[simp] theorem updReg_hbm (s : State) (f : Regs → Regs) : (s.updReg f).hbm = s.hbm := rfl
@[simp] theorem updReg_descs (s : State) (f : Regs → Regs) : (s.updReg f).descs = s.descs := rfl
@[simp] theorem updReg_migrations (s : State) (f : Regs → Regs) : (s.updReg f).migrations = s.migrations := rfl
@[simp] theorem updReg_tier (s : State) (f : Regs → Regs) : (s.updReg f).tier = s.tier := rfl
@[simp] theorem updReg_tierData (s : State) (f : Regs → Regs) : (s.updReg f).tierData = s.tierData := rfl
@[simp] theorem updReg_homeClk (s : State) (f : Regs → Regs) : (s.updReg f).homeClk = s.homeClk := rfl
@[simp] theorem updReg_halfWidth (s : State) (f : Regs → Regs) : (s.updReg f).halfWidth = s.halfWidth := rfl
@[simp] theorem updReg_prt (s : State) (f : Regs → Regs) : (s.updReg f).prt = s.prt := rfl
@[simp] theorem updReg_proxy (s : State) (f : Regs → Regs) : (s.updReg f).proxy = s.proxy := rfl
@[simp] theorem updReg_cores (s : State) (f : Regs → Regs) : (s.updReg f).cores = s.cores := rfl
@[simp] theorem updReg_teams (s : State) (f : Regs → Regs) : (s.updReg f).teams = s.teams := rfl
@[simp] theorem updReg_ctxs (s : State) (f : Regs → Regs) : (s.updReg f).ctxs = s.ctxs := rfl
@[simp] theorem updReg_coreVd (s : State) (f : Regs → Regs) : (s.updReg f).coreVd = s.coreVd := rfl
@[simp] theorem updReg_vds (s : State) (f : Regs → Regs) : (s.updReg f).vds = s.vds := rfl
@[simp] theorem updReg_ports (s : State) (f : Regs → Regs) : (s.updReg f).ports = s.ports := rfl
@[simp] theorem updReg_slovi (s : State) (f : Regs → Regs) : (s.updReg f).slovi = s.slovi := rfl
@[simp] theorem updReg_ns (s : State) (f : Regs → Regs) : (s.updReg f).ns = s.ns := rfl
@[simp] theorem updReg_posts (s : State) (f : Regs → Regs) : (s.updReg f).posts = s.posts := rfl
@[simp] theorem updReg_hostOut (s : State) (f : Regs → Regs) : (s.updReg f).hostOut = s.hostOut := rfl
@[simp] theorem updReg_hostPend (s : State) (f : Regs → Regs) : (s.updReg f).hostPend = s.hostPend := rfl
@[simp] theorem updReg_hostReads (s : State) (f : Regs → Regs) : (s.updReg f).hostReads = s.hostReads := rfl
@[simp] theorem updReg_fabricOut (s : State) (f : Regs → Regs) : (s.updReg f).fabricOut = s.fabricOut := rfl
@[simp] theorem updReg_peerAsks (s : State) (f : Regs → Regs) : (s.updReg f).peerAsks = s.peerAsks := rfl
@[simp] theorem updReg_peerReqs (s : State) (f : Regs → Regs) : (s.updReg f).peerReqs = s.peerReqs := rfl
@[simp] theorem updReg_kills (s : State) (f : Regs → Regs) : (s.updReg f).kills = s.kills := rfl

@[simp] theorem writeMem_agenda (s : State) (ea : Nat) (bs : List Byte) : (s.writeMem ea bs).agenda = s.agenda := rfl
@[simp] theorem writeMem_issuer (s : State) (ea : Nat) (bs : List Byte) : (s.writeMem ea bs).issuer = s.issuer := rfl
@[simp] theorem writeMem_turn (s : State) (ea : Nat) (bs : List Byte) : (s.writeMem ea bs).turn = s.turn := rfl
@[simp] theorem writeMem_stalled (s : State) (ea : Nat) (bs : List Byte) : (s.writeMem ea bs).stalled = s.stalled := rfl
@[simp] theorem writeMem_free (s : State) (ea : Nat) (bs : List Byte) : (s.writeMem ea bs).free = s.free := rfl
@[simp] theorem writeMem_nextId (s : State) (ea : Nat) (bs : List Byte) : (s.writeMem ea bs).nextId = s.nextId := rfl
@[simp] theorem writeMem_hostRd (s : State) (ea : Nat) (bs : List Byte) : (s.writeMem ea bs).hostRd = s.hostRd := rfl
@[simp] theorem writeMem_hostBytes (s : State) (ea : Nat) (bs : List Byte) : (s.writeMem ea bs).hostBytes = s.hostBytes := rfl
@[simp] theorem writeMem_errors (s : State) (ea : Nat) (bs : List Byte) : (s.writeMem ea bs).errors = s.errors := rfl
@[simp] theorem writeMem_lines (s : State) (ea : Nat) (bs : List Byte) : (s.writeMem ea bs).lines = s.lines := rfl
@[simp] theorem writeMem_billets (s : State) (ea : Nat) (bs : List Byte) : (s.writeMem ea bs).billets = s.billets := rfl
@[simp] theorem writeMem_pages (s : State) (ea : Nat) (bs : List Byte) : (s.writeMem ea bs).pages = s.pages := rfl
@[simp] theorem writeMem_frames (s : State) (ea : Nat) (bs : List Byte) : (s.writeMem ea bs).frames = s.frames := rfl
@[simp] theorem writeMem_pool (s : State) (ea : Nat) (bs : List Byte) : (s.writeMem ea bs).pool = s.pool := rfl
@[simp] theorem writeMem_msc (s : State) (ea : Nat) (bs : List Byte) : (s.writeMem ea bs).msc = s.msc := rfl
@[simp] theorem writeMem_hbm (s : State) (ea : Nat) (bs : List Byte) : (s.writeMem ea bs).hbm = s.hbm := rfl
@[simp] theorem writeMem_descs (s : State) (ea : Nat) (bs : List Byte) : (s.writeMem ea bs).descs = s.descs := rfl
@[simp] theorem writeMem_migrations (s : State) (ea : Nat) (bs : List Byte) : (s.writeMem ea bs).migrations = s.migrations := rfl
@[simp] theorem writeMem_tier (s : State) (ea : Nat) (bs : List Byte) : (s.writeMem ea bs).tier = s.tier := rfl
@[simp] theorem writeMem_tierData (s : State) (ea : Nat) (bs : List Byte) : (s.writeMem ea bs).tierData = s.tierData := rfl
@[simp] theorem writeMem_homeClk (s : State) (ea : Nat) (bs : List Byte) : (s.writeMem ea bs).homeClk = s.homeClk := rfl
@[simp] theorem writeMem_halfWidth (s : State) (ea : Nat) (bs : List Byte) : (s.writeMem ea bs).halfWidth = s.halfWidth := rfl
@[simp] theorem writeMem_prt (s : State) (ea : Nat) (bs : List Byte) : (s.writeMem ea bs).prt = s.prt := rfl
@[simp] theorem writeMem_proxy (s : State) (ea : Nat) (bs : List Byte) : (s.writeMem ea bs).proxy = s.proxy := rfl
@[simp] theorem writeMem_cores (s : State) (ea : Nat) (bs : List Byte) : (s.writeMem ea bs).cores = s.cores := rfl
@[simp] theorem writeMem_teams (s : State) (ea : Nat) (bs : List Byte) : (s.writeMem ea bs).teams = s.teams := rfl
@[simp] theorem writeMem_ctxs (s : State) (ea : Nat) (bs : List Byte) : (s.writeMem ea bs).ctxs = s.ctxs := rfl
@[simp] theorem writeMem_coreVd (s : State) (ea : Nat) (bs : List Byte) : (s.writeMem ea bs).coreVd = s.coreVd := rfl
@[simp] theorem writeMem_vds (s : State) (ea : Nat) (bs : List Byte) : (s.writeMem ea bs).vds = s.vds := rfl
@[simp] theorem writeMem_ports (s : State) (ea : Nat) (bs : List Byte) : (s.writeMem ea bs).ports = s.ports := rfl
@[simp] theorem writeMem_slovi (s : State) (ea : Nat) (bs : List Byte) : (s.writeMem ea bs).slovi = s.slovi := rfl
@[simp] theorem writeMem_regs (s : State) (ea : Nat) (bs : List Byte) : (s.writeMem ea bs).regs = s.regs := rfl
@[simp] theorem writeMem_ns (s : State) (ea : Nat) (bs : List Byte) : (s.writeMem ea bs).ns = s.ns := rfl
@[simp] theorem writeMem_posts (s : State) (ea : Nat) (bs : List Byte) : (s.writeMem ea bs).posts = s.posts := rfl
@[simp] theorem writeMem_hostOut (s : State) (ea : Nat) (bs : List Byte) : (s.writeMem ea bs).hostOut = s.hostOut := rfl
@[simp] theorem writeMem_hostPend (s : State) (ea : Nat) (bs : List Byte) : (s.writeMem ea bs).hostPend = s.hostPend := rfl
@[simp] theorem writeMem_hostReads (s : State) (ea : Nat) (bs : List Byte) : (s.writeMem ea bs).hostReads = s.hostReads := rfl
@[simp] theorem writeMem_fabricOut (s : State) (ea : Nat) (bs : List Byte) : (s.writeMem ea bs).fabricOut = s.fabricOut := rfl
@[simp] theorem writeMem_peerAsks (s : State) (ea : Nat) (bs : List Byte) : (s.writeMem ea bs).peerAsks = s.peerAsks := rfl
@[simp] theorem writeMem_peerReqs (s : State) (ea : Nat) (bs : List Byte) : (s.writeMem ea bs).peerReqs = s.peerReqs := rfl
@[simp] theorem writeMem_kills (s : State) (ea : Nat) (bs : List Byte) : (s.writeMem ea bs).kills = s.kills := rfl

@[simp] theorem post_agenda (s : State) (p : PartWrite) : (s.post p).agenda = s.agenda := rfl
@[simp] theorem post_issuer (s : State) (p : PartWrite) : (s.post p).issuer = s.issuer := rfl
@[simp] theorem post_turn (s : State) (p : PartWrite) : (s.post p).turn = s.turn := rfl
@[simp] theorem post_stalled (s : State) (p : PartWrite) : (s.post p).stalled = s.stalled := rfl
@[simp] theorem post_free (s : State) (p : PartWrite) : (s.post p).free = s.free := rfl
@[simp] theorem post_nextId (s : State) (p : PartWrite) : (s.post p).nextId = s.nextId := rfl
@[simp] theorem post_hostRd (s : State) (p : PartWrite) : (s.post p).hostRd = s.hostRd := rfl
@[simp] theorem post_hostBytes (s : State) (p : PartWrite) : (s.post p).hostBytes = s.hostBytes := rfl
@[simp] theorem post_errors (s : State) (p : PartWrite) : (s.post p).errors = s.errors := rfl
@[simp] theorem post_mem (s : State) (p : PartWrite) : (s.post p).mem = s.mem := rfl
@[simp] theorem post_lines (s : State) (p : PartWrite) : (s.post p).lines = s.lines := rfl
@[simp] theorem post_billets (s : State) (p : PartWrite) : (s.post p).billets = s.billets := rfl
@[simp] theorem post_pages (s : State) (p : PartWrite) : (s.post p).pages = s.pages := rfl
@[simp] theorem post_frames (s : State) (p : PartWrite) : (s.post p).frames = s.frames := rfl
@[simp] theorem post_pool (s : State) (p : PartWrite) : (s.post p).pool = s.pool := rfl
@[simp] theorem post_msc (s : State) (p : PartWrite) : (s.post p).msc = s.msc := rfl
@[simp] theorem post_hbm (s : State) (p : PartWrite) : (s.post p).hbm = s.hbm := rfl
@[simp] theorem post_descs (s : State) (p : PartWrite) : (s.post p).descs = s.descs := rfl
@[simp] theorem post_migrations (s : State) (p : PartWrite) : (s.post p).migrations = s.migrations := rfl
@[simp] theorem post_tier (s : State) (p : PartWrite) : (s.post p).tier = s.tier := rfl
@[simp] theorem post_tierData (s : State) (p : PartWrite) : (s.post p).tierData = s.tierData := rfl
@[simp] theorem post_homeClk (s : State) (p : PartWrite) : (s.post p).homeClk = s.homeClk := rfl
@[simp] theorem post_halfWidth (s : State) (p : PartWrite) : (s.post p).halfWidth = s.halfWidth := rfl
@[simp] theorem post_prt (s : State) (p : PartWrite) : (s.post p).prt = s.prt := rfl
@[simp] theorem post_proxy (s : State) (p : PartWrite) : (s.post p).proxy = s.proxy := rfl
@[simp] theorem post_cores (s : State) (p : PartWrite) : (s.post p).cores = s.cores := rfl
@[simp] theorem post_teams (s : State) (p : PartWrite) : (s.post p).teams = s.teams := rfl
@[simp] theorem post_ctxs (s : State) (p : PartWrite) : (s.post p).ctxs = s.ctxs := rfl
@[simp] theorem post_coreVd (s : State) (p : PartWrite) : (s.post p).coreVd = s.coreVd := rfl
@[simp] theorem post_vds (s : State) (p : PartWrite) : (s.post p).vds = s.vds := rfl
@[simp] theorem post_ports (s : State) (p : PartWrite) : (s.post p).ports = s.ports := rfl
@[simp] theorem post_slovi (s : State) (p : PartWrite) : (s.post p).slovi = s.slovi := rfl
@[simp] theorem post_regs (s : State) (p : PartWrite) : (s.post p).regs = s.regs := rfl
@[simp] theorem post_ns (s : State) (p : PartWrite) : (s.post p).ns = s.ns := rfl
@[simp] theorem post_hostOut (s : State) (p : PartWrite) : (s.post p).hostOut = s.hostOut := rfl
@[simp] theorem post_hostPend (s : State) (p : PartWrite) : (s.post p).hostPend = s.hostPend := rfl
@[simp] theorem post_hostReads (s : State) (p : PartWrite) : (s.post p).hostReads = s.hostReads := rfl
@[simp] theorem post_fabricOut (s : State) (p : PartWrite) : (s.post p).fabricOut = s.fabricOut := rfl
@[simp] theorem post_peerAsks (s : State) (p : PartWrite) : (s.post p).peerAsks = s.peerAsks := rfl
@[simp] theorem post_peerReqs (s : State) (p : PartWrite) : (s.post p).peerReqs = s.peerReqs := rfl
@[simp] theorem post_kills (s : State) (p : PartWrite) : (s.post p).kills = s.kills := rfl

@[simp] theorem updTeam_agenda (s : State) (k : Nat) (f : Team → Team) : (s.updTeam k f).agenda = s.agenda := by unfold State.updTeam; split <;> rfl
@[simp] theorem updTeam_issuer (s : State) (k : Nat) (f : Team → Team) : (s.updTeam k f).issuer = s.issuer := by unfold State.updTeam; split <;> rfl
@[simp] theorem updTeam_turn (s : State) (k : Nat) (f : Team → Team) : (s.updTeam k f).turn = s.turn := by unfold State.updTeam; split <;> rfl
@[simp] theorem updTeam_stalled (s : State) (k : Nat) (f : Team → Team) : (s.updTeam k f).stalled = s.stalled := by unfold State.updTeam; split <;> rfl
@[simp] theorem updTeam_free (s : State) (k : Nat) (f : Team → Team) : (s.updTeam k f).free = s.free := by unfold State.updTeam; split <;> rfl
@[simp] theorem updTeam_nextId (s : State) (k : Nat) (f : Team → Team) : (s.updTeam k f).nextId = s.nextId := by unfold State.updTeam; split <;> rfl
@[simp] theorem updTeam_hostRd (s : State) (k : Nat) (f : Team → Team) : (s.updTeam k f).hostRd = s.hostRd := by unfold State.updTeam; split <;> rfl
@[simp] theorem updTeam_hostBytes (s : State) (k : Nat) (f : Team → Team) : (s.updTeam k f).hostBytes = s.hostBytes := by unfold State.updTeam; split <;> rfl
@[simp] theorem updTeam_errors (s : State) (k : Nat) (f : Team → Team) : (s.updTeam k f).errors = s.errors := by unfold State.updTeam; split <;> rfl
@[simp] theorem updTeam_mem (s : State) (k : Nat) (f : Team → Team) : (s.updTeam k f).mem = s.mem := by unfold State.updTeam; split <;> rfl
@[simp] theorem updTeam_lines (s : State) (k : Nat) (f : Team → Team) : (s.updTeam k f).lines = s.lines := by unfold State.updTeam; split <;> rfl
@[simp] theorem updTeam_billets (s : State) (k : Nat) (f : Team → Team) : (s.updTeam k f).billets = s.billets := by unfold State.updTeam; split <;> rfl
@[simp] theorem updTeam_pages (s : State) (k : Nat) (f : Team → Team) : (s.updTeam k f).pages = s.pages := by unfold State.updTeam; split <;> rfl
@[simp] theorem updTeam_frames (s : State) (k : Nat) (f : Team → Team) : (s.updTeam k f).frames = s.frames := by unfold State.updTeam; split <;> rfl
@[simp] theorem updTeam_pool (s : State) (k : Nat) (f : Team → Team) : (s.updTeam k f).pool = s.pool := by unfold State.updTeam; split <;> rfl
@[simp] theorem updTeam_msc (s : State) (k : Nat) (f : Team → Team) : (s.updTeam k f).msc = s.msc := by unfold State.updTeam; split <;> rfl
@[simp] theorem updTeam_hbm (s : State) (k : Nat) (f : Team → Team) : (s.updTeam k f).hbm = s.hbm := by unfold State.updTeam; split <;> rfl
@[simp] theorem updTeam_descs (s : State) (k : Nat) (f : Team → Team) : (s.updTeam k f).descs = s.descs := by unfold State.updTeam; split <;> rfl
@[simp] theorem updTeam_migrations (s : State) (k : Nat) (f : Team → Team) : (s.updTeam k f).migrations = s.migrations := by unfold State.updTeam; split <;> rfl
@[simp] theorem updTeam_tier (s : State) (k : Nat) (f : Team → Team) : (s.updTeam k f).tier = s.tier := by unfold State.updTeam; split <;> rfl
@[simp] theorem updTeam_tierData (s : State) (k : Nat) (f : Team → Team) : (s.updTeam k f).tierData = s.tierData := by unfold State.updTeam; split <;> rfl
@[simp] theorem updTeam_homeClk (s : State) (k : Nat) (f : Team → Team) : (s.updTeam k f).homeClk = s.homeClk := by unfold State.updTeam; split <;> rfl
@[simp] theorem updTeam_halfWidth (s : State) (k : Nat) (f : Team → Team) : (s.updTeam k f).halfWidth = s.halfWidth := by unfold State.updTeam; split <;> rfl
@[simp] theorem updTeam_prt (s : State) (k : Nat) (f : Team → Team) : (s.updTeam k f).prt = s.prt := by unfold State.updTeam; split <;> rfl
@[simp] theorem updTeam_proxy (s : State) (k : Nat) (f : Team → Team) : (s.updTeam k f).proxy = s.proxy := by unfold State.updTeam; split <;> rfl
@[simp] theorem updTeam_cores (s : State) (k : Nat) (f : Team → Team) : (s.updTeam k f).cores = s.cores := by unfold State.updTeam; split <;> rfl
@[simp] theorem updTeam_ctxs (s : State) (k : Nat) (f : Team → Team) : (s.updTeam k f).ctxs = s.ctxs := by unfold State.updTeam; split <;> rfl
@[simp] theorem updTeam_coreVd (s : State) (k : Nat) (f : Team → Team) : (s.updTeam k f).coreVd = s.coreVd := by unfold State.updTeam; split <;> rfl
@[simp] theorem updTeam_vds (s : State) (k : Nat) (f : Team → Team) : (s.updTeam k f).vds = s.vds := by unfold State.updTeam; split <;> rfl
@[simp] theorem updTeam_ports (s : State) (k : Nat) (f : Team → Team) : (s.updTeam k f).ports = s.ports := by unfold State.updTeam; split <;> rfl
@[simp] theorem updTeam_slovi (s : State) (k : Nat) (f : Team → Team) : (s.updTeam k f).slovi = s.slovi := by unfold State.updTeam; split <;> rfl
@[simp] theorem updTeam_regs (s : State) (k : Nat) (f : Team → Team) : (s.updTeam k f).regs = s.regs := by unfold State.updTeam; split <;> rfl
@[simp] theorem updTeam_ns (s : State) (k : Nat) (f : Team → Team) : (s.updTeam k f).ns = s.ns := by unfold State.updTeam; split <;> rfl
@[simp] theorem updTeam_posts (s : State) (k : Nat) (f : Team → Team) : (s.updTeam k f).posts = s.posts := by unfold State.updTeam; split <;> rfl
@[simp] theorem updTeam_hostOut (s : State) (k : Nat) (f : Team → Team) : (s.updTeam k f).hostOut = s.hostOut := by unfold State.updTeam; split <;> rfl
@[simp] theorem updTeam_hostPend (s : State) (k : Nat) (f : Team → Team) : (s.updTeam k f).hostPend = s.hostPend := by unfold State.updTeam; split <;> rfl
@[simp] theorem updTeam_hostReads (s : State) (k : Nat) (f : Team → Team) : (s.updTeam k f).hostReads = s.hostReads := by unfold State.updTeam; split <;> rfl
@[simp] theorem updTeam_fabricOut (s : State) (k : Nat) (f : Team → Team) : (s.updTeam k f).fabricOut = s.fabricOut := by unfold State.updTeam; split <;> rfl
@[simp] theorem updTeam_peerAsks (s : State) (k : Nat) (f : Team → Team) : (s.updTeam k f).peerAsks = s.peerAsks := by unfold State.updTeam; split <;> rfl
@[simp] theorem updTeam_peerReqs (s : State) (k : Nat) (f : Team → Team) : (s.updTeam k f).peerReqs = s.peerReqs := by unfold State.updTeam; split <;> rfl
@[simp] theorem updTeam_kills (s : State) (k : Nat) (f : Team → Team) : (s.updTeam k f).kills = s.kills := by unfold State.updTeam; split <;> rfl

@[simp] theorem updPage_agenda (s : State) (p : Nat) (f : Page → Page) : (s.updPage p f).agenda = s.agenda := by unfold State.updPage; split <;> rfl
@[simp] theorem updPage_issuer (s : State) (p : Nat) (f : Page → Page) : (s.updPage p f).issuer = s.issuer := by unfold State.updPage; split <;> rfl
@[simp] theorem updPage_turn (s : State) (p : Nat) (f : Page → Page) : (s.updPage p f).turn = s.turn := by unfold State.updPage; split <;> rfl
@[simp] theorem updPage_stalled (s : State) (p : Nat) (f : Page → Page) : (s.updPage p f).stalled = s.stalled := by unfold State.updPage; split <;> rfl
@[simp] theorem updPage_free (s : State) (p : Nat) (f : Page → Page) : (s.updPage p f).free = s.free := by unfold State.updPage; split <;> rfl
@[simp] theorem updPage_nextId (s : State) (p : Nat) (f : Page → Page) : (s.updPage p f).nextId = s.nextId := by unfold State.updPage; split <;> rfl
@[simp] theorem updPage_hostRd (s : State) (p : Nat) (f : Page → Page) : (s.updPage p f).hostRd = s.hostRd := by unfold State.updPage; split <;> rfl
@[simp] theorem updPage_hostBytes (s : State) (p : Nat) (f : Page → Page) : (s.updPage p f).hostBytes = s.hostBytes := by unfold State.updPage; split <;> rfl
@[simp] theorem updPage_errors (s : State) (p : Nat) (f : Page → Page) : (s.updPage p f).errors = s.errors := by unfold State.updPage; split <;> rfl
@[simp] theorem updPage_mem (s : State) (p : Nat) (f : Page → Page) : (s.updPage p f).mem = s.mem := by unfold State.updPage; split <;> rfl
@[simp] theorem updPage_lines (s : State) (p : Nat) (f : Page → Page) : (s.updPage p f).lines = s.lines := by unfold State.updPage; split <;> rfl
@[simp] theorem updPage_billets (s : State) (p : Nat) (f : Page → Page) : (s.updPage p f).billets = s.billets := by unfold State.updPage; split <;> rfl
@[simp] theorem updPage_frames (s : State) (p : Nat) (f : Page → Page) : (s.updPage p f).frames = s.frames := by unfold State.updPage; split <;> rfl
@[simp] theorem updPage_pool (s : State) (p : Nat) (f : Page → Page) : (s.updPage p f).pool = s.pool := by unfold State.updPage; split <;> rfl
@[simp] theorem updPage_msc (s : State) (p : Nat) (f : Page → Page) : (s.updPage p f).msc = s.msc := by unfold State.updPage; split <;> rfl
@[simp] theorem updPage_hbm (s : State) (p : Nat) (f : Page → Page) : (s.updPage p f).hbm = s.hbm := by unfold State.updPage; split <;> rfl
@[simp] theorem updPage_descs (s : State) (p : Nat) (f : Page → Page) : (s.updPage p f).descs = s.descs := by unfold State.updPage; split <;> rfl
@[simp] theorem updPage_migrations (s : State) (p : Nat) (f : Page → Page) : (s.updPage p f).migrations = s.migrations := by unfold State.updPage; split <;> rfl
@[simp] theorem updPage_tier (s : State) (p : Nat) (f : Page → Page) : (s.updPage p f).tier = s.tier := by unfold State.updPage; split <;> rfl
@[simp] theorem updPage_tierData (s : State) (p : Nat) (f : Page → Page) : (s.updPage p f).tierData = s.tierData := by unfold State.updPage; split <;> rfl
@[simp] theorem updPage_homeClk (s : State) (p : Nat) (f : Page → Page) : (s.updPage p f).homeClk = s.homeClk := by unfold State.updPage; split <;> rfl
@[simp] theorem updPage_halfWidth (s : State) (p : Nat) (f : Page → Page) : (s.updPage p f).halfWidth = s.halfWidth := by unfold State.updPage; split <;> rfl
@[simp] theorem updPage_prt (s : State) (p : Nat) (f : Page → Page) : (s.updPage p f).prt = s.prt := by unfold State.updPage; split <;> rfl
@[simp] theorem updPage_proxy (s : State) (p : Nat) (f : Page → Page) : (s.updPage p f).proxy = s.proxy := by unfold State.updPage; split <;> rfl
@[simp] theorem updPage_cores (s : State) (p : Nat) (f : Page → Page) : (s.updPage p f).cores = s.cores := by unfold State.updPage; split <;> rfl
@[simp] theorem updPage_teams (s : State) (p : Nat) (f : Page → Page) : (s.updPage p f).teams = s.teams := by unfold State.updPage; split <;> rfl
@[simp] theorem updPage_ctxs (s : State) (p : Nat) (f : Page → Page) : (s.updPage p f).ctxs = s.ctxs := by unfold State.updPage; split <;> rfl
@[simp] theorem updPage_coreVd (s : State) (p : Nat) (f : Page → Page) : (s.updPage p f).coreVd = s.coreVd := by unfold State.updPage; split <;> rfl
@[simp] theorem updPage_vds (s : State) (p : Nat) (f : Page → Page) : (s.updPage p f).vds = s.vds := by unfold State.updPage; split <;> rfl
@[simp] theorem updPage_ports (s : State) (p : Nat) (f : Page → Page) : (s.updPage p f).ports = s.ports := by unfold State.updPage; split <;> rfl
@[simp] theorem updPage_slovi (s : State) (p : Nat) (f : Page → Page) : (s.updPage p f).slovi = s.slovi := by unfold State.updPage; split <;> rfl
@[simp] theorem updPage_regs (s : State) (p : Nat) (f : Page → Page) : (s.updPage p f).regs = s.regs := by unfold State.updPage; split <;> rfl
@[simp] theorem updPage_ns (s : State) (p : Nat) (f : Page → Page) : (s.updPage p f).ns = s.ns := by unfold State.updPage; split <;> rfl
@[simp] theorem updPage_posts (s : State) (p : Nat) (f : Page → Page) : (s.updPage p f).posts = s.posts := by unfold State.updPage; split <;> rfl
@[simp] theorem updPage_hostOut (s : State) (p : Nat) (f : Page → Page) : (s.updPage p f).hostOut = s.hostOut := by unfold State.updPage; split <;> rfl
@[simp] theorem updPage_hostPend (s : State) (p : Nat) (f : Page → Page) : (s.updPage p f).hostPend = s.hostPend := by unfold State.updPage; split <;> rfl
@[simp] theorem updPage_hostReads (s : State) (p : Nat) (f : Page → Page) : (s.updPage p f).hostReads = s.hostReads := by unfold State.updPage; split <;> rfl
@[simp] theorem updPage_fabricOut (s : State) (p : Nat) (f : Page → Page) : (s.updPage p f).fabricOut = s.fabricOut := by unfold State.updPage; split <;> rfl
@[simp] theorem updPage_peerAsks (s : State) (p : Nat) (f : Page → Page) : (s.updPage p f).peerAsks = s.peerAsks := by unfold State.updPage; split <;> rfl
@[simp] theorem updPage_peerReqs (s : State) (p : Nat) (f : Page → Page) : (s.updPage p f).peerReqs = s.peerReqs := by unfold State.updPage; split <;> rfl
@[simp] theorem updPage_kills (s : State) (p : Nat) (f : Page → Page) : (s.updPage p f).kills = s.kills := by unfold State.updPage; split <;> rfl

@[simp] theorem updCtx_agenda (s : State) (x : Nat) (f : Ctx → Ctx) : (s.updCtx x f).agenda = s.agenda := by unfold State.updCtx; split <;> rfl
@[simp] theorem updCtx_issuer (s : State) (x : Nat) (f : Ctx → Ctx) : (s.updCtx x f).issuer = s.issuer := by unfold State.updCtx; split <;> rfl
@[simp] theorem updCtx_turn (s : State) (x : Nat) (f : Ctx → Ctx) : (s.updCtx x f).turn = s.turn := by unfold State.updCtx; split <;> rfl
@[simp] theorem updCtx_stalled (s : State) (x : Nat) (f : Ctx → Ctx) : (s.updCtx x f).stalled = s.stalled := by unfold State.updCtx; split <;> rfl
@[simp] theorem updCtx_free (s : State) (x : Nat) (f : Ctx → Ctx) : (s.updCtx x f).free = s.free := by unfold State.updCtx; split <;> rfl
@[simp] theorem updCtx_nextId (s : State) (x : Nat) (f : Ctx → Ctx) : (s.updCtx x f).nextId = s.nextId := by unfold State.updCtx; split <;> rfl
@[simp] theorem updCtx_hostRd (s : State) (x : Nat) (f : Ctx → Ctx) : (s.updCtx x f).hostRd = s.hostRd := by unfold State.updCtx; split <;> rfl
@[simp] theorem updCtx_hostBytes (s : State) (x : Nat) (f : Ctx → Ctx) : (s.updCtx x f).hostBytes = s.hostBytes := by unfold State.updCtx; split <;> rfl
@[simp] theorem updCtx_errors (s : State) (x : Nat) (f : Ctx → Ctx) : (s.updCtx x f).errors = s.errors := by unfold State.updCtx; split <;> rfl
@[simp] theorem updCtx_mem (s : State) (x : Nat) (f : Ctx → Ctx) : (s.updCtx x f).mem = s.mem := by unfold State.updCtx; split <;> rfl
@[simp] theorem updCtx_lines (s : State) (x : Nat) (f : Ctx → Ctx) : (s.updCtx x f).lines = s.lines := by unfold State.updCtx; split <;> rfl
@[simp] theorem updCtx_billets (s : State) (x : Nat) (f : Ctx → Ctx) : (s.updCtx x f).billets = s.billets := by unfold State.updCtx; split <;> rfl
@[simp] theorem updCtx_pages (s : State) (x : Nat) (f : Ctx → Ctx) : (s.updCtx x f).pages = s.pages := by unfold State.updCtx; split <;> rfl
@[simp] theorem updCtx_frames (s : State) (x : Nat) (f : Ctx → Ctx) : (s.updCtx x f).frames = s.frames := by unfold State.updCtx; split <;> rfl
@[simp] theorem updCtx_pool (s : State) (x : Nat) (f : Ctx → Ctx) : (s.updCtx x f).pool = s.pool := by unfold State.updCtx; split <;> rfl
@[simp] theorem updCtx_msc (s : State) (x : Nat) (f : Ctx → Ctx) : (s.updCtx x f).msc = s.msc := by unfold State.updCtx; split <;> rfl
@[simp] theorem updCtx_hbm (s : State) (x : Nat) (f : Ctx → Ctx) : (s.updCtx x f).hbm = s.hbm := by unfold State.updCtx; split <;> rfl
@[simp] theorem updCtx_descs (s : State) (x : Nat) (f : Ctx → Ctx) : (s.updCtx x f).descs = s.descs := by unfold State.updCtx; split <;> rfl
@[simp] theorem updCtx_migrations (s : State) (x : Nat) (f : Ctx → Ctx) : (s.updCtx x f).migrations = s.migrations := by unfold State.updCtx; split <;> rfl
@[simp] theorem updCtx_tier (s : State) (x : Nat) (f : Ctx → Ctx) : (s.updCtx x f).tier = s.tier := by unfold State.updCtx; split <;> rfl
@[simp] theorem updCtx_tierData (s : State) (x : Nat) (f : Ctx → Ctx) : (s.updCtx x f).tierData = s.tierData := by unfold State.updCtx; split <;> rfl
@[simp] theorem updCtx_homeClk (s : State) (x : Nat) (f : Ctx → Ctx) : (s.updCtx x f).homeClk = s.homeClk := by unfold State.updCtx; split <;> rfl
@[simp] theorem updCtx_halfWidth (s : State) (x : Nat) (f : Ctx → Ctx) : (s.updCtx x f).halfWidth = s.halfWidth := by unfold State.updCtx; split <;> rfl
@[simp] theorem updCtx_prt (s : State) (x : Nat) (f : Ctx → Ctx) : (s.updCtx x f).prt = s.prt := by unfold State.updCtx; split <;> rfl
@[simp] theorem updCtx_proxy (s : State) (x : Nat) (f : Ctx → Ctx) : (s.updCtx x f).proxy = s.proxy := by unfold State.updCtx; split <;> rfl
@[simp] theorem updCtx_cores (s : State) (x : Nat) (f : Ctx → Ctx) : (s.updCtx x f).cores = s.cores := by unfold State.updCtx; split <;> rfl
@[simp] theorem updCtx_teams (s : State) (x : Nat) (f : Ctx → Ctx) : (s.updCtx x f).teams = s.teams := by unfold State.updCtx; split <;> rfl
@[simp] theorem updCtx_coreVd (s : State) (x : Nat) (f : Ctx → Ctx) : (s.updCtx x f).coreVd = s.coreVd := by unfold State.updCtx; split <;> rfl
@[simp] theorem updCtx_vds (s : State) (x : Nat) (f : Ctx → Ctx) : (s.updCtx x f).vds = s.vds := by unfold State.updCtx; split <;> rfl
@[simp] theorem updCtx_ports (s : State) (x : Nat) (f : Ctx → Ctx) : (s.updCtx x f).ports = s.ports := by unfold State.updCtx; split <;> rfl
@[simp] theorem updCtx_slovi (s : State) (x : Nat) (f : Ctx → Ctx) : (s.updCtx x f).slovi = s.slovi := by unfold State.updCtx; split <;> rfl
@[simp] theorem updCtx_regs (s : State) (x : Nat) (f : Ctx → Ctx) : (s.updCtx x f).regs = s.regs := by unfold State.updCtx; split <;> rfl
@[simp] theorem updCtx_ns (s : State) (x : Nat) (f : Ctx → Ctx) : (s.updCtx x f).ns = s.ns := by unfold State.updCtx; split <;> rfl
@[simp] theorem updCtx_posts (s : State) (x : Nat) (f : Ctx → Ctx) : (s.updCtx x f).posts = s.posts := by unfold State.updCtx; split <;> rfl
@[simp] theorem updCtx_hostOut (s : State) (x : Nat) (f : Ctx → Ctx) : (s.updCtx x f).hostOut = s.hostOut := by unfold State.updCtx; split <;> rfl
@[simp] theorem updCtx_hostPend (s : State) (x : Nat) (f : Ctx → Ctx) : (s.updCtx x f).hostPend = s.hostPend := by unfold State.updCtx; split <;> rfl
@[simp] theorem updCtx_hostReads (s : State) (x : Nat) (f : Ctx → Ctx) : (s.updCtx x f).hostReads = s.hostReads := by unfold State.updCtx; split <;> rfl
@[simp] theorem updCtx_fabricOut (s : State) (x : Nat) (f : Ctx → Ctx) : (s.updCtx x f).fabricOut = s.fabricOut := by unfold State.updCtx; split <;> rfl
@[simp] theorem updCtx_peerAsks (s : State) (x : Nat) (f : Ctx → Ctx) : (s.updCtx x f).peerAsks = s.peerAsks := by unfold State.updCtx; split <;> rfl
@[simp] theorem updCtx_peerReqs (s : State) (x : Nat) (f : Ctx → Ctx) : (s.updCtx x f).peerReqs = s.peerReqs := by unfold State.updCtx; split <;> rfl
@[simp] theorem updCtx_kills (s : State) (x : Nat) (f : Ctx → Ctx) : (s.updCtx x f).kills = s.kills := by unfold State.updCtx; split <;> rfl

@[simp] theorem updThread_agenda (s : State) (k i : Nat) (f : Thread → Thread) : (s.updThread k i f).agenda = s.agenda := updTeam_agenda s k _
@[simp] theorem updThread_issuer (s : State) (k i : Nat) (f : Thread → Thread) : (s.updThread k i f).issuer = s.issuer := updTeam_issuer s k _
@[simp] theorem updThread_turn (s : State) (k i : Nat) (f : Thread → Thread) : (s.updThread k i f).turn = s.turn := updTeam_turn s k _
@[simp] theorem updThread_stalled (s : State) (k i : Nat) (f : Thread → Thread) : (s.updThread k i f).stalled = s.stalled := updTeam_stalled s k _
@[simp] theorem updThread_free (s : State) (k i : Nat) (f : Thread → Thread) : (s.updThread k i f).free = s.free := updTeam_free s k _
@[simp] theorem updThread_nextId (s : State) (k i : Nat) (f : Thread → Thread) : (s.updThread k i f).nextId = s.nextId := updTeam_nextId s k _
@[simp] theorem updThread_hostRd (s : State) (k i : Nat) (f : Thread → Thread) : (s.updThread k i f).hostRd = s.hostRd := updTeam_hostRd s k _
@[simp] theorem updThread_hostBytes (s : State) (k i : Nat) (f : Thread → Thread) : (s.updThread k i f).hostBytes = s.hostBytes := updTeam_hostBytes s k _
@[simp] theorem updThread_errors (s : State) (k i : Nat) (f : Thread → Thread) : (s.updThread k i f).errors = s.errors := updTeam_errors s k _
@[simp] theorem updThread_mem (s : State) (k i : Nat) (f : Thread → Thread) : (s.updThread k i f).mem = s.mem := updTeam_mem s k _
@[simp] theorem updThread_lines (s : State) (k i : Nat) (f : Thread → Thread) : (s.updThread k i f).lines = s.lines := updTeam_lines s k _
@[simp] theorem updThread_billets (s : State) (k i : Nat) (f : Thread → Thread) : (s.updThread k i f).billets = s.billets := updTeam_billets s k _
@[simp] theorem updThread_pages (s : State) (k i : Nat) (f : Thread → Thread) : (s.updThread k i f).pages = s.pages := updTeam_pages s k _
@[simp] theorem updThread_frames (s : State) (k i : Nat) (f : Thread → Thread) : (s.updThread k i f).frames = s.frames := updTeam_frames s k _
@[simp] theorem updThread_pool (s : State) (k i : Nat) (f : Thread → Thread) : (s.updThread k i f).pool = s.pool := updTeam_pool s k _
@[simp] theorem updThread_msc (s : State) (k i : Nat) (f : Thread → Thread) : (s.updThread k i f).msc = s.msc := updTeam_msc s k _
@[simp] theorem updThread_hbm (s : State) (k i : Nat) (f : Thread → Thread) : (s.updThread k i f).hbm = s.hbm := updTeam_hbm s k _
@[simp] theorem updThread_descs (s : State) (k i : Nat) (f : Thread → Thread) : (s.updThread k i f).descs = s.descs := updTeam_descs s k _
@[simp] theorem updThread_migrations (s : State) (k i : Nat) (f : Thread → Thread) : (s.updThread k i f).migrations = s.migrations := updTeam_migrations s k _
@[simp] theorem updThread_tier (s : State) (k i : Nat) (f : Thread → Thread) : (s.updThread k i f).tier = s.tier := updTeam_tier s k _
@[simp] theorem updThread_tierData (s : State) (k i : Nat) (f : Thread → Thread) : (s.updThread k i f).tierData = s.tierData := updTeam_tierData s k _
@[simp] theorem updThread_homeClk (s : State) (k i : Nat) (f : Thread → Thread) : (s.updThread k i f).homeClk = s.homeClk := updTeam_homeClk s k _
@[simp] theorem updThread_halfWidth (s : State) (k i : Nat) (f : Thread → Thread) : (s.updThread k i f).halfWidth = s.halfWidth := updTeam_halfWidth s k _
@[simp] theorem updThread_prt (s : State) (k i : Nat) (f : Thread → Thread) : (s.updThread k i f).prt = s.prt := updTeam_prt s k _
@[simp] theorem updThread_proxy (s : State) (k i : Nat) (f : Thread → Thread) : (s.updThread k i f).proxy = s.proxy := updTeam_proxy s k _
@[simp] theorem updThread_cores (s : State) (k i : Nat) (f : Thread → Thread) : (s.updThread k i f).cores = s.cores := updTeam_cores s k _
@[simp] theorem updThread_ctxs (s : State) (k i : Nat) (f : Thread → Thread) : (s.updThread k i f).ctxs = s.ctxs := updTeam_ctxs s k _
@[simp] theorem updThread_coreVd (s : State) (k i : Nat) (f : Thread → Thread) : (s.updThread k i f).coreVd = s.coreVd := updTeam_coreVd s k _
@[simp] theorem updThread_vds (s : State) (k i : Nat) (f : Thread → Thread) : (s.updThread k i f).vds = s.vds := updTeam_vds s k _
@[simp] theorem updThread_ports (s : State) (k i : Nat) (f : Thread → Thread) : (s.updThread k i f).ports = s.ports := updTeam_ports s k _
@[simp] theorem updThread_slovi (s : State) (k i : Nat) (f : Thread → Thread) : (s.updThread k i f).slovi = s.slovi := updTeam_slovi s k _
@[simp] theorem updThread_regs (s : State) (k i : Nat) (f : Thread → Thread) : (s.updThread k i f).regs = s.regs := updTeam_regs s k _
@[simp] theorem updThread_ns (s : State) (k i : Nat) (f : Thread → Thread) : (s.updThread k i f).ns = s.ns := updTeam_ns s k _
@[simp] theorem updThread_posts (s : State) (k i : Nat) (f : Thread → Thread) : (s.updThread k i f).posts = s.posts := updTeam_posts s k _
@[simp] theorem updThread_hostOut (s : State) (k i : Nat) (f : Thread → Thread) : (s.updThread k i f).hostOut = s.hostOut := updTeam_hostOut s k _
@[simp] theorem updThread_hostPend (s : State) (k i : Nat) (f : Thread → Thread) : (s.updThread k i f).hostPend = s.hostPend := updTeam_hostPend s k _
@[simp] theorem updThread_hostReads (s : State) (k i : Nat) (f : Thread → Thread) : (s.updThread k i f).hostReads = s.hostReads := updTeam_hostReads s k _
@[simp] theorem updThread_fabricOut (s : State) (k i : Nat) (f : Thread → Thread) : (s.updThread k i f).fabricOut = s.fabricOut := updTeam_fabricOut s k _
@[simp] theorem updThread_peerAsks (s : State) (k i : Nat) (f : Thread → Thread) : (s.updThread k i f).peerAsks = s.peerAsks := updTeam_peerAsks s k _
@[simp] theorem updThread_peerReqs (s : State) (k i : Nat) (f : Thread → Thread) : (s.updThread k i f).peerReqs = s.peerReqs := updTeam_peerReqs s k _
@[simp] theorem updThread_kills (s : State) (k i : Nat) (f : Thread → Thread) : (s.updThread k i f).kills = s.kills := updTeam_kills s k _

@[simp] theorem updGroup_agenda (s : State) (k g : Nat) (f : Group → Group) : (s.updGroup k g f).agenda = s.agenda := updTeam_agenda s k _
@[simp] theorem updGroup_issuer (s : State) (k g : Nat) (f : Group → Group) : (s.updGroup k g f).issuer = s.issuer := updTeam_issuer s k _
@[simp] theorem updGroup_turn (s : State) (k g : Nat) (f : Group → Group) : (s.updGroup k g f).turn = s.turn := updTeam_turn s k _
@[simp] theorem updGroup_stalled (s : State) (k g : Nat) (f : Group → Group) : (s.updGroup k g f).stalled = s.stalled := updTeam_stalled s k _
@[simp] theorem updGroup_free (s : State) (k g : Nat) (f : Group → Group) : (s.updGroup k g f).free = s.free := updTeam_free s k _
@[simp] theorem updGroup_nextId (s : State) (k g : Nat) (f : Group → Group) : (s.updGroup k g f).nextId = s.nextId := updTeam_nextId s k _
@[simp] theorem updGroup_hostRd (s : State) (k g : Nat) (f : Group → Group) : (s.updGroup k g f).hostRd = s.hostRd := updTeam_hostRd s k _
@[simp] theorem updGroup_hostBytes (s : State) (k g : Nat) (f : Group → Group) : (s.updGroup k g f).hostBytes = s.hostBytes := updTeam_hostBytes s k _
@[simp] theorem updGroup_errors (s : State) (k g : Nat) (f : Group → Group) : (s.updGroup k g f).errors = s.errors := updTeam_errors s k _
@[simp] theorem updGroup_mem (s : State) (k g : Nat) (f : Group → Group) : (s.updGroup k g f).mem = s.mem := updTeam_mem s k _
@[simp] theorem updGroup_lines (s : State) (k g : Nat) (f : Group → Group) : (s.updGroup k g f).lines = s.lines := updTeam_lines s k _
@[simp] theorem updGroup_billets (s : State) (k g : Nat) (f : Group → Group) : (s.updGroup k g f).billets = s.billets := updTeam_billets s k _
@[simp] theorem updGroup_pages (s : State) (k g : Nat) (f : Group → Group) : (s.updGroup k g f).pages = s.pages := updTeam_pages s k _
@[simp] theorem updGroup_frames (s : State) (k g : Nat) (f : Group → Group) : (s.updGroup k g f).frames = s.frames := updTeam_frames s k _
@[simp] theorem updGroup_pool (s : State) (k g : Nat) (f : Group → Group) : (s.updGroup k g f).pool = s.pool := updTeam_pool s k _
@[simp] theorem updGroup_msc (s : State) (k g : Nat) (f : Group → Group) : (s.updGroup k g f).msc = s.msc := updTeam_msc s k _
@[simp] theorem updGroup_hbm (s : State) (k g : Nat) (f : Group → Group) : (s.updGroup k g f).hbm = s.hbm := updTeam_hbm s k _
@[simp] theorem updGroup_descs (s : State) (k g : Nat) (f : Group → Group) : (s.updGroup k g f).descs = s.descs := updTeam_descs s k _
@[simp] theorem updGroup_migrations (s : State) (k g : Nat) (f : Group → Group) : (s.updGroup k g f).migrations = s.migrations := updTeam_migrations s k _
@[simp] theorem updGroup_tier (s : State) (k g : Nat) (f : Group → Group) : (s.updGroup k g f).tier = s.tier := updTeam_tier s k _
@[simp] theorem updGroup_tierData (s : State) (k g : Nat) (f : Group → Group) : (s.updGroup k g f).tierData = s.tierData := updTeam_tierData s k _
@[simp] theorem updGroup_homeClk (s : State) (k g : Nat) (f : Group → Group) : (s.updGroup k g f).homeClk = s.homeClk := updTeam_homeClk s k _
@[simp] theorem updGroup_halfWidth (s : State) (k g : Nat) (f : Group → Group) : (s.updGroup k g f).halfWidth = s.halfWidth := updTeam_halfWidth s k _
@[simp] theorem updGroup_prt (s : State) (k g : Nat) (f : Group → Group) : (s.updGroup k g f).prt = s.prt := updTeam_prt s k _
@[simp] theorem updGroup_proxy (s : State) (k g : Nat) (f : Group → Group) : (s.updGroup k g f).proxy = s.proxy := updTeam_proxy s k _
@[simp] theorem updGroup_cores (s : State) (k g : Nat) (f : Group → Group) : (s.updGroup k g f).cores = s.cores := updTeam_cores s k _
@[simp] theorem updGroup_ctxs (s : State) (k g : Nat) (f : Group → Group) : (s.updGroup k g f).ctxs = s.ctxs := updTeam_ctxs s k _
@[simp] theorem updGroup_coreVd (s : State) (k g : Nat) (f : Group → Group) : (s.updGroup k g f).coreVd = s.coreVd := updTeam_coreVd s k _
@[simp] theorem updGroup_vds (s : State) (k g : Nat) (f : Group → Group) : (s.updGroup k g f).vds = s.vds := updTeam_vds s k _
@[simp] theorem updGroup_ports (s : State) (k g : Nat) (f : Group → Group) : (s.updGroup k g f).ports = s.ports := updTeam_ports s k _
@[simp] theorem updGroup_slovi (s : State) (k g : Nat) (f : Group → Group) : (s.updGroup k g f).slovi = s.slovi := updTeam_slovi s k _
@[simp] theorem updGroup_regs (s : State) (k g : Nat) (f : Group → Group) : (s.updGroup k g f).regs = s.regs := updTeam_regs s k _
@[simp] theorem updGroup_ns (s : State) (k g : Nat) (f : Group → Group) : (s.updGroup k g f).ns = s.ns := updTeam_ns s k _
@[simp] theorem updGroup_posts (s : State) (k g : Nat) (f : Group → Group) : (s.updGroup k g f).posts = s.posts := updTeam_posts s k _
@[simp] theorem updGroup_hostOut (s : State) (k g : Nat) (f : Group → Group) : (s.updGroup k g f).hostOut = s.hostOut := updTeam_hostOut s k _
@[simp] theorem updGroup_hostPend (s : State) (k g : Nat) (f : Group → Group) : (s.updGroup k g f).hostPend = s.hostPend := updTeam_hostPend s k _
@[simp] theorem updGroup_hostReads (s : State) (k g : Nat) (f : Group → Group) : (s.updGroup k g f).hostReads = s.hostReads := updTeam_hostReads s k _
@[simp] theorem updGroup_fabricOut (s : State) (k g : Nat) (f : Group → Group) : (s.updGroup k g f).fabricOut = s.fabricOut := updTeam_fabricOut s k _
@[simp] theorem updGroup_peerAsks (s : State) (k g : Nat) (f : Group → Group) : (s.updGroup k g f).peerAsks = s.peerAsks := updTeam_peerAsks s k _
@[simp] theorem updGroup_peerReqs (s : State) (k g : Nat) (f : Group → Group) : (s.updGroup k g f).peerReqs = s.peerReqs := updTeam_peerReqs s k _
@[simp] theorem updGroup_kills (s : State) (k g : Nat) (f : Group → Group) : (s.updGroup k g f).kills = s.kills := updTeam_kills s k _

/-! ## What an update does to its own -/

@[simp] theorem core_updCore (s : State) (c d : Nat) (f : Core → Core) : (s.updCore c f).core d = if d = c then f (s.core c) else s.core d := by
  simp only [State.core, State.updCore, mapGet_set, State.freshCore]; split <;> simp_all
@[simp] theorem line_updLine (s : State) (l m : Nat) (f : Line → Line) : (s.updLine l f).line m = if m = l then f (s.line l) else s.line m := by
  simp only [State.line, State.updLine, mapGet_set]; split <;> simp_all
@[simp] theorem billet_updBillet (s : State) (b c : Nat) (f : Billet → Billet) :
    (s.updBillet b f).billet c = if c = b then f (s.billet b) else s.billet c := by
  simp only [State.billet, State.updBillet, mapGet_set]; split <;> simp_all
@[simp] theorem vd_updVd (s : State) (v w : Nat) (f : Vd → Vd) : (s.updVd v f).vd w = if w = v then f (s.vd v) else s.vd w := by
  simp only [State.vd, State.updVd, mapGet_set]; split <;> simp_all
@[simp] theorem port_updPort (s : State) (p q : Nat) (f : Port → Port) : (s.updPort p f).port q = if q = p then f (s.port p) else s.port q := by
  simp only [State.port, State.updPort, mapGet_set]; split <;> simp_all
@[simp] theorem regs_updReg (s : State) (f : Regs → Regs) : (s.updReg f).regs = f s.regs := rfl
@[simp] theorem posts_post (s : State) (p : PartWrite) : (s.post p).posts = s.posts ++ [p] := rfl

@[simp] theorem team_updTeam (s : State) (k j : Nat) (f : Team → Team) : (s.updTeam k f).team j = if j = k then (s.team k).map f else s.team j := by
  unfold State.updTeam State.team
  cases h : mapGet? s.teams k with
  | some x => simp only [mapGet_set]; split <;> simp_all
  | none => simp only; split <;> simp_all
@[simp] theorem page_updPage (s : State) (p q : Nat) (f : Page → Page) : (s.updPage p f).page q = if q = p then (s.page p).map f else s.page q := by
  unfold State.updPage State.page
  cases h : mapGet? s.pages p with
  | some x => simp only [mapGet_set]; split <;> simp_all
  | none => simp only; split <;> simp_all
@[simp] theorem ctx_updCtx (s : State) (x y : Nat) (f : Ctx → Ctx) : (s.updCtx x f).ctx y = if y = x then (s.ctx x).map f else s.ctx y := by
  unfold State.updCtx State.ctx
  cases h : mapGet? s.ctxs x with
  | some c => simp only [mapGet_set]; split <;> simp_all
  | none => simp only; split <;> simp_all

@[simp] theorem team_updThread (s : State) (k i j : Nat) (f : Thread → Thread) :
    (s.updThread k i f).team j = if j = k then (s.team k).map (fun x => { x with threads := listUpd x.threads i f }) else s.team j := team_updTeam s k j _
@[simp] theorem team_updGroup (s : State) (k g j : Nat) (f : Group → Group) :
    (s.updGroup k g f).team j = if j = k then (s.team k).map (fun x => { x with groups := listUpd x.groups g f }) else s.team j := team_updTeam s k j _
theorem thread_updThread (s : State) (k i j x : Nat) (f : Thread → Thread) :
    (s.updThread k i f).thread j x = if j = k ∧ x = i then (s.thread k i).map f else s.thread j x := by
  simp only [State.thread, team_updThread]
  by_cases hj : j = k
  · subst hj; cases h : s.team j with
    | none => simp
    | some t => simp [listUpd_get]; split <;> simp_all
  · simp [hj]
theorem group_updThread (s : State) (k i j g : Nat) (f : Thread → Thread) : (s.updThread k i f).group j g = s.group j g := by
  simp only [State.group, team_updThread]
  by_cases hj : j = k
  · subst hj; cases h : s.team j <;> simp
  · simp [hj]
theorem thread_updGroup (s : State) (k g j x : Nat) (f : Group → Group) : (s.updGroup k g f).thread j x = s.thread j x := by
  simp only [State.thread, team_updGroup]
  by_cases hj : j = k
  · subst hj; cases h : s.team j <;> simp
  · simp [hj]
theorem group_updGroup (s : State) (k g j x : Nat) (f : Group → Group) :
    (s.updGroup k g f).group j x = if j = k ∧ x = g then (s.group k g).map f else s.group j x := by
  simp only [State.group, team_updGroup]
  by_cases hj : j = k
  · subst hj; cases h : s.team j with
    | none => simp
    | some t => simp [listUpd_get]; split <;> simp_all
  · simp [hj]

end Sys2Proof.Machine
end

