-- ==== Sys2Proof/Laws/Issue.lean ====
section
/-! SUPPORT. What the gate and the moving on of a bundle can do, and what a register instruction leaves alone. -/

namespace Sys2Proof

open Machine

/-! ## The gate -/

theorem Issues.gate_go {s : State} {i : Instr} {e : Env} (h : Issues s i e) : gate s i = .go e := by
  have a : ¬ ((e.lanes.map Prod.snd).any (unadmitted e.team) && !loadLike i) = true := by
    rcases h.admitted with h2 | h2 <;> rw [h2] <;> simp
  have a' : ¬ (acquirePending e.team (e.lanes.map Prod.snd) || (afterFence i && fencePending e.team (e.lanes.map Prod.snd))) = true := by
    rw [h.acquired]; rcases h.unfenced with h2 | h2 <;> rw [h2] <;> simp
  have b : ¬ (!Machine.legal e i || liveBad e.team e.b.words) = true := by rw [h.legal, h.live]; simp
  have b' : ¬ (e.b.handler && nestedInsn i) = true := by rcases h.outside with h | h <;> rw [h] <;> simp
  have c : ¬ (match e.flag i with | some k => decide (63 ≤ e.grp.flag k) | none => false) = true := by
    cases hf : e.flag i with
    | none => simp
    | some k => simpa using h.room k hf
  have d : ¬ (groupEffect i && maybePoisoned e.team (e.lanes.map Prod.snd)) = true := by
    rcases h.clean with h | h <;> rw [h] <;> simp
  simp only [gate, h.bundle]
  rw [if_neg a, if_neg a', if_neg b, if_neg b', h.free, if_neg (by simp)]
  refine (if_neg c).trans ?_
  rw [if_neg d, h.intact]

/-- An instruction behind its gate runs. -/
theorem Issues.withGate {s : State} {i : Instr} {e : Env} (h : Issues s i e) (k : Env → State → Out) : Machine.withGate s i k = k e s := by
  simp [Machine.withGate, h.gate_go]

theorem Issues.simple {s : State} {i : Instr} {e : Env} (h : Issues s i e) (k : Env → State → State) :
    Machine.simple s i k = .next (advance (k e s) e) := h.withGate _

/-- What the environment says of the state. -/
theorem envOf_spec {s : State} {e : Env} (h : envOf s = some e) :
    s.team e.tk = some e.team ∧ e.team.groups[e.g]? = some e.grp ∧ e.grp.bundle = some e.b := by
  simp only [envOf] at h
  split at h
  · simp at h
  · split at h
    · simp at h
    · rename_i t ht
      split at h
      · simp at h
      · rename_i gr hg
        simp only [Option.map_eq_some_iff] at h
        obtain ⟨b, hb, rfl⟩ := h
        exact ⟨ht, hg, hb⟩

/-! ## What is left alone -/

theorem ThreadKept.refl (w : Nat → Prop) (th : Thread) : ThreadKept w th th := ⟨rfl, fun _ _ => rfl⟩

theorem ThreadKept.trans {w : Nat → Prop} {a b c : Thread} (h : ThreadKept w a b) (k : ThreadKept w b c) : ThreadKept w a c := by
  obtain ⟨h1, h2⟩ := h; obtain ⟨k1, k2⟩ := k
  refine ⟨?_, fun r hr => (k2 r hr).trans (h2 r hr)⟩
  rw [k1, h1]

theorem GroupKept.refl (wg wm : Nat → Prop) (gr : Group) : GroupKept wg wm gr gr := ⟨rfl, fun _ _ => rfl, fun _ _ => rfl⟩

theorem GroupKept.trans {wg wm : Nat → Prop} {a b c : Group} (h : GroupKept wg wm a b) (k : GroupKept wg wm b c) : GroupKept wg wm a c := by
  obtain ⟨h1, h2, h3⟩ := h; obtain ⟨k1, k2, k3⟩ := k
  refine ⟨?_, fun r hr => (k2 r hr).trans (h2 r hr), fun r hr => (k3 r hr).trans (h3 r hr)⟩
  rw [k1, h1]

theorem Kept.refl {s : State} {e : Env} (h : envOf s = some e) (wv : Nat → Nat → Prop) (wg wm : Nat → Prop) : Kept s s e wv wg wm := by
  obtain ⟨ht, hg, -⟩ := envOf_spec h
  refine ⟨rfl, fun _ _ => rfl, ⟨e.team, ht, rfl⟩, fun tid th' h => ⟨th', h, ThreadKept.refl _ _⟩, fun gr' h => ?_, fun _ _ => rfl⟩
  simp [State.group, ht, hg] at h
  subst h; exact GroupKept.refl _ _ _

variable {s t : State} {e : Env} {wv : Nat → Nat → Prop} {wg wm : Nat → Prop}

theorem onlyTeams_updTeam {s t : State} (h : OnlyTeams s t) (k : Nat) (f : Team → Team) : OnlyTeams s (t.updTeam k f) := by
  unfold OnlyTeams at h ⊢
  unfold State.updTeam
  split
  · rw [h]
  · exact h

theorem Kept.updThread (h : Kept s t e wv wg wm) (tid : Nat) (f : Thread → Thread) (hf : ∀ th, ThreadKept (wv tid) th (f th)) :
    Kept s (t.updThread e.tk tid f) e wv wg wm := by
  refine ⟨onlyTeams_updTeam h.rest _ _, fun k hk => by simp [hk, h.others k hk], ?_, ?_, ?_, ?_⟩
  · obtain ⟨tm, h1, h2⟩ := h.team
    refine ⟨{ tm with threads := listUpd tm.threads tid f }, by simp [h1], ?_⟩
    rw [h2]
  · intro i th' hi
    rw [thread_updThread] at hi
    split at hi
    · rename_i heq; obtain ⟨-, rfl⟩ := heq
      simp only [Option.map_eq_some_iff] at hi
      obtain ⟨th, h1, rfl⟩ := hi
      obtain ⟨th0, h2, h3⟩ := h.threads _ _ h1
      exact ⟨th0, h2, h3.trans (hf th)⟩
    · exact h.threads i th' hi
  · intro gr' hg; rw [group_updThread] at hg; exact h.group gr' hg
  · intro g hg; rw [group_updThread]; exact h.groups g hg

theorem Kept.updGroup (h : Kept s t e wv wg wm) (f : Group → Group) (hf : ∀ gr, GroupKept wg wm gr (f gr)) :
    Kept s (t.updGroup e.tk e.g f) e wv wg wm := by
  refine ⟨onlyTeams_updTeam h.rest _ _, fun k hk => by simp [hk, h.others k hk], ?_, ?_, ?_, ?_⟩
  · obtain ⟨tm, h1, h2⟩ := h.team
    refine ⟨{ tm with groups := listUpd tm.groups e.g f }, by simp [h1], ?_⟩
    rw [h2]
  · intro i th' hi; rw [thread_updGroup] at hi; exact h.threads i th' hi
  · intro gr' hg
    rw [group_updGroup, if_pos ⟨rfl, rfl⟩] at hg
    simp only [Option.map_eq_some_iff] at hg
    obtain ⟨gr, h1, rfl⟩ := hg
    exact (h.group gr h1).trans (hf gr)
  · intro g hg; rw [group_updGroup, if_neg (by simp [hg])]; exact h.groups g hg

theorem Kept.foldl {α : Type} (l : List α) (f : State → α → State) (hf : ∀ t x, x ∈ l → Kept s t e wv wg wm → Kept s (f t x) e wv wg wm) :
    ∀ t, Kept s t e wv wg wm → Kept s (l.foldl f t) e wv wg wm := by
  induction l with
  | nil => exact fun _ h => h
  | cons x xs ih =>
    intro t h
    exact ih (fun t y hy => hf t y (List.mem_cons_of_mem _ hy)) _ (hf t x List.mem_cons_self h)

/-- The end of a replay only forgets the replay. -/
theorem thread_endReplay (t : State) (tk g k i : Nat) :
    ∃ f : Thread → Thread, (∀ th, f th = th ∨ f th = { th with replay := none }) ∧ (Machine.endReplay t tk g).thread k i = (t.thread k i).map f := by
  unfold Machine.endReplay
  simp only [State.thread, team_updTeam]
  by_cases hk : k = tk
  · subst hk
    cases h : t.team k with
    | none => exact ⟨id, fun _ => .inl rfl, by simp⟩
    | some tm =>
      by_cases hc : tm.threads.any fun th => th.grp == g && th.st == .inBundle && th.replay.isSome
      · refine ⟨fun th => if th.grp == g && th.st == .inBundle then { th with replay := none } else th, fun th => ?_, by simp only [if_true, Option.map_some, Option.bind_some, if_pos hc, List.getElem?_map]⟩
        dsimp only; split
        · exact .inr rfl
        · exact .inl rfl
      · exact ⟨id, fun _ => .inl rfl, by simp only [if_true, Option.map_some, Option.bind_some, if_neg hc, Option.map_id_fun, id_eq]⟩
  · exact ⟨id, fun _ => .inl rfl, by simp [hk]⟩
theorem group_endReplay (t : State) (tk g k j : Nat) : (Machine.endReplay t tk g).group k j = t.group k j := by
  unfold Machine.endReplay
  simp only [State.group, team_updTeam]
  by_cases hk : k = tk
  · subst hk
    cases h : t.team k with
    | none => simp
    | some tm => simp only [if_true, Option.map_some, Option.bind_some]; split <;> rfl
  · simp [hk]
theorem Kept.endReplay (h : Kept s t e wv wg wm) (g : Nat) : Kept s (Machine.endReplay t e.tk g) e wv wg wm := by
  refine ⟨onlyTeams_updTeam h.rest _ _, fun k hk => by simp [Machine.endReplay, hk, h.others k hk], ?_, ?_, ?_, ?_⟩
  · obtain ⟨tm, h1, h2⟩ := h.team
    simp only [Machine.endReplay, team_updTeam, if_true, h1, Option.map_some, Option.some.injEq]
    refine ⟨_, rfl, ?_⟩
    split <;> rw [h2]
  · intro i th' hi
    obtain ⟨f, hf, hx⟩ := thread_endReplay t e.tk g e.tk i
    rw [hx, Option.map_eq_some_iff] at hi
    obtain ⟨th, h1, rfl⟩ := hi
    obtain ⟨th0, h2, h3⟩ := h.threads _ _ h1
    refine ⟨th0, h2, h3.trans ?_⟩
    rcases hf th with hf | hf <;> rw [hf]
    · exact ThreadKept.refl _ _
    · exact ⟨rfl, fun _ _ => rfl⟩
  · intro gr' hg; rw [group_endReplay] at hg; exact h.group gr' hg
  · intro x hx; rw [group_endReplay]; exact h.groups x hx

/-- The end of the clause moves the threads' resume points and ends the bundle. -/
theorem Kept.endClause (h : Kept s t e wv wg wm) : Kept s (Machine.endClause t e) e wv wg wm := by
  unfold Machine.endClause
  split
  · exact h
  · split
    · exact h
    · refine Kept.updGroup (Kept.foldl _ _ ?_ _ h) _ fun gr => ⟨rfl, fun _ _ => rfl, fun _ _ => rfl⟩
      rintro u ⟨l, tid⟩ - hu
      exact hu.updThread tid _ fun th => ⟨rfl, fun _ _ => rfl⟩

theorem Kept.advance (h : Kept s t e wv wg wm) : Kept s (Machine.advance t e) e wv wg wm := by
  have h' := h.endReplay e.g
  simp only [Machine.advance]
  split
  · exact h'
  · split
    · exact h'
    · split
      · exact h'.updGroup _ fun gr => ⟨rfl, fun _ _ => rfl, fun _ _ => rfl⟩
      · exact Kept.endClause (h'.updGroup _ (by intro gr; exact ⟨rfl, fun _ _ => rfl, fun _ _ => rfl⟩))

/-! ## Registers through the moving on -/

/-- Threads updated in turn, each update keeping the v registers. -/
theorem foldThreads_regs {α : Type} (ls : List α) (tid : α → Nat) (F : α → Thread → Thread) (hF : ∀ x th, (F x th).v = th.v) (e : Env) (k j : Nat) :
    ∀ t : State, ((ls.foldl (fun s x => s.updThread e.tk (tid x) (F x)) t).thread k j).map Thread.v = (t.thread k j).map Thread.v := by
  induction ls with
  | nil => exact fun _ => rfl
  | cons x xs ih =>
    intro t
    rw [List.foldl_cons, ih, thread_updThread]
    split
    · rename_i h; obtain ⟨rfl, rfl⟩ := h; cases t.thread e.tk (tid x) <;> simp [hF]
    · rfl
theorem foldThreads_group {α : Type} (ls : List α) (tid : α → Nat) (F : α → Thread → Thread) (e : Env) (k j : Nat) :
    ∀ t : State, (ls.foldl (fun s x => s.updThread e.tk (tid x) (F x)) t).group k j = t.group k j := by
  induction ls with
  | nil => exact fun _ => rfl
  | cons x xs ih => intro t; rw [List.foldl_cons, ih, group_updThread]

theorem endClause_regs (t : State) (e : Env) (tk tid : Nat) :
    ((Machine.endClause t e).thread tk tid).map Thread.v = (t.thread tk tid).map Thread.v := by
  unfold Machine.endClause
  split
  · rfl
  · split
    · rfl
    · simp only [thread_updGroup]
      refine foldThreads_regs _ Prod.snd _ ?_ e tk tid t
      intro x th; rfl

theorem endClause_group (t : State) (e : Env) (tk g : Nat) :
    ((Machine.endClause t e).group tk g).map (fun gr => (gr.g, gr.m)) = (t.group tk g).map fun gr => (gr.g, gr.m) := by
  unfold Machine.endClause
  split
  · rfl
  · split
    · rfl
    · rw [group_updGroup]
      have h : ∀ (ls : List (Nat × Nat)) (F : Nat × Nat → Thread → Thread) (k j : Nat),
          (ls.foldl (fun s x => s.updThread e.tk x.2 (F x)) t).group k j = t.group k j := fun ls F k j => foldThreads_group ls Prod.snd F e k j t
      split
      · rename_i hx; obtain ⟨rfl, rfl⟩ := hx
        refine Eq.trans (congrArg (Option.map _) (congrArg (Option.map _) (h _ _ _ _))) ?_
        cases t.group e.tk e.g <;> simp
      · exact congrArg (Option.map _) (h _ _ _ _)

theorem endReplay_regs (t : State) (tk g k i : Nat) : ((Machine.endReplay t tk g).thread k i).map Thread.v = (t.thread k i).map Thread.v := by
  obtain ⟨f, hf, hx⟩ := thread_endReplay t tk g k i
  rw [hx]
  cases t.thread k i with
  | none => rfl
  | some th => rcases hf th with hf | hf <;> simp [hf]

theorem advance_regs (t : State) (e : Env) (tk tid : Nat) :
    ((Machine.advance t e).thread tk tid).map Thread.v = (t.thread tk tid).map Thread.v := by
  rw [← endReplay_regs t e.tk e.g]
  simp only [Machine.advance]
  split
  · rfl
  · split
    · rfl
    · split
      · rw [thread_updGroup]
      · rw [endClause_regs, thread_updGroup]

theorem advance_group (t : State) (e : Env) (tk g : Nat) :
    ((Machine.advance t e).group tk g).map (fun gr => (gr.g, gr.m)) = (t.group tk g).map fun gr => (gr.g, gr.m) := by
  rw [← group_endReplay t e.tk e.g tk g]
  simp only [Machine.advance]
  split
  · rfl
  · split
    · rfl
    · split
      · rw [group_updGroup]; split
        · rename_i hx; obtain ⟨rfl, rfl⟩ := hx; cases (Machine.endReplay t e.tk e.g).group e.tk e.g <;> simp
        · rfl
      · rw [endClause_group, group_updGroup]; split
        · rename_i hx; obtain ⟨rfl, rfl⟩ := hx; cases (Machine.endReplay t e.tk e.g).group e.tk e.g <;> simp
        · rfl

end Sys2Proof
end

