-- ==== Sys2Proof/Laws/PerInstr.lean ====
section
/-! SUPPORT. The encoder's words: a word's fields read back from the word (R220 to R227), and for every instruction the opcode
its word carries (R231). -/

namespace Sys2Proof

theorem hi_of_append {v w : Nat} (x : BitVec v) (y : BitVec w) (n k : Nat) (h : w ≤ n) : (x ++ y).extractLsb' n k = x.extractLsb' (n - w) k := by
  ext i hi; simp [BitVec.getLsbD_append, show ¬ n + i < w by omega, show n + i - w = n - w + i by omega]
theorem lo_of_append {v w : Nat} (x : BitVec v) (y : BitVec w) (n k : Nat) (h : n + k ≤ w) : (x ++ y).extractLsb' n k = y.extractLsb' n k := by
  ext i hi; simp [BitVec.getLsbD_append, show n + i < w by omega]

/-- A VF word keeps its opcode and every field. -/
theorem VF.opcode_toWord (op : BitVec 8) (f : VF) : (f.toWord op).extractLsb' 56 8 = op := by
  change BitVec.extractLsb' (n := 8+4+11+11+11+11+4+1+2+1) 56 8 (op ++ f.fn ++ f.d ++ f.a ++ f.b ++ f.c ++ f.pm ++ f.pn ++ f.hold ++ f.sat) = op
  simp (disch := decide) only [hi_of_append]
  exact BitVec.extractLsb'_eq_self
theorem VF.ofWord_toWord (op : BitVec 8) (f : VF) : VF.ofWord (f.toWord op) = f := by
  change ({ fn := BitVec.extractLsb' (n := 8+4+11+11+11+11+4+1+2+1) 52 4 (op ++ f.fn ++ f.d ++ f.a ++ f.b ++ f.c ++ f.pm ++ f.pn ++ f.hold ++ f.sat), d := BitVec.extractLsb' (n := 8+4+11+11+11+11+4+1+2+1) 41 11 (op ++ f.fn ++ f.d ++ f.a ++ f.b ++ f.c ++ f.pm ++ f.pn ++ f.hold ++ f.sat), a := BitVec.extractLsb' (n := 8+4+11+11+11+11+4+1+2+1) 30 11 (op ++ f.fn ++ f.d ++ f.a ++ f.b ++ f.c ++ f.pm ++ f.pn ++ f.hold ++ f.sat), b := BitVec.extractLsb' (n := 8+4+11+11+11+11+4+1+2+1) 19 11 (op ++ f.fn ++ f.d ++ f.a ++ f.b ++ f.c ++ f.pm ++ f.pn ++ f.hold ++ f.sat), c := BitVec.extractLsb' (n := 8+4+11+11+11+11+4+1+2+1) 8 11 (op ++ f.fn ++ f.d ++ f.a ++ f.b ++ f.c ++ f.pm ++ f.pn ++ f.hold ++ f.sat), pm := BitVec.extractLsb' (n := 8+4+11+11+11+11+4+1+2+1) 4 4 (op ++ f.fn ++ f.d ++ f.a ++ f.b ++ f.c ++ f.pm ++ f.pn ++ f.hold ++ f.sat), pn := BitVec.extractLsb' (n := 8+4+11+11+11+11+4+1+2+1) 3 1 (op ++ f.fn ++ f.d ++ f.a ++ f.b ++ f.c ++ f.pm ++ f.pn ++ f.hold ++ f.sat), hold := BitVec.extractLsb' (n := 8+4+11+11+11+11+4+1+2+1) 1 2 (op ++ f.fn ++ f.d ++ f.a ++ f.b ++ f.c ++ f.pm ++ f.pn ++ f.hold ++ f.sat), sat := BitVec.extractLsb' (n := 8+4+11+11+11+11+4+1+2+1) 0 1 (op ++ f.fn ++ f.d ++ f.a ++ f.b ++ f.c ++ f.pm ++ f.pn ++ f.hold ++ f.sat) } : VF) = f
  simp (disch := decide) only [hi_of_append, lo_of_append]
  cases f; congr 1 <;> exact BitVec.extractLsb'_eq_self

/-- A MF word keeps its opcode and every field. -/
theorem MF.opcode_toWord (op : BitVec 8) (f : MF) : (f.toWord op).extractLsb' 56 8 = op := by
  change BitVec.extractLsb' (n := 8+4+11+11+2+2+2+16+4+1+1+1+1) 56 8 (op ++ f.fn ++ f.d ++ f.base ++ f.coh ++ f.scope ++ f.ord ++ f.imm ++ f.pm ++ f.pn ++ f.flg ++ f.rsv ++ f.nt) = op
  simp (disch := decide) only [hi_of_append]
  exact BitVec.extractLsb'_eq_self
theorem MF.ofWord_toWord (op : BitVec 8) (f : MF) : MF.ofWord (f.toWord op) = f := by
  change ({ fn := BitVec.extractLsb' (n := 8+4+11+11+2+2+2+16+4+1+1+1+1) 52 4 (op ++ f.fn ++ f.d ++ f.base ++ f.coh ++ f.scope ++ f.ord ++ f.imm ++ f.pm ++ f.pn ++ f.flg ++ f.rsv ++ f.nt), d := BitVec.extractLsb' (n := 8+4+11+11+2+2+2+16+4+1+1+1+1) 41 11 (op ++ f.fn ++ f.d ++ f.base ++ f.coh ++ f.scope ++ f.ord ++ f.imm ++ f.pm ++ f.pn ++ f.flg ++ f.rsv ++ f.nt), base := BitVec.extractLsb' (n := 8+4+11+11+2+2+2+16+4+1+1+1+1) 30 11 (op ++ f.fn ++ f.d ++ f.base ++ f.coh ++ f.scope ++ f.ord ++ f.imm ++ f.pm ++ f.pn ++ f.flg ++ f.rsv ++ f.nt), coh := BitVec.extractLsb' (n := 8+4+11+11+2+2+2+16+4+1+1+1+1) 28 2 (op ++ f.fn ++ f.d ++ f.base ++ f.coh ++ f.scope ++ f.ord ++ f.imm ++ f.pm ++ f.pn ++ f.flg ++ f.rsv ++ f.nt), scope := BitVec.extractLsb' (n := 8+4+11+11+2+2+2+16+4+1+1+1+1) 26 2 (op ++ f.fn ++ f.d ++ f.base ++ f.coh ++ f.scope ++ f.ord ++ f.imm ++ f.pm ++ f.pn ++ f.flg ++ f.rsv ++ f.nt), ord := BitVec.extractLsb' (n := 8+4+11+11+2+2+2+16+4+1+1+1+1) 24 2 (op ++ f.fn ++ f.d ++ f.base ++ f.coh ++ f.scope ++ f.ord ++ f.imm ++ f.pm ++ f.pn ++ f.flg ++ f.rsv ++ f.nt), imm := BitVec.extractLsb' (n := 8+4+11+11+2+2+2+16+4+1+1+1+1) 8 16 (op ++ f.fn ++ f.d ++ f.base ++ f.coh ++ f.scope ++ f.ord ++ f.imm ++ f.pm ++ f.pn ++ f.flg ++ f.rsv ++ f.nt), pm := BitVec.extractLsb' (n := 8+4+11+11+2+2+2+16+4+1+1+1+1) 4 4 (op ++ f.fn ++ f.d ++ f.base ++ f.coh ++ f.scope ++ f.ord ++ f.imm ++ f.pm ++ f.pn ++ f.flg ++ f.rsv ++ f.nt), pn := BitVec.extractLsb' (n := 8+4+11+11+2+2+2+16+4+1+1+1+1) 3 1 (op ++ f.fn ++ f.d ++ f.base ++ f.coh ++ f.scope ++ f.ord ++ f.imm ++ f.pm ++ f.pn ++ f.flg ++ f.rsv ++ f.nt), flg := BitVec.extractLsb' (n := 8+4+11+11+2+2+2+16+4+1+1+1+1) 2 1 (op ++ f.fn ++ f.d ++ f.base ++ f.coh ++ f.scope ++ f.ord ++ f.imm ++ f.pm ++ f.pn ++ f.flg ++ f.rsv ++ f.nt), rsv := BitVec.extractLsb' (n := 8+4+11+11+2+2+2+16+4+1+1+1+1) 1 1 (op ++ f.fn ++ f.d ++ f.base ++ f.coh ++ f.scope ++ f.ord ++ f.imm ++ f.pm ++ f.pn ++ f.flg ++ f.rsv ++ f.nt), nt := BitVec.extractLsb' (n := 8+4+11+11+2+2+2+16+4+1+1+1+1) 0 1 (op ++ f.fn ++ f.d ++ f.base ++ f.coh ++ f.scope ++ f.ord ++ f.imm ++ f.pm ++ f.pn ++ f.flg ++ f.rsv ++ f.nt) } : MF) = f
  simp (disch := decide) only [hi_of_append, lo_of_append]
  cases f; congr 1 <;> exact BitVec.extractLsb'_eq_self

/-- A MAF word keeps its opcode and every field. -/
theorem MAF.opcode_toWord (op : BitVec 8) (f : MAF) : (f.toWord op).extractLsb' 56 8 = op := by
  change BitVec.extractLsb' (n := 8+4+11+11+2+2+2+11+4+1+4+1+1+1+1) 56 8 (op ++ f.fn ++ f.d ++ f.base ++ f.coh ++ f.scope ++ f.ord ++ f.s ++ f.ty ++ f.rsv8 ++ f.pm ++ f.pn ++ f.flg ++ f.rsv ++ f.nt) = op
  simp (disch := decide) only [hi_of_append]
  exact BitVec.extractLsb'_eq_self
theorem MAF.ofWord_toWord (op : BitVec 8) (f : MAF) : MAF.ofWord (f.toWord op) = f := by
  change ({ fn := BitVec.extractLsb' (n := 8+4+11+11+2+2+2+11+4+1+4+1+1+1+1) 52 4 (op ++ f.fn ++ f.d ++ f.base ++ f.coh ++ f.scope ++ f.ord ++ f.s ++ f.ty ++ f.rsv8 ++ f.pm ++ f.pn ++ f.flg ++ f.rsv ++ f.nt), d := BitVec.extractLsb' (n := 8+4+11+11+2+2+2+11+4+1+4+1+1+1+1) 41 11 (op ++ f.fn ++ f.d ++ f.base ++ f.coh ++ f.scope ++ f.ord ++ f.s ++ f.ty ++ f.rsv8 ++ f.pm ++ f.pn ++ f.flg ++ f.rsv ++ f.nt), base := BitVec.extractLsb' (n := 8+4+11+11+2+2+2+11+4+1+4+1+1+1+1) 30 11 (op ++ f.fn ++ f.d ++ f.base ++ f.coh ++ f.scope ++ f.ord ++ f.s ++ f.ty ++ f.rsv8 ++ f.pm ++ f.pn ++ f.flg ++ f.rsv ++ f.nt), coh := BitVec.extractLsb' (n := 8+4+11+11+2+2+2+11+4+1+4+1+1+1+1) 28 2 (op ++ f.fn ++ f.d ++ f.base ++ f.coh ++ f.scope ++ f.ord ++ f.s ++ f.ty ++ f.rsv8 ++ f.pm ++ f.pn ++ f.flg ++ f.rsv ++ f.nt), scope := BitVec.extractLsb' (n := 8+4+11+11+2+2+2+11+4+1+4+1+1+1+1) 26 2 (op ++ f.fn ++ f.d ++ f.base ++ f.coh ++ f.scope ++ f.ord ++ f.s ++ f.ty ++ f.rsv8 ++ f.pm ++ f.pn ++ f.flg ++ f.rsv ++ f.nt), ord := BitVec.extractLsb' (n := 8+4+11+11+2+2+2+11+4+1+4+1+1+1+1) 24 2 (op ++ f.fn ++ f.d ++ f.base ++ f.coh ++ f.scope ++ f.ord ++ f.s ++ f.ty ++ f.rsv8 ++ f.pm ++ f.pn ++ f.flg ++ f.rsv ++ f.nt), s := BitVec.extractLsb' (n := 8+4+11+11+2+2+2+11+4+1+4+1+1+1+1) 13 11 (op ++ f.fn ++ f.d ++ f.base ++ f.coh ++ f.scope ++ f.ord ++ f.s ++ f.ty ++ f.rsv8 ++ f.pm ++ f.pn ++ f.flg ++ f.rsv ++ f.nt), ty := BitVec.extractLsb' (n := 8+4+11+11+2+2+2+11+4+1+4+1+1+1+1) 9 4 (op ++ f.fn ++ f.d ++ f.base ++ f.coh ++ f.scope ++ f.ord ++ f.s ++ f.ty ++ f.rsv8 ++ f.pm ++ f.pn ++ f.flg ++ f.rsv ++ f.nt), rsv8 := BitVec.extractLsb' (n := 8+4+11+11+2+2+2+11+4+1+4+1+1+1+1) 8 1 (op ++ f.fn ++ f.d ++ f.base ++ f.coh ++ f.scope ++ f.ord ++ f.s ++ f.ty ++ f.rsv8 ++ f.pm ++ f.pn ++ f.flg ++ f.rsv ++ f.nt), pm := BitVec.extractLsb' (n := 8+4+11+11+2+2+2+11+4+1+4+1+1+1+1) 4 4 (op ++ f.fn ++ f.d ++ f.base ++ f.coh ++ f.scope ++ f.ord ++ f.s ++ f.ty ++ f.rsv8 ++ f.pm ++ f.pn ++ f.flg ++ f.rsv ++ f.nt), pn := BitVec.extractLsb' (n := 8+4+11+11+2+2+2+11+4+1+4+1+1+1+1) 3 1 (op ++ f.fn ++ f.d ++ f.base ++ f.coh ++ f.scope ++ f.ord ++ f.s ++ f.ty ++ f.rsv8 ++ f.pm ++ f.pn ++ f.flg ++ f.rsv ++ f.nt), flg := BitVec.extractLsb' (n := 8+4+11+11+2+2+2+11+4+1+4+1+1+1+1) 2 1 (op ++ f.fn ++ f.d ++ f.base ++ f.coh ++ f.scope ++ f.ord ++ f.s ++ f.ty ++ f.rsv8 ++ f.pm ++ f.pn ++ f.flg ++ f.rsv ++ f.nt), rsv := BitVec.extractLsb' (n := 8+4+11+11+2+2+2+11+4+1+4+1+1+1+1) 1 1 (op ++ f.fn ++ f.d ++ f.base ++ f.coh ++ f.scope ++ f.ord ++ f.s ++ f.ty ++ f.rsv8 ++ f.pm ++ f.pn ++ f.flg ++ f.rsv ++ f.nt), nt := BitVec.extractLsb' (n := 8+4+11+11+2+2+2+11+4+1+4+1+1+1+1) 0 1 (op ++ f.fn ++ f.d ++ f.base ++ f.coh ++ f.scope ++ f.ord ++ f.s ++ f.ty ++ f.rsv8 ++ f.pm ++ f.pn ++ f.flg ++ f.rsv ++ f.nt) } : MAF) = f
  simp (disch := decide) only [hi_of_append, lo_of_append]
  cases f; congr 1 <;> exact BitVec.extractLsb'_eq_self

/-- A BF word keeps its opcode and every field. -/
theorem BF.opcode_toWord (op : BitVec 8) (f : BF) : (f.toWord op).extractLsb' 56 8 = op := by
  change BitVec.extractLsb' (n := 8+4+11+4+29+4+1+3) 56 8 (op ++ f.fn ++ f.a ++ f.mreg ++ f.tgt ++ f.pm ++ f.pn ++ f.rsv) = op
  simp (disch := decide) only [hi_of_append]
  exact BitVec.extractLsb'_eq_self
theorem BF.ofWord_toWord (op : BitVec 8) (f : BF) : BF.ofWord (f.toWord op) = f := by
  change ({ fn := BitVec.extractLsb' (n := 8+4+11+4+29+4+1+3) 52 4 (op ++ f.fn ++ f.a ++ f.mreg ++ f.tgt ++ f.pm ++ f.pn ++ f.rsv), a := BitVec.extractLsb' (n := 8+4+11+4+29+4+1+3) 41 11 (op ++ f.fn ++ f.a ++ f.mreg ++ f.tgt ++ f.pm ++ f.pn ++ f.rsv), mreg := BitVec.extractLsb' (n := 8+4+11+4+29+4+1+3) 37 4 (op ++ f.fn ++ f.a ++ f.mreg ++ f.tgt ++ f.pm ++ f.pn ++ f.rsv), tgt := BitVec.extractLsb' (n := 8+4+11+4+29+4+1+3) 8 29 (op ++ f.fn ++ f.a ++ f.mreg ++ f.tgt ++ f.pm ++ f.pn ++ f.rsv), pm := BitVec.extractLsb' (n := 8+4+11+4+29+4+1+3) 4 4 (op ++ f.fn ++ f.a ++ f.mreg ++ f.tgt ++ f.pm ++ f.pn ++ f.rsv), pn := BitVec.extractLsb' (n := 8+4+11+4+29+4+1+3) 3 1 (op ++ f.fn ++ f.a ++ f.mreg ++ f.tgt ++ f.pm ++ f.pn ++ f.rsv), rsv := BitVec.extractLsb' (n := 8+4+11+4+29+4+1+3) 0 3 (op ++ f.fn ++ f.a ++ f.mreg ++ f.tgt ++ f.pm ++ f.pn ++ f.rsv) } : BF) = f
  simp (disch := decide) only [hi_of_append, lo_of_append]
  cases f; congr 1 <;> exact BitVec.extractLsb'_eq_self

/-- A OF word keeps its opcode and every field. -/
theorem OF.opcode_toWord (op : BitVec 8) (f : OF) : (f.toWord op).extractLsb' 56 8 = op := by
  change BitVec.extractLsb' (n := 8+4+11+11+11+4+7+4+1+1+2) 56 8 (op ++ f.fn ++ f.d ++ f.a ++ f.b ++ f.mreg ++ f.rsv7 ++ f.pm ++ f.pn ++ f.flg ++ f.rsv) = op
  simp (disch := decide) only [hi_of_append]
  exact BitVec.extractLsb'_eq_self
theorem OF.ofWord_toWord (op : BitVec 8) (f : OF) : OF.ofWord (f.toWord op) = f := by
  change ({ fn := BitVec.extractLsb' (n := 8+4+11+11+11+4+7+4+1+1+2) 52 4 (op ++ f.fn ++ f.d ++ f.a ++ f.b ++ f.mreg ++ f.rsv7 ++ f.pm ++ f.pn ++ f.flg ++ f.rsv), d := BitVec.extractLsb' (n := 8+4+11+11+11+4+7+4+1+1+2) 41 11 (op ++ f.fn ++ f.d ++ f.a ++ f.b ++ f.mreg ++ f.rsv7 ++ f.pm ++ f.pn ++ f.flg ++ f.rsv), a := BitVec.extractLsb' (n := 8+4+11+11+11+4+7+4+1+1+2) 30 11 (op ++ f.fn ++ f.d ++ f.a ++ f.b ++ f.mreg ++ f.rsv7 ++ f.pm ++ f.pn ++ f.flg ++ f.rsv), b := BitVec.extractLsb' (n := 8+4+11+11+11+4+7+4+1+1+2) 19 11 (op ++ f.fn ++ f.d ++ f.a ++ f.b ++ f.mreg ++ f.rsv7 ++ f.pm ++ f.pn ++ f.flg ++ f.rsv), mreg := BitVec.extractLsb' (n := 8+4+11+11+11+4+7+4+1+1+2) 15 4 (op ++ f.fn ++ f.d ++ f.a ++ f.b ++ f.mreg ++ f.rsv7 ++ f.pm ++ f.pn ++ f.flg ++ f.rsv), rsv7 := BitVec.extractLsb' (n := 8+4+11+11+11+4+7+4+1+1+2) 8 7 (op ++ f.fn ++ f.d ++ f.a ++ f.b ++ f.mreg ++ f.rsv7 ++ f.pm ++ f.pn ++ f.flg ++ f.rsv), pm := BitVec.extractLsb' (n := 8+4+11+11+11+4+7+4+1+1+2) 4 4 (op ++ f.fn ++ f.d ++ f.a ++ f.b ++ f.mreg ++ f.rsv7 ++ f.pm ++ f.pn ++ f.flg ++ f.rsv), pn := BitVec.extractLsb' (n := 8+4+11+11+11+4+7+4+1+1+2) 3 1 (op ++ f.fn ++ f.d ++ f.a ++ f.b ++ f.mreg ++ f.rsv7 ++ f.pm ++ f.pn ++ f.flg ++ f.rsv), flg := BitVec.extractLsb' (n := 8+4+11+11+11+4+7+4+1+1+2) 2 1 (op ++ f.fn ++ f.d ++ f.a ++ f.b ++ f.mreg ++ f.rsv7 ++ f.pm ++ f.pn ++ f.flg ++ f.rsv), rsv := BitVec.extractLsb' (n := 8+4+11+11+11+4+7+4+1+1+2) 0 2 (op ++ f.fn ++ f.d ++ f.a ++ f.b ++ f.mreg ++ f.rsv7 ++ f.pm ++ f.pn ++ f.flg ++ f.rsv) } : OF) = f
  simp (disch := decide) only [hi_of_append, lo_of_append]
  cases f; congr 1 <;> exact BitVec.extractLsb'_eq_self

/-- A XF word keeps its opcode and every field. -/
theorem XF.opcode_toWord (op : BitVec 8) (f : XF) : (f.toWord op).extractLsb' 56 8 = op := by
  change BitVec.extractLsb' (n := 8+4+11+11+11+4+4+3+3+2+1+1+1) 56 8 (op ++ f.fn ++ f.d ++ f.a ++ f.b ++ f.tr ++ f.tc ++ f.pa ++ f.pb ++ f.rsv2 ++ f.flg ++ f.rsv ++ f.nt) = op
  simp (disch := decide) only [hi_of_append]
  exact BitVec.extractLsb'_eq_self
theorem XF.ofWord_toWord (op : BitVec 8) (f : XF) : XF.ofWord (f.toWord op) = f := by
  change ({ fn := BitVec.extractLsb' (n := 8+4+11+11+11+4+4+3+3+2+1+1+1) 52 4 (op ++ f.fn ++ f.d ++ f.a ++ f.b ++ f.tr ++ f.tc ++ f.pa ++ f.pb ++ f.rsv2 ++ f.flg ++ f.rsv ++ f.nt), d := BitVec.extractLsb' (n := 8+4+11+11+11+4+4+3+3+2+1+1+1) 41 11 (op ++ f.fn ++ f.d ++ f.a ++ f.b ++ f.tr ++ f.tc ++ f.pa ++ f.pb ++ f.rsv2 ++ f.flg ++ f.rsv ++ f.nt), a := BitVec.extractLsb' (n := 8+4+11+11+11+4+4+3+3+2+1+1+1) 30 11 (op ++ f.fn ++ f.d ++ f.a ++ f.b ++ f.tr ++ f.tc ++ f.pa ++ f.pb ++ f.rsv2 ++ f.flg ++ f.rsv ++ f.nt), b := BitVec.extractLsb' (n := 8+4+11+11+11+4+4+3+3+2+1+1+1) 19 11 (op ++ f.fn ++ f.d ++ f.a ++ f.b ++ f.tr ++ f.tc ++ f.pa ++ f.pb ++ f.rsv2 ++ f.flg ++ f.rsv ++ f.nt), tr := BitVec.extractLsb' (n := 8+4+11+11+11+4+4+3+3+2+1+1+1) 15 4 (op ++ f.fn ++ f.d ++ f.a ++ f.b ++ f.tr ++ f.tc ++ f.pa ++ f.pb ++ f.rsv2 ++ f.flg ++ f.rsv ++ f.nt), tc := BitVec.extractLsb' (n := 8+4+11+11+11+4+4+3+3+2+1+1+1) 11 4 (op ++ f.fn ++ f.d ++ f.a ++ f.b ++ f.tr ++ f.tc ++ f.pa ++ f.pb ++ f.rsv2 ++ f.flg ++ f.rsv ++ f.nt), pa := BitVec.extractLsb' (n := 8+4+11+11+11+4+4+3+3+2+1+1+1) 8 3 (op ++ f.fn ++ f.d ++ f.a ++ f.b ++ f.tr ++ f.tc ++ f.pa ++ f.pb ++ f.rsv2 ++ f.flg ++ f.rsv ++ f.nt), pb := BitVec.extractLsb' (n := 8+4+11+11+11+4+4+3+3+2+1+1+1) 5 3 (op ++ f.fn ++ f.d ++ f.a ++ f.b ++ f.tr ++ f.tc ++ f.pa ++ f.pb ++ f.rsv2 ++ f.flg ++ f.rsv ++ f.nt), rsv2 := BitVec.extractLsb' (n := 8+4+11+11+11+4+4+3+3+2+1+1+1) 3 2 (op ++ f.fn ++ f.d ++ f.a ++ f.b ++ f.tr ++ f.tc ++ f.pa ++ f.pb ++ f.rsv2 ++ f.flg ++ f.rsv ++ f.nt), flg := BitVec.extractLsb' (n := 8+4+11+11+11+4+4+3+3+2+1+1+1) 2 1 (op ++ f.fn ++ f.d ++ f.a ++ f.b ++ f.tr ++ f.tc ++ f.pa ++ f.pb ++ f.rsv2 ++ f.flg ++ f.rsv ++ f.nt), rsv := BitVec.extractLsb' (n := 8+4+11+11+11+4+4+3+3+2+1+1+1) 1 1 (op ++ f.fn ++ f.d ++ f.a ++ f.b ++ f.tr ++ f.tc ++ f.pa ++ f.pb ++ f.rsv2 ++ f.flg ++ f.rsv ++ f.nt), nt := BitVec.extractLsb' (n := 8+4+11+11+11+4+4+3+3+2+1+1+1) 0 1 (op ++ f.fn ++ f.d ++ f.a ++ f.b ++ f.tr ++ f.tc ++ f.pa ++ f.pb ++ f.rsv2 ++ f.flg ++ f.rsv ++ f.nt) } : XF) = f
  simp (disch := decide) only [hi_of_append, lo_of_append]
  cases f; congr 1 <;> exact BitVec.extractLsb'_eq_self

/-- A CF word keeps its opcode and every field. -/
theorem CF.opcode_toWord (op : BitVec 8) (f : CF) : (f.toWord op).extractLsb' 56 8 = op := by
  change BitVec.extractLsb' (n := 8+4+11+11+11+2+14+1+2) 56 8 (op ++ f.fn ++ f.d ++ f.a ++ f.b ++ f.ch ++ f.rsv14 ++ f.flg ++ f.rsv) = op
  simp (disch := decide) only [hi_of_append]
  exact BitVec.extractLsb'_eq_self
theorem CF.ofWord_toWord (op : BitVec 8) (f : CF) : CF.ofWord (f.toWord op) = f := by
  change ({ fn := BitVec.extractLsb' (n := 8+4+11+11+11+2+14+1+2) 52 4 (op ++ f.fn ++ f.d ++ f.a ++ f.b ++ f.ch ++ f.rsv14 ++ f.flg ++ f.rsv), d := BitVec.extractLsb' (n := 8+4+11+11+11+2+14+1+2) 41 11 (op ++ f.fn ++ f.d ++ f.a ++ f.b ++ f.ch ++ f.rsv14 ++ f.flg ++ f.rsv), a := BitVec.extractLsb' (n := 8+4+11+11+11+2+14+1+2) 30 11 (op ++ f.fn ++ f.d ++ f.a ++ f.b ++ f.ch ++ f.rsv14 ++ f.flg ++ f.rsv), b := BitVec.extractLsb' (n := 8+4+11+11+11+2+14+1+2) 19 11 (op ++ f.fn ++ f.d ++ f.a ++ f.b ++ f.ch ++ f.rsv14 ++ f.flg ++ f.rsv), ch := BitVec.extractLsb' (n := 8+4+11+11+11+2+14+1+2) 17 2 (op ++ f.fn ++ f.d ++ f.a ++ f.b ++ f.ch ++ f.rsv14 ++ f.flg ++ f.rsv), rsv14 := BitVec.extractLsb' (n := 8+4+11+11+11+2+14+1+2) 3 14 (op ++ f.fn ++ f.d ++ f.a ++ f.b ++ f.ch ++ f.rsv14 ++ f.flg ++ f.rsv), flg := BitVec.extractLsb' (n := 8+4+11+11+11+2+14+1+2) 2 1 (op ++ f.fn ++ f.d ++ f.a ++ f.b ++ f.ch ++ f.rsv14 ++ f.flg ++ f.rsv), rsv := BitVec.extractLsb' (n := 8+4+11+11+11+2+14+1+2) 0 2 (op ++ f.fn ++ f.d ++ f.a ++ f.b ++ f.ch ++ f.rsv14 ++ f.flg ++ f.rsv) } : CF) = f
  simp (disch := decide) only [hi_of_append, lo_of_append]
  cases f; congr 1 <;> exact BitVec.extractLsb'_eq_self

/-- A SF word keeps its opcode and every field. -/
theorem SF.opcode_toWord (op : BitVec 8) (f : SF) : (f.toWord op).extractLsb' 56 8 = op := by
  change BitVec.extractLsb' (n := 8+4+11+11+12+6+4+4+1+1+2) 56 8 (op ++ f.fn ++ f.d ++ f.a ++ f.csr ++ f.n ++ f.cf ++ f.pm ++ f.pn ++ f.flg ++ f.rsv) = op
  simp (disch := decide) only [hi_of_append]
  exact BitVec.extractLsb'_eq_self
theorem SF.ofWord_toWord (op : BitVec 8) (f : SF) : SF.ofWord (f.toWord op) = f := by
  change ({ fn := BitVec.extractLsb' (n := 8+4+11+11+12+6+4+4+1+1+2) 52 4 (op ++ f.fn ++ f.d ++ f.a ++ f.csr ++ f.n ++ f.cf ++ f.pm ++ f.pn ++ f.flg ++ f.rsv), d := BitVec.extractLsb' (n := 8+4+11+11+12+6+4+4+1+1+2) 41 11 (op ++ f.fn ++ f.d ++ f.a ++ f.csr ++ f.n ++ f.cf ++ f.pm ++ f.pn ++ f.flg ++ f.rsv), a := BitVec.extractLsb' (n := 8+4+11+11+12+6+4+4+1+1+2) 30 11 (op ++ f.fn ++ f.d ++ f.a ++ f.csr ++ f.n ++ f.cf ++ f.pm ++ f.pn ++ f.flg ++ f.rsv), csr := BitVec.extractLsb' (n := 8+4+11+11+12+6+4+4+1+1+2) 18 12 (op ++ f.fn ++ f.d ++ f.a ++ f.csr ++ f.n ++ f.cf ++ f.pm ++ f.pn ++ f.flg ++ f.rsv), n := BitVec.extractLsb' (n := 8+4+11+11+12+6+4+4+1+1+2) 12 6 (op ++ f.fn ++ f.d ++ f.a ++ f.csr ++ f.n ++ f.cf ++ f.pm ++ f.pn ++ f.flg ++ f.rsv), cf := BitVec.extractLsb' (n := 8+4+11+11+12+6+4+4+1+1+2) 8 4 (op ++ f.fn ++ f.d ++ f.a ++ f.csr ++ f.n ++ f.cf ++ f.pm ++ f.pn ++ f.flg ++ f.rsv), pm := BitVec.extractLsb' (n := 8+4+11+11+12+6+4+4+1+1+2) 4 4 (op ++ f.fn ++ f.d ++ f.a ++ f.csr ++ f.n ++ f.cf ++ f.pm ++ f.pn ++ f.flg ++ f.rsv), pn := BitVec.extractLsb' (n := 8+4+11+11+12+6+4+4+1+1+2) 3 1 (op ++ f.fn ++ f.d ++ f.a ++ f.csr ++ f.n ++ f.cf ++ f.pm ++ f.pn ++ f.flg ++ f.rsv), flg := BitVec.extractLsb' (n := 8+4+11+11+12+6+4+4+1+1+2) 2 1 (op ++ f.fn ++ f.d ++ f.a ++ f.csr ++ f.n ++ f.cf ++ f.pm ++ f.pn ++ f.flg ++ f.rsv), rsv := BitVec.extractLsb' (n := 8+4+11+11+12+6+4+4+1+1+2) 0 2 (op ++ f.fn ++ f.d ++ f.a ++ f.csr ++ f.n ++ f.cf ++ f.pm ++ f.pn ++ f.flg ++ f.rsv) } : SF) = f
  simp (disch := decide) only [hi_of_append, lo_of_append]
  cases f; congr 1 <;> exact BitVec.extractLsb'_eq_self

namespace Laws.WordForm

/-- The word of an instruction carries its major opcode. -/
def Statement (i : Instr) : Prop := ∀ w, encode i = some w → ∃ op, i.opcode = some op ∧ w.extractLsb' 56 8 = op

end Laws.WordForm

end Sys2Proof

open Sys2Proof Sys2Proof.Laws.WordForm

theorem Sys2Proof.Laws.WordForm.iadd (f : VF) : Statement (.iadd f) := by rintro _ ⟨⟩; exact ⟨_, rfl, VF.opcode_toWord _ _⟩
theorem Sys2Proof.Laws.WordForm.isub (f : VF) : Statement (.isub f) := by rintro _ ⟨⟩; exact ⟨_, rfl, VF.opcode_toWord _ _⟩
theorem Sys2Proof.Laws.WordForm.imul (f : VF) : Statement (.imul f) := by rintro _ ⟨⟩; exact ⟨_, rfl, VF.opcode_toWord _ _⟩
theorem Sys2Proof.Laws.WordForm.imulh (f : VF) : Statement (.imulh f) := by rintro _ ⟨⟩; exact ⟨_, rfl, VF.opcode_toWord _ _⟩
theorem Sys2Proof.Laws.WordForm.imad (f : VF) : Statement (.imad f) := by rintro _ ⟨⟩; exact ⟨_, rfl, VF.opcode_toWord _ _⟩
theorem Sys2Proof.Laws.WordForm.imin (f : VF) : Statement (.imin f) := by rintro _ ⟨⟩; exact ⟨_, rfl, VF.opcode_toWord _ _⟩
theorem Sys2Proof.Laws.WordForm.imax (f : VF) : Statement (.imax f) := by rintro _ ⟨⟩; exact ⟨_, rfl, VF.opcode_toWord _ _⟩
theorem Sys2Proof.Laws.WordForm.iabs (f : VF) : Statement (.iabs f) := by rintro _ ⟨⟩; exact ⟨_, rfl, VF.opcode_toWord _ _⟩
theorem Sys2Proof.Laws.WordForm.ineg (f : VF) : Statement (.ineg f) := by rintro _ ⟨⟩; exact ⟨_, rfl, VF.opcode_toWord _ _⟩
theorem Sys2Proof.Laws.WordForm.and (f : VF) : Statement (.and f) := by rintro _ ⟨⟩; exact ⟨_, rfl, VF.opcode_toWord _ _⟩
theorem Sys2Proof.Laws.WordForm.or (f : VF) : Statement (.or f) := by rintro _ ⟨⟩; exact ⟨_, rfl, VF.opcode_toWord _ _⟩
theorem Sys2Proof.Laws.WordForm.xor (f : VF) : Statement (.xor f) := by rintro _ ⟨⟩; exact ⟨_, rfl, VF.opcode_toWord _ _⟩
theorem Sys2Proof.Laws.WordForm.not (f : VF) : Statement (.not f) := by rintro _ ⟨⟩; exact ⟨_, rfl, VF.opcode_toWord _ _⟩
theorem Sys2Proof.Laws.WordForm.shl (f : VF) : Statement (.shl f) := by rintro _ ⟨⟩; exact ⟨_, rfl, VF.opcode_toWord _ _⟩
theorem Sys2Proof.Laws.WordForm.shr (f : VF) : Statement (.shr f) := by rintro _ ⟨⟩; exact ⟨_, rfl, VF.opcode_toWord _ _⟩
theorem Sys2Proof.Laws.WordForm.rot (f : VF) : Statement (.rot f) := by rintro _ ⟨⟩; exact ⟨_, rfl, VF.opcode_toWord _ _⟩
theorem Sys2Proof.Laws.WordForm.bfx (f : VF) : Statement (.bfx f) := by rintro _ ⟨⟩; exact ⟨_, rfl, VF.opcode_toWord _ _⟩
theorem Sys2Proof.Laws.WordForm.bfi (f : VF) : Statement (.bfi f) := by rintro _ ⟨⟩; exact ⟨_, rfl, VF.opcode_toWord _ _⟩
theorem Sys2Proof.Laws.WordForm.popc (f : VF) : Statement (.popc f) := by rintro _ ⟨⟩; exact ⟨_, rfl, VF.opcode_toWord _ _⟩
theorem Sys2Proof.Laws.WordForm.clz (f : VF) : Statement (.clz f) := by rintro _ ⟨⟩; exact ⟨_, rfl, VF.opcode_toWord _ _⟩
theorem Sys2Proof.Laws.WordForm.brev (f : VF) : Statement (.brev f) := by rintro _ ⟨⟩; exact ⟨_, rfl, VF.opcode_toWord _ _⟩
theorem Sys2Proof.Laws.WordForm.prmt (f : VF) : Statement (.prmt f) := by rintro _ ⟨⟩; exact ⟨_, rfl, VF.opcode_toWord _ _⟩
theorem Sys2Proof.Laws.WordForm.sel (f : VF) : Statement (.sel f) := by rintro _ ⟨⟩; exact ⟨_, rfl, VF.opcode_toWord _ _⟩
theorem Sys2Proof.Laws.WordForm.icmp (f : VF) : Statement (.icmp f) := by rintro _ ⟨⟩; exact ⟨_, rfl, VF.opcode_toWord _ _⟩
theorem Sys2Proof.Laws.WordForm.iadd64 (f : VF) : Statement (.iadd64 f) := by rintro _ ⟨⟩; exact ⟨_, rfl, VF.opcode_toWord _ _⟩
theorem Sys2Proof.Laws.WordForm.isub64 (f : VF) : Statement (.isub64 f) := by rintro _ ⟨⟩; exact ⟨_, rfl, VF.opcode_toWord _ _⟩
theorem Sys2Proof.Laws.WordForm.imad64 (f : VF) : Statement (.imad64 f) := by rintro _ ⟨⟩; exact ⟨_, rfl, VF.opcode_toWord _ _⟩
theorem Sys2Proof.Laws.WordForm.lea (f : VF) : Statement (.lea f) := by rintro _ ⟨⟩; exact ⟨_, rfl, VF.opcode_toWord _ _⟩
theorem Sys2Proof.Laws.WordForm.mov (f : VF) : Statement (.mov f) := by rintro _ ⟨⟩; exact ⟨_, rfl, VF.opcode_toWord _ _⟩
theorem Sys2Proof.Laws.WordForm.idot4 (f : VF) : Statement (.idot4 f) := by rintro _ ⟨⟩; exact ⟨_, rfl, VF.opcode_toWord _ _⟩
theorem Sys2Proof.Laws.WordForm.isat (f : VF) : Statement (.isat f) := by rintro _ ⟨⟩; exact ⟨_, rfl, VF.opcode_toWord _ _⟩
theorem Sys2Proof.Laws.WordForm.fadd (f : VF) : Statement (.fadd f) := by rintro _ ⟨⟩; exact ⟨_, rfl, VF.opcode_toWord _ _⟩
theorem Sys2Proof.Laws.WordForm.fsub (f : VF) : Statement (.fsub f) := by rintro _ ⟨⟩; exact ⟨_, rfl, VF.opcode_toWord _ _⟩
theorem Sys2Proof.Laws.WordForm.fmul (f : VF) : Statement (.fmul f) := by rintro _ ⟨⟩; exact ⟨_, rfl, VF.opcode_toWord _ _⟩
theorem Sys2Proof.Laws.WordForm.ffma (f : VF) : Statement (.ffma f) := by rintro _ ⟨⟩; exact ⟨_, rfl, VF.opcode_toWord _ _⟩
theorem Sys2Proof.Laws.WordForm.fdiv (f : VF) : Statement (.fdiv f) := by rintro _ ⟨⟩; exact ⟨_, rfl, VF.opcode_toWord _ _⟩
theorem Sys2Proof.Laws.WordForm.fsqrt (f : VF) : Statement (.fsqrt f) := by rintro _ ⟨⟩; exact ⟨_, rfl, VF.opcode_toWord _ _⟩
theorem Sys2Proof.Laws.WordForm.frcp (f : VF) : Statement (.frcp f) := by rintro _ ⟨⟩; exact ⟨_, rfl, VF.opcode_toWord _ _⟩
theorem Sys2Proof.Laws.WordForm.fmin (f : VF) : Statement (.fmin f) := by rintro _ ⟨⟩; exact ⟨_, rfl, VF.opcode_toWord _ _⟩
theorem Sys2Proof.Laws.WordForm.fmax (f : VF) : Statement (.fmax f) := by rintro _ ⟨⟩; exact ⟨_, rfl, VF.opcode_toWord _ _⟩
theorem Sys2Proof.Laws.WordForm.fcmp (f : VF) : Statement (.fcmp f) := by rintro _ ⟨⟩; exact ⟨_, rfl, VF.opcode_toWord _ _⟩
theorem Sys2Proof.Laws.WordForm.frsq (f : VF) : Statement (.frsq f) := by rintro _ ⟨⟩; exact ⟨_, rfl, VF.opcode_toWord _ _⟩
theorem Sys2Proof.Laws.WordForm.fex2 (f : VF) : Statement (.fex2 f) := by rintro _ ⟨⟩; exact ⟨_, rfl, VF.opcode_toWord _ _⟩
theorem Sys2Proof.Laws.WordForm.flg2 (f : VF) : Statement (.flg2 f) := by rintro _ ⟨⟩; exact ⟨_, rfl, VF.opcode_toWord _ _⟩
theorem Sys2Proof.Laws.WordForm.fsin (f : VF) : Statement (.fsin f) := by rintro _ ⟨⟩; exact ⟨_, rfl, VF.opcode_toWord _ _⟩
theorem Sys2Proof.Laws.WordForm.fcos (f : VF) : Statement (.fcos f) := by rintro _ ⟨⟩; exact ⟨_, rfl, VF.opcode_toWord _ _⟩
theorem Sys2Proof.Laws.WordForm.ftanh (f : VF) : Statement (.ftanh f) := by rintro _ ⟨⟩; exact ⟨_, rfl, VF.opcode_toWord _ _⟩
theorem Sys2Proof.Laws.WordForm.fclass (f : VF) : Statement (.fclass f) := by rintro _ ⟨⟩; exact ⟨_, rfl, VF.opcode_toWord _ _⟩
theorem Sys2Proof.Laws.WordForm.frnd (f : VF) : Statement (.frnd f) := by rintro _ ⟨⟩; exact ⟨_, rfl, VF.opcode_toWord _ _⟩
theorem Sys2Proof.Laws.WordForm.hadd2 (f : VF) : Statement (.hadd2 f) := by rintro _ ⟨⟩; exact ⟨_, rfl, VF.opcode_toWord _ _⟩
theorem Sys2Proof.Laws.WordForm.hmul2 (f : VF) : Statement (.hmul2 f) := by rintro _ ⟨⟩; exact ⟨_, rfl, VF.opcode_toWord _ _⟩
theorem Sys2Proof.Laws.WordForm.hfma2 (f : VF) : Statement (.hfma2 f) := by rintro _ ⟨⟩; exact ⟨_, rfl, VF.opcode_toWord _ _⟩
theorem Sys2Proof.Laws.WordForm.hmin2 (f : VF) : Statement (.hmin2 f) := by rintro _ ⟨⟩; exact ⟨_, rfl, VF.opcode_toWord _ _⟩
theorem Sys2Proof.Laws.WordForm.hmax2 (f : VF) : Statement (.hmax2 f) := by rintro _ ⟨⟩; exact ⟨_, rfl, VF.opcode_toWord _ _⟩
theorem Sys2Proof.Laws.WordForm.fcvt (f : VF) : Statement (.fcvt f) := by rintro _ ⟨⟩; exact ⟨_, rfl, VF.opcode_toWord _ _⟩
theorem Sys2Proof.Laws.WordForm.fcvti (f : VF) : Statement (.fcvti f) := by rintro _ ⟨⟩; exact ⟨_, rfl, VF.opcode_toWord _ _⟩
theorem Sys2Proof.Laws.WordForm.icvtf (f : VF) : Statement (.icvtf f) := by rintro _ ⟨⟩; exact ⟨_, rfl, VF.opcode_toWord _ _⟩
theorem Sys2Proof.Laws.WordForm.icvt (f : VF) : Statement (.icvt f) := by rintro _ ⟨⟩; exact ⟨_, rfl, VF.opcode_toWord _ _⟩
theorem Sys2Proof.Laws.WordForm.mand (f : VF) : Statement (.mand f) := by rintro _ ⟨⟩; exact ⟨_, rfl, VF.opcode_toWord _ _⟩
theorem Sys2Proof.Laws.WordForm.mor (f : VF) : Statement (.mor f) := by rintro _ ⟨⟩; exact ⟨_, rfl, VF.opcode_toWord _ _⟩
theorem Sys2Proof.Laws.WordForm.mxor (f : VF) : Statement (.mxor f) := by rintro _ ⟨⟩; exact ⟨_, rfl, VF.opcode_toWord _ _⟩
theorem Sys2Proof.Laws.WordForm.mnot (f : VF) : Statement (.mnot f) := by rintro _ ⟨⟩; exact ⟨_, rfl, VF.opcode_toWord _ _⟩
theorem Sys2Proof.Laws.WordForm.mmov (f : VF) : Statement (.mmov f) := by rintro _ ⟨⟩; exact ⟨_, rfl, VF.opcode_toWord _ _⟩
theorem Sys2Proof.Laws.WordForm.mpop (f : VF) : Statement (.mpop f) := by rintro _ ⟨⟩; exact ⟨_, rfl, VF.opcode_toWord _ _⟩
theorem Sys2Proof.Laws.WordForm.mfirst (f : VF) : Statement (.mfirst f) := by rintro _ ⟨⟩; exact ⟨_, rfl, VF.opcode_toWord _ _⟩
theorem Sys2Proof.Laws.WordForm.vote (f : VF) : Statement (.vote f) := by rintro _ ⟨⟩; exact ⟨_, rfl, VF.opcode_toWord _ _⟩
theorem Sys2Proof.Laws.WordForm.shfl (f : VF) : Statement (.shfl f) := by rintro _ ⟨⟩; exact ⟨_, rfl, VF.opcode_toWord _ _⟩
theorem Sys2Proof.Laws.WordForm.bcast (f : VF) : Statement (.bcast f) := by rintro _ ⟨⟩; exact ⟨_, rfl, VF.opcode_toWord _ _⟩
theorem Sys2Proof.Laws.WordForm.lred (f : VF) : Statement (.lred f) := by rintro _ ⟨⟩; exact ⟨_, rfl, VF.opcode_toWord _ _⟩
theorem Sys2Proof.Laws.WordForm.lscan (f : VF) : Statement (.lscan f) := by rintro _ ⟨⟩; exact ⟨_, rfl, VF.opcode_toWord _ _⟩
theorem Sys2Proof.Laws.WordForm.gadd (f : VF) : Statement (.gadd f) := by rintro _ ⟨⟩; exact ⟨_, rfl, VF.opcode_toWord _ _⟩
theorem Sys2Proof.Laws.WordForm.gsub (f : VF) : Statement (.gsub f) := by rintro _ ⟨⟩; exact ⟨_, rfl, VF.opcode_toWord _ _⟩
theorem Sys2Proof.Laws.WordForm.gmul (f : VF) : Statement (.gmul f) := by rintro _ ⟨⟩; exact ⟨_, rfl, VF.opcode_toWord _ _⟩
theorem Sys2Proof.Laws.WordForm.gand (f : VF) : Statement (.gand f) := by rintro _ ⟨⟩; exact ⟨_, rfl, VF.opcode_toWord _ _⟩
theorem Sys2Proof.Laws.WordForm.gor (f : VF) : Statement (.gor f) := by rintro _ ⟨⟩; exact ⟨_, rfl, VF.opcode_toWord _ _⟩
theorem Sys2Proof.Laws.WordForm.gxor (f : VF) : Statement (.gxor f) := by rintro _ ⟨⟩; exact ⟨_, rfl, VF.opcode_toWord _ _⟩
theorem Sys2Proof.Laws.WordForm.gshl (f : VF) : Statement (.gshl f) := by rintro _ ⟨⟩; exact ⟨_, rfl, VF.opcode_toWord _ _⟩
theorem Sys2Proof.Laws.WordForm.gshr (f : VF) : Statement (.gshr f) := by rintro _ ⟨⟩; exact ⟨_, rfl, VF.opcode_toWord _ _⟩
theorem Sys2Proof.Laws.WordForm.gcmp (f : VF) : Statement (.gcmp f) := by rintro _ ⟨⟩; exact ⟨_, rfl, VF.opcode_toWord _ _⟩
theorem Sys2Proof.Laws.WordForm.gmov (f : VF) : Statement (.gmov f) := by rintro _ ⟨⟩; exact ⟨_, rfl, VF.opcode_toWord _ _⟩
theorem Sys2Proof.Laws.WordForm.gsel (f : VF) : Statement (.gsel f) := by rintro _ ⟨⟩; exact ⟨_, rfl, VF.opcode_toWord _ _⟩
theorem Sys2Proof.Laws.WordForm.gadd64 (f : VF) : Statement (.gadd64 f) := by rintro _ ⟨⟩; exact ⟨_, rfl, VF.opcode_toWord _ _⟩
theorem Sys2Proof.Laws.WordForm.gmin (f : VF) : Statement (.gmin f) := by rintro _ ⟨⟩; exact ⟨_, rfl, VF.opcode_toWord _ _⟩
theorem Sys2Proof.Laws.WordForm.gmax (f : VF) : Statement (.gmax f) := by rintro _ ⟨⟩; exact ⟨_, rfl, VF.opcode_toWord _ _⟩
theorem Sys2Proof.Laws.WordForm.gfop (f : VF) : Statement (.gfop f) := by rintro _ ⟨⟩; exact ⟨_, rfl, VF.opcode_toWord _ _⟩
theorem Sys2Proof.Laws.WordForm.gldk (f : VF) : Statement (.gldk f) := by rintro _ ⟨⟩; exact ⟨_, rfl, VF.opcode_toWord _ _⟩
theorem Sys2Proof.Laws.WordForm.bra (f : BF) : Statement (.bra f) := by rintro _ ⟨⟩; exact ⟨_, rfl, BF.opcode_toWord _ _⟩
theorem Sys2Proof.Laws.WordForm.brm (f : BF) : Statement (.brm f) := by rintro _ ⟨⟩; exact ⟨_, rfl, BF.opcode_toWord _ _⟩
theorem Sys2Proof.Laws.WordForm.brg (f : BF) : Statement (.brg f) := by rintro _ ⟨⟩; exact ⟨_, rfl, BF.opcode_toWord _ _⟩
theorem Sys2Proof.Laws.WordForm.call (f : BF) : Statement (.call f) := by rintro _ ⟨⟩; exact ⟨_, rfl, BF.opcode_toWord _ _⟩
theorem Sys2Proof.Laws.WordForm.calli (f : OF) : Statement (.calli f) := by rintro _ ⟨⟩; exact ⟨_, rfl, OF.opcode_toWord _ _⟩
theorem Sys2Proof.Laws.WordForm.ret (f : OF) : Statement (.ret f) := by rintro _ ⟨⟩; exact ⟨_, rfl, OF.opcode_toWord _ _⟩
theorem Sys2Proof.Laws.WordForm.jmpi (f : OF) : Statement (.jmpi f) := by rintro _ ⟨⟩; exact ⟨_, rfl, OF.opcode_toWord _ _⟩
theorem Sys2Proof.Laws.WordForm.mbegin (f : OF) : Statement (.mbegin f) := by rintro _ ⟨⟩; exact ⟨_, rfl, OF.opcode_toWord _ _⟩
theorem Sys2Proof.Laws.WordForm.mleave (f : OF) : Statement (.mleave f) := by rintro _ ⟨⟩; exact ⟨_, rfl, OF.opcode_toWord _ _⟩
theorem Sys2Proof.Laws.WordForm.mwait (f : OF) : Statement (.mwait f) := by rintro _ ⟨⟩; exact ⟨_, rfl, OF.opcode_toWord _ _⟩
theorem Sys2Proof.Laws.WordForm.exit (f : OF) : Statement (.exit f) := by rintro _ ⟨⟩; exact ⟨_, rfl, OF.opcode_toWord _ _⟩
theorem Sys2Proof.Laws.WordForm.regroup (f : OF) : Statement (.regroup f) := by rintro _ ⟨⟩; exact ⟨_, rfl, OF.opcode_toWord _ _⟩
theorem Sys2Proof.Laws.WordForm.prio (f : OF) : Statement (.prio f) := by rintro _ ⟨⟩; exact ⟨_, rfl, OF.opcode_toWord _ _⟩
theorem Sys2Proof.Laws.WordForm.yield (f : OF) : Statement (.yield f) := by rintro _ ⟨⟩; exact ⟨_, rfl, OF.opcode_toWord _ _⟩
theorem Sys2Proof.Laws.WordForm.pushm (f : OF) : Statement (.pushm f) := by rintro _ ⟨⟩; exact ⟨_, rfl, OF.opcode_toWord _ _⟩
theorem Sys2Proof.Laws.WordForm.popm (f : OF) : Statement (.popm f) := by rintro _ ⟨⟩; exact ⟨_, rfl, OF.opcode_toWord _ _⟩
theorem Sys2Proof.Laws.WordForm.ld (f : MF) : Statement (.ld f) := by rintro _ ⟨⟩; exact ⟨_, rfl, MF.opcode_toWord _ _⟩
theorem Sys2Proof.Laws.WordForm.st (f : MF) : Statement (.st f) := by rintro _ ⟨⟩; exact ⟨_, rfl, MF.opcode_toWord _ _⟩
theorem Sys2Proof.Laws.WordForm.ldk (f : MF) : Statement (.ldk f) := by rintro _ ⟨⟩; exact ⟨_, rfl, MF.opcode_toWord _ _⟩
theorem Sys2Proof.Laws.WordForm.ldp (f : MF) : Statement (.ldp f) := by rintro _ ⟨⟩; exact ⟨_, rfl, MF.opcode_toWord _ _⟩
theorem Sys2Proof.Laws.WordForm.stp (f : MF) : Statement (.stp f) := by rintro _ ⟨⟩; exact ⟨_, rfl, MF.opcode_toWord _ _⟩
theorem Sys2Proof.Laws.WordForm.atom (f : MAF) : Statement (.atom f) := by rintro _ ⟨⟩; exact ⟨_, rfl, MAF.opcode_toWord _ _⟩
theorem Sys2Proof.Laws.WordForm.red (f : MAF) : Statement (.red f) := by rintro _ ⟨⟩; exact ⟨_, rfl, MAF.opcode_toWord _ _⟩
theorem Sys2Proof.Laws.WordForm.pref (f : MF) : Statement (.pref f) := by rintro _ ⟨⟩; exact ⟨_, rfl, MF.opcode_toWord _ _⟩
theorem Sys2Proof.Laws.WordForm.fence (f : MF) : Statement (.fence f) := by rintro _ ⟨⟩; exact ⟨_, rfl, MF.opcode_toWord _ _⟩
theorem Sys2Proof.Laws.WordForm.pfence (f : MF) : Statement (.pfence f) := by rintro _ ⟨⟩; exact ⟨_, rfl, MF.opcode_toWord _ _⟩
theorem Sys2Proof.Laws.WordForm.wback (f : MF) : Statement (.wback f) := by rintro _ ⟨⟩; exact ⟨_, rfl, MF.opcode_toWord _ _⟩
theorem Sys2Proof.Laws.WordForm.binfo (f : MF) : Statement (.binfo f) := by rintro _ ⟨⟩; exact ⟨_, rfl, MF.opcode_toWord _ _⟩
theorem Sys2Proof.Laws.WordForm.rsvq (f : MF) : Statement (.rsvq f) := by rintro _ ⟨⟩; exact ⟨_, rfl, MF.opcode_toWord _ _⟩
theorem Sys2Proof.Laws.WordForm.pgyield (f : MF) : Statement (.pgyield f) := by rintro _ ⟨⟩; exact ⟨_, rfl, MF.opcode_toWord _ _⟩
theorem Sys2Proof.Laws.WordForm.mark (f : MF) : Statement (.mark f) := by rintro _ ⟨⟩; exact ⟨_, rfl, MF.opcode_toWord _ _⟩
theorem Sys2Proof.Laws.WordForm.resid (f : MF) : Statement (.resid f) := by rintro _ ⟨⟩; exact ⟨_, rfl, MF.opcode_toWord _ _⟩
theorem Sys2Proof.Laws.WordForm.sld (f : MF) : Statement (.sld f) := by rintro _ ⟨⟩; exact ⟨_, rfl, MF.opcode_toWord _ _⟩
theorem Sys2Proof.Laws.WordForm.sst (f : MF) : Statement (.sst f) := by rintro _ ⟨⟩; exact ⟨_, rfl, MF.opcode_toWord _ _⟩
theorem Sys2Proof.Laws.WordForm.satom (f : MAF) : Statement (.satom f) := by rintro _ ⟨⟩; exact ⟨_, rfl, MAF.opcode_toWord _ _⟩
theorem Sys2Proof.Laws.WordForm.salloc (f : OF) : Statement (.salloc f) := by rintro _ ⟨⟩; exact ⟨_, rfl, OF.opcode_toWord _ _⟩
theorem Sys2Proof.Laws.WordForm.sfree (f : OF) : Statement (.sfree f) := by rintro _ ⟨⟩; exact ⟨_, rfl, OF.opcode_toWord _ _⟩
theorem Sys2Proof.Laws.WordForm.srenew (f : OF) : Statement (.srenew f) := by rintro _ ⟨⟩; exact ⟨_, rfl, OF.opcode_toWord _ _⟩
theorem Sys2Proof.Laws.WordForm.sage (f : OF) : Statement (.sage f) := by rintro _ ⟨⟩; exact ⟨_, rfl, OF.opcode_toWord _ _⟩
theorem Sys2Proof.Laws.WordForm.bar (f : OF) : Statement (.bar f) := by rintro _ ⟨⟩; exact ⟨_, rfl, OF.opcode_toWord _ _⟩
theorem Sys2Proof.Laws.WordForm.qperm (f : OF) : Statement (.qperm f) := by rintro _ ⟨⟩; exact ⟨_, rfl, OF.opcode_toWord _ _⟩
theorem Sys2Proof.Laws.WordForm.qpost (f : OF) : Statement (.qpost f) := by rintro _ ⟨⟩; exact ⟨_, rfl, OF.opcode_toWord _ _⟩
theorem Sys2Proof.Laws.WordForm.qtake (f : OF) : Statement (.qtake f) := by rintro _ ⟨⟩; exact ⟨_, rfl, OF.opcode_toWord _ _⟩
theorem Sys2Proof.Laws.WordForm.qfree (f : OF) : Statement (.qfree f) := by rintro _ ⟨⟩; exact ⟨_, rfl, OF.opcode_toWord _ _⟩
theorem Sys2Proof.Laws.WordForm.qinit (f : OF) : Statement (.qinit f) := by rintro _ ⟨⟩; exact ⟨_, rfl, OF.opcode_toWord _ _⟩
theorem Sys2Proof.Laws.WordForm.qstat (f : OF) : Statement (.qstat f) := by rintro _ ⟨⟩; exact ⟨_, rfl, OF.opcode_toWord _ _⟩
theorem Sys2Proof.Laws.WordForm.cpy (f : CF) : Statement (.cpy f) := by rintro _ ⟨⟩; exact ⟨_, rfl, CF.opcode_toWord _ _⟩
theorem Sys2Proof.Laws.WordForm.cpwp (f : CF) : Statement (.cpwp f) := by rintro _ ⟨⟩; exact ⟨_, rfl, CF.opcode_toWord _ _⟩
theorem Sys2Proof.Laws.WordForm.tsr (f : CF) : Statement (.tsr f) := by rintro _ ⟨⟩; exact ⟨_, rfl, CF.opcode_toWord _ _⟩
theorem Sys2Proof.Laws.WordForm.cpfill (f : CF) : Statement (.cpfill f) := by rintro _ ⟨⟩; exact ⟨_, rfl, CF.opcode_toWord _ _⟩
theorem Sys2Proof.Laws.WordForm.cpcancel (f : CF) : Statement (.cpcancel f) := by rintro _ ⟨⟩; exact ⟨_, rfl, CF.opcode_toWord _ _⟩
theorem Sys2Proof.Laws.WordForm.copySegment (core : Nat) (ch : Nat) : Statement (.copySegment core ch) := by rintro _ ⟨⟩
theorem Sys2Proof.Laws.WordForm.xmma (f : XF) : Statement (.xmma f) := by rintro _ ⟨⟩; exact ⟨_, rfl, XF.opcode_toWord _ _⟩
theorem Sys2Proof.Laws.WordForm.xzero (f : XF) : Statement (.xzero f) := by rintro _ ⟨⟩; exact ⟨_, rfl, XF.opcode_toWord _ _⟩
theorem Sys2Proof.Laws.WordForm.xfill (f : XF) : Statement (.xfill f) := by rintro _ ⟨⟩; exact ⟨_, rfl, XF.opcode_toWord _ _⟩
theorem Sys2Proof.Laws.WordForm.xrd (f : XF) : Statement (.xrd f) := by rintro _ ⟨⟩; exact ⟨_, rfl, XF.opcode_toWord _ _⟩
theorem Sys2Proof.Laws.WordForm.xwr (f : XF) : Statement (.xwr f) := by rintro _ ⟨⟩; exact ⟨_, rfl, XF.opcode_toWord _ _⟩
theorem Sys2Proof.Laws.WordForm.xscale (f : XF) : Statement (.xscale f) := by rintro _ ⟨⟩; exact ⟨_, rfl, XF.opcode_toWord _ _⟩
theorem Sys2Proof.Laws.WordForm.xdrain (f : XF) : Statement (.xdrain f) := by rintro _ ⟨⟩; exact ⟨_, rfl, XF.opcode_toWord _ _⟩
theorem Sys2Proof.Laws.WordForm.xquant (f : XF) : Statement (.xquant f) := by rintro _ ⟨⟩; exact ⟨_, rfl, XF.opcode_toWord _ _⟩
theorem Sys2Proof.Laws.WordForm.matrixCommand (core : Nat) : Statement (.matrixCommand core) := by rintro _ ⟨⟩
theorem Sys2Proof.Laws.WordForm.nop (f : SF) : Statement (.nop f) := by rintro _ ⟨⟩; exact ⟨_, rfl, SF.opcode_toWord _ _⟩
theorem Sys2Proof.Laws.WordForm.csrr (f : SF) : Statement (.csrr f) := by rintro _ ⟨⟩; exact ⟨_, rfl, SF.opcode_toWord _ _⟩
theorem Sys2Proof.Laws.WordForm.csrw (f : SF) : Statement (.csrw f) := by rintro _ ⟨⟩; exact ⟨_, rfl, SF.opcode_toWord _ _⟩
theorem Sys2Proof.Laws.WordForm.rsvaddTransfer (ctx : Nat) (amount : BitVec 37) : Statement (.rsvaddTransfer ctx amount) := by rintro _ ⟨⟩
theorem Sys2Proof.Laws.WordForm.hintdropRead (ctx : Nat) : Statement (.hintdropRead ctx) := by rintro _ ⟨⟩
theorem Sys2Proof.Laws.WordForm.trap (f : SF) : Statement (.trap f) := by rintro _ ⟨⟩; exact ⟨_, rfl, SF.opcode_toWord _ _⟩
theorem Sys2Proof.Laws.WordForm.brk (f : SF) : Statement (.brk f) := by rintro _ ⟨⟩; exact ⟨_, rfl, SF.opcode_toWord _ _⟩
theorem Sys2Proof.Laws.WordForm.tretReplay (f : SF) : Statement (.tretReplay f) := by rintro _ ⟨⟩; exact ⟨_, rfl, SF.opcode_toWord _ _⟩
theorem Sys2Proof.Laws.WordForm.tretSkip (f : SF) : Statement (.tretSkip f) := by rintro _ ⟨⟩; exact ⟨_, rfl, SF.opcode_toWord _ _⟩
theorem Sys2Proof.Laws.WordForm.launch (f : SF) : Statement (.launch f) := by rintro _ ⟨⟩; exact ⟨_, rfl, SF.opcode_toWord _ _⟩
theorem Sys2Proof.Laws.WordForm.clock (f : SF) : Statement (.clock f) := by rintro _ ⟨⟩; exact ⟨_, rfl, SF.opcode_toWord _ _⟩
theorem Sys2Proof.Laws.WordForm.sleep (f : SF) : Statement (.sleep f) := by rintro _ ⟨⟩; exact ⟨_, rfl, SF.opcode_toWord _ _⟩
theorem Sys2Proof.Laws.WordForm.sleepEnd (team : Nat) (tid : Nat) : Statement (.sleepEnd team tid) := by rintro _ ⟨⟩
theorem Sys2Proof.Laws.WordForm.waitf (f : SF) : Statement (.waitf f) := by rintro _ ⟨⟩; exact ⟨_, rfl, SF.opcode_toWord _ _⟩
theorem Sys2Proof.Laws.WordForm.issue (core : Nat) (slot : Nat) : Statement (.issue core slot) := by rintro _ ⟨⟩
theorem Sys2Proof.Laws.WordForm.clauseFetch (team : Nat) (tid : Nat) : Statement (.clauseFetch team tid) := by rintro _ ⟨⟩
theorem Sys2Proof.Laws.WordForm.localLoad (team : Nat) (iss : Nat) (lane : Nat) : Statement (.localLoad team iss lane) := by rintro _ ⟨⟩
theorem Sys2Proof.Laws.WordForm.send (team : Nat) (iss : Nat) (lane : Nat) : Statement (.send team iss lane) := by rintro _ ⟨⟩
theorem Sys2Proof.Laws.WordForm.enter (team : Nat) (iss : Nat) (lane : Nat) : Statement (.enter team iss lane) := by rintro _ ⟨⟩
theorem Sys2Proof.Laws.WordForm.leave (core : Nat) (entry : Nat) : Statement (.leave core entry) := by rintro _ ⟨⟩
theorem Sys2Proof.Laws.WordForm.storeAck (core : Nat) (slice : Nat) : Statement (.storeAck core slice) := by rintro _ ⟨⟩
theorem Sys2Proof.Laws.WordForm.ownershipGrant (core : Nat) (slice : Nat) : Statement (.ownershipGrant core slice) := by rintro _ ⟨⟩
theorem Sys2Proof.Laws.WordForm.admissionRefused (core : Nat) (slice : Nat) : Statement (.admissionRefused core slice) := by rintro _ ⟨⟩
theorem Sys2Proof.Laws.WordForm.loadReply (core : Nat) (slice : Nat) : Statement (.loadReply core slice) := by rintro _ ⟨⟩
theorem Sys2Proof.Laws.WordForm.complete (team : Nat) (iss : Nat) : Statement (.complete team iss) := by rintro _ ⟨⟩
theorem Sys2Proof.Laws.WordForm.port (core : Nat) (row : Nat) : Statement (.port core row) := by rintro _ ⟨⟩
theorem Sys2Proof.Laws.WordForm.tick : Statement .tick := by rintro _ ⟨⟩
theorem Sys2Proof.Laws.WordForm.walk (core : Nat) (walker : Nat) : Statement (.walk core walker) := by rintro _ ⟨⟩
theorem Sys2Proof.Laws.WordForm.admissionRequest (line : Nat) : Statement (.admissionRequest line) := by rintro _ ⟨⟩
theorem Sys2Proof.Laws.WordForm.homeLoadFill (core : Nat) (line : Nat) : Statement (.homeLoadFill core line) := by rintro _ ⟨⟩
theorem Sys2Proof.Laws.WordForm.homeSisFill (core : Nat) (line : Nat) : Statement (.homeSisFill core line) := by rintro _ ⟨⟩
theorem Sys2Proof.Laws.WordForm.homeWtLoad (core : Nat) (line : Nat) : Statement (.homeWtLoad core line) := by rintro _ ⟨⟩
theorem Sys2Proof.Laws.WordForm.ownershipRequest (core : Nat) (line : Nat) : Statement (.ownershipRequest core line) := by rintro _ ⟨⟩
theorem Sys2Proof.Laws.WordForm.homeWrite (core : Nat) (line : Nat) : Statement (.homeWrite core line) := by rintro _ ⟨⟩
theorem Sys2Proof.Laws.WordForm.homeAtomic (core : Nat) (line : Nat) : Statement (.homeAtomic core line) := by rintro _ ⟨⟩
theorem Sys2Proof.Laws.WordForm.walkRead (core : Nat) (ea : Nat) : Statement (.walkRead core ea) := by rintro _ ⟨⟩
theorem Sys2Proof.Laws.WordForm.release (core : Nat) (line : Nat) : Statement (.release core line) := by rintro _ ⟨⟩
theorem Sys2Proof.Laws.WordForm.evictionNotice (core : Nat) (line : Nat) : Statement (.evictionNotice core line) := by rintro _ ⟨⟩
theorem Sys2Proof.Laws.WordForm.invalidation (core : Nat) (slice : Nat) : Statement (.invalidation core slice) := by rintro _ ⟨⟩
theorem Sys2Proof.Laws.WordForm.invalidationAck (core : Nat) (line : Nat) : Statement (.invalidationAck core line) := by rintro _ ⟨⟩
theorem Sys2Proof.Laws.WordForm.recall (core : Nat) (slice : Nat) : Statement (.recall core slice) := by rintro _ ⟨⟩
theorem Sys2Proof.Laws.WordForm.recallReply (core : Nat) (line : Nat) : Statement (.recallReply core line) := by rintro _ ⟨⟩
theorem Sys2Proof.Laws.WordForm.leaseKill (core : Nat) (page : Nat) : Statement (.leaseKill core page) := by rintro _ ⟨⟩
theorem Sys2Proof.Laws.WordForm.closeMessage (core : Nat) (slice : Nat) : Statement (.closeMessage core slice) := by rintro _ ⟨⟩
theorem Sys2Proof.Laws.WordForm.closeAck (core : Nat) (billet : Nat) : Statement (.closeAck core billet) := by rintro _ ⟨⟩
theorem Sys2Proof.Laws.WordForm.billetClose (billet : Nat) : Statement (.billetClose billet) := by rintro _ ⟨⟩
theorem Sys2Proof.Laws.WordForm.l1Eviction (core : Nat) (line : Nat) : Statement (.l1Eviction core line) := by rintro _ ⟨⟩
theorem Sys2Proof.Laws.WordForm.l2Eviction (line : Nat) : Statement (.l2Eviction line) := by rintro _ ⟨⟩
theorem Sys2Proof.Laws.WordForm.translationEviction (core : Nat) (idx : Nat) : Statement (.translationEviction core idx) := by rintro _ ⟨⟩
theorem Sys2Proof.Laws.WordForm.filterEviction (core : Nat) (billet : Nat) : Statement (.filterEviction core billet) := by rintro _ ⟨⟩
theorem Sys2Proof.Laws.WordForm.compaction (billet : Nat) (frame : Nat) : Statement (.compaction billet frame) := by rintro _ ⟨⟩
theorem Sys2Proof.Laws.WordForm.patrolScrub (billet : Nat) (found : ErrKind) : Statement (.patrolScrub billet found) := by rintro _ ⟨⟩
theorem Sys2Proof.Laws.WordForm.chipperSelect (page : Nat) : Statement (.chipperSelect page) := by rintro _ ⟨⟩
theorem Sys2Proof.Laws.WordForm.demotionCopy (page : Nat) : Statement (.demotionCopy page) := by rintro _ ⟨⟩
theorem Sys2Proof.Laws.WordForm.freeze (page : Nat) : Statement (.freeze page) := by rintro _ ⟨⟩
theorem Sys2Proof.Laws.WordForm.demotionAbandon (page : Nat) : Statement (.demotionAbandon page) := by rintro _ ⟨⟩
theorem Sys2Proof.Laws.WordForm.promotion (page : Nat) : Statement (.promotion page) := by rintro _ ⟨⟩
theorem Sys2Proof.Laws.WordForm.promotionCommit (page : Nat) : Statement (.promotionCommit page) := by rintro _ ⟨⟩
theorem Sys2Proof.Laws.WordForm.leaseSweep (core : Nat) : Statement (.leaseSweep core) := by rintro _ ⟨⟩
theorem Sys2Proof.Laws.WordForm.expirySweep (core : Nat) : Statement (.expirySweep core) := by rintro _ ⟨⟩
theorem Sys2Proof.Laws.WordForm.temperatureReading (core : Nat) (deciC : Nat) : Statement (.temperatureReading core deciC) := by rintro _ ⟨⟩
theorem Sys2Proof.Laws.WordForm.bandFall (core : Nat) : Statement (.bandFall core) := by rintro _ ⟨⟩
theorem Sys2Proof.Laws.WordForm.governorInterval (core : Nat) (khz : Nat) : Statement (.governorInterval core khz) := by rintro _ ⟨⟩
theorem Sys2Proof.Laws.WordForm.keepaliveRenew (team : Nat) : Statement (.keepaliveRenew team) := by rintro _ ⟨⟩
theorem Sys2Proof.Laws.WordForm.keepaliveEnd (team : Nat) : Statement (.keepaliveEnd team) := by rintro _ ⟨⟩
theorem Sys2Proof.Laws.WordForm.retentionSleep (core : Nat) : Statement (.retentionSleep core) := by rintro _ ⟨⟩
theorem Sys2Proof.Laws.WordForm.retentionWake (core : Nat) : Statement (.retentionWake core) := by rintro _ ⟨⟩
theorem Sys2Proof.Laws.WordForm.emergencyRetentionSleep (core : Nat) : Statement (.emergencyRetentionSleep core) := by rintro _ ⟨⟩
theorem Sys2Proof.Laws.WordForm.powerCapExceeded (enough : Bool) (emergency : Bool) : Statement (.powerCapExceeded enough emergency) := by rintro _ ⟨⟩
theorem Sys2Proof.Laws.WordForm.qnotify (vd : Nat) (n : Nat) (q : Nat) (idx : BitVec 64) : Statement (.qnotify vd n q idx) := by rintro _ ⟨⟩
theorem Sys2Proof.Laws.WordForm.packetTakeUp (ctx : Nat) (q : Nat) : Statement (.packetTakeUp ctx q) := by rintro _ ⟨⟩
theorem Sys2Proof.Laws.WordForm.dependenceMet (ctx : Nat) (q : Nat) (idx : Nat) : Statement (.dependenceMet ctx q idx) := by rintro _ ⟨⟩
theorem Sys2Proof.Laws.WordForm.teamPlacement (ctx : Nat) (q : Nat) (idx : Nat) (core : Nat) : Statement (.teamPlacement ctx q idx core) := by rintro _ ⟨⟩
theorem Sys2Proof.Laws.WordForm.teamRetire (team : Nat) : Statement (.teamRetire team) := by rintro _ ⟨⟩
theorem Sys2Proof.Laws.WordForm.packetComplete (ctx : Nat) (q : Nat) (idx : Nat) : Statement (.packetComplete ctx q idx) := by rintro _ ⟨⟩
theorem Sys2Proof.Laws.WordForm.preemptiveDeschedule (ctx : Nat) (q : Nat) (idx : Nat) (core : Nat) : Statement (.preemptiveDeschedule ctx q idx core) := by rintro _ ⟨⟩
theorem Sys2Proof.Laws.WordForm.teamStop (team : Nat) : Statement (.teamStop team) := by rintro _ ⟨⟩
theorem Sys2Proof.Laws.WordForm.stopTimeout (team : Nat) : Statement (.stopTimeout team) := by rintro _ ⟨⟩
theorem Sys2Proof.Laws.WordForm.teamDrain (team : Nat) : Statement (.teamDrain team) := by rintro _ ⟨⟩
theorem Sys2Proof.Laws.WordForm.teamResume (ctx : Nat) (entry : Nat) (core : Nat) : Statement (.teamResume ctx entry core) := by rintro _ ⟨⟩
theorem Sys2Proof.Laws.WordForm.throttleHandoff (core : Nat) (slot : Nat) : Statement (.throttleHandoff core slot) := by rintro _ ⟨⟩
theorem Sys2Proof.Laws.WordForm.lookout (team : Nat) : Statement (.lookout team) := by rintro _ ⟨⟩
theorem Sys2Proof.Laws.WordForm.trapDelivery (team : Nat) (tid : Nat) : Statement (.trapDelivery team tid) := by rintro _ ⟨⟩
theorem Sys2Proof.Laws.WordForm.teamKill (team : Nat) : Statement (.teamKill team) := by rintro _ ⟨⟩
theorem Sys2Proof.Laws.WordForm.hostApertureWrite (da : Nat) (bytes : List Byte) : Statement (.hostApertureWrite da bytes) := by rintro _ ⟨⟩
theorem Sys2Proof.Laws.WordForm.hostApertureRead (da : Nat) (len : Nat) : Statement (.hostApertureRead da len) := by rintro _ ⟨⟩
theorem Sys2Proof.Laws.WordForm.hostAtomicop (op : HostOp) (da : Nat) (wide : Bool) (a : BitVec 64) (b : BitVec 64) : Statement (.hostAtomicop op da wide a b) := by rintro _ ⟨⟩
theorem Sys2Proof.Laws.WordForm.hostCompletionError (team : Nat) (iss : Nat) (lane : Nat) : Statement (.hostCompletionError team iss lane) := by rintro _ ⟨⟩
theorem Sys2Proof.Laws.WordForm.hostCompletionTimeout (team : Nat) (iss : Nat) (lane : Nat) : Statement (.hostCompletionTimeout team iss lane) := by rintro _ ⟨⟩
theorem Sys2Proof.Laws.WordForm.thinningDoorbell (ctx : Nat) : Statement (.thinningDoorbell ctx) := by rintro _ ⟨⟩
theorem Sys2Proof.Laws.WordForm.ctxBind (vd : Nat) (n : Nat) (ccb : BitVec 64) : Statement (.ctxBind vd n ccb) := by rintro _ ⟨⟩
theorem Sys2Proof.Laws.WordForm.ctxDestroy (vd : Nat) (n : Nat) : Statement (.ctxDestroy vd n) := by rintro _ ⟨⟩
theorem Sys2Proof.Laws.WordForm.ctxKillTeam (vd : Nat) (n : Nat) (q : Nat) (idx : Nat) (team : Nat) : Statement (.ctxKillTeam vd n q idx team) := by rintro _ ⟨⟩
theorem Sys2Proof.Laws.WordForm.ctxDescheduleTeam (vd : Nat) (n : Nat) (q : Nat) (idx : Nat) (team : Nat) : Statement (.ctxDescheduleTeam vd n q idx team) := by rintro _ ⟨⟩
theorem Sys2Proof.Laws.WordForm.ctxDebugReplay (vd : Nat) (n : Nat) (pslot : Nat) : Statement (.ctxDebugReplay vd n pslot) := by rintro _ ⟨⟩
theorem Sys2Proof.Laws.WordForm.ctxDebugSkip (vd : Nat) (n : Nat) (pslot : Nat) : Statement (.ctxDebugSkip vd n pslot) := by rintro _ ⟨⟩
theorem Sys2Proof.Laws.WordForm.ctxReloadImages (vd : Nat) (n : Nat) : Statement (.ctxReloadImages vd n) := by rintro _ ⟨⟩
theorem Sys2Proof.Laws.WordForm.ctxReserveTransfer (vd : Nat) (n : Nat) (amount : BitVec 37) : Statement (.ctxReserveTransfer vd n amount) := by rintro _ ⟨⟩
theorem Sys2Proof.Laws.WordForm.back (vd : Nat) (n : Nat) (page : Nat) : Statement (.back vd n page) := by rintro _ ⟨⟩
theorem Sys2Proof.Laws.WordForm.backFixedSize (vd : Nat) (n : Nat) (page : Nat) : Statement (.backFixedSize vd n page) := by rintro _ ⟨⟩
theorem Sys2Proof.Laws.WordForm.unback (vd : Nat) (n : Nat) (page : Nat) : Statement (.unback vd n page) := by rintro _ ⟨⟩
theorem Sys2Proof.Laws.WordForm.reassign (vd : Nat) (n : Nat) (page : Nat) : Statement (.reassign vd n page) := by rintro _ ⟨⟩
theorem Sys2Proof.Laws.WordForm.chipperDemote (page : Nat) : Statement (.chipperDemote page) := by rintro _ ⟨⟩
theorem Sys2Proof.Laws.WordForm.chipperPromote (page : Nat) : Statement (.chipperPromote page) := by rintro _ ⟨⟩
theorem Sys2Proof.Laws.WordForm.lmTrack (vd : Nat) (on : Bool) : Statement (.lmTrack vd on) := by rintro _ ⟨⟩
theorem Sys2Proof.Laws.WordForm.lmStop (vd : Nat) : Statement (.lmStop vd) := by rintro _ ⟨⟩
theorem Sys2Proof.Laws.WordForm.lmStopComplete (vd : Nat) : Statement (.lmStopComplete vd) := by rintro _ ⟨⟩
theorem Sys2Proof.Laws.WordForm.lmStopRelease (vd : Nat) : Statement (.lmStopRelease vd) := by rintro _ ⟨⟩
theorem Sys2Proof.Laws.WordForm.dirtyWordRead (vd : Nat) (word : Nat) : Statement (.dirtyWordRead vd word) := by rintro _ ⟨⟩
theorem Sys2Proof.Laws.WordForm.hrlostRead : Statement .hrlostRead := by rintro _ ⟨⟩
theorem Sys2Proof.Laws.WordForm.bpstatRead (port : Nat) : Statement (.bpstatRead port) := by rintro _ ⟨⟩
theorem Sys2Proof.Laws.WordForm.pcaplWrite (v : BitVec 32) : Statement (.pcaplWrite v) := by rintro _ ⟨⟩
theorem Sys2Proof.Laws.WordForm.pcaprWrite (v : BitVec 32) : Statement (.pcaprWrite v) := by rintro _ ⟨⟩
theorem Sys2Proof.Laws.WordForm.registerWrite (vd : Nat) (off : Nat) (v : BitVec 64) : Statement (.registerWrite vd off v) := by rintro _ ⟨⟩
theorem Sys2Proof.Laws.WordForm.peerLoad (dev : Nat) (line : Nat) : Statement (.peerLoad dev line) := by rintro _ ⟨⟩
theorem Sys2Proof.Laws.WordForm.peerStore (dev : Nat) (page : Nat) : Statement (.peerStore dev page) := by rintro _ ⟨⟩
theorem Sys2Proof.Laws.WordForm.localPageAccess (page : Nat) (store : Bool) : Statement (.localPageAccess page store) := by rintro _ ⟨⟩
theorem Sys2Proof.Laws.WordForm.revocation (dev : Nat) (page : Nat) : Statement (.revocation dev page) := by rintro _ ⟨⟩
theorem Sys2Proof.Laws.WordForm.revocationAck (dev : Nat) (change : Nat × Nat) (dirty : List (Nat × List Byte)) : Statement (.revocationAck dev change dirty) := by rintro _ ⟨⟩
theorem Sys2Proof.Laws.WordForm.revocationTimeout (page : Nat) : Statement (.revocationTimeout page) := by rintro _ ⟨⟩
theorem Sys2Proof.Laws.WordForm.flitReceive (port : Nat) (flit : Flit) : Statement (.flitReceive port flit) := by rintro _ ⟨⟩
theorem Sys2Proof.Laws.WordForm.nakReplay (port : Nat) (seq : Nat) : Statement (.nakReplay port seq) := by rintro _ ⟨⟩
theorem Sys2Proof.Laws.WordForm.portRecovery (port : Nat) (good : Nat) (spareGood : Bool) : Statement (.portRecovery port good spareGood) := by rintro _ ⟨⟩
theorem Sys2Proof.Laws.WordForm.recoveryTimeout (port : Nat) : Statement (.recoveryTimeout port) := by rintro _ ⟨⟩
theorem Sys2Proof.Laws.WordForm.requestGiveUp (team : Nat) (iss : Nat) (lane : Nat) : Statement (.requestGiveUp team iss lane) := by rintro _ ⟨⟩
theorem Sys2Proof.Laws.WordForm.halfWidthEntry (pc : Nat) (laneFault : Bool) : Statement (.halfWidthEntry pc laneFault) := by rintro _ ⟨⟩
theorem Sys2Proof.Laws.WordForm.fullWidthReturn (pc : Nat) : Statement (.fullWidthReturn pc) := by rintro _ ⟨⟩
theorem Sys2Proof.Laws.WordForm.powerOn (boot : BootInput) : Statement (.powerOn boot) := by rintro _ ⟨⟩
theorem Sys2Proof.Laws.WordForm.spdmChallenge (nonce : BitVec 256) : Statement (.spdmChallenge nonce) := by rintro _ ⟨⟩
theorem Sys2Proof.Laws.WordForm.migrationKeyAgreement (peer : PeerEvidence) : Statement (.migrationKeyAgreement peer) := by rintro _ ⟨⟩
theorem Sys2Proof.Laws.WordForm.pageExport (vd : Nat) (page : Nat) : Statement (.pageExport vd page) := by rintro _ ⟨⟩
theorem Sys2Proof.Laws.WordForm.pageImport (vd : Nat) (n : Nat) (page : Nat) (image : List Byte) : Statement (.pageImport vd n page image) := by rintro _ ⟨⟩
theorem Sys2Proof.Laws.WordForm.keySlotFill (slot : Nat) : Statement (.keySlotFill slot) := by rintro _ ⟨⟩
theorem Sys2Proof.Laws.WordForm.keySlotRelease (slot : Nat) : Statement (.keySlotRelease slot) := by rintro _ ⟨⟩
theorem Sys2Proof.Laws.WordForm.ageingRead (die : Nat) (eold : Nat) (wear : Nat) : Statement (.ageingRead die eold wear) := by rintro _ ⟨⟩
theorem Sys2Proof.Laws.WordForm.leaseKillAck (core : Nat) (page : Nat) : Statement (.leaseKillAck core page) := by rintro _ ⟨⟩
theorem Sys2Proof.Laws.WordForm.recoveryEnd (port : Nat) : Statement (.recoveryEnd port) := by rintro _ ⟨⟩
theorem Sys2Proof.Laws.WordForm.hostCompletion (team : Nat) (iss : Nat) (lane : Nat) (bytes : List Byte) : Statement (.hostCompletion team iss lane bytes) := by rintro _ ⟨⟩
theorem Sys2Proof.Laws.WordForm.subArrayPowerDown (core : Nat) : Statement (.subArrayPowerDown core) := by rintro _ ⟨⟩
end

