-- ==== Sys2Proof/Laws/Vector.lean ====
section
/-! SUPPORT. What a vector, truth-valued and uniform instruction can do, once for all of them (R239, R240, R246). -/

namespace Sys2Proof

open Machine

/-! ## The lanes of a bundle -/

theorem tidAt_spec {t : Team} {g l i : Nat} (h : tidAt t g l = some i) : ∃ th, t.threads[i]? = some th ∧ th.grp = g ∧ th.lane = l := by
  have := List.find?_some h
  revert this
  cases ht : t.threads[i]? with
  | none => simp
  | some th => intro hx; simp at hx; exact ⟨th, rfl, hx.1.1, hx.1.2⟩

theorem mem_lanesOf {t : Team} {g l i : Nat} {m : LaneMask} (h : (l, i) ∈ lanesOf t g m) : tidAt t g l = some i ∧ l ∈ bitsOf m := by
  simp only [lanesOf, List.mem_filterMap, Option.map_eq_some_iff, Prod.mk.injEq] at h
  obtain ⟨a, ha, b, hb, rfl, rfl⟩ := h
  exact ⟨hb, ha⟩

/-- A thread of the bundle stands in one lane. -/
theorem lane_unique {e : Env} {l l' i : Nat} (h : (l, i) ∈ e.lanes) (h' : (l', i) ∈ e.lanes) : l = l' := by
  obtain ⟨th, h1, -, h2⟩ := tidAt_spec (mem_lanesOf h).1
  obtain ⟨th', h3, -, h4⟩ := tidAt_spec (mem_lanesOf h').1
  rw [h1] at h3; cases h3; exact h2.symm.trans h4

theorem lanes_thread {e : Env} {l i : Nat} (h : (l, i) ∈ e.lanes) : ∃ th, e.team.threads[i]? = some th := by
  obtain ⟨th, h1, -⟩ := tidAt_spec (mem_lanesOf h).1; exact ⟨th, h1⟩

theorem bitsOf_nodup {w : Nat} (m : BitVec w) : (bitsOf m).Nodup := List.Nodup.filter _ List.nodup_range

theorem lanes_nodup (e : Env) : e.lanes.Nodup := by
  unfold Env.lanes lanesOf
  refine List.Nodup.filterMap ?_ (bitsOf_nodup _)
  intro a a' b h1 h2
  simp only [Option.map_eq_some_iff, Option.mem_def] at h1 h2
  obtain ⟨x, -, rfl⟩ := h1; obtain ⟨y, -, h⟩ := h2
  exact (Prod.mk.injEq .. ▸ h).1.symm

theorem sel_sub {e : Env} {pm : BitVec 4} {pn : BitVec 1} {p : Nat × Nat} (h : p ∈ e.sel pm pn) : p ∈ e.lanes := (List.mem_filter.mp h).1

/-! ## Writing a v destination -/

theorem holds_setV (th : Thread) (n k x : Nat) : holds (th.setV n k x).v n k x := by
  intro j hj
  simp only [Thread.setV, cellGet_sets, List.length_map, List.length_range]
  rw [if_pos (by omega)]
  simp [hj]

theorem setV_other (th : Thread) (n k x r : Nat) (h : ¬ (n ≤ r ∧ r < n + k)) : cellGet (th.setV n k x).v r = cellGet th.v r := by
  simp only [Thread.setV, cellGet_sets, List.length_map, List.length_range]
  rw [if_neg h]

theorem threadKept_setV {w : Nat → Prop} (th : Thread) (n k x : Nat) (h : ∀ r, n ≤ r → r < n + k → w r) : ThreadKept w th (th.setV n k x) :=
  ⟨rfl, fun r hr => setV_other th n k x r fun hx => hr (h r hx.1 hx.2)⟩

theorem kept_writeV {s t : State} {e : Env} {wv : Nat → Nat → Prop} {wg wm : Nat → Prop} (h : Kept s t e wv wg wm) (tid : Nat) (d : BitVec 11)
    (k x : Nat) (hw : ∀ r, inDest d k r → wv tid r) : Kept s (writeV t e tid d k x) e wv wg wm := by
  unfold writeV
  split
  · rename_i n hn
    exact h.updThread tid _ fun th => threadKept_setV th n k x fun r h1 h2 => hw r ⟨n, hn, h1, h2⟩
  · exact h

/-- The v registers of a thread after a list of threads has been written, each at most once. -/
theorem foldWriteV {e : Env} {d : BitVec 11} {k n : Nat} (hd : opKind d = .v n) (rs : List (Nat × Nat)) (hn : (rs.map Prod.fst).Nodup) (t : State)
    (tid x : Nat) (hm : (tid, x) ∈ rs) (hx : (t.thread e.tk tid).isSome) :
    ∃ th, (rs.foldl (fun s p => writeV s e p.1 d k p.2) t).thread e.tk tid = some th ∧ holds th.v n k x := by
  have hw : ∀ (t : State) (a b : Nat), writeV t e a d k b = t.updThread e.tk a fun t => t.setV n k b := by intro t a b; simp [writeV, hd]
  simp only [hw]
  have keep : ∀ (rs : List (Nat × Nat)) (t : State), tid ∉ rs.map Prod.fst →
      (rs.foldl (fun s p => s.updThread e.tk p.1 fun t => t.setV n k p.2) t).thread e.tk tid = t.thread e.tk tid := by
    intro rs
    induction rs with
    | nil => exact fun _ _ => rfl
    | cons p ps ih =>
      intro t ht
      simp only [List.map_cons, List.mem_cons, not_or] at ht
      rw [List.foldl_cons, ih _ ht.2, thread_updThread, if_neg (by simp [ht.1])]
  induction rs generalizing t with
  | nil => simp at hm
  | cons p ps ih =>
    simp only [List.map_cons, List.nodup_cons] at hn
    rw [List.foldl_cons]
    rcases List.mem_cons.mp hm with rfl | hm
    · rw [keep _ _ hn.1, thread_updThread, if_pos ⟨rfl, rfl⟩]
      obtain ⟨th, hth⟩ := Option.isSome_iff_exists.mp hx
      exact ⟨_, by rw [hth]; rfl, holds_setV th n k x⟩
    · refine ih hn.2 _ hm ?_
      rw [thread_updThread]; split
      · rename_i h; rw [h.2] at hx; simpa using hx
      · exact hx

theorem foldWriteV_thread {e : Env} {d : BitVec 11} {k : Nat} (rs : List (Nat × Nat)) (t : State) (i : Nat) :
    ((rs.foldl (fun s p => writeV s e p.1 d k p.2) t).thread e.tk i).isSome = (t.thread e.tk i).isSome := by
  induction rs generalizing t with
  | nil => rfl
  | cons p ps ih =>
    rw [List.foldl_cons, ih]; unfold writeV; split
    · rw [thread_updThread]; split
      · rename_i h; rw [h.2]; simp
      · rfl
    · rfl

theorem sel_nodup (e : Env) (pm : BitVec 4) (pn : BitVec 1) (v : Nat × Nat → Nat) :
    ((((e.sel pm pn).map fun p => (p.2, v p))).map Prod.fst).Nodup := by
  rw [List.map_map]
  refine List.Nodup.map_on ?_ (List.Nodup.filter _ (lanes_nodup e))
  rintro ⟨l, i⟩ h ⟨l', i'⟩ h' heq
  have hi : i = i' := heq
  subst hi
  rw [lane_unique (sel_sub h) (sel_sub h')]

theorem thread_of_env {s : State} {e : Env} (h : envOf s = some e) {l i : Nat} (hl : (l, i) ∈ e.lanes) : (s.thread e.tk i).isSome := by
  obtain ⟨th, hth⟩ := lanes_thread hl
  simp [State.thread, (envOf_spec h).1, hth]

theorem holds_of_regs {t u : State} {tk tid n k x : Nat} (h : (u.thread tk tid).map Thread.v = (t.thread tk tid).map Thread.v)
    (ht : ∃ th, t.thread tk tid = some th ∧ holds th.v n k x) : vHolds u tk tid n k x := by
  obtain ⟨th, h1, h2⟩ := ht
  rw [h1] at h
  cases hu : u.thread tk tid with
  | none => rw [hu] at h; simp at h
  | some th' =>
    rw [hu] at h
    have : th'.v = th.v := by simpa using h
    exact ⟨th', hu, this ▸ h2⟩

theorem latch_kept (hold : BitVec 2) (wg wm : Nat → Prop) (gr : Group) : GroupKept wg wm gr (latch hold gr) := ⟨rfl, fun _ _ => rfl, fun _ _ => rfl⟩

/-- Everything a vector instruction does (R239). -/
theorem vector_spec (s : State) (e : Env) (i : Instr) (f : VF) (k : Nat) (val : Env → Nat → Nat → Nat) (h : Issues s i e) :
    ∃ t, vector s i f k val = .next t ∧
      (∀ l tid n, (l, tid) ∈ e.sel f.pm f.pn → opKind f.d = .v n → vHolds t e.tk tid n k (val e l tid)) ∧
      Kept s t e (fun tid r => (∃ l, (l, tid) ∈ e.sel f.pm f.pn) ∧ inDest f.d k r) (fun _ => False) (fun _ => False) := by
  refine ⟨_, h.simple _, ?_, ?_⟩
  · intro l tid n hl hd
    refine holds_of_regs (advance_regs _ e e.tk tid) ?_
    simp only [thread_updGroup]
    exact foldWriteV hd _ (sel_nodup e f.pm f.pn fun p => val e p.1 p.2) s tid _ (List.mem_map.mpr ⟨(l, tid), hl, rfl⟩) (thread_of_env h.bundle (sel_sub hl))
  · refine Kept.advance (Kept.updGroup (Kept.foldl _ _ ?_ _ (Kept.refl h.bundle _ _ _)) _ fun gr => latch_kept _ _ _ gr)
    rintro u ⟨tid, x⟩ hx hu
    obtain ⟨⟨l, tid'⟩, h1, h2⟩ := List.mem_map.mp hx
    simp only [Prod.mk.injEq] at h2
    exact kept_writeV hu tid f.d k x fun r hr => ⟨⟨l, h2.1 ▸ h1⟩, hr⟩

/-! ## A g destination -/

theorem holds_setG (g : Group) (n k x : Nat) : holds (g.setG n k x).g n k x := by
  intro j hj
  simp only [Group.setG, cellGet_sets, List.length_map, List.length_range]
  rw [if_pos (by omega)]
  simp [hj]

theorem setG_other (g : Group) (n k x r : Nat) (h : ¬ (n ≤ r ∧ r < n + k)) : cellGet (g.setG n k x).g r = cellGet g.g r := by
  simp only [Group.setG, cellGet_sets, List.length_map, List.length_range]
  rw [if_neg h]

theorem gHolds_of_group {t u : State} {tk g n k x : Nat} (h : (u.group tk g).map (fun gr => (gr.g, gr.m)) = (t.group tk g).map fun gr => (gr.g, gr.m))
    (ht : ∃ gr, t.group tk g = some gr ∧ holds gr.g n k x) : gHolds u tk g n k x := by
  obtain ⟨gr, h1, h2⟩ := ht
  rw [h1] at h
  cases hu : u.group tk g with
  | none => rw [hu] at h; simp at h
  | some gr' =>
    rw [hu] at h
    have : gr'.g = gr.g := by simp at h; exact h.1
    exact ⟨gr', hu, this ▸ h2⟩

theorem group_of_env {s : State} {e : Env} (h : envOf s = some e) : s.group e.tk e.g = some e.grp := by
  obtain ⟨h1, h2, -⟩ := envOf_spec h; simp [State.group, h1, h2]

/-- Everything a uniform instruction does (R240). -/
theorem uniform_spec (s : State) (e : Env) (i : Instr) (d : BitVec 11) (k : Nat) (val : Env → Nat) (h : Issues s i e) :
    ∃ t, uniform s i d k val = .next t ∧ (∀ n, opKind d = .g n → gHolds t e.tk e.g n k (val e)) ∧
      Kept s t e (fun _ _ => False) (inGDest d k) (fun _ => False) := by
  refine ⟨_, h.simple _, ?_, ?_⟩
  · intro n hd
    refine gHolds_of_group (advance_group _ e e.tk e.g) ?_
    simp only [writeG, hd, group_updGroup, and_self, if_true, group_of_env h.bundle]
    exact ⟨_, rfl, holds_setG e.grp n k _⟩
  · refine Kept.advance ?_
    unfold writeG; split
    · rename_i n hn
      exact (Kept.refl h.bundle _ _ _).updGroup _ fun gr => ⟨rfl, fun r hr => setG_other gr n k _ r fun hx => hr ⟨n, hn, hx.1, hx.2⟩, fun _ _ => rfl⟩
    · exact Kept.refl h.bundle _ _ _

/-! ## A truth value (R246) -/

theorem bit_setBit {w : Nat} (b : BitVec w) (i j : Nat) (x : Bool) (hj : j < w) : bit (setBit b i x) j = if j = i then x else bit b j := by
  unfold bit setBit
  by_cases h : j = i
  · subst h; cases x <;> simp [hj]
  · have : ¬ (j - i = 0 ∧ i ≤ j) := by omega
    cases x <;> simp [h, hj] <;> omega

theorem mask_setMask (g : Group) (k j : Nat) (x : LaneMask) : (g.setMask k x).mask j = if j = k then x else g.mask j := by
  simp [Group.mask, Group.setMask, cellGet_set]

/-- One group after its mask has been written bit by bit. -/
theorem foldMask (k : Nat) (rs : List (Nat × Nat × Bool)) (gr : Group) :
    let g' := rs.foldl (fun (g : Group) p => g.setMask k (setBit (g.mask k) p.1 p.2.2)) gr
    (∀ j, j ≠ k → g'.mask j = gr.mask j) ∧ g' = { gr with m := g'.m } ∧
    (∀ l, l < 32 → (∀ p ∈ rs, p.1 ≠ l) → bit (g'.mask k) l = bit (gr.mask k) l) ∧
    ((rs.map Prod.fst).Nodup → ∀ l i x, l < 32 → (l, i, x) ∈ rs → bit (g'.mask k) l = x) := by
  induction rs generalizing gr with
  | nil => exact ⟨fun _ _ => rfl, rfl, fun _ _ _ => rfl, fun _ _ _ _ _ h => by simp at h⟩
  | cons p ps ih =>
    obtain ⟨h1, h2, h3, h4⟩ := ih (gr.setMask k (setBit (gr.mask k) p.1 p.2.2))
    refine ⟨fun j hj => ?_, ?_, fun l hl hp => ?_, fun hn l i x hl hm => ?_⟩
    · rw [List.foldl_cons, h1 j hj, mask_setMask, if_neg hj]
    · rw [List.foldl_cons, h2]; rfl
    · rw [List.foldl_cons, h3 l hl fun q hq => hp q (List.mem_cons_of_mem _ hq), mask_setMask, if_pos rfl, bit_setBit _ _ _ _ hl,
        if_neg (Ne.symm (hp p List.mem_cons_self))]
    · simp only [List.map_cons, List.nodup_cons] at hn
      rcases List.mem_cons.mp hm with rfl | hm
      · rw [List.foldl_cons, h3 l hl, mask_setMask, if_pos rfl, bit_setBit _ _ _ _ hl, if_pos rfl]
        intro q hq heq; exact hn.1 (List.mem_map.mpr ⟨q, hq, heq⟩)
      · exact h4 hn.2 l i x hl hm

theorem foldWriteM {e : Env} {d : BitVec 11} {k : Nat} (hd : opKind d = .m k) (rs : List (Nat × Nat × Bool)) (t : State) :
    (rs.foldl (fun s p => writeM s e d p.1 p.2.2) t).group e.tk e.g =
      (t.group e.tk e.g).map fun gr => rs.foldl (fun (g : Group) p => g.setMask k (setBit (g.mask k) p.1 p.2.2)) gr := by
  induction rs generalizing t with
  | nil => simp
  | cons p ps ih =>
    rw [List.foldl_cons, ih]
    simp only [writeM, hd, group_updGroup, and_self, if_true, Option.map_map]
    rfl

theorem bitsOf_lt {w : Nat} {m : BitVec w} {l : Nat} (h : l ∈ bitsOf m) : l < w := by
  simpa using (List.mem_filter.mp h).1

/-- The state a truth-valued instruction leaves before its bundle moves on. -/
def truthState (s : State) (e : Env) (f : VF) (val : Env → Nat → Nat → Bool) : State :=
  let rs : List (Nat × Nat × Bool) := (e.sel f.pm f.pn).map fun p => (p.1, p.2, val e p.1 p.2)
  let s : State := match opKind f.d with
    | .m _ => rs.foldl (fun s p => writeM s e f.d p.1 p.2.2) s
    | _ => rs.foldl (fun s p => writeV s e p.2.1 f.d 1 (if p.2.2 then 1 else 0)) s
  s.updGroup e.tk e.g (latch f.hold)

theorem truth_lanes {s : State} {e : Env} {i : Instr} (h : Issues s i e) (f : VF) (val : Env → Nat → Nat → Bool) {l tid n : Nat}
    (hl : (l, tid) ∈ e.sel f.pm f.pn) (hd : opKind f.d = .v n) :
    vHolds (advance (truthState s e f val) e) e.tk tid n 1 (if val e l tid then 1 else 0) := by
  refine holds_of_regs (advance_regs _ e e.tk tid) ?_
  have := foldWriteV (k := 1) hd ((e.sel f.pm f.pn).map fun p => (p.2, if val e p.1 p.2 then 1 else 0)) (sel_nodup e f.pm f.pn _) s tid _
    (List.mem_map.mpr ⟨(l, tid), hl, rfl⟩) (thread_of_env h.bundle (sel_sub hl))
  simp only [truthState, thread_updGroup, hd, List.foldl_map]
  simpa only [List.foldl_map] using this

theorem sel_lanes_nodup (e : Env) (pm : BitVec 4) (pn : BitVec 1) (v : Nat × Nat → Bool) :
    (((e.sel pm pn).map fun p => (p.1, p.2, v p)).map Prod.fst).Nodup := by
  rw [List.map_map]
  refine List.Nodup.map_on ?_ (List.Nodup.filter _ (lanes_nodup e))
  rintro ⟨a, i⟩ ha ⟨b, j⟩ hb heq
  have hab : a = b := heq
  subst hab
  rw [Option.some.inj ((mem_lanesOf (sel_sub ha)).1.symm.trans (mem_lanesOf (sel_sub hb)).1)]

theorem mask_of_group {t u : State} {tk g : Nat} {gr0 : Group} (h : (u.group tk g).map (fun gr => (gr.g, gr.m)) = (t.group tk g).map fun gr => (gr.g, gr.m))
    (ht : t.group tk g = some gr0) : ∃ gr, u.group tk g = some gr ∧ ∀ j, gr.mask j = gr0.mask j := by
  rw [ht] at h
  cases hu : u.group tk g with
  | none => rw [hu] at h; simp at h
  | some gr =>
    rw [hu] at h
    simp only [Option.map_some, Option.some.injEq, Prod.mk.injEq] at h
    exact ⟨gr, rfl, fun j => by simp only [Group.mask, h.2]⟩

theorem truth_mask {s : State} {e : Env} {i : Instr} (h : Issues s i e) (f : VF) (val : Env → Nat → Nat → Bool) {k : Nat} (hd : opKind f.d = .m k) :
    ∃ gr, (advance (truthState s e f val) e).group e.tk e.g = some gr ∧
      (∀ l tid, (l, tid) ∈ e.sel f.pm f.pn → bit (gr.mask k) l = val e l tid) ∧
      ∀ l, l < 32 → (∀ tid, (l, tid) ∉ e.sel f.pm f.pn) → bit (gr.mask k) l = bit (e.grp.mask k) l := by
  have hg : (truthState s e f val).group e.tk e.g = some (latch f.hold (((e.sel f.pm f.pn).map fun p => (p.1, p.2, val e p.1 p.2)).foldl (fun (g : Group) p => g.setMask k (setBit (g.mask k) p.1 p.2.2)) e.grp)) := by
    simp only [truthState, hd, group_updGroup, and_self, if_true, foldWriteM hd, group_of_env h.bundle, Option.map_some]
  obtain ⟨gr, h1, h2⟩ := mask_of_group (advance_group (truthState s e f val) e e.tk e.g) hg
  obtain ⟨-, -, h3, h4⟩ := foldMask k ((e.sel f.pm f.pn).map fun p => (p.1, p.2, val e p.1 p.2)) e.grp
  refine ⟨gr, h1, fun l tid hl => ?_, fun l hl hn => ?_⟩
  · rw [h2]
    exact h4 (sel_lanes_nodup e f.pm f.pn _) l tid _ (bitsOf_lt (mem_lanesOf (sel_sub hl)).2) (List.mem_map.mpr ⟨(l, tid), hl, rfl⟩)
  · rw [h2]
    refine h3 l hl fun p hp heq => ?_
    obtain ⟨⟨a, i⟩, ha, rfl⟩ := List.mem_map.mp hp
    exact hn i (heq ▸ ha)

/-- Everything a vector instruction with a truth value does (R246). -/
theorem truth_spec (s : State) (e : Env) (i : Instr) (f : VF) (val : Env → Nat → Nat → Bool) (h : Issues s i e) :
    ∃ t, vectorBool s i f val = .next t ∧
      (∀ l tid n, (l, tid) ∈ e.sel f.pm f.pn → opKind f.d = .v n → vHolds t e.tk tid n 1 (if val e l tid then 1 else 0)) ∧
      (∀ k, opKind f.d = .m k → ∃ gr, t.group e.tk e.g = some gr ∧
        (∀ l tid, (l, tid) ∈ e.sel f.pm f.pn → bit (gr.mask k) l = val e l tid) ∧
        ∀ l, l < 32 → (∀ tid, (l, tid) ∉ e.sel f.pm f.pn) → bit (gr.mask k) l = bit (e.grp.mask k) l) ∧
      Kept s t e (fun tid r => (∃ l, (l, tid) ∈ e.sel f.pm f.pn) ∧ inDest f.d 1 r) (fun _ => False) (isMDest f.d) := by
  refine ⟨advance (truthState s e f val) e, h.simple _, ?_, ?_, ?_⟩
  · exact fun l tid n hl hd => truth_lanes h f val hl hd
  · exact fun k hd => truth_mask h f val hd
  · unfold truthState
    refine Kept.advance (Kept.updGroup ?_ _ fun gr => latch_kept _ _ _ gr)
    split
    · rename_i k hd
      refine Kept.foldl _ _ ?_ _ (Kept.refl h.bundle _ _ _)
      rintro u p - hu
      simp only [writeM, hd]
      refine hu.updGroup _ fun gr => ⟨rfl, fun _ _ => rfl, fun j hj => ?_⟩
      rw [mask_setMask, if_neg]; rintro rfl; exact hj hd
    · refine Kept.foldl _ _ ?_ _ (Kept.refl h.bundle _ _ _)
      rintro u ⟨l, tid, x⟩ hx hu
      obtain ⟨⟨l', tid'⟩, h1, h2⟩ := List.mem_map.mp hx
      simp only [Prod.mk.injEq] at h2
      exact kept_writeV hu tid f.d 1 _ fun r hr => ⟨⟨l', h2.2.1 ▸ h1⟩, hr⟩

end Sys2Proof
end

