-- ==== Sys2Proof/Tests/Slice0.lean ====
section
/-! SUPPORT. Tests: ill-formed terms refused, words of the spec decoded, small results, and for every statement states that meet its
hypotheses. -/

namespace Sys2Proof.Tests

open Sys2Proof Machine

set_option Elab.async false

/-! ## States -/

/-- Lanes 0 to n - 1 of one group with a bundle in progress, about to issue an instruction of a clause of k instructions. -/
def team (i : Instr) (n : Nat) (k : Nat := 2) (handler : Bool := false) : Team :=
  let w := (encode i).getD 0
  let h : DWord := BitVec.ofNat 64 (0xC * 2 ^ 60 + (opClass (w.extractLsb' 56 8)).getD 0 * 2 ^ 57 + (k - 1) * 2 ^ 53 + 1 * 2 ^ 30 + 16 * 2 ^ 21)
  { ctx := 0, queue := 0, pidx := 0, index := 0, core := 0, packet := List.replicate 8 0
    groups := [{ bundle := some { lanes := maskOf (List.range n), clause := 0x10000, prio := 16, index := 0, words := h :: List.replicate k w, handler := handler } }]
    threads := (List.range n).map fun l => { st := .inBundle, fetch := false, lane := l, handler := handler, rp := { prio := 16, clause := 0x10000 } }
    vb := 40, gb := 8, spg := 4, block := 0, acc := true, rst := false, lko := 255, queues := [{}] }
/-- The context of the tests: two private slots, a handler. -/
def cx : Ctx := { vd := 0, loc := 0, key := 0, ccb := 0, privslots := 64, tvec := 0x2000, tarea := 0x100000, qcount := 4, ptroot := 0x20000, reserve := 1000, privbase := 0x30000, privstride := 4, lnkspill := 2 }
/-- A state in which the team issues the instruction. -/
def box (i : Instr) (n : Nat := 2) (t : Team := team i n) : State :=
  { State.reset with teams := [(0, t)], ctxs := [(0, cx)], vds := [(0, { share := 1000, count := 64 })], pool := 1000, issuer := some { core := 0, team := 0, grp := 0, word := (encode i).getD 0 } }

/-- Page tables that map the first gigabyte to itself (R14, R15): three pointers and a leaf with RD, WR, EX, A and D. -/
def tables : Cells 8 := [(0x20000, 0x01), (0x20001, 0x10), (0x20002, 0x02), (0x21000, 0x01), (0x21001, 0x20), (0x21002, 0x02), (0x22000, 0xE3), (0x22001, 0x0C)]
/-- The bytes of memory are held in L2 and nothing of the stored forms is read. -/
def lit (s : State) : State := { s with lines := (dedup (s.mem.map fun p => p.1 / 128)).map fun l => (l, { present := true, valid := 0xFF }) }
/-- The same with memory: pages 0 to 3 and 16 are backed, and core 0 holds the leaf. -/
def world (i : Instr) (n : Nat := 2) (t : Team := team i n) (c : Ctx := cx) : State :=
  lit { box i n t with mem := tables, pages := [0, 1, 2, 3, 16].map (fun p => (p, { ctx := 0 })), ctxs := [(0, c)], cores := [(0, { tlb := [{ ctx := 0, lvl := 2, vpn := 0, pte := 0xCE3, lines := [0x22000 / 128], leaf := true }] })] }
def okV {α : Type} (x : Virt α) : Bool := match x with | .ok _ _ => true | _ => false
def okH {α : Type} (x : Home α) : Bool := match x with | .ok _ _ => true | _ => false
def okS {α : Type} (x : Stack α) : Bool := match x with | .ok _ _ => true | _ => false
/-- The lanes translate, and there is one at least; or a lane faults. -/
def okC (x : Checked) : Bool := match x with | .ok (_ :: _) => true | _ => false
def faultC (x : Checked) : Bool := match x with | .fault _ _ => true | _ => false
def okP (x : PadCheck) : Bool := match x with | .ok (_ :: _) => true | _ => false

/-- The instruction issues, and p holds of its bundle. -/
def meets (s : State) (i : Instr) (p : Env → Bool := fun _ => true) : Bool :=
  match envOf s with
  | none => false
  | some e => (loadLike i || !(e.lanes.map Prod.snd).any (unadmitted e.team)) && !acquirePending e.team (e.lanes.map Prod.snd) &&
      (!afterFence i || !fencePending e.team (e.lanes.map Prod.snd)) && legal e i && !liveBad e.team e.b.words && (!e.b.handler || !nestedInsn i) && !interlocked e i &&
      (match e.flag i with | some k => decide (e.grp.flag k < 63) | none => true) && (!groupEffect i || !maybePoisoned e.team (e.lanes.map Prod.snd)) && (regError s e i).isNone && p e
theorem meets_issues {s : State} {i : Instr} {p : Env → Bool} (h : meets s i p = true) : ∃ e, Issues s i e ∧ p e = true := by
  unfold meets at h
  cases he : envOf s with
  | none => simp [he] at h
  | some e =>
    simp only [he, Bool.and_eq_true, Bool.or_eq_true, Bool.not_eq_true', Option.isNone_iff_eq_none] at h
    obtain ⟨⟨⟨⟨⟨⟨⟨⟨⟨⟨h1, h2⟩, h3⟩, h4⟩, h5⟩, h6⟩, h7⟩, h8⟩, h9⟩, h10⟩, h11⟩ := h
    exact ⟨e, ⟨he, h1, h2, h3, h4, h5, h6, h7, fun k hk => by simpa [hk] using h8, h9, h10⟩, h11⟩
theorem meets_all {l : List Instr} {p : Env → Bool} (h : l.all (fun i => i.wellFormed && meets (box i) i p) = true) :
    ∀ i ∈ l, i.wellFormed = true ∧ ∃ e, Issues (box i) i e ∧ p e = true := fun i hi => by
  have := List.all_eq_true.mp h i hi
  rw [Bool.and_eq_true] at this
  exact ⟨this.1, meets_issues this.2⟩
/-- Fields by number, every lane selected. -/
def vf (fn d a : Nat) (b : Nat := 0) (c : Nat := 0) : VF := ⟨.ofNat _ fn, .ofNat _ d, .ofNat _ a, .ofNat _ b, .ofNat _ c, 12, 0, 0, 0⟩
def mf (fn d base : Nat) (imm : Nat := 0) : MF := ⟨.ofNat _ fn, .ofNat _ d, .ofNat _ base, 0, 0, 0, .ofNat _ imm, 12, 0, 0, 0, 0⟩
def maf (fn ty d base s : Nat) : MAF := ⟨.ofNat _ fn, .ofNat _ d, .ofNat _ base, 0, 0, 0, .ofNat _ s, .ofNat _ ty, 0, 12, 0, 0, 0, 0⟩
def bf (fn : Nat) (tgt : Nat) (a : Nat := 0) (m : Nat := 0) : BF := ⟨.ofNat _ fn, .ofNat _ a, .ofNat _ m, .ofNat _ tgt, 12, 0, 0⟩
def of (d : Nat := 0) (a : Nat := 0) (b : Nat := 0) (m : Nat := 0) : OF := ⟨0, .ofNat _ d, .ofNat _ a, .ofNat _ b, .ofNat _ m, 0, 12, 0, 0, 0⟩
def xf (fn : Nat) (d a b : Nat) (pa : Nat := 0) (pb : Nat := 0) : XF := ⟨.ofNat _ fn, .ofNat _ d, .ofNat _ a, .ofNat _ b, 4, 2, .ofNat _ pa, .ofNat _ pb, 0, 0, 0, 0⟩
def cf (fn : Nat) (d a b : Nat) (ch : Nat := 0) : CF := ⟨.ofNat _ fn, .ofNat _ d, .ofNat _ a, .ofNat _ b, .ofNat _ ch, 0, 0, 0⟩
def sf (fn : Nat := 0) (d : Nat := 0) (a : Nat := 0) (csr : Nat := 0) (n : Nat := 0) (cf : Nat := 0) : SF :=
  ⟨.ofNat _ fn, .ofNat _ d, .ofNat _ a, .ofNat _ csr, .ofNat _ n, .ofNat _ cf, 12, 0, 0, 0⟩
/-- A bundle with at least two threads, each with its lane. -/
def two (e : Env) : Bool := e.lanes == [(0, 0), (1, 1)]

/-! ## Ill-formed terms (R172, R216 to R232): for each check of WellFormed one term that it refuses -/

theorem test_wf_type : (Instr.iadd (vf 2 7 4 5)).wellFormed = false := by decide
theorem test_wf_unused_field : (Instr.iadd (vf 0 7 4 5 6)).wellFormed = false := by decide
theorem test_wf_predicate : (Instr.iadd { vf 0 7 4 5 with pm := 13 }).wellFormed = false := by decide
theorem test_wf_saturation : (Instr.imulh { vf 0 7 4 5 with sat := 1 }).wellFormed = false := by decide
theorem test_wf_pair_alignment : (Instr.iadd64 (vf 2 7 4 8)).wellFormed = false := by decide
theorem test_wf_quad_alignment : (Instr.mov (vf 10 6 4)).wellFormed = false := by decide
theorem test_wf_destination_kind : (Instr.iadd (vf 0 640 4 5)).wellFormed = false := by decide
theorem test_wf_uniform_source : (Instr.gadd (vf 0 642 4 646)).wellFormed = false := by decide
theorem test_wf_reserved_code : (Instr.iadd (vf 0 7 1200 5)).wellFormed = false := by decide
theorem test_wf_condition : (Instr.icmp (vf 0 7 4 5 6)).wellFormed = false := by decide
theorem test_wf_order_of_a_load : (Instr.ld { mf 8 4 640 with ord := 2 }).wellFormed = false := by decide
theorem test_wf_order_of_a_store : (Instr.st { mf 8 4 640 with ord := 1 }).wellFormed = false := by decide
theorem test_wf_atomic_type : (Instr.atom (maf 6 13 8 8 10)).wellFormed = false := by decide
theorem test_wf_branch_mask : (Instr.brm (bf 0 4 0 12)).wellFormed = false := by decide
theorem test_wf_frame_count : (Instr.pushm (of 0 4 1792)).wellFormed = false := by decide
theorem test_wf_tile_origin : (Instr.xzero { xf 0 0 0 0 with tr := 13 }).wellFormed = false := by decide
theorem test_wf_copy_shape : (Instr.cpy (cf 2 642 644 646)).wellFormed = false := by decide
theorem test_wf_register_name : (Instr.csrr (sf 0 660 0 0xFFF)).wellFormed = false := by decide
theorem test_wf_step_core : (Instr.issue 640 0).wellFormed = false := by decide
theorem test_wf_step_port : (Instr.nakReplay 18 0).wellFormed = false := by decide

/-! ## Words written out bit by bit from the spec's encodings, one of every family at least -/

/-- iadd.s32.sat v7, v4, l0 (R233 to R247). -/
theorem test_word_iadd : decode 0x01000E01246000C1 = some (.iadd { vf 0 7 4 1164 with sat := 1 }) := by decide
/-- icmp.s32.gt m2, v4, v5. -/
theorem test_word_icmp : decode 0x17090401002802C0 = some (.icmp (vf 0 1154 4 5 2)) := by decide
/-- fcvt.f32.f16 rounding toward minus infinity: FN 8, DST and SRC types in B. -/
theorem test_word_fcvt : decode 0x60801200FF4000C0 = some (.fcvt (vf 8 9 3 2024)) := by decide
/-- vote under m1. -/
theorem test_word_vote : decode 0x77200C0080000010 = some (.vote { vf 2 6 2 with pm := 1 }) := by decide
/-- gadd.s32 g2, g4, g6: OP 0x80, D 642, A 644, B 646. -/
theorem test_word_gadd : decode (0x80 * 2 ^ 56 + 642 * 2 ^ 41 + 644 * 2 ^ 30 + 646 * 2 ^ 19 + 0xC0) = some (.gadd (vf 0 642 644 646)) := by decide +kernel
theorem test_word_calli : decode 0x9400000200000020 = some (.calli { of 0 8 with pm := 2 }) := by decide
/-- ld.b32 v4, [g0 + 8]. -/
theorem test_word_ld : decode 0xA08008A0000008C0 = some (.ld (mf 8 4 640 8)) := by decide
theorem test_word_atom_add : decode 0xA5001002000142C0 = some (.atom (maf 0 1 8 8 10)) := by decide
/-- atom.cas.b64 acquire and release at dev scope. -/
theorem test_word_atom_cas : decode 0xA57014020B0192C0 = some (.atom { maf 7 9 10 8 12 with scope := 2, ord := 3 }) := by decide
theorem test_word_sld : decode 0xC0800800800100C0 = some (.sld (mf 8 4 2 256)) := by decide
theorem test_word_bar : decode 0xC7000000000000C0 = some (.bar of) := by decide
/-- cpy from memory at g4 to memory at g6, length g8, channel 1 (R226): OP 0xD0. -/
theorem test_word_cpy : decode (0xD0 * 2 ^ 56 + 646 * 2 ^ 41 + 644 * 2 ^ 30 + 648 * 2 ^ 19 + 1 * 2 ^ 17) = some (.cpy (cf 0 646 644 648 1)) := by decide +kernel
theorem test_word_xmma : decode 0xE00000A2144A1320 = some (.xmma (xf 0 0 648 649 3 1)) := by decide
theorem test_word_csrr : decode 0xF1052800008000C0 = some (.csrr (sf 0 660 0 0x020)) := by decide
theorem test_word_csrw : decode 0xF2000123008800C0 = some (.csrw (sf 0 0 1164 0x022)) := by decide
theorem test_word_trap : decode 0xF300000000005020 = some (.trap { sf 0 0 0 0 5 with pm := 2 }) := by decide
theorem test_word_tret : decode 0xF4100000000000C0 = some (.tretSkip (sf 1)) := by decide
theorem test_word_launch : decode 0xF6053CA6000000C0 = some (.launch (sf 0 670 664)) := by decide
theorem test_word_clock : decode 0xF70505C0000000C0 = some (.clock (sf 0 642 1792)) := by decide
theorem test_word_sleep : decode 0xF80001CC800000C0 = some (.sleep (sf 0 0 1842)) := by decide
theorem test_word_waitf : decode 0xF9000000000010C0 = some (.waitf (sf 0 0 0 0 1)) := by decide
theorem test_word_nop : decode 0xF0000000000000C0 = some (.nop sf) := by decide
theorem test_word_unassigned : decode 0xFF000000000000C0 = none := by decide
theorem test_word_reserved_bit : (decode 0xF0000000000000C2).any Instr.wellFormed = false := by decide

/-! ## Witnesses: instructions that only write registers -/

/-- Vector integer arithmetic. -/
theorem test_hyp_integer : ∀ i ∈ [Instr.iadd (vf 0 7 4 5), .isub (vf 1 7 4 5), .imul (vf 0 7 4 5), .imulh (vf 0 7 4 5), .imad (vf 0 7 4 5 6), .imin (vf 0 7 4 5),
    .imax (vf 1 7 4 5), .iabs (vf 0 7 4), .ineg (vf 0 7 4), .iadd64 (vf 2 6 4 8), .isub64 (vf 3 6 4 8), .imad64 (vf 2 6 4 5 8), .lea (vf 0 6 4 5 8), .idot4 (vf 6 7 4 5 6), .isat (vf 6 7 4)],
    i.wellFormed = true ∧ ∃ e, Issues (box i) i e ∧ two e = true := meets_all (by decide +kernel)
/-- Logic, bit fields, comparisons, masks and lanes. -/
theorem test_hyp_logic : ∀ i ∈ [Instr.and (vf 9 6 4 8), .or (vf 8 7 4 5), .xor (vf 8 7 4 5), .not (vf 8 7 4), .shl (vf 8 7 4 5), .shr (vf 0 7 4 5), .rot (vf 8 7 4 5),
    .bfx (vf 0 7 4 5), .bfi (vf 8 7 4 5 6), .popc (vf 8 7 4), .clz (vf 9 7 4), .brev (vf 8 7 4), .prmt (vf 8 7 4 5 6), .sel (vf 8 7 4 5 1152), .mov (vf 10 8 4),
    .icmp (vf 0 7 4 5 1), .icmp (vf 0 1154 4 5 2), .fcmp (vf 0 1154 4 5 2), .mand (vf 0 1153 1152 1154), .mor (vf 0 1153 1152 1154), .mxor (vf 0 1153 1152 1154), .mnot (vf 0 1153 1152),
    .mmov (vf 0 1153 1152), .mpop (vf 0 7 1152), .mfirst (vf 0 7 1152), .vote (vf 2 7 1152), .shfl (vf 0 7 4 5), .bcast (vf 0 7 4 640), .lred (vf 0 7 4 0 0), .lscan (vf 0 7 4 0 0)],
    i.wellFormed = true ∧ ∃ e, Issues (box i) i e ∧ two e = true := meets_all (by decide +kernel)
/-- Floating point. -/
theorem test_hyp_float : ∀ i ∈ [Instr.fadd (vf 0 7 4 5), .fsub (vf 4 7 4 5), .fmul (vf 1 7 4 5), .ffma (vf 0 7 4 5 6), .fdiv (vf 0 7 4 5), .fsqrt (vf 0 7 4), .frcp (vf 0 7 4), .fmin (vf 0 7 4 5),
    .fmax (vf 2 7 4 5), .frsq (vf 0 7 4), .fex2 (vf 0 7 4), .flg2 (vf 0 7 4), .fsin (vf 0 7 4), .fcos (vf 0 7 4), .ftanh (vf 0 7 4), .fclass (vf 0 7 4), .frnd (vf 0 7 4), .hadd2 (vf 1 7 4 5),
    .hmul2 (vf 2 7 4 5), .hfma2 (vf 1 7 4 5 6), .hmin2 (vf 1 7 4 5), .hmax2 (vf 1 7 4 5), .fcvt (vf 8 9 3 2024), .fcvti (vf 0 7 4 (13 * 8)), .icvtf (vf 0 7 4 (13 * 128)), .icvt (vf 0 6 4 (2 * 128))],
    i.wellFormed = true ∧ ∃ e, Issues (box i) i e ∧ two e = true := meets_all (by decide +kernel)
/-- Uniform instructions. -/
theorem test_hyp_uniform : ∀ i ∈ [Instr.gadd (vf 0 642 644 646), .gsub (vf 1 642 644 646), .gmul (vf 0 642 644 646), .gand (vf 9 642 644 646), .gor (vf 8 642 644 646), .gxor (vf 8 642 644 646),
    .gshl (vf 8 642 644 646), .gshr (vf 0 642 644 646), .gcmp (vf 0 642 644 646 3), .gmov (vf 9 642 644), .gsel (vf 8 642 644 646 1152), .gadd64 (vf 2 642 644 646), .gmin (vf 0 642 644 646),
    .gmax (vf 3 642 644 646), .gfop (vf 3 642 644 646 648)],
    i.wellFormed = true ∧ ∃ e, Issues (box i) i e ∧ two e = true := meets_all (by decide +kernel)


/-! ## Small results, worked out by hand from the rules -/

/-- Register d of the one thread after i, with v4 on holding the given words. -/
def result (i : Instr) (ws : List Word) (d : Nat := 7) : Option Word :=
  let t := team i 1
  match exec i (box i 1 { t with threads := t.threads.map fun th => { th with v := cellsSet [] 4 ws } }) with
  | .next u => (u.thread 0 0).map fun th => cellGet th.v d
  | _ => none
/-- R241: 2^31 - 1 and 1 under SAT. -/
theorem test_iadd_saturates : result (.iadd { vf 0 7 4 5 with sat := 1 }) [0x7FFFFFFF, 1] = some 0x7FFFFFFF := by decide +kernel
theorem test_iadd_wraps : result (.iadd (vf 0 7 4 5)) [0x7FFFFFFF, 1] = some 0x80000000 := by decide +kernel
/-- (2^32 - 1)^2 = 0xFFFFFFFE_00000001. -/
theorem test_imulh_unsigned : result (.imulh (vf 1 7 4 5)) [0xFFFFFFFF, 0xFFFFFFFF] = some 0xFFFFFFFE := by decide +kernel
theorem test_imulh_signed : result (.imulh (vf 0 7 4 5)) [0xFFFFFFFF, 0xFFFFFFFF] = some 0 := by decide +kernel
theorem test_idot4 : result (.idot4 (vf 6 7 4 5 6)) [0x04030201, 0xFF010101, 10] = some 12 := by decide +kernel
theorem test_clz : result (.clz (vf 8 7 4)) [0x00010000] = some 15 := by decide +kernel
theorem test_brev : result (.brev (vf 8 7 4)) [1] = some 0x80000000 := by decide +kernel
theorem test_fadd : result (.fadd (vf 0 7 4 5)) [0x3F800000, 0x40000000] = some 0x40400000 := by decide +kernel
/-- 1/3 to nearest; the square root of 2 to nearest. -/
theorem test_fdiv : result (.fdiv (vf 0 7 4 5)) [0x3F800000, 0x40400000] = some 0x3EAAAAAB := by decide +kernel
theorem test_fsqrt : result (.fsqrt (vf 0 7 4)) [0x40000000] = some 0x3FB504F3 := by decide +kernel
/-! ## Witnesses: control -/

def ends (e : Env) : Bool := e.b.index + 1 == hdrCount e.hdr && e.b.next.isEmpty
theorem test_hyp_branches : ∀ i ∈ [Instr.bra (bf 0 4), .brm (bf 1 4 0 3), .brg (bf 0 4 642), .jmpi (of 0 4)], ∃ e, Issues (box i 2 (team i 2 1)) i e ∧ (two e && ends e) = true := by
  intro i hi; refine meets_issues (p := fun e => two e && ends e) ?_; revert i; decide +kernel
def linked (i : Instr) (l : List DWord) : Team := let t := team i 2 1
  { t with threads := t.threads.map fun th => { th with link := l } }
theorem test_hyp_call : ∀ i ∈ [Instr.call (bf 0 4), .calli (of 0 4)], ∃ e, Issues (box i 2 (linked i [1, 2, 3])) i e ∧
    (ends e && e.lanes.all fun p => (e.thread p.2).link.length == 3) = true := by
  intro i hi; refine meets_issues ?_; revert i; decide +kernel
theorem test_hyp_ret : let i := Instr.ret of
    ∃ e, Issues (box i 2 (linked i [5])) i e ∧ (ends e && e.lanes.all fun p => (e.thread p.2).link == [5]) = true := meets_issues (by decide +kernel)
def oneAt (i : Instr) (sp : Nat) (l : List DWord) : State := let t := team i 1
  world i 1 { t with threads := t.threads.map fun th => { th with sp := sp, link := l } }
/-- A frame of three registers takes 16 bytes; the stack has 512. -/
theorem test_hyp_pushm : let i := Instr.pushm (of 0 4 1795)
    (∃ e, Issues (oneAt i 488 [7]) i e ∧ (e.lanes == [(0, 0)] && okS (stackStore (oneAt i 488 [7]) e 0 0 (stackAddr cx 488) (List.replicate 24 1)) &&
      488 + 8 + 16 == spillSize cx) = true) ∧
    ∃ e, Issues (oneAt i 489 [7]) i e ∧ (e.lanes == [(0, 0)] && !(e.thread 0).handler && decide (spillSize cx < (e.thread 0).sp + 8 + 16)) = true :=
  ⟨meets_issues (by decide +kernel), meets_issues (by decide +kernel)⟩
theorem test_hyp_popm : let i := Instr.popm (of 0 4 1795)
    (∃ e, Issues (oneAt i 16 []) i e ∧ (e.lanes == [(0, 0)] && okS (stackLoad (oneAt i 16 []) e 0 0 (stackAddr cx 0) 12)) = true) ∧
    (∃ e, Issues (oneAt i 16 [7]) i e ∧ (e.lanes == [(0, 0)] && (e.thread 0).link == [7]) = true) ∧
    ∃ e, Issues (oneAt i 15 []) i e ∧ (e.lanes == [(0, 0)] && (e.thread 0).sp == 15) = true :=
  ⟨meets_issues (by decide +kernel), meets_issues (by decide +kernel), meets_issues (by decide +kernel)⟩
/-- Four links on chip and room for a spill, or none; nothing on chip and a spilled entry, or none. -/
theorem test_hyp_link_spills : (∀ i ∈ [Instr.call (bf 0 4), .calli (of 0 4)],
      (∃ e, Issues (oneAt i 504 [1, 2, 3, 4]) i e ∧ (e.lanes == [(0, 0)] && (e.thread 0).link.length == 4 && selects e 12 0 0 && (e.thread 0).sp + 8 == spillSize cx &&
        okS (stackStore (oneAt i 504 [1, 2, 3, 4]) e 0 0 (stackAddr cx 504) (leBytes 8 1))) = true) ∧
      ∃ e, Issues (oneAt i 505 [1, 2, 3, 4]) i e ∧ (e.lanes == [(0, 0)] && !(e.thread 0).handler && decide (spillSize cx < (e.thread 0).sp + 8)) = true) ∧
    (let i := Instr.ret of
     (∃ e, Issues (oneAt i 8 []) i e ∧ (e.lanes == [(0, 0)] && (e.thread 0).link == [] && selects e 12 0 0 && okS (stackLoad (oneAt i 8 []) e 0 0 (stackAddr cx 0) 8)) = true) ∧
     ∃ e, Issues (oneAt i 7 []) i e ∧ (e.lanes == [(0, 0)] && (e.thread 0).link == [] && !(e.thread 0).handler && (e.thread 0).sp == 7) = true) := by
  refine ⟨fun i hi => ⟨meets_issues ?_, meets_issues ?_⟩, meets_issues (by decide +kernel), meets_issues (by decide +kernel)⟩ <;> (revert i; decide +kernel)
theorem test_hyp_masks : ∀ i ∈ [Instr.mbegin (of 0 0 0 3), .mleave (of 0 0 0 11), .mwait (of 0 0 0 0), .prio (of 0 4), .yield of, .exit of],
    ∃ e, Issues (box i 2 (team i 2 1)) i e ∧ (two e && coreReleased e.team (e.lanes.map Prod.snd) && (releasedBy (box i 2 (team i 2 1)) e [0, 1] 2).1) = true := by
  intro i hi; refine meets_issues ?_; revert i; decide +kernel
def flaggedBox (fl : Bool) (cf : Map Nat) (ad : Option Nat := none) : State := let i := Instr.regroup (of 0 4)
  let t := team i 2 1
  box i 2 { t with rgAddr := ad, groups := t.groups.map fun g => { g with flagged := fl, cf := cf } }
theorem test_hyp_regroup : let i := Instr.regroup (of 0 4)
    (∃ e, Issues (flaggedBox true []) i e ∧ (e.grp.flagged && coreReleased e.team [0, 1] && e.grp.flagMask == 0 && e.team.rgAddr == none) = true) ∧
    (∃ e, Issues (flaggedBox false []) i e ∧ (!e.grp.flagged && e.lanes.all fun p => !(e.thread p.2).handler) = true) ∧
    (∃ e, Issues (flaggedBox true [(2, 1)]) i e ∧ (e.grp.flagged && e.grp.flagMask != 0 && coreReleased e.team [0, 1]) = true) ∧
    ∃ e, Issues (flaggedBox true [] (some 0x20000)) i e ∧ (e.grp.flagged && e.grp.flagMask == 0 && coreReleased e.team [0, 1] && e.team.rgAddr == some 0x20000 && e.b.clause == 0x10000 && !e.b.handler) = true :=
  ⟨meets_issues (by decide +kernel), meets_issues (by decide +kernel), meets_issues (by decide +kernel), meets_issues (by decide +kernel)⟩

/-! ## Witnesses: system instructions -/

theorem test_hyp_system : ∀ i ∈ [Instr.nop sf, .csrr (sf 0 4 0 6), .csrr (sf 0 642 0 0x20), .csrw (sf 0 0 642 1), .csrw (sf 0 0 642 2), .csrw (sf 0 0 642 3), .csrw (sf 0 0 642 5),
    .csrw (sf 0 0 642 0x12), .csrw (sf 0 0 642 0x22), .csrw (sf 0 0 642 0), .csrw (sf 0 0 642 0x30), .trap (sf 0 0 0 0 63), .brk sf, .tretReplay sf, .tretSkip (sf 1), .clock (sf 0 642 1792),
    .clock (sf 0 4 1793), .sleep (sf 0 0 642), .sleep (sf 0 0 1842), .waitf (sf 0 0 0 0 0 3)],
    i.wellFormed = true ∧ ∃ e, Issues (box i) i e ∧ (two e && !e.b.handler && e.lanes.all fun p => !(e.thread p.2).handler) = true := meets_all (by decide +kernel)
def inHandler (i : Instr) (c : Ctx := cx) : State := world i 2 (team i 2 2 true) c
theorem test_hyp_handler : ∀ i ∈ [Instr.csrw (sf 0 0 642 0x20), .csrw (sf 0 0 642 0x21), .csrw (sf 0 0 642 0x23), .csrw (sf 0 0 642 0x22), .trap (sf 0 0 0 0 5), .brk sf],
    ∃ e, Issues (inHandler i) i e ∧ (two e && e.b.handler && e.team.kill == none) = true := by
  intro i hi; refine meets_issues ?_; revert i; decide +kernel
theorem test_hyp_debug : let i := Instr.brk sf
    ∃ e, Issues (inHandler i { cx with dbgctl := 1 }) i e ∧ (two e && e.b.handler) = true := meets_issues (by decide +kernel)
/-- A trap record of thread 0 or 1 in memory: its masked lanes are not zero, so it is no fetch fault's. -/
def recorded (i : Instr) : State := let s := inHandler i
  lit { s with mem := cellsSet s.mem 0x100004 [1] }
def returned (i : Instr) (skip : Bool) (e : Env) : Bool :=
  okV (e.lanes.foldl (fun (acc : Virt Unit) p => acc.bind fun _ s => returnFrom s e.tk p.2 skip) (.ok () (recorded i)))
theorem test_hyp_tret :
    (∃ e, Issues (recorded (.tretReplay sf)) (.tretReplay sf) e ∧ (e.b.handler && !issuesOpen e && returned (.tretReplay sf) false e) = true) ∧
    ∃ e, Issues (recorded (.tretSkip (sf 1))) (.tretSkip (sf 1)) e ∧ (e.b.handler && !issuesOpen e && returned (.tretSkip (sf 1)) true e) = true :=
  ⟨meets_issues (by decide +kernel), meets_issues (by decide +kernel)⟩
theorem test_hyp_record : let s := recorded (Instr.tretReplay sf)
    (match virtRead s (some 0) 0 0 (recordAddr cx 0) 128 kRead true with | .ok bs u => (u.thread 0 0).isSome && !(parseRecord bs false).fetch | _ => false) = true := by decide +kernel
/-- A packet at 0, a multiple of 64; one at 8. -/
theorem test_hyp_launch : let i := Instr.launch (sf 0 670 664)
    let w := fun a => let t := team i 2; world i 2 { t with groups := t.groups.map fun g => { g with g := [(24, a)] } }
    (∃ e, Issues (w 0) i e ∧ ((uni64 e 664).toNat % 64 == 0 && (released (w 0) e 2).1 && (match checkLanes (released (w 0) e 2).2 e [(0, 0, (uni64 e 664).toNat)] 64 kRead false with
      | .ok (g :: _) => okV (((readPacket (dropEnded (released (w 0) e 2).2 e.core e.team.ctx) e.core e.team.ctx g.tgt g.ea).toVirt g.va).bind fun pkt s => launchStep s e.team.ctx e.core (e.thread 0).pslot pkt)
      | _ => false)) = true) ∧
    ∃ e, Issues (w 8) i e ∧ ((uni64 e 664).toNat % 64 != 0 && !e.b.handler && okC (checkLanes (released (w 8) e 2).2 e [(0, 0, (uni64 e 664).toNat)] 64 kRead false)) = true :=
  ⟨meets_issues (by decide +kernel), meets_issues (by decide +kernel)⟩
def flags (k n : Nat) : State := let i := Instr.waitf (sf 0 0 0 0 1 3)
  let t := team i 2
  box i 2 { t with groups := t.groups.map fun g => { g with cf := [(k, n)] } }
theorem test_hyp_waitf : let i := Instr.waitf (sf 0 0 0 0 1 3)
    (∃ e, Issues (flags 3 1) i e ∧ decide (e.grp.flag 3 ≤ 1) = true) ∧ ∃ e, Issues (flags 3 2) i e ∧ decide (1 < e.grp.flag 3) = true :=
  ⟨meets_issues (by decide +kernel), meets_issues (by decide +kernel)⟩
theorem test_hyp_sleep_zero : let i := Instr.sleep (sf 0 0 1792)
    ∃ e, Issues (box i) i e ∧ ((uni32 (box i) e 1792).toNat == 0) = true := meets_issues (by decide +kernel)
theorem test_hyp_sleep_end : let s := box (Instr.nop sf) 2 (let t := team (.nop sf) 2
      { t with threads := t.threads.map fun th => { th with st := .waiting (.sleep 0) } })
    (match s.team 0 with | some tm => tm.threads.all (sleepOver s tm.core) && !(s.core tm.core).asleep && tm.kill == none && !tm.kept | none => false) = true := by decide +kernel
theorem test_hyp_contexts : ((box (.nop sf)).ctx 0).isSome = true := by decide +kernel


/-! ## Witnesses: memory instructions -/

def okFst (x : Bool × State) : Bool := x.1
/-- The lanes translate, and no engine write of their threads stands before them. -/
def goC (s : State) (e : Env) (n : Nat) : Checked → Bool
  | .ok (g :: ts) => !engineHolds (dropEnded s e.core e.team.ctx) e n (g :: ts)
  | _ => false
theorem test_hyp_load_issue : ∀ i ∈ [Instr.ld (mf 8 4 640 8), .ld { mf 10 8 640 0x7FF0 with ord := 1, scope := 2 }], ∃ e, Issues (world i) i e ∧
    (match i with | .ld f => goC (world i) e (tyBytes f.ty) (checkLanes (world i) e (mAddrs e f) (tyBytes f.ty) kRead true) | _ => false) = true := by
  intro i hi; refine meets_issues ?_; revert i; decide +kernel
theorem test_hyp_packed : let f := mf 8 4 640 8
    (∃ e, Issues (world (.ldp f)) (.ldp f) e ∧ goC (world (.ldp f)) e 4 (checkLanes (world (.ldp f)) e (packedAddrs e f (tyBytes f.ty)) (tyBytes f.ty) kRead true) = true) ∧
    ∃ e, Issues (world (.stp f)) (.stp f) e ∧ goC (world (.stp f)) e 4 (checkLanes (world (.stp f)) e (packedAddrs e f (tyBytes f.ty)) (tyBytes f.ty) kWrite true) = true :=
  ⟨meets_issues (by decide +kernel), meets_issues (by decide +kernel)⟩
theorem test_hyp_store_issue : let f := { mf 8 4 640 8 with ord := 2, scope := 2 }
    ∃ e, Issues (world (.st f)) (.st f) e ∧ ((released (world (.st f)) e 2).1 && goC (released (world (.st f)) e 2).2 e 4 (checkLanes (released (world (.st f)) e 2).2 e (mAddrs e f) (tyBytes f.ty) kWrite true)) = true :=
  meets_issues (by decide +kernel)
theorem test_hyp_atomic_issue : ∀ i ∈ [Instr.atom { maf 0 1 8 640 10 with ord := 3, scope := 1 }, .red (maf 0 1 0 640 10)], ∃ e, Issues (world i) i e ∧
    ((released (world i) e 1).1 && match i with
      | .atom f => goC (released (world i) e 1).2 e 4 (checkLanes (released (world i) e 1).2 e ((e.sel f.pm f.pn).map fun p => (p.1, p.2, (src64 e p.2 f.base).toNat)) (tyBytes f.ty.toNat) kRmw true)
      | .red f => goC (world i) e 4 (checkLanes (world i) e ((e.sel f.pm f.pn).map fun p => (p.1, p.2, (src64 e p.2 f.base).toNat)) (tyBytes f.ty.toNat) kRmw true)
      | _ => false) = true := by
  intro i hi; refine meets_issues ?_; revert i; decide +kernel
/-- The first gigabyte maps to host addresses. -/
def hostWorld (i : Instr) : State := let s := world i
  { s with cores := [(0, { tlb := [{ ctx := 0, lvl := 2, vpn := 0, pte := 0x4000000000000CE3, lines := [], leaf := true }] })] }
theorem test_hyp_access_faults : let f := mf 8 4 640 6
    (∃ e, Issues (world (.ld f)) (.ld f) e ∧ (!e.b.handler && faultC (checkLanes (world (.ld f)) e (mAddrs e f) 4 kRead true)) = true) ∧
    (∃ e, Issues (world (.st f)) (.st f) e ∧ (!e.b.handler && faultC (checkLanes (world (.st f)) e (mAddrs e f) 4 kWrite true)) = true) ∧
    (∃ e, Issues (world (.ldp f)) (.ldp f) e ∧ (!e.b.handler && faultC (checkLanes (world (.ldp f)) e (packedAddrs e f 4) 4 kRead true)) = true) ∧
    (let g := { f with ord := 2, scope := 2 }
     ∃ e, Issues (world (.stp g)) (.stp g) e ∧ (!e.b.handler && (released (world (.stp g)) e 2).1 && faultC (checkLanes (released (world (.stp g)) e 2).2 e (packedAddrs e g 4) 4 kWrite true)) = true) ∧
    (let g := { maf 0 3 0 640 10 with ord := 2, scope := 1 }
     let t := team (.red g) 2
     let s := world (.red g) 2 { t with groups := t.groups.map fun x => { x with g := [(0, 4)] } }
     ∃ e, Issues s (.red g) e ∧ (!e.b.handler && (released s e 1).1 &&
       faultC (checkLanes (released s e 1).2 e ((e.sel 12 0).map fun p => (p.1, p.2, (src64 e p.2 640).toNat)) 8 kRmw true)) = true) ∧
    ∃ e, Issues (hostWorld (.atom (maf 1 1 8 640 10))) (.atom (maf 1 1 8 640 10)) e ∧ (!hostAtomOk 1 1 &&
      match checkLanes (hostWorld (.atom (maf 1 1 8 640 10))) e ((e.sel 12 0).map fun p => (p.1, p.2, (src64 e p.2 640).toNat)) 4 kRmw true with
      | .ok (g :: _) => g.tgt == 1 | _ => false) = true :=
  ⟨meets_issues (by decide +kernel), meets_issues (by decide +kernel), meets_issues (by decide +kernel), meets_issues (by decide +kernel), meets_issues (by decide +kernel),
    meets_issues (by decide +kernel)⟩
theorem test_hyp_constant_loads : let f := mf 8 4 640 8
    (∃ e, Issues (world (.ldk f)) (.ldk f) e ∧ (match checkLanes (world (.ldk f)) e (mAddrs e f) 4 kRead true with
      | .ok (g :: ts) => (kcLanes (dropEnded (world (.ldk f)) 0 0) e 4 (g :: ts)).1.isSome
      | _ => false) = true) ∧
    ∃ e, Issues (world (.gldk (vf 8 642 644 646))) (.gldk (vf 8 642 644 646)) e ∧ (match checkLanes (world (.gldk (vf 8 642 644 646))) e [(0, 0, 0)] 4 kRead false with
      | .ok (g :: _) => okH (kcRead (dropEnded (world (.gldk (vf 8 642 644 646))) 0 0) 0 0 g.tgt g.ea 4)
      | _ => false) = true := ⟨meets_issues (by decide +kernel), meets_issues (by decide +kernel)⟩
/-- A gldk that has its bytes. -/
theorem test_hyp_gldk : let i := Instr.gldk (vf 8 642 644 646)
    let t := team i 2
    let l : LaneOp := { lane := 0, tid := 0, va := 0, ea := 0, tgt := 0, n := 4, kind := .load, pol := 1, data := [], stage := .returned, result := [1, 2, 3, 4] }
    let s := world i 2 { t with iw := [{ id := 1, grp := 0, insn := i, word := 0, clause := 0x10000, index := 0, prio := 16, bundle := 3, lanes := [l, { l with lane := 1, tid := 1 }] }] }
    (match s.team 0, (s.team 0).bind (findIss · 1) with
     | some tm, some x => (s.group 0 x.grp).isSome && !(s.core tm.core).asleep && x.insn == i && !x.engine && x.fence.isNone && x.lanes != [] &&
       x.lanes.all (fun l => l.stage == .returned && l.result == [1, 2, 3, 4]) && !heldByOlder tm x && opKind 642 == .g 2
     | _, _ => false) = true := by decide +kernel
/-- A pfence of thread 0 in the window, which waits for entry 7 of the store buffer. -/
def fencing (i : Instr) : State := let t := team i 2
  world i 2 { t with iw := [{ id := 1, grp := 0, insn := i, word := 0, clause := 0x10000, index := 0, prio := 16, bundle := 3, lanes := [], flag := some 0, fence := some [7], tids := [0] }] }
theorem test_hyp_fences : ∀ f ∈ [mf 0 0 0, { mf 0 0 0 with ord := 1, scope := 3 }, { mf 0 0 0 with ord := 2, scope := 1 }],
    ∃ e, Issues (world (.fence f)) (.fence f) e ∧ ((released (world (.fence f)) e f.scope.toNat).1 && e.team.iw.isEmpty) = true := by
  intro f hf; refine meets_issues ?_; revert f; decide +kernel
theorem test_hyp_pfence : let i := Instr.pfence (mf 0 0 0)
    (∃ e, Issues (world i) i e ∧ e.team.iw.isEmpty = true) ∧
    (let s := fencing i
     (match s.team 0, (s.team 0).bind (findIss · 1) with
      | some tm, some x => (s.group 0 x.grp).isSome && !(s.core tm.core).asleep && x.fence == some [7] && (s.core tm.core).sb.isEmpty && !writesOpen (olderThan tm 1) x.tids
      | _, _ => false) = true) := ⟨meets_issues (by decide +kernel), by decide +kernel⟩
/-- One lane hints at a mapped address; both hint at an address past 2^57 and no lane is left. -/
theorem test_hyp_hints : ∀ i ∈ [Instr.pref (mf 1 0 640 8), .resid (mf 0 0 640 8), .pref (mf 1 0 640 0xFFFF)], ∃ e, Issues (world i) i e ∧
    (match i with | .pref f | .resid f => (hintLanes (world i) e (mAddrs e f)).1.isSome | _ => false) = true := by
  intro i hi; refine meets_issues ?_; revert i; decide +kernel
def billetsC (s : State) (e : Env) : Checked → Bool
  | .ok (g :: ts) => !engineHolds (dropEnded s e.core e.team.ctx) e 256 (wholeBillets ((g :: ts).filter fun x => x.tgt == 0))
  | _ => false
theorem test_hyp_capacity : (∀ i ∈ [Instr.wback (mf 0 0 640 8), .binfo (mf 0 4 640 8), .rsvq (mf 0 4 0), .rsvq (mf 0 642 0), .mark (mf 0 640 0)], ∃ e, Issues (world i) i e ∧
    (((world i).ctx 0).isSome && (world i).errors == [] && e.team.iw.isEmpty && two e && match i with
      | .wback f => billetsC (world i) e (checkLanes (world i) e (mAddrs e f) 1 kWrite false)
      | .binfo f => billetsC (world i) e (checkLanes (world i) e (mAddrs e f) 1 kRead false)
      | _ => true) = true) := by
  intro i hi; refine meets_issues ?_; revert i; decide +kernel
/-- Page 1 by a leaf of level 0. -/
def pageWorld (i : Instr) : State := let t := team i 1
  let s := world i 1 { t with groups := t.groups.map fun g => { g with g := [(0, 0x10000)] } }
  lit { s with kills := [(1, [])], cores := [(0, { tlb := [{ ctx := 0, lvl := 0, vpn := 1, pte := 0x10CE3, lines := [0x24000 / 128], leaf := true }] })], mem := [(0x20000, 0x01), (0x20001, 0x10), (0x20002, 0x02), (0x21000, 0x01), (0x21001, 0x20), (0x21002, 0x02), (0x22000, 0x01), (0x22001, 0x30), (0x22002, 0x02),
             (0x23000, 0x01), (0x23001, 0x40), (0x23002, 0x02), (0x24008, 0xE3), (0x24009, 0x0C), (0x2400A, 0x01)] }
theorem test_hyp_pgyield : let f := mf 0 4 640 0
    ∃ e, Issues (pageWorld (.pgyield f)) (.pgyield f) e ∧ (let r := released (pageWorld (.pgyield f)) e 2
      r.1 && allPerformed e.team [0] && match checkLanes r.2 e (mAddrs e f) 1 kWrite false with
      | .ok [g] => let a := leafEntry (dropEnded r.2 0 0) cx g.va
        let u := dropEnded r.2 0 0
        e.b.yields == [] && a.isSome && (let (zs, v, ok) := yieldRun 8 (setYields u e []) e [] [yieldStart g]
          ok && zs.all (fun y => y.stage == 2) && v.posted 0 && (v.thread 0 0).isSome && zs.map YieldLane.status == [0])
      | _ => false) = true := meets_issues (by decide +kernel)

/-! ## Witnesses: the window -/

/-- One lane of an access of 4 bytes at 0x100. -/
def lane1 (kind : LaneKind) (st : Stage) (tgt : Nat := 0) : LaneOp := { lane := 0, tid := 0, va := 0x100, ea := 0x100, tgt := tgt, n := 4, kind := kind, pol := 0, stage := st, data := [1, 2, 3, 4], sb := 7 }
/-- The team has issued i, of those lanes, under flag 0. -/
def issued (i : Instr) (ls : List LaneOp) : State := let t := team i 2
  world i 2 { t with iw := [{ id := 1, grp := 0, insn := i, word := 0, clause := 0x10000, index := 0, prio := 16, bundle := 3, lanes := ls, flag := some 0 }] }
def ldI : Instr := .ld (mf 8 4 640 0x100)
def stI : Instr := .st (mf 8 4 640 0x100)
def owning (s : State) (own : Bool) : State := s.updCore 0 fun k => { k with l1 := [(2, { owned := if own then 1 else 0, chunks := List.replicate 8 .empty })] }
def isHit (x : Lookup) : Bool := match x with | .hit _ => true | _ => false
def isMiss (x : Lookup) : Bool := match x with | .miss => true | _ => false
/-- Line 2's first word is the core's own, or not: the load is answered, or asks. -/
theorem test_hyp_load_lanes : ∀ own ∈ [true, false], let s := owning (issued ldI [lane1 .load .ready]) own
    (match laneOf s 0 1 0 with
     | some (tm, i, l) => l.kind == .load && l.stage == .ready && !i.scratch && !mustFollow tm 1 l && (if own then isHit (l1Lookup s tm.core l) && l1Read s tm.core l.ea == (false, s) else isMiss (l1Lookup s tm.core l) && decide (i.lanes.map LaneOp.lane).Nodup && !lineWaits s tm i l && l1Way s tm.core (lineOf l.ea))
     | none => false) = true := by decide +kernel
theorem test_hyp_store_entry : let s := issued stI [lane1 .store .ready]
    (match laneOf s 0 1 0 with
     | some (tm, i, l) => l.kind != .load && l.stage == .ready && !i.scratch && !mustFollow tm 1 l && l.n != 0 && i.lanes.length == 1 && (s.core tm.core).sb.isEmpty && !othersDepend s tm.core (lineOf l.ea) 1
     | none => false) = true := by decide +kernel
/-- An entry of core 0 for line 2. -/
def entry (tgt : Nat := 0) (n : Nat := 4) (sent : Bool := false) (closed : Bool := false) : SbEntry :=
  { id := 7, team := 0, tid := 0, iss := 1, lane := 0, ctx := 0, ea := 0x100, tgt := tgt, n := n, kind := .store, pol := 0, data := [1, 2, 3, 4], admitted := true, sent := sent, closed := closed }
def buffered (e : SbEntry) (own : Bool := false) : State := owning ((issued stI [lane1 .store .entered]).updCore 0 fun k => { k with sb := [e] }) own
theorem test_hyp_store_leaves :
    ([entry 1, entry 0 0, entry 0 0 true true].all fun x => ((buffered x).core 0).sb == [x]) = true ∧
    (let s := buffered (entry 0) true
     ((s.core 0).sb == [entry 0] && wordsMask 0 4 != 0 && ((s.core 0).l1Line 2).owned &&& wordsMask 0 4 == wordsMask 0 4) = true) ∧
    (let s := buffered (entry 0)
     ((s.core 0).sb == [entry 0] && ((s.core 0).l1Line 2).owned == 0 && !ownInFlight (s.core 0) 2 (wordsMask 0 4) && !copyComing s 0 2 && l1Way s 0 2 && !othersDepend s 0 2 1) = true) :=
  ⟨by decide +kernel, by decide +kernel, by decide +kernel⟩
/-- A message from slice 0 to core 0. -/
def told (s : State) (m : DownMsg) (h : Nat := 0) : State := s.updCore 0 fun k => { k with down := [(h, [m])] }
theorem test_hyp_store_replies : ∀ m ∈ [DownMsg.ack 7 [] true, .ack 7 [] false, .grant 7 2 1 1 [] true, .refuse 7 1 0 .caprefuse], let s := told (buffered (entry 0 4 true)) m
    (match takeDown s 0 0 with | some (m', u) => m' == m && (u.core 0).sb.find? (fun x => x.id == 7) == some (entry 0 4 true) && (laneOf u 0 1 0).isSome | none => false) = true := by decide +kernel
theorem test_hyp_load_replies : ([none, some 5].all fun lease => let m := DownMsg.fill 0 1 0 2 1 [(0, 9)] lease
    match takeDown (told (issued ldI [lane1 .load .sent]) m) 0 0 with
     | some (m', u) => m' == m && (match laneOf u 0 1 0 with | some (_, i, l) => (answered i 0).contains l | none => false)
     | none => false) = true := by decide +kernel
theorem test_hyp_completion : let s := issued ldI [lane1 .load .returned]
    (match s.team 0, (s.team 0).bind (findIss · 1) with
     | some tm, some i => (s.group 0 i.grp).isSome && !(s.core tm.core).asleep && !i.engine && i.fence.isNone && i.lanes.all (fun l => l.stage == .returned) && !heldByOlder tm i && (resultOf i.insn).any (fun r => !r.2.2) &&
       (tm.threads.getD 0 {}).live
     | _, _ => false) = true := by decide +kernel
theorem test_hyp_refusal : ([Cause.caprefuse, .tiershort].all fun cause => let s := issued stI [{ lane1 .store .refused with cause := cause }, { lane1 .store .performed with lane := 1, tid := 1 }]
    match s.team 0, (s.team 0).bind (findIss · 1) with
     | some tm, some i => (s.group 0 i.grp).isSome && !(s.core tm.core).asleep && !i.engine && i.fence.isNone && i.acq == none && (resultOf i.insn).isNone && i.lanes.all (fun l => l.stage == .performed || l.stage == .refused) && !heldByOlder tm i &&
       i.lanes.all (fun l => l.stage != .refused || l.cause == cause) && olderComplete tm i [0] && !(tm.threads.getD 0 {}).handler
     | _, _ => false) = true := by decide +kernel
/-- Asked at 0: at 50 ms, and a nanosecond before. -/
theorem test_hyp_host_completion : [50000000, 49999999].all (fun ns => let s := { issued ldI [lane1 .load .sent 1] with ns := ns }
    (laneOf s 0 1 0).any fun x => x.2.2.tgt == 1 && x.2.2.kind == .load && x.2.2.stage == .sent && x.2.2.n == 4 && x.2.2.since == 0 && (decide (x.2.2.since + 50000000 ≤ s.ns) == (ns == 50000000))) = true := by decide +kernel

/-! ## Witnesses: walks, homes and messages -/

/-- A walk for address 0x100 that stands at a table and has read an entry. -/
def walking (lvl table : Nat) (got : Option DWord) : State := let s := world (.nop sf)
  s.updCore 0 fun k => { k with tlb := [], walkers := [(0, { ctx := 0, va := 0x100, kind := kWrite, sys := false, lvl := lvl, table := table, root := 0x20000, got := got })] }
/-- For each clause an entry: invalid, of a bad format, not writable, without D, complete, a pointer; then an address in no page, and an
entry to be read. -/
theorem test_hyp_walks : ([((0 : DWord), 0), (0x1003, 1), (0x823, 2), (0x463, 3), (0xCE3, 4), (0x22001, 5)].all fun (pte, k) =>
      (mapGet? ((walking 2 0x22000 (some pte)).core 0).walkers 0).any fun w => w.ended.isNone && w.cas.isNone && w.got == some pte && !w.poisoned &&
        match k with
        | 0 => !pteV pte
        | 1 => pteV pte && formatBad pte 2
        | 2 => pteV pte && !formatBad pte 2 && pteLeaf pte && !permitted pte kWrite false
        | 3 => pteV pte && !formatBad pte 2 && pteLeaf pte && permitted pte kWrite false && needsUpdate pte kWrite
        | 4 => pteV pte && !formatBad pte 2 && pteLeaf pte && permitted pte kWrite false && !needsUpdate pte kWrite
        | _ => pteV pte && !formatBad pte 2 && !pteLeaf pte) = true ∧
    (let s := walking 2 0x50000 none
     (mapGet? (s.core 0).walkers 0).any fun w => w.got.isNone && (tlbPointer (s.core 0) w).isNone && (s.page (pageOf w.entry)).isNone) = true ∧
    (let s := walking 2 0x22000 none
     ((s.core 0).walkers.find? (fun p => p.2.ended.isNone && p.2.got.isNone && p.2.cas.isNone && p.2.entry == 0x22000)).isSome && (s.page 2).isSome && okH (homeWalkRead s (some 0) 0x22000)) = true :=
  ⟨by decide +kernel, by decide +kernel, by decide +kernel⟩
/-- The private window: its first byte, its last bytes, one byte too many; a stride of 4 × 256 bytes. -/
theorem test_hyp_relocation : let b := 0x01FF000000000000
    (decide (b < 2 ^ 57 ∧ b % 2 ^ 48 + 1 ≤ cx.privstride.toNat % 2 ^ 24 * 256) && decide (1020 + 4 ≤ cx.privstride.toNat % 2 ^ 24 * 256 ∧ cx.privstride.toNat % 2 ^ 24 * 256 < 1021 + 4) &&
      decide (fld cx.privbase 56 16 * 65536 + 1020 < b) && decide (pteTgt 0xCE3 < 2)) = true := by decide +kernel

/-- A request of core 0 for line 2, at the head of its home's queue. -/
def asked (kind : ReqKind) : HomeReq := { core := 0, line := 2, kind := kind, team := 0, iss := 1, lane := 0, sb := 7, ctx := 0, ea := 0x100, n := 4, data := [1, 2, 3, 4] }
def home (r : HomeReq) : State := let s := world (.nop sf)
  { s with lines := [(2, { queue := [r], present := true, valid := 0xFF })], billets := [(1, { opened := true })], mem := cellsSet s.mem 0x100 [9, 8, 7] }
def atHome (s : State) (r : HomeReq) : Bool :=
  lineOf r.ea == r.line && !r.isHost && !isPeer r.ea && (s.line r.line).queue == [r] && (s.line r.line).invPend == [] && (s.line r.line).recallPend == [] && !(s.line r.line).started &&
  (s.line r.line).wmask == 0 && (s.line r.line).sharers == .ptrs [] && !(s.billet (billetOfLine r.line)).closing && !s.frozen (pageOfLine r.line) && grantHeld s r.ea r.kind.isStore &&
  !needsAdmission s r && !s.isPoisoned r.line && s.l2Room r.line && !killing s (pageOfLine r.line) && doomedLane s r == none && s.errors == []
/-- Where every chunk of the billet is valid in L2, or nothing of its stored form is to be read, a fill finds no error. -/
theorem at_home {s : State} {r : HomeReq} (hf : ∀ cs, (l2Fill s r.line cs).isPoisoned r.line = false) (h : atHome s r = true) : AtHome s r := by
  simp only [atHome, Bool.and_eq_true, beq_iff_eq, Bool.not_eq_true'] at h
  obtain ⟨⟨⟨⟨⟨⟨⟨⟨⟨⟨⟨⟨⟨⟨⟨⟨⟨h1, h0⟩, h2⟩, h3⟩, h4⟩, h5⟩, h6⟩, h7⟩, h8⟩, h9⟩, h10⟩, h11⟩, h12⟩, h13⟩, h14⟩, h15⟩, h16⟩, h17⟩ := h
  exact ⟨h1, h0, h2, h3, ⟨h4, h5, h6⟩, h7, h8, h9, h10, h11, h12, h13, hf, h14, h15, h16, h17⟩
/-- No fill of the line finds an error, whatever chunks it asks for. -/
theorem home_fills : ∀ k ∈ [ReqKind.fill 0 1 0, .fill 3 255 0, .fill 2 1 100, .wtLoad, .write, .atom 0 1 true, .own 1], ∀ cs : BitVec 8,
    (l2Fill (home (asked k)) 2 cs).isPoisoned 2 = false := by decide +kernel
theorem test_hyp_home_loads : ∀ k ∈ [ReqKind.fill 0 1 0, .fill 3 255 0, .fill 2 1 100, .wtLoad], AtHome (home (asked k)) (asked k) := by
  intro k hk; refine at_home (home_fills k (by simp at hk ⊢; tauto)) ?_; revert k; decide +kernel
theorem test_hyp_home_stores : ∀ k ∈ [ReqKind.write, .atom 0 1 true, .own 1], AtHome (home (asked k)) (asked k) := by
  intro k hk; refine at_home (home_fills k (by simp at hk ⊢; tauto)) ?_; revert k; decide +kernel
/-- The reserve meets the eight sectors exactly, and is one short. -/
theorem test_hyp_admission : ([8, 7].all fun r => let s := { home (asked .write) with billets := [], ctxs := [(0, { cx with reserve := r })] }
    s.errors == [] && (s.page 0).isSome && nextReq s 2 == some (asked .write) && !(asked .write).isHost && needsAdmission s (asked .write) && !poisonedAtom s (asked .write) && !s.frozen 0 && grantHeld s 0x100 true && (doomedLane s (asked .write)).isNone &&
      !(s.billet 1).closing && (s.billet 1).loc == 0 && !(s.billet 1).opened && 8 - (s.billet 1).count == 8) = true := by decide +kernel
/-- A message of core 0, owner of words 0 and 1 of line 2, to line 2's home. -/
def sent (m : UpMsg) (ea : Nat := 0x100) : State := let s := world (.nop sf)
  { (s.updCore 0 fun k => { k with up := [(s.slice ea, [m])] }) with lines := [(2, { wmask := 3, owner := 0, sharers := .ptrs [0] })], billets := [(1, { opened := true })] }
theorem test_hyp_home_messages : ([(UpMsg.release 2 1 1 [(0, 5)], 0x100), (.recallReply 2 3 1 [(0, 5)], 0x100), (.evict 2, 0x100), (.invAck 2, 0x100), (.killAck 0, 0), (.closeAck 1, 0x100)].all fun (m, ea) =>
    (takeUp (sent m ea) 0 ea).any fun x => x.1 == m && (x.2.line 2).owner == 0) = true := by decide +kernel
theorem test_hyp_core_messages : ([DownMsg.inv 2, .recall 2 1 true, .kill 0, .close 1].all fun m => let s := world (.nop sf)
    ((takeDown (told s m (s.slice 0)) 0 (s.slice 0)).map Prod.fst) == some m) = true := by decide +kernel
theorem test_hyp_billet_close : let s := { world (.nop sf) with billets := [(1, { opened := true, closing := true })] }
    ((s.billet 1).opened && (s.billet 1).closing && closeReady s 1 && !s.isPoisoned 2 && !s.isPoisoned 3 && (s.line 2).wmask == 0 && (s.line 3).wmask == 0 && (s.ctx (s.billet 1).rctx).isSome &&
      !((s.page (pageOfBillet 1)).map Page.fixed).getD false && !(s.billet 1).discard && s.errors == [] && match storedValue s 1 with
      | some bs => (placeRun s 1 (encodeClass (toWords ((fillBytes s 1 bs).readMem 256 256))).2).isSome
      | none => false) = true ∧
    (let s := { world (.nop sf) with billets := [(1, { opened := true, closing := true, cls := 2, nsec := 9 })] }
     (s.billet 1).opened && closeReady s 1 && storedValue s 1 == none) = true := ⟨by decide +kernel, by decide +kernel⟩
theorem test_hyp_codec : (List.replicate 64 (0 : Word)).length = 64 := by decide
theorem test_hyp_evictions :
    (let s := owning (world (.nop sf)) true
     l1MayLeave s 0 2 && s.errors == [] && (s.core 0).tlb.length == 1) = true ∧
    (let s := { world (.nop sf) with lines := [(2, { present := true })] }
     (s.line 2).present && !(s.line 2).busy && !(s.line 2).started && s.sharerCores (s.line 2).sharers == [] && (s.line 2).wmask == 0 && !(s.line 2).dirty && !(s.line 2).psn && s.calm 2) = true ∧
    (let s := { world (.nop sf) with lines := [(2, { present := true, sharers := .ptrs [0] })] }
     (s.line 2).present && !(s.line 2).busy && !(s.line 2).started && s.sharerCores (s.line 2).sharers != []) = true ∧
    (((world (.nop sf)).updCore 0 fun k => { k with filter := [1] }).core 0).filter = [1] :=
  ⟨by decide +kernel, by decide +kernel, by decide +kernel, by decide +kernel⟩

/-! ## Witnesses: the scratchpad, barriers, queues, copies and the matrix engine -/

/-- The team holds one allocation of n rows, handle 0, and one queue. -/
def padTeam (i : Instr) (n : Nat := 2) (rows : Nat := 1) (q : TokQ := {}) : Team := { team i n with allocs := [(0, { n := rows, life := 100, gran := 0 })], queues := [q] }
def padWorld (i : Instr) (n : Nat := 2) (rows : Nat := 1) (q : TokQ := {}) : State := world i n (padTeam i n rows q)
/-- There is a lane, every lane lies in the allocation, and its row is not expired where it is read. -/
def live (s : State) (e : Env) (ls : List (Nat × Nat × Nat)) (reads : Bool) : Bool := !ls.isEmpty && s.errors == [] && ls.all fun q => q.2.2 % 4 == 0 &&
  match padPlace e.team q.2.2 4 with | some (al, row) => !reads || !rowExpired (s.core e.core) al row (s.core e.core).rtick | none => false
/-- The last word of a row; past the allocation; an expired row. -/
theorem test_hyp_pad_issue : let f := mf 8 4 2 252
    let g := maf 0 1 8 2 10
    (∃ e, Issues (padWorld (.sld f)) (.sld f) e ∧ live (padWorld (.sld f)) e (padAddrs (padWorld (.sld f)) e f) true = true) ∧
    (∃ e, Issues (padWorld (.sst f)) (.sst f) e ∧ live (padWorld (.sst f)) e (padAddrs (padWorld (.sst f)) e f) false = true) ∧
    (∃ e, Issues (padWorld (.satom g)) (.satom g) e ∧ live (padWorld (.satom g)) e ((e.sel 12 0).map fun q => (q.1, q.2, (src32 (padWorld (.satom g)) e q.2 2).toNat)) true = true) ∧
    (let i := Instr.sld (mf 8 4 2 256)
     ∃ e, Issues (padWorld i) i e ∧ (!e.b.handler && (padPlace e.team 256 4).isNone && (padAddrs (padWorld i) e (mf 8 4 2 256)).any fun q => q.2.2 == 256) = true) ∧
    (let s := (padWorld (.sld f)).updCore 0 fun k => { k with rows := [(0, { exp := true })] }
     ∃ e, Issues s (.sld f) e ∧ (!e.b.handler && (padAddrs s e f).all (fun q => q.2.2 == 252) &&
      match padPlace e.team 252 4 with | some (al, row) => rowExpired (s.core e.core) al row (s.core e.core).rtick | none => false) = true) :=
  ⟨meets_issues (by decide +kernel), meets_issues (by decide +kernel), meets_issues (by decide +kernel), meets_issues (by decide +kernel), meets_issues (by decide +kernel)⟩
theorem test_hyp_pad_access : ([(LaneKind.load), .store, .atom 0 1 true].all fun kind =>
    let i := Instr.sld (mf 8 4 2 252)
    let t : Team := { padTeam i with iw := [{ id := 1, grp := 0, insn := i, word := 0, clause := 0x10000, index := 0, prio := 16, bundle := 3, lanes := [{ lane1 kind .ready with va := 252, ea := 252 }], scratch := true }] }
    let s := (world i 2 t).updCore 0 fun k => { k with port := [{ team := 0, iss := 1, lanes := [0], row := 0 }] }
    s.errors == [] && match (s.core 0).port.find? (fun o => o.row == 0) with
    | some o => (o.ops s).all (fun x => !engineFirst s 0 o.team [x.2.2.tid] o.iss (padHandle x.2.2.va) (padRow x.2.2.va)) && (match laneOf s o.team o.iss 0 with
      | some (tm, _, l) => l.row == 0 && l.kind == kind && (mapGet? tm.allocs (padHandle l.va)).isSome
      | none => false)
    | none => false) = true := by decide +kernel
/-- salloc of no rows, of one row, for 0 and for 1 microsecond; sfree of a handle held and not held; srenew and sage of a live row and of one
row too many. -/
theorem test_hyp_pad_management : (∀ i ∈ [Instr.salloc (of 4 1792 1793), .salloc (of 4 1793 1792), .salloc (of 642 1793 1793), .sfree (of 0 1792), .sfree (of 0 1800), .srenew (of 4 1792 1793), .sage (of 642 1792 1793),
      .srenew (of 4 1792 1794), .sage (of 642 1792 1794)], ∃ e, Issues (padWorld i) i e ∧
    (!e.b.handler && (padWorld i).errors == [] && ((padWorld i).core 0).port.isEmpty && ((padWorld i).core 0).matq.isEmpty && match i with
      | .salloc f => let n := (uni32 (padWorld i) e f.a).toNat
          let l := (uni32 (padWorld i) e f.b).toNat
          decide (n = 0 ∨ n ≤ 3072 ∧ (l = 0 ∨ l ≤ 1023 ∧ (allocDecide (padWorld i) e.team n l).1 = 0))
      | .sfree f => let h := (uni32 (padWorld i) e f.a).toNat
          (mapGet? e.team.allocs h).isSome || decide (8 ≤ h)
      | .srenew f | .sage f => (match padRows e.team (uni32 (padWorld i) e f.a).toNat (uni32 (padWorld i) e f.b).toNat with
          | some (_, p) => !rowsBusy (padWorld i) e p 1 0 0
          | none => true)
      | _ => false) = true) := by
  intro i hi; refine meets_issues ?_; revert i; decide +kernel
/-- Eight allocations; one that takes the team's four granules. -/
theorem test_hyp_salloc : let i := Instr.salloc (of 4 1793 1793)
    let w := fun (as : Map Alloc) => world i 2 { padTeam i with allocs := as }
    let p := fun (s : State) (e : Env) => s.errors == [] && (uni32 s e 1793) == 1 && decide (1 ≤ (s.core e.team.core).tretTicks)
    (let s := w ((List.range 8).map fun h => (h, { n := 0, life := 1, gran := 0 }))
     ∃ e, Issues s i e ∧ (p s e && (List.range 8).all fun h => (mapGet? e.team.allocs h).isSome) = true) ∧
    (let s := w [(0, { n := 64, life := 1, gran := 0 })]
     ∃ e, Issues s i e ∧ (p s e && (mapGet? e.team.allocs 1).isNone && (List.range (e.team.spg + 1)).all fun g => decide (e.team.spg < g + granules 1) ||
       e.team.allocs.any fun x => decide (x.2.gran < g + granules 1) && decide (g < x.2.gran + granules x.2.n)) = true) :=
  ⟨meets_issues (by decide +kernel), meets_issues (by decide +kernel)⟩
theorem test_hyp_bar : ∃ e, Issues (world (.bar of)) (.bar of) e ∧ (two e && coreReleased e.team (e.lanes.map Prod.snd)) = true := meets_issues (by decide +kernel)
/-- Queues with a permit and a token, with neither, with pending slots, with a bundle that waits. -/
theorem test_hyp_queues : (([(Instr.qperm (of 4 1792), ({ slots := 1, perm := 1 } : TokQ)), (.qtake (of 642 1792), { slots := 64, tok := 1 }), (.qperm (of 4 1792), { slots := 1 }), (.qtake (of 4 1792), { slots := 1 }),
      (.qpost (of 0 1792), { slots := 2, ppend := 1 }), (.qpost (of 0 1792), { slots := 2, ppend := 1, twait := [([5], 4)] }), (.qfree (of 0 1792), { slots := 2, fpend := 1 }), (.qpost (of 0 1792), { slots := 2 }),
      (.qfree (of 0 1792), { slots := 2 }), (.qinit (of 0 1792 1793), {}), (.qinit (of 0 1792 1792), {}), (.qstat (of 4 1792), { slots := 64, perm := 64 }),
      (.qstat (of 4 1793), {}), (.qperm (of 4 1793), {}), (.qtake (of 4 1793), {}), (.qinit (of 0 1793 1793), {}),
      (.qperm (of 4 1792), {}), (.qtake (of 4 1792), {}), (.qpost (of 0 1793), {}), (.qfree (of 0 1793), {}), (.qstat (of 4 1800), {})] : List (Instr × TokQ)).all fun (i, q) =>
    meets (padWorld i 2 1 q) i fun e => two e && !e.b.handler && coreReleased e.team (e.lanes.map Prod.snd) && match i with
      | .qperm f | .qtake f | .qpost f | .qfree f | .qinit f | .qstat f => let n := (uni32 (padWorld i 2 1 q) e f.a).toNat
        queueOf (padWorld i 2 1 q) e.tk n == (if n = 0 then some q else none)
      | _ => false) = true := by decide +kernel
theorem test_hyp_copy_issue : ∀ i ∈ [Instr.cpy (cf 0 646 644 648 3), .cpy (cf 6 646 0 648), .cpfill (cf 0 646 644 648 1), .tsr (cf 0 0 644 0)], ∃ e, Issues (world i) i e ∧
    (e.lanes.head? == some (0, 0) && coreReleased e.team [0] && !behindDrain e i 0 && (queueAt (world i) e.core 3).length == 0) = true := by
  intro i hi; refine meets_issues ?_; revert i; decide +kernel
theorem test_hyp_copy_control : (∀ i ∈ [Instr.cpwp (cf 0 642 0 0 3), .cpcancel (cf 0 0 0 0 3)], ∃ e, Issues (world i) i e ∧ (e.team.chans.length == 4) = true) ∧
    (let s := issued (.cpcancel (cf 0 0 0 0 3)) []
     (match (s.team 0).bind (findIss · 1) with
      | some i => !(s.core 0).asleep && (s.group 0 i.grp).isSome && i.insn == .cpcancel (cf 0 0 0 0 3) && i.lanes == [] && !i.engine && i.fence.isNone && i.acq.isNone
      | none => false) = true) := by
  refine ⟨?_, by decide +kernel⟩
  intro i hi; refine meets_issues ?_; revert i; decide +kernel
/-- A fill of 256 bytes of the scratchpad from row 0 on, on channel 3. -/
def fillCmd (len : Nat := 256) (started : Bool := true) : CopyCmd := { id := 1, team := 0, tid := 0, word := 0, op := 2, fn := 4, dst := 0, src := 0x01020304, len := len, flag := none, grp := 0, started := started }
def copying (c : CopyCmd) (x : ChanState := {}) : State := let t := padTeam (.nop sf)
  (world (.nop sf) 2 { t with chans := [{}, {}, {}, x] }).updCore 0 fun k => { k with copyq := [(3, [c])] }
def copyMet (s : State) (c : CopyCmd) (p : Team → ChanState → Bool) : Bool := queueAt s 0 3 == [c] && !(s.core 0).asleep && !c.suspended && c.op != 1 &&
  match s.team 0 with
  | some tm => !copyHeld s 0 tm c && (match tm.chans[3]? with | some x => p tm x | none => false)
  | none => false
/-- tsr of a record at 0x300. -/
def shapeCmd : CopyCmd := { id := 1, team := 0, tid := 0, word := 0, op := 1, fn := 0, dst := 0, src := 0, len := 0, rcd := 0x300, flag := none, grp := 0 }
def shaped : State := let s := copying shapeCmd
  lit { s with mem := cellsSet s.mem 0x300 (([0, 0, 4 + 2 ^ 32, 1 + 4 * 2 ^ 32 + 2 ^ 48, 4, 4, 0, 2 ^ 32] : List Nat).flatMap (leBytes 8)) }
theorem test_hyp_copy_segments :
    (copyMet (copying (fillCmd 256) { stopped := true }) (fillCmd 256) fun _ x => x.stopped) = true ∧
    (copyMet (copying (fillCmd 256 false)) (fillCmd 256 false) fun tm x => !x.stopped && !(fillCmd 256 false).started && !(fillCmd 256 false).shapedBit && (startChecks tm (fillCmd 256 false)).isNone) = true ∧
    (copyMet (copying (fillCmd 257 false)) (fillCmd 257 false) fun tm x => !x.stopped && !(fillCmd 257 false).started && !(fillCmd 257 false).shapedBit && (startChecks tm (fillCmd 257 false)).isSome) = true ∧
    (copyMet (copying fillCmd) fillCmd fun tm x => !x.stopped && fillCmd.started && fillCmd.freed.isNone && (copying fillCmd).errors == [] && (match fillCmd.dstSide with | .pad a => (padPlace tm (padAt a 0) (segLen fillCmd 0 256 1)).isSome | _ => false)) = true ∧
    (let s := copying fillCmd
     copyMet s fillCmd fun tm x => !x.stopped && match readSeg s 0 tm 0 fillCmd 0 (segLen fillCmd 0 256 1) with
      | .ok bs none u => (match writeSeg u 0 tm 0 fillCmd 0 bs with | .ok _ none _ => true | _ => false)
      | _ => false) = true ∧
    (let c := { fillCmd with freed := some 0 }
     copyMet (copying c) c fun _ x => !x.stopped && c.here.contains 0 && c.freed == some (padHandle 0)) = true ∧
    (let c := shapeCmd
     queueAt shaped 0 3 == [c] && c.op == 1 && (shaped.team 0).any fun tm => !copyHeld shaped 0 tm c && match readRecord shaped 0 c 0 with
      | .ok _ none u => u.team 0 == some tm
      | _ => false) = true :=
  ⟨by decide +kernel, by decide +kernel, by decide +kernel, by decide +kernel, by decide +kernel, by decide +kernel, by decide +kernel⟩
/-- Matrix instructions of a bundle of 32 threads; the team holds 192 rows. -/
theorem test_hyp_matrix_issue : ∀ i ∈ [Instr.xmma (xf 0 0 640 640 1 1), .xzero (xf 0 0 0 0), .xfill (xf 0 0 640 0), .xrd (xf 0 16 0 0), .xwr (xf 0 0 16 0), .xscale (xf 0 0 0 640), .xdrain { xf 0 128 0 0 with tr := 0, tc := 0 },
      .xdrain { xf 1 0 640 0 with tr := 0, tc := 0 }, .xdrain { xf 5 0 640 0 with tr := 0, tc := 0 }, .xdrain { xf 2 0 640 0 with tr := 0, tc := 0 }, .xquant { xf 1 0 640 640 with tr := 0, tc := 0 }], ∃ e, Issues (padWorld i 32 192) i e ∧
    (e.team.acc && e.lanes.length == 32 && matCount (padWorld i 32 192) e.core e.tk == 0 && !padPending e && !e.b.handler && match i with
      | .xmma f => (padOperands (padWorld i 32 192) e [(0, (xmmaRows f).1), (0, (xmmaRows f).2)] true).1.isNone
      | .xdrain f => f.fn.toNat % 4 != 1 || (padOperands (padWorld i 32 192) e [(0, 64)] (f.fn.toNat = 5)).1.isNone
      | .xquant _ => (padOperands (padWorld i 32 192) e [(0, 4)] false).1.isNone && (padRows e.team 0 1).isSome
      | _ => true) = true := by
  intro i hi; refine meets_issues ?_; revert i; decide +kernel
/-- No accumulator flag, 31 threads, a full queue; an allocation a row short, an expired row. -/
theorem test_hyp_matrix_faults : let i := Instr.xmma (xf 0 0 640 640 1 1)
    (∃ e, Issues (world i 32 { padTeam i 32 with acc := false }) i e ∧ (!e.team.acc && !e.b.handler) = true) ∧
    (∃ e, Issues (padWorld i 31) i e ∧ (e.team.acc && e.lanes.length != 32) = true) ∧
    (let s := (padWorld i 32).updCore 0 fun k => { k with matq := List.replicate 8 { team := 0, grp := 0, iss := 1, insn := i } }
     ∃ e, Issues s i e ∧ (e.lanes.length == 32 && matCount s e.core e.tk == 8) = true) ∧
    (∃ e, Issues (padWorld i 32 1) i e ∧ (e.team.acc && e.lanes.length == 32 && !padPending e && (padRows e.team 0 (xmmaRows (xf 0 0 640 640 1 1)).1).isNone) = true) ∧
    (let s := (padWorld i 32 64).updCore 0 fun k => { k with rows := [(0, { exp := true })] }
     ∃ e, Issues s i e ∧ (!padPending e && (padBounds e 0 (xmmaRows (xf 0 0 640 640 1 1)).2).isNone && match padRows e.team 0 (xmmaRows (xf 0 0 640 640 1 1)).1 with
      | some (al, p) => rowExpired (s.core 0) al p (s.core 0).rtick | none => false) = true) :=
  ⟨meets_issues (by decide +kernel), meets_issues (by decide +kernel), meets_issues (by decide +kernel), meets_issues (by decide +kernel), meets_issues (by decide +kernel)⟩
/-- The engine's queue holds one command. -/
def headed (i : Instr) (b : Nat := 0) : State := (padWorld (.nop sf) 32 192).updCore 0 fun k => { k with matq := [{ team := 0, grp := 0, iss := 1, insn := i, b := b, owners := (List.range 32).map fun l => (l, l) }] }
theorem test_hyp_matrix_commands : ([Instr.xmma (xf 0 0 640 640 1 1), .xzero (xf 0 0 0 0), .xfill (xf 0 0 640 0), .xrd (xf 0 16 0 0), .xwr (xf 0 0 16 0), .xscale (xf 0 0 0 640), .xdrain { xf 0 128 0 0 with tr := 0, tc := 0 },
      .xdrain { xf 1 0 640 0 with tr := 0, tc := 0 }, .xdrain { xf 5 0 640 0 with tr := 0, tc := 0 }, .xdrain { xf 2 0 640 0 with tr := 0, tc := 0 }, .xquant { xf 1 0 640 640 with tr := 0, tc := 0 }].all fun i => let s := headed i (4 * 256)
    s.errors == [] && !(s.core 0).asleep && match (s.core 0).matq, s.team 0 with
    | [m], some t => m.insn == i && decide (m.owners.map Prod.snd).Nodup && m.owners.find? (fun p => p.1 == 31) == some (31, 31) && (s.thread m.team 31).isSome && (match i with
      | .xmma f => (padRows t m.a (xmmaRows f).1).isSome && (padRows t 0 (xmmaRows f).2).isSome
      | .xdrain f => f.fn.toNat != 1 || (List.range 64).all fun i => (padRows t (m.a + 256 * i) 1).map Prod.snd == some i
      | .xquant _ => (List.range 4).all (fun i => (padRows t (m.a + 256 * i) 1).map Prod.snd == some i) && (padPlace t m.b 128).map Prod.snd == some 4
      | _ => true)
    | _, _ => false) = true := by decide +kernel
theorem test_hyp_sub_arrays : ([cx, { cx with xidle := 0 }].all fun c => let s := (world (.nop sf) 2 (team (.nop sf) 2) c).updCore 0 fun k => { k with accOwner := some 0, cycles := 4096 }
    (s.core 0).accOwner == some 0 && (s.core 0).matq.isEmpty && (s.core 0).subPowered && match (s.team 0).bind fun t => s.ctx t.ctx with
      | some x => x.xidle.toNat % 65536 == 0 || decide ((s.core 0).subIdleSince + x.xidle.toNat % 65536 ≤ (s.core 0).cycles)
      | none => false) = true := by decide +kernel

/-! ## Witnesses: traps, kills and scheduling -/

/-- An instruction of the wrong form, one that waits for a full flag, one that a handler may not issue. -/
theorem test_hyp_illegal :
    (match gate (box (.iadd (vf 2 7 4 5))) (.iadd (vf 2 7 4 5)) with | .illegal e => !e.b.handler && two e | _ => false) = true ∧
    (let t := team (.nop sf) 2
     let h : DWord := BitVec.ofNat 64 (0xC * 2 ^ 60 + (opClass 0xF0).getD 0 * 2 ^ 57 + 1 * 2 ^ 53 + 1 * 2 ^ 30 + 2 ^ 29)
     let s := box (.nop sf) 2 { t with vb := 39, groups := t.groups.map fun g => { g with bundle := g.bundle.map fun b => { b with words := [h, 0xF0000000000000C0, 0xF0000000000000C0, 2 ^ 40 - 1] } } }
     match gate s (.nop sf) with | .illegal e => !e.b.handler && liveBad e.team e.b.words | _ => false) = true ∧
    ([(110, true), (10, false)].all fun (a, ok) => let i := Instr.iadd (vf 0 7 4 5)
     let s := { box i with errors := [(a, regPlace 0 0 4)] }
     (match envOf s with | some e => regError s e i == some (ok, regPlace 0 0 4, [(0, 0)]) | none => false) &&
       (match gate s i with | .wait _ => ok | .poison _ => !ok | _ => false)) = true ∧
    (let t := team ldI 2
     match gate (box ldI 2 { t with groups := t.groups.map fun g => { g with cf := [(0, 63)] } }) ldI with | .wait _ => true | _ => false) = true ∧
    (match gate (inHandler (.bar of)) (.bar of) with | .nested e => two e && e.lanes.all (fun p => (e.thread p.2).handler) && e.team.kill.isNone | _ => false) = true :=
  ⟨by decide +kernel, by decide +kernel, by decide +kernel, by decide +kernel, by decide +kernel⟩
/-- Threads that have taken a fault, no bundle. -/
def faulted (cause : Cause) (c : Ctx := cx) : State := let t := team (.nop sf) 2
  world (.nop sf) 2 { t with threads := t.threads.map fun th => { th with st := .parked, fault := some { cause := cause, clause := 0x10000 } }, groups := t.groups.map fun g => { g with bundle := none } } c
def readyTrap (s : State) (f : Cause) : Bool := match s.team 0 with
  | some t => (match t.threads[0]? with | some th => th.fault.any (fun x => x.cause == f) && th.st == .parked && t.kill.isNone && !threadBusy t 0 | none => false) && (s.ctx t.ctx).isSome && s.posted t.ctx
  | none => false
theorem test_hyp_no_handler : let c := { cx with tvec := 0 }
    (readyTrap (faulted .illinsn c) .illinsn && Cause.illinsn.handling == .handler && handlerEntry c == 0) = true ∧
    (let c := { cx with tvec := 0, dbgctl := 1 }
     readyTrap (faulted .brkpt c) .brkpt && bit c.dbgctl 0 && (((faulted .brkpt c).team 0).any fun t => okV (writeRecord (faulted .brkpt c) t 0 { cause := .brkpt, clause := 0x10000 } false))) = true :=
  ⟨by decide +kernel, by decide +kernel⟩
/-- The trap area lies in memory, or where nothing maps; a cause of record and kill, and one of kill alone. -/
theorem test_hyp_trap_delivery :
    ([(cx, Cause.illinsn, true), ({ cx with tarea := 2 ^ 40 }, .illinsn, false), (cx, .bpoison, true)].all fun (c, cause, ok) => let s := faulted cause c
      readyTrap s cause && handlerEntry c == 0x2000 && (s.team 0).any fun t => match writeRecord s t 0 { cause := cause, clause := 0x10000 } (cause == .bpoison) with
        | .ok _ v => ok && (v.thread 0 0).isSome && (v.team 0).any fun tm => tm.kill.isNone
        | .fault _ _ _ _ v => !ok && (v.team 0).any fun tm => tm.kill.isNone
        | .wait _ => false) = true ∧ (Cause.illinsn.handling == .handler && Cause.bpoison.handling == .recordKill && Cause.nested.handling == .kill && readyTrap (faulted .nested) .nested) = true :=
  ⟨by decide +kernel, by decide +kernel⟩
/-- A packet of queue 0 with one team of two threads. -/
def pkt : List DWord := [0, 0x10000, 0, 1, 2 + 2048, 0, 0, 0]
def run : Running := { queue := 0, index := 0, packet := pkt, slot := 0, prio := 0, depMet := true, next := 1, placed := 1 }
def cxRun (r : Running := run) (c : Ctx := cx) : Ctx := { c with running := [r] }
/-- The team by itself, without a bundle, its threads in one state. -/
def idle (st : TState) (f : Team → Team := id) (c : Ctx := cxRun) : State := let t := team (.nop sf) 2
  world (.nop sf) 2 (f { t with threads := t.threads.map fun th => { th with st := st }, groups := t.groups.map fun g => { g with bundle := none } }) c
theorem test_hyp_team_ends :
    ((idle .runnable fun t => { t with lookout := lookoutLimit t + 1 }).team 0).any (fun t => t.kill.isNone && !t.kept && decide (lookoutLimit t < t.lookout)) = true ∧
    (let s := (idle .runnable fun t => { t with kill := some { cause := .drvkill } }).updCore 0 fun k => { k with sb := [entry] }
     (s.team 0).any fun t => t.kill.isSome && !t.killing && t.groups.all (fun g => g.bundle.isNone) && ((beginKill s 0 t).core 0).sb != []) = true ∧
    ([true, false].all fun rst => let s := idle .runnable fun t => { t with kill := some { cause := .rpoison }, killing := true, snap := some [], rst := rst }
     (s.team 0).any fun t => teamReleased s 0 t == (true, s) && t.groups.all (fun g => g.bundle.isNone) && s.posted t.ctx && teamIdle s 0 t && relaunches t { cause := .rpoison } == rst && match writeRetires s t { cause := .rpoison } with
       | .ok _ v => (v.ctx 0).any fun c => (findRunning c 0 0).isSome
       | _ => false) = true ∧
    (let s := idle .exited fun t => { t with snap := some [] }
     (s.team 0).any fun t => t.kill.isNone && t.threads.all (fun th => th.st == .exited) && t.groups.all (fun g => g.flagMask == 0) && teamIdle s 0 t && s.posted t.ctx && (teamReleased s 0 t).1) = true :=
  ⟨by decide +kernel, by decide +kernel, by decide +kernel, by decide +kernel⟩
/-- The save area at 0x102000, in page 16. -/
def cxSave : Ctx := cxRun run { cx with savebase := 0x102000, keepalive := 0x80000064 }
theorem test_hyp_deschedule :
    ((idle .runnable fun t => { t with asked := true }).team 0).any (fun t => t.asked && !t.stopping && t.kill.isNone && !t.kept) = true ∧
    (let s := { idle .inBundle (fun t => { t with stopping := true }) with ns := 10000000 }
     (s.team 0).any fun t => t.stopping && !t.drained && !t.stopReported && !stopped t && decide (t.stopStart + 10000000 ≤ s.ns)) = true ∧
    (let s := (idle .exited fun t => { t with stopping := true }).updCore 0 fun k => { k with sb := [entry] }
     (s.team 0).any fun t => t.stopping && t.kill.isNone && !t.drained && stopped t && t.snap.isNone && (s.core t.core).sb != []) = true :=
  ⟨by decide +kernel, by decide +kernel, by decide +kernel⟩
/-- A drain that can be finished: the record is stored. -/
def drainMet (s : State) : Bool := (s.team 0).any fun t => t.stopping && t.kill.isNone && !(s.core t.core).matq.any (fun m => m.team == 0) &&
  let r := teamReleased (suspendCopies (s.updTeam 0 fun t => { t with drained := true }) 0 t.core true) 0 t
  r.1 && (r.2.team 0).any fun t1 => drainDone r.2 0 t1 && (saveError r.2 0 t1).isNone && (match knownPrios r.2 t1, r.2.ctx t1.ctx with
    | .ok t2 s2, some c => let y := saveRecord s2 0 t2 (keeps r.2 t1)
      !keeps r.2 t1 && (match storeRecord y.2 t1.ctx c y.1 with | .ok (some _) s4 => (s4.ctx 0).isSome | _ => false)
    | _, _ => false)
theorem test_hyp_drain : drainMet (idle .exited (fun t => { t with stopping := true, drained := true, snap := some [], vb := 1, gb := 0, acc := false }) cxSave) = true := by decide +kernel

/-- A save record of the packet behind entry 0, at 0x103000. -/
def savedMem : Cells 8 := cellsSet (cellsSet (cellsSet tables 0x102000 (leBytes 8 0x1000)) 0x103000 (leBytes 8 256)) 0x103040 (pktBytes pkt)
def cxSaved : Ctx := { cxSave with saved := [(0, { queue := 0, idx := 0, team := 0, relaunches := 0, core := 0 })] }
def savedWorld : State := lit { idle .exited id cxSaved with teams := [], mem := savedMem }
theorem test_hyp_resume : (savedWorld.posted 0 && (savedWorld.ctx 0).any fun c => mapGet? c.saved 0 == some { queue := 0, idx := 0, team := 0, relaunches := 0, core := 0 } && !c.destroying && !stopAsked savedWorld c.vd && match loadRecord savedWorld 0 c 0, findRunning c 0 0 with
    | .ok bs s1, some r => (keptTeam s1 0 0).isNone && fits s1 0 c 0 0 (pktWords ((bs.drop 0x40).take 64)) 0 [] [] && !higherFits s1 c.vd r.prio &&
        okV (freeRecord (packetAcquire (rebuildTeam (rouse s1 0) 0 0 0 c bs).2 r 0) 0 c 0)
    | _, _ => false) = true := by decide +kernel
/-- A team kept alive since tick 0, for 100 ticks. -/
def keptWorld : State := (lit { idle .exited (fun t => { t with kept := true, acc := false }) cxSaved with mem := savedMem }).updCore 0 fun k => { k with rtotal := 100 }
theorem test_hyp_keepalive : ((keptWorld.team 0).any fun t => t.kept && keptWorld.errors == [] && (keptWorld.ctx t.ctx).any fun c => decide (t.keptSince + c.keepalive.toNat % 2 ^ 20 ≤ (keptWorld.core t.core).rtotal) &&
    match (loadRecord keptWorld t.ctx c t.entry).bind fun bs s =>
      let (bs', s) := rewriteRecord (renewRows s t) t bs
      (freeRecord s t.ctx c t.entry).bind fun _ s => storeRecord s t.ctx c bs' with
    | .ok (some _) v => (v.ctx t.ctx).isSome
    | _ => false) = true := by decide +kernel
/-- Core 0 is the only one and its accumulator store is taken; a packet of PRIO 3 that wants it has waited 100 microseconds. -/
def crowded : State := let r := { run with packet := [0x400000000, 0x10000, 0, 1, 2 + 2048, 0, 0, 0], prio := 3, next := 0, placed := 0 }
  { idle .runnable (fun t => { t with queues := [], vb := 1, gb := 0 }) (cxRun r) with ns := 100000, slovi := { disabledCores := List.range' 1 639 } }
theorem test_hyp_preempt : ((crowded.ctx 0).any fun c => (findRunning c 0 0).any fun r => r.prio == 3 && mayPlace crowded c r && decide (r.waitsSince + 100000 ≤ crowded.ns) &&
    (bestCore crowded 0 c 0 0 r.packet r.avoid).isNone && (roomFor crowded 0 c r).any fun x => x.2.2 == (0, [0])) = true := by decide +kernel

/-- Queue 0: its descriptor at 0x3000, its ring of 16 slots at 0x4000, one packet posted. -/
def cxQueue : Ctx := { cx with qtable := 0x3000 }
def queued (p : List DWord) : State := lit { world (.nop sf) 2 (team (.nop sf) 2) cxQueue with
  mem := cellsSet (cellsSet (cellsSet (cellsSet [] 0x3000 (leBytes 8 0x4000)) 0x3008 (leBytes 8 4)) 0x3010 (leBytes 8 1)) 0x4000 (pktBytes p) ++ tables
  vds := [(0, { share := 1000, count := 64, ctxs := [(0, 0)], notify := [(0, 1)] })] }
/-- The packet is valid, or asks for teams of no threads. -/
theorem test_hyp_take_up : ([(pkt, true), ([0, 0x10000, 0, 1, 2048, 0, 0, 0], false)].all fun (p, good) => let s := queued p
    s.posted 0 && (s.ctx 0).any fun c => freeEntry c == some 0 && decide (0 < c.qcount) && !c.stopped.contains 0 && !stopAsked s c.vd && !c.destroying && match readDesc s 0 c 0 with
    | .ok d s1 => descLog d != 0 && descErr d == 0 && decide (descRidx d < notifyOf s1 c.vd c.loc 0) && decide (descRidx d < descWidx d) && !descDevOk d &&
      (match virtRead s1 none 0 0 (slotAddr d (descRidx d)) 64 kRead true with
       | .ok bs s2 => (match packetError c 0 (pktWords bs) with
         | none => good && (match writeDesc s2 0 c 0 24 (leBytes 8 (descRidx d + 1)) with | .ok _ s3 => (s3.ctx 0).isSome | _ => false)
         | some code => !good && okV (stopQueue s2 0 c 0 code (descRidx d) true))
       | _ => false)
    | _ => false) = true := by decide +kernel
theorem test_hyp_notify : (mapGet? ((queued pkt).vd 0).ctxs 0 == some 0 && ((queued pkt).ctx 0).any fun c => !c.stopped.contains 4095) = true := by decide +kernel
theorem test_hyp_dependence : let s := { queued pkt with ctxs := [(0, cxRun { run with depMet := false } cxQueue)] }
    ((s.ctx 0).any fun c => (findRunning c 0 0).any fun r => !r.depMet && !pktOrdr r.packet && (r.packet.getD 7 0).toNat == 0 && match readDesc s 0 c 0 with | .ok _ s1 => s1.ctx 0 == some c | _ => false) = true := by decide +kernel
theorem test_hyp_placement : let s := { queued pkt with ctxs := [(0, cxRun { run with next := 0, placed := 0 } cxQueue)], teams := [] }
    (s.posted 0 && (s.ctx 0).any fun c => (findRunning c 0 0).any fun r => r.depMet && !r.restored && r.again.isEmpty && decide (r.next < pktTeams r.packet) && !stopAsked s c.vd && !c.destroying && slotsFree c r.packet &&
      bestCore s 0 c 0 0 r.packet none == some 0 && !higherWaits s c.vd r.prio && !turnWaits s c.vd r.prio 0 0) = true := by decide +kernel
theorem test_hyp_complete : let s := { queued pkt with ctxs := [(0, cxRun { run with placed := 0 } cxQueue)] }
    (s.posted 0 && s.hostPend == [] && (s.ctx 0).any fun c => (findRunning c 0 0).any fun r => r.depMet && decide (pktTeams r.packet ≤ r.next) && r.again.isEmpty && r.placed == 0 && !r.killed && !pktRel r.packet &&
      (r.packet.getD 6 0).toNat == 0 && okV (finishPacket s 0 0 0)) = true := by decide +kernel

/-- Commands on a number without a context; a bind of a control block at 0x1000. -/
theorem test_hyp_bind : let s := { world (.nop sf) with ctxs := [], vds := [(0, { share := 1000, count := 64, keyBase := 0, keyCount := 1 })] }
    ((ctxOf s 0 255).isNone && (s.page (pageOf 0x1000)).isSome && (List.range 4096).find? (fun x => (s.ctx x).isNone) == some 0 &&
      match readAt (setArgs s 0 0x1000 (s.vd 0).ctxarg1.toNat) 0x1000 4096 with
      | .ok b w => decide ((s.vd 0).keyBase ≤ num b 0x1C 4 % 1024) && decide (num b 0x1C 4 % 1024 < (s.vd 0).keyBase + (s.vd 0).keyCount) && decide (num b 0x48 8 % 2 ^ 36 ≤ w.poolOf 0) && (List.range 24).filterMap (fun i => runningFrom b i w.ns) == []
      | _ => false) = true := by decide +kernel
/-- A context by local number 0, its team of threads in handler mode that the debugger holds. -/
def bound : State := let s := idle .parked (fun t => { t with threads := t.threads.map fun th => { th with dbg := true, handler := true } }) cx
  { s with vds := [(0, { share := 1000, count := 64, ctxs := [(0, 0)] })] }
theorem test_hyp_commands : (ctxOf bound 0 0 == some 0 && (bound.ctx 0).any fun c => !c.destroying && (findTeam bound 0 0 0 0).any (fun x => x.1 == 0 && x.2.kill.isNone && !x.2.kept && !x.2.asked) && !cmdBusy bound 0 4 0 &&
    (debugThread bound 0 0).any (fun x => x.1 == 0 && x.2.1 == 0 && x.2.2.handler) && match readAt bound (c.ccb + 0x50) 112 with | .ok _ w => w.ctx 0 == some c | _ => false) = true := by decide +kernel

/-! ## Witnesses: time, fetching, pages -/

theorem test_hyp_time : (let s := (world (.nop sf)).updCore 0 fun k => { k with lclk := 16384, rtick := 32768 }
    s.cores.length == 1 && (s.core 0).lclk.toNat % 16384 == 0 && (s.core 0).rtick.toNat % 16384 == 0 && s.errors == []) = true ∧
    (let s := { world (.nop sf) with ns := 960 }; decide ((s.ns + 64) / 1000 ≠ s.ns / 1000)) = true := ⟨by decide +kernel, by decide +kernel⟩
/-- Core 0 shows band 6 and has been 2 degrees below its boundary since 0, for a millisecond or less; after the first reading. -/
def cooled (ns : Nat) : State := ({ world (.nop sf) with ns := ns }).updCore 0 fun k => { k with firstReading := false, belowSince := [(6, 0)] }
theorem test_hyp_temperature : ((world (.nop sf)).core 0).firstReading = true ∧
    (!((cooled 0).core 0).firstReading && decide (((cooled 0).core 0).band < bandOf 1200) && decide (bandOf 300 ≤ ((cooled 0).core 0).band) &&
      fallTo (cooled 1000000) ((cooled 1000000).core 0) ((cooled 1000000).core 0).band != ((cooled 1000000).core 0).band &&
      fallTo (cooled 999999) ((cooled 999999).core 0) ((cooled 999999).core 0).band == ((cooled 999999).core 0).band &&
      [400000, 1500000].all (fun d => decide (400000 ≤ d ∧ d ≤ 1500000))) = true :=
  ⟨by decide +kernel, by decide +kernel⟩
theorem test_hyp_sleep :
    (let s := { world (.nop sf) with teams := [] }
     s.coreEnabled 0 && !(s.core 0).asleep && !(s.core 0).emergency && noAllocation s 0 && noRunnable s 0 && coreDrained s 0 && decide (0 ∈ s.enabledCores)) = true ∧
    (let s := (idle (.waiting (.sleep 5))).updCore 0 fun k => { k with asleep := true, rtotal := 5 }
     (s.core 0).asleep && !(s.core 0).sleepAsked && wakeWanted s 0) = true ∧
    ([true, false].all fun drained => let s := (world (.nop sf)).updCore 0 fun k => { k with temp := 1151, sb := if drained then [] else [entry] }
     s.coreEnabled 0 && !(s.core 0).asleep && !(s.core 0).emergency && decide (1150 < (s.core 0).temp) && coreDrained s 0 == drained) = true ∧
    ([(true, 1150), (true, 1151), (false, 0)].all fun (leave, temp) => let s := (idle .runnable).updCore 0 fun k => { k with asleep := true, sleepAsked := true, wakeAllowed := leave, temp := temp }
     (s.core 0).asleep && (s.core 0).sleepAsked && ((s.core 0).wakeAllowed == leave) && (decide (1150 < (s.core 0).temp) == (temp == 1151))) = true :=
  ⟨by decide +kernel, by decide +kernel, by decide +kernel, by decide +kernel⟩
/-- No clock is at its floor; core 0 has an allocation and core 1 has none, both on the hottest die. -/
theorem test_hyp_power : powerOver (world (.nop sf)) = false ∧
    (let s := (padWorld (.nop sf)).updCore 0 fun k => { k with temp := 900 }
     decide (0 ∈ s.enabledCores) && !(s.core 0).asleep && !noAllocation s 0 && 0 / 160 == hottestDie s && decide (1 ∈ s.enabledCores) && noAllocation s 1) = true := by
  refine ⟨?_, by decide +kernel⟩
  have h : atFloor (world (.nop sf)) = false := by decide +kernel
  simp [powerOver, h]
/-- The threads stand at a clause of two nops in page 1, or at an address of no clause. -/
def nopWord : DWord := 0xF0000000000000C0
def clauseHdr : DWord := BitVec.ofNat 64 (0xC * 2 ^ 60 + (opClass 0xF0).getD 0 * 2 ^ 57 + 1 * 2 ^ 53 + 1 * 2 ^ 30 + 16 * 2 ^ 21)
def clauseMem : Cells 8 := cellsSet (cellsSet [] 0x10000 (leBytes 8 clauseHdr.toNat)) 0x10008 (leBytes 8 nopWord.toNat ++ leBytes 8 nopWord.toNat) ++ tables
def standing (a : Nat := 0x10000) (known : Bool := false) : State := let s := idle .runnable (fun t => { t with threads := t.threads.map fun th =>
      { th with fetch := !known, hdr := if known then clauseHdr else 0, rp := { prio := 16, clause := a } } })
  lit { s with mem := clauseMem }
theorem test_hyp_fetch : ((standing).team 0).any (fun t => t.kill.isNone && !t.drained && (t.threads[0]?).any fun th => th.fetch && th.st == .runnable && !th.handler &&
      match kcWord standing t.core t.ctx th.pslot th.rp.clause kFetch th.handler with
      | .ok h s1 => !hdrBad h && roleAllows (((t.groups[th.grp]?).map Group.role).getD 0) (hdrClass h) && decide (th.rp.index < hdrCount h) && s1.thread 0 0 == some th
      | _ => false) = true ∧
    (([2 ^ 57, 0x10004] : List Nat).all fun a => ((standing a).thread 0 0).any fun th => th.fetch && !th.handler && th.rp.clause == a) = true := ⟨by decide +kernel, by decide +kernel⟩
theorem test_hyp_issue : (match pickGroup (box (.nop sf)) 0 0 with
    | some (tk, g) => (match prepare (box (.nop sf)) 0 tk g with | (some w, _) => decode w == some (.nop sf) | _ => false)
    | none => false) = true := by decide +kernel
/-- Issue slot 0 is throttled and its holder is another group, for 1,024 cycles or one less. -/
theorem test_hyp_throttle : ([1024, 1023].all fun cycles => let s := (box ldI).updCore 0 fun k => { k with cycles := cycles, holders := [(0, [64])], heldSince := [(0, [0])] }
    decide (((mapGet? (s.core 0).heldSince 0).getD []).headD 0 + 1024 ≤ (s.core 0).cycles) == (cycles == 1024) && mapGet? (s.core 0).holders 0 == some [64] && (readyGroups { s with cores := mapSet s.cores 0 { s.core 0 with holders := mapErase (s.core 0).holders 0 } } 0 0).any fun p =>
      !([64].contains (p.1 * 64 + p.2.1)) && ((s.team p.1).map fun t => groupClass t p.2.1 == 2).getD false) = true := by decide +kernel
theorem test_hyp_bundle : let s := standing 0x10000 true
    ((s.team 0).any fun t => let hs := headThreads t 0
      !fencePending t (hs.map Prod.fst) && hs.all (fun p => !unadmitted t p.1) && (t.groups[0]?).any fun gr => match hs with
      | (_, th) :: _ => (match kcWord s t.core t.ctx th.pslot th.rp.clause kFetch th.handler with
        | .ok h u0 => (waitError u0 0 0 (if th.rp.index = 0 then hdrWait h else 0)).isNone && !hdrBad h && roleAllows gr.role (hdrClass h) && gr.flagsClear (hdrWait h) && decide (th.rp.index < hdrCount h) &&
          (match kcWords u0 t.core t.ctx th.pslot th.rp.clause kFetch th.handler (hdrWords h) with
           | .ok ws u => (u.group 0 0).isSome && !clauseBad ws
           | _ => false)
        | _ => false)
      | [] => false) = true := by decide +kernel
/-- A bundle in progress at an issue's turn. -/
theorem test_hyp_step : let s := box (.nop sf)
    (s.agenda == [] && s.turn % 2 == 0 && match nextIssue s with
      | some (c, tk, g) => (match prepare { s with turn := s.turn + 1 } c tk g with | (some w, _) => decode w == some (.nop sf) | _ => false)
      | none => false) = true := by decide +kernel
theorem test_hyp_settled : Settled State.reset := by intro p hp; simp [State.reset] at hp
theorem test_hyp_round_trip : (Instr.iadd (vf 0 7 4 5)).wellFormed = true ∧ (encode (.iadd (vf 0 7 4 5))).isSome = true := by decide

/-- The context's number for the driver, and its page cap. -/
def driven (pages : List Nat) (m : Cells 8 := []) : State := { box (.nop sf) with pages := pages.map fun p => (p, { ctx := 0 }), ctxs := [(0, { cx with acap := 5, ccb := 0x1000 })], vds := [(0, { share := 10000, count := 64, ctxs := [(0, 0)] })], mem := m, pool := 10000 }
theorem test_hyp_page_commands :
    (ctxOf (driven [0]) 0 0 == some 0 && [false, true].all (fun fixed => match backPage (driven [0]) 0 0 (if fixed then 63 else 1) fixed with | .done _ => true | _ => false) && ((driven [0]).page 0).isSome &&
      ((driven [0]).page 1).isNone && inWindow (driven [0]) 0 0 && (match pageEnds { driven [0] with kills := [(0, [])] } 0 with | .ready _ => true | _ => false) && ((driven [0]).ctx 0).any fun c => capAllows c) = true ∧
    (let s := { driven [0] with kills := [(0, [0])] }
     match pageEnds s 0 with | .waits w => setBm w 0 3 0 0 1 != s | _ => false) = true ∧
    ([0, 1].all fun key => let s := { driven [] with pages := [(0, { ctx := 0, key := key })], kills := [(0, [])] }
     (s.page 0).any (fun g => (g.key == cx.key) == (key == 0) && g.ctx == 0) && match pageEnds s 0 with | .ready _ => true | _ => false) = true := ⟨by decide +kernel, by decide +kernel, by decide +kernel⟩
theorem test_hyp_upkeep :
    (driven [0]).posted 0 = true ∧ ([([], false, true), ([(0x1005, 0x80)], true, true), ([(0x1000, 1), (0x1005, 0x80)], true, false)] : List (Cells 8 × Bool × Bool)).all (fun (m, pend, empty) =>
      let s := lit (driven [0] m)
      (s.ctx 0).any fun c => match readAt s c.ccb 8 with
        | .ok bs w => (w.ctx 0).isSome && let x := mailbox (BitVec.ofNat 64 (leNat bs)); bit x 47 == pend && (fld x 35 0 == 0) == empty
        | _ => false) = true ∧
    (let s := { driven [0] with billets := [(0, { cls := 2, nsec := 8 })] }
     s.errors == [] && !(s.billet 0).opened && !(s.billet 0).closing && (s.billet 0).loc == 0 && (s.billet 0).nsec == 8 && !(s.billet 0).poison && decide (7 < Config.numStacks * Config.framesPerStack) && runFits ((mapGet? s.frames 7).getD 0) 8 == some 0 && (s.page 0).isSome && (s.billet 0).held != 0) = true ∧
    ((driven [0]).billet 0).held = 0 := ⟨by decide +kernel, by decide +kernel, by decide +kernel, by decide +kernel⟩

/-! ## Witnesses: migration, the fabric, the host, boot -/

/-- Page 0 is a candidate for the tier. -/
def migrating (m : List Migration) (tier : List (Nat × Nat) := []) : State := { driven [0] with migrations := m, tier := tier, regs := { chctl := 0x820003E8 }, ns := 1000000000 }
/-- Billets of class Z whose lines are not in L2 hold zeros. -/
theorem zero_billet (s : State) (hb : s.billets = []) (hl : s.lines = []) (b : Nat) : (billetBytes s b).map toWords = some (List.replicate 64 0) := by
  have h : ∀ l, s.line l = {} := fun l => by simp [State.line, hl]
  have h2 : s.billet b = {} := by simp [State.billet, hb]
  have h3 : storedValue s b = some (plainBytes 0 0) := by simp only [storedValue, h2]; rfl
  simp only [billetBytes, h3, h, h2]
  have h4 : ∀ i, bit (0 : BitVec 8) i = false := fun i => by simp [bit]
  rw [if_neg (by decide), if_neg (by decide)]
  simp only [h4, Bool.false_eq_true, if_false]
  decide +kernel
/-- A page of them, and its image: the table alone (R85). -/
theorem zero_words (s : State) (p : Nat) (hb : s.billets = []) (hl : s.lines = []) : pageWords s p = some (List.replicate 256 (List.replicate 64 0)) := by
  have h : ∀ (l : List Nat) (a : List (List Word)), l.foldl (fun (acc : Option (List (List Word))) i => acc.bind fun ws => (billetBytes s (p * 256 + i)).map fun bs => ws ++ [toWords bs]) (some a)
      = some (a ++ List.replicate l.length (List.replicate 64 0)) := by
    intro l
    induction l with
    | nil => simp
    | cons i l ih =>
      intro a
      obtain ⟨bs, h1, h2⟩ := Option.map_eq_some_iff.mp (zero_billet s hb hl (p * 256 + i))
      rw [List.foldl_cons, Option.bind_some, h1, Option.map_some, h2, ih]
      simp [List.replicate_succ]
  have := h (List.range 256) []
  rwa [List.nil_append, List.length_range] at this
theorem zero_image : (tierImage (List.replicate 256 (List.replicate 64 0))).length / 4096 = 1 := by decide +kernel
/-- The page has been idle exactly as long as CHCTL says, or its count is zero; a hot page, one of fixed size, one beside eight migrations. -/
theorem test_hyp_demote : (chEn (migrating []) && ((migrating []).page 0).any (isCold (migrating [])) && (migrating []).billets == []) = true ∧ mayDemote (migrating []) 0 = true ∧ mayDemote (migrating []) 1 = false ∧
    ([({ ctx := 0, hotUntil := 1000000001 }, 0), ({ ctx := 0, fixed := true }, 0), ({ ctx := 0 }, 8)] : List (Page × Nat)).all (fun (g, n) =>
      let s := { migrating ((List.range n).map fun i => { page := 1 + i, up := true }) with pages := [(0, g)] }
      s.page 0 == some g && decide (s.ns < g.hotUntil ∨ g.fixed = true ∨ 8 ≤ s.migrations.length)) = true :=
  ⟨by decide +kernel, by
    have hp : (migrating []).page 0 = some { ctx := 0 } := by decide +kernel
    unfold mayDemote
    rw [hp, zero_words _ _ rfl rfl]
    simp only [zero_image]
    decide +kernel, by decide +kernel, by decide +kernel⟩
/-- Billets of class Z are copied without a read that could fail. -/
theorem copy_reads_zero (s : State) (p : Nat) (he : s.errors = []) (hb : s.billets = []) (l : List Nat) :
    l.foldl (fun (acc : Bool × State) i => let (x, s) := copyRead acc.2 (p * 256 + i); (acc.1 || x, s)) (false, s) = (false, s) := by
  induction l with
  | nil => rfl
  | cons i l ih =>
    have h : copyRead s (p * 256 + i) = (false, s) := by
      simp [copyRead, readStored, storedValue, l2Error, State.takeError, State.billet, Billet.bad, he, hb]
    rw [List.foldl_cons, h]
    exact ih
theorem page_reads_zero (s : State) (p : Nat) (he : s.errors = []) (hb : s.billets = []) (ht : s.tier = []) : pageRead s p = (false, s) := by
  have h : inTier s p = false := by simp [inTier, ht, mapGet?]
  simp only [pageRead, h, Bool.false_eq_true, if_false]
  exact copy_reads_zero s p he hb _
def copied : State := migrating [{ page := 0, up := false }]
theorem test_hyp_demotion_copy : ((findMig copied 0 false).any (fun m => m.stage == 0) && copied.billets == [] && (copied.page 0).isSome) = true ∧
    pageRead (flushMsc copied 0) 0 = (false, copied) ∧
    pageWords copied 0 = some (List.replicate 256 (List.replicate 64 0)) ∧ tierRun copied ((tierImage (List.replicate 256 (List.replicate 64 0))).length / 4096) = some 0 :=
  ⟨by decide +kernel, page_reads_zero copied 0 rfl rfl rfl, zero_words _ _ rfl rfl, by rw [zero_image]; decide +kernel⟩
theorem test_hyp_freeze : ([(true, 0), (false, 0), (true, 3)].all fun (dirty, n) => let s := migrating [{ page := 0, up := false, stage := 1, dirty := dirty, retries := n }]
    !pagePoisoned s 0 && (findMig s 0 false).any (fun m => m.stage == 1 && m.dirty == dirty && (n == 3 || decide (m.retries < chRetry s))) && pageCalm s 0 && !heldStores s 0 && (s.page 0).isSome && s.billets == []) = true ∧
    (let s := { migrating [{ page := 0, up := false, stage := 1 }] with billets := [(0, { closing := true })] }
     (findMig s 0 false).any (fun m => m.stage == 1 && !m.frozen) && !pagePoisoned s 0 && !pageCalm s 0) = true ∧
    (let s := { migrating [{ page := 0, up := false, stage := 1 }] with billets := [(0, { poison := true })] }
     (findMig s 0 false).any (fun m => m.stage == 1) && pagePoisoned s 0) = true ∧
    (let s := migrating [{ page := 0, up := false, retries := 3 }]
     (findMig s 0 false).any fun m => decide (chRetry s < m.retries)) = true := ⟨by decide +kernel, by decide +kernel, by decide +kernel, by decide +kernel⟩
theorem test_hyp_promote : (let s := migrating [] [(0, 5)]
    inTier s 0 && s.migrations == [] && decide (promotionNeed s 0 ≤ s.poolOf (s.vdOfPage 0))) = true ∧ inTier (migrating []) 0 = false ∧
    (let s := migrating [{ page := 0, up := true }] [(0, 5)]
     inTier s 0 && decide (promotionNeed s 0 ≤ s.poolOf (s.vdOfPage 0)) && s.errors == [] && (tierValue s 0).any fun ws =>
       (writeRuns (s.poolTake 0 (promotionNeed s 0)) 0 (some ws)).any fun x => findMig x.2 0 true == some { page := 0, up := true }) = true ∧
    (let s := migrating [{ page := 0, up := true, stage := 1 }] [(0, 5)]
     (findMig s 0 true).any (fun m => m.stage == 1) && pageCalm s 0) = true := ⟨by decide +kernel, by decide +kernel, by decide +kernel, by decide +kernel⟩
/-- Port 3 in a state. -/
def ported (x : Port) (half : List (Nat × Bool) := []) : State := { driven [0] with ports := [(3, x)], halfWidth := half, ns := 10 }
def flit (seq : Nat) : Flit := { seq := .ofNat _ seq, ack := 0, nak := false, cls := .request, src := 0, msgs := [], crcOk := true }
theorem test_hyp_ports : (let s := ported { state := 2, width := 2, rxSeq := 5, replayBuf := [flit 7, flit 8] }
    (s.port 3).state == 2 && !(s.port 3).spared && !(s.port 3).nakSent && (s.port 3).width != 1 && (s.port 3).rxSeq == 5 && (mapGet? s.halfWidth 3).isNone &&
      (((s.port 3).replayBuf.dropWhile fun f => f.seq.toNat != 8 % 4096) != [])) = true ∧
    ([0, 10].all fun t => let s := { ported { state := 3, recoverySince := some t } with ns := linkTimeout + 9 }
      (s.port 3).state == 3 && (s.port 3).recoverySince == some t && (if t = 0 then decide (t + linkTimeout ≤ s.ns) else decide (s.ns < t + linkTimeout))) = true ∧
    mapGet? (ported {} [(3, false)]).halfWidth 3 = some false := ⟨by decide +kernel, by decide +kernel, by decide +kernel⟩
/-- A page-record table of 64 entries, or none. -/
def peered (reserve : Nat) (prt : List (Nat × PageRec) := []) (size : DWord := 64) : State :=
  { driven [0] with regs := { prtsize := size }, prt := prt, ctxs := [(0, { cx with reserve := reserve })], peerAsks := [(1, true)], ns := linkTimeout }
theorem test_hyp_peer_loads : (let s := peered 0
    s.posted 4096 && s.l2Room 1 && (s.page 0).isSome && s.peerReqs == [] && (recFor s 0).any (fun r => r.pend == [] && r.pstate != 2 && !r.devs.contains 1) && okH (readLine s 128 128)) = true ∧
    recFor (peered 0 [] 0) 0 = none ∧ (peered 0).page 1 = none := ⟨by decide +kernel, by decide +kernel, by decide +kernel⟩
theorem test_hyp_peer_stores : ([2048, 2047].all fun n => let s := peered n
    s.posted 4096 && (s.page 0).isSome && s.peerReqs == [] && (recFor s 0).any (fun r => r.pend == [] && r.pstate != 2 && (holdersOf s r).all (· == 1)) && pageAtRest s 0 && !inTier s 0 &&
      (s.ctx (s.ownerOf 0)).isSome && pageDebit s 0 == 2048) = true := by decide +kernel
theorem test_hyp_revocations : (let s := peered 0 [(0, { pstate := 1, devs := [1] })]
    s.posted 4096 && (mapGet? s.prt 0).any (fun r => r.pend == []) && s.peerAsks.any fun x => pageOfLine x.1 == 0 && x.2) = true ∧
    (let s := peered 0 [(0, { pstate := 1, devs := [1], pend := [1] })]
     s.posted 4096 && s.peerReqs == [] && ([(3, List.replicate 128 1), (4, [])] : List (Nat × List Byte)).all (fun x => pageOfLine x.1 == 0 && (x.2 == [] || x.2.length == 128) && s.l2Room x.1) &&
       (mapGet? s.prt 0).any fun r => r.pend.contains 1 && r.pend != [] && !r.demote && !r.coarse && r.devs.all (· == 1) && decide (r.since + linkTimeout ≤ s.ns)) = true ∧
    ([({ pstate := 1, devs := [1, 2], pend := [1] } : PageRec), { pstate := 2, xdev := 1, pend := [1], demote := true }].all fun r => let s := peered 0 [(0, r)]
      s.posted 4096 && mapGet? s.prt 0 == some r && r.pend.contains 1 && !r.coarse && (r.demote || r.devs.any (· != 1))) = true ∧
    (mapGet? (peered 0 [(0, { pend := [1], change := 5 })]).prt 0).any (fun r => r.pend.contains 1 && r.change != 4) = true ∧
    ((peered 0).lines = [] ∧ let s := { peered 0 with lines := [(lineOf (peerEa 1 0x100), { present := true, valid := 0xFF, dirty := true })] }
     (s.lines.all fun x => pageOfLine x.1 == peerPage 1 0 && s.calm x.1) = true) := ⟨by decide +kernel, by decide +kernel, by decide +kernel, by decide +kernel, by decide +kernel⟩
/-- Thread 0's access to a page of device 1, to which no port leads. -/
def stranded (i : Instr) (kind : LaneKind) : State := let l := { lane1 kind .sent with ea := peerEa 1 0x100 }
  { issued i [l] with lines := [(lineOf (peerEa 1 0x100), { queue := [{ asked .write with ea := peerEa 1 0x100, line := lineOf (peerEa 1 0x100) }] })] }
theorem test_hyp_give_up : ([(ldI, LaneKind.load), (stI, .store)].all fun (i, kind) => let s := stranded i kind
    (laneOf s 0 1 0).any fun x => x.2.2.kind == kind && isPeer x.2.2.ea && x.2.2.tgt != 1 && routeLost s (peerDev x.2.2.ea) &&
      ((s.line (lineOf x.2.2.ea)).queue.find? fun r => r.team == 0 && r.iss == 1 && r.lane == 0).isSome) = true := by decide +kernel
theorem test_hyp_host : (let s := driven [0]
    rangeBacked s 0xFFF8 8 && !rangeBacked s 0xFFFC 8 && okH (readAt s 0xFFF8 8) && okH (readLine s 0xFFF8 8) && okH (writeLine s (s.ownerOf 0xFFF8) 0xFFF8 (leBytes 8 1)) &&
      (match readLine s 0xFFF8 8 with
       | .ok old v => okH (writeLine v (v.ownerOf 0xFFF8) 0xFFF8 (leBytes 8 ((leNat old + 1) % 2 ^ 64))) && okH (writeLine v (v.ownerOf 0xFFF8) 0xFFF8 (leBytes 8 7)) && leNat old == 0
       | _ => false)) = true := by decide +kernel
/-- Nothing waits at the line; a core's request waits there, and the host's access has no place yet. -/
theorem test_hyp_host_turns : (hostSpan 0x100 8 == [2] && (driven [0]).lines == [] && rangeBacked (driven [0]) 0x100 8) = true ∧
    (let s := home (asked .write)
     (hostSpan 0x100 8).any (fun l => !hostTurn s l) && (hostSpan 0x100 8).any (fun l => !hostPlaced s l) && rangeBacked s 0x100 8) = true ∧
    (okH (rmwLine (driven [0]) ((driven [0]).ownerOf 0x100) 0x100 8 id) && !isPeer 0x100 && 0x100 % 8 == 0) = true := ⟨by decide +kernel, by decide +kernel, by decide +kernel⟩
theorem test_hyp_registers : (let s := { driven [] with teams := [], vds := [(1, { lmctl := 2, base := 0, count := 64 })] }
    stopAsked s 1 && !bit (s.vd 1).lmctl 2 && s.teams == [] && s.billets == [] && s.posted 0 && placers s 1 == [] && okH (writeTables s 1)) = true := by decide +kernel
/-- A migration key is agreed; a page without lines; an image of no bytes, which decodes to zeros; a full pool. -/
def keyed (pages : List Nat) (pool : Nat := 10000) : State := { driven pages with slovi := { migKey := some 1 }, pool := pool, lines := [] }
theorem test_hyp_images : (let s := keyed [0]
    s.slovi.migKey == some 1 && (s.page 0).isSome && inWindow s 0 0 && s.lines == [] && !pagePoisoned s 0 && !inTier s 0) = true ∧ pageRead (keyed [0]) 0 = (false, keyed [0]) ∧ pageWords (keyed [0]) 0 = some (List.replicate 256 (List.replicate 64 0)) ∧
    (let s := { keyed [0] with tier := [(0, 5)], errors := [(3, 0)] }
     (pageRead s 0).1 && s.lines == [] && (s.page 0).isSome) = true ∧
    ((match importPage (keyed [] 63) 0 0 0 with | .rejected => true | _ => false) && (match importPage (keyed [0]) 0 0 0 with | .waits w => w != keyed [0] | _ => false) && (mapGet? (keyed []).slovi.keys 5).isNone) = true :=
  ⟨by decide +kernel, page_reads_zero _ _ rfl rfl rfl, zero_words _ _ rfl rfl, by decide +kernel, by decide +kernel⟩
theorem test_hyp_import : (match importPage (keyed []) 0 0 0 with
    | .ready w fixed => (tierDecode (crypt Config.xtsDecrypt 1 ((0 - (w.vd 0).base) * 32) [])).any fun ws =>
      match (List.range 256).foldl (fun (acc : Importing) i => acc.bind fun s f => importBillet s 0 i f (ws.getD i [])) (.ready w fixed) with | .ready _ _ => true | _ => false
    | _ => false) = true := by decide +kernel
/-- An image that passes but for the digest, the chain and the signature, which no body in Lean decides; one without the magic word is refused. -/
def image (place : Nat) (magic : BitVec 32 := 0x5A563634) : Image := { kind := place, magic := magic, bodyLen := 0, version := 0, signerKey := List.replicate 2592 0, chain := [], signature := List.replicate 4627 0, headerRest := [], body := [] }
theorem test_hyp_boot (v : Slovi) (b : BootInput) (place : Nat) (hv : v.fuses = [0, 0, 0, 0]) (hp : place < 4) (h1 : sha3 b.rootKey = Config.romDigest)
    (h2 : Config.chainVerify b.rootKey (image place).signerKey [] = true) (h3 : Config.mldsaVerify (image place).signerKey (headerOther (image place) ++ []) (image place).signature = true) :
    imageOk v b place (image place) = true ∧ imageOk v b place (image place 0) = false := by
  have hf : v.fuses.getD place 0 = 0 := by rw [hv]; interval_cases place <;> rfl
  have h3' : Config.mldsaVerify (image place).signerKey (headerOther (image place) ++ (image place).body) (image place).signature = true := h3
  have h2' : Config.chainVerify b.rootKey (image place).signerKey (image place).chain = true := h2
  refine ⟨?_, ?_⟩ <;> unfold imageOk
  · rw [h1, h2', h3', hf, show (image place).signerKey.length = 2592 from List.length_replicate, show (image place).signature.length = 4627 from List.length_replicate]
    simp only [beq_self_eq_true, Bool.and_true, show ((image place).magic == 0x5A563634) = true from rfl, show ((image place).kind == place) = true from beq_self_eq_true _,
      show ((image place).bodyLen == (image place).body.length) = true from rfl, Nat.zero_le, decide_true]
  · rw [show ((image place 0).magic == 0x5A563634) = false from rfl]
    simp only [Bool.false_and]
/-- The image of a page of zeros, and a billet whose words need a class with a payload. -/
theorem test_hyp_codecs : (List.replicate 256 (List.replicate 64 (0 : Word))).length = 256 ∧ (∀ x ∈ List.replicate 256 (List.replicate 64 (0 : Word)), x.length = 64) ∧
    (let ws := (List.range 64).map fun i => BitVec.ofNat 32 (i * 0x9E3779B1); ws.length = 64 ∧ 2 ≤ (encodeClass ws).1) := by
  refine ⟨List.length_replicate, fun x hx => ?_, by decide +kernel⟩
  rw [List.eq_of_mem_replicate hx]; exact List.length_replicate
theorem test_hyp_ageing : decide (5 < State.reset.regs.age.length) = true := by decide

/-- R419, R420, R424, R436: what the registers read at reset; R413: QNOTIFY reads IDX, and the rest of a window zero. -/
theorem test_registers_read : registerRead State.reset 0 0x0200 = 0x020003E8 ∧ registerRead State.reset 0 0x0700 = 0x64000 ∧ registerRead State.reset 0 0x0708 = 0x640 ∧
    registerRead State.reset 1 0x0708 = 0 ∧ registerRead State.reset 0 0x0600 = 0 := by decide +kernel
theorem test_doorbell_read : (match exec (.qnotify 0 2 3 9) State.reset with
    | .next u => doorbellRead u 0 (2 * 65536 + 24) == 9 && doorbellRead u 0 (2 * 65536 + 16) == 0 && doorbellRead u 0 (2 * 65536 + 0x8000) == 0
    | _ => false) = true := by decide +kernel
/-- R200: `ifnot all` selects no lane. -/
theorem test_ifnot_all : let i := Instr.iadd { vf 0 7 4 5 with pm := 12, pn := 1 }
    ((envOf (box i)).map fun e => chosen e i) = some [] := by decide +kernel
/-- R385: byte 0x37 of a thread record is reserved and reads zero; flags at 0x36 hold H. -/
theorem test_thread_record_reserved : let t := team (.nop sf) 2
    let r := threadRecord t 0 { t.threads.getD 0 {} with st := .parked, handler := true, dbg := true, fetchTrap := true, origin := some 3 }
    (r.drop 0x36).take 2 = [8, 0] := by decide +kernel
/-- R148: what answers a revocation that is over changes nothing. -/
theorem test_late_revocation_ack : let s := peered 0 [(0, { pstate := 1, devs := [1], pend := [1], change := 5 })]
    (match exec (.revocationAck 1 (0, 4) [(3, List.replicate 128 1)]) s with | .next u => u == s | _ => false) = true := by decide +kernel
end Sys2Proof.Tests
end

section
/-! PROOFS. The registers the host reads and writes: one lemma per operation of the host port says what it does and what it leaves alone, and
O58 is put together from them. -/

namespace Sys2Proof.Machine

/-! ## Bits of a mask, words of a map -/

theorem bit_foldl_setBit {w : Nat} (l : List Nat) (b : BitVec w) (j : Nat) (hj : j < w) :
    bit (l.foldl (fun b i => setBit b i true) b) j = (decide (j ∈ l) || bit b j) := by
  induction l generalizing b with
  | nil => simp
  | cons i l ih =>
    rw [List.foldl_cons, ih, bit_setBit _ _ _ _ hj]
    by_cases h : j = i <;> simp [h]

/-- The bits of a mask are the positions it is made of. -/
theorem bit_maskOf {w : Nat} (l : List Nat) (j : Nat) (hj : j < w) : bit (maskOf (w := w) l) j = decide (j ∈ l) := by
  rw [maskOf, bit_foldl_setBit l 0 j hj]
  simp [bit]

/-- A word that is kept only where it is not zero reads back as it was written. -/
theorem getD_mapGet_setOrErase {w : Nat} (m : Map (BitVec w)) (i : Nat) (x : BitVec w) :
    (mapGet? (if x = 0 then mapErase m i else mapSet m i x) i).getD 0 = x := by
  split
  · next h => simp [mapGet_erase, h]
  · simp [mapGet_set]

/-- A read of a map whose values a function has changed. -/
theorem mapGet_map {α β : Type} (m : Map α) (f : α → β) (i : Nat) :
    mapGet? (m.map fun (k, x) => (k, f x)) i = (mapGet? m i).map f := by
  induction m with
  | nil => rfl
  | cons p rest ih =>
    obtain ⟨k, x⟩ := p
    simp only [List.map_cons, mapGet?, ih]
    split <;> rfl

/-! ## Power caps (R435, R436) -/

@[simp] theorem writeCap_mem (s : State) (f : Regs → Regs) : (writeCap s f).mem = s.mem := rfl
@[simp] theorem writeCap_teams (s : State) (f : Regs → Regs) : (writeCap s f).teams = s.teams := rfl
@[simp] theorem writeCap_pcapl (s : State) (f : Regs → Regs) : (writeCap s f).regs.pcapl = (f s.regs).pcapl := by
  simp only [writeCap, regs_updReg]
  split <;> rfl
@[simp] theorem writeCap_pcapr (s : State) (f : Regs → Regs) : (writeCap s f).regs.pcapr = (f s.regs).pcapr := by
  simp only [writeCap, regs_updReg]
  split <;> rfl

/-! ## The stop of a live migration (R427) -/

/-- What the beginning of a stop asks of a team: one of the virtual device that is not kept alive is to be descheduled by save. -/
def stopTeam (s : State) (v : Nat) (t : Team) : Team :=
  if ((s.ctx t.ctx).map Ctx.vd) == some v && !t.kept then { t with asked := true, mayKeep := false } else t

theorem lmBegin_teams (s : State) (v : Nat) : (lmBegin s v).teams = s.teams.map fun (k, t) => (k, stopTeam s v t) := rfl

theorem lmBegin_team {s : State} {v k : Nat} {t : Team} (ht : s.team k = some t) : (lmBegin s v).team k = some (stopTeam s v t) := by
  rw [State.team, lmBegin_teams, mapGet_map, show mapGet? s.teams k = some t from ht]
  rfl

theorem stopTeam_of_resident {s : State} {v : Nat} {t : Team} {c : Ctx} (hc : s.ctx t.ctx = some c) (hv : c.vd = v) (hk : t.kept = false) :
    stopTeam s v t = { t with asked := true, mayKeep := false } := by
  simp [stopTeam, hc, hv, hk]

@[simp] theorem lmBegin_mem (s : State) (v : Nat) : (lmBegin s v).mem = s.mem := rfl

/-- STOPPED is cleared and STOP set as a stop begins. -/
theorem lmBegin_lmctl (s : State) (v : Nat) : ((lmBegin s v).vd v).lmctl = setBit (setBit (s.vd v).lmctl 1 true) 2 false := by
  simp only [lmBegin, vd_updVd, if_pos]
  rfl

theorem lmEnd_lmctl (s : State) (v : Nat) : ((lmEnd s v).vd v).lmctl = setBit (setBit (s.vd v).lmctl 1 false) 2 false := by
  simp [lmEnd]

/-- Steps 3 to 5 of a stop, where nothing is left to be descheduled, placed, closed or posted: RUNNING is written and STOPPED is set. -/
theorem execLmStopComplete_done {s w : State} {v : Nat} (hstop : stopAsked s v = true) (hnot : bit (s.vd v).lmctl 2 = false)
    (hteams : ∀ k t, (k, t) ∈ s.teams → (s.ctx t.ctx).map Ctx.vd ≠ some v)
    (hclosed : ∀ b d, (b, d) ∈ s.billets → d.opened = true → inWindow s v (pageOfBillet b) = false)
    (hposted : ∀ x c, (x, c) ∈ s.ctxs → c.vd = v → s.posted x = true) (hplaced : ∀ y ∈ placers s v, placeable s y.1 y.2 = false)
    (hw : writeTables s v = .ok () w) : execLmStopComplete v s = .next (w.updVd v fun x => { x with lmctl := setBit x.lmctl 2 true }) := by
  have teams : (s.teams.any fun (_, t) => ((s.ctx t.ctx).map Ctx.vd) == some v) = false := by
    simpa [List.any_eq_false] using hteams
  have placed : ((placers s v).any fun (x, r) => placeable s x r) = false := by
    simpa [List.any_eq_false] using hplaced
  have shut : ∀ p ∈ s.billets, (p.2.opened && inWindow s v (pageOfBillet p.1)) = false := by
    intro p hp
    cases ho : p.2.opened with
    | false => rfl
    | true => exact hclosed p.1 p.2 hp ho
  have noneOpen : (s.billets.filter fun (b, d) => d.opened && inWindow s v (pageOfBillet b)) = [] := by
    simpa [List.filter_eq_nil_iff] using shut
  have stillShut : (s.billets.any fun (b, d) => d.opened && inWindow s v (pageOfBillet b)) = false := by
    simpa [List.any_eq_false] using shut
  have posted : (s.ctxs.all fun (x, c) => c.vd != v || s.posted x) = true := by
    refine List.all_eq_true.mpr fun p hp => ?_
    by_cases hv : p.2.vd = v
    · simp [hposted p.1 p.2 hp hv]
    · simp [hv]
  simp [execLmStopComplete, hstop, hnot, teams, placed, noneOpen, stillShut, posted, hw]

/-- The stop of a part that has nothing resident: it completes in the next step. -/
theorem execLmStopComplete_of_reset : execLmStopComplete 0 (lmBegin State.reset 0) =
    .next ((lmBegin State.reset 0).updVd 0 fun x => { x with lmctl := setBit x.lmctl 2 true }) :=
  execLmStopComplete_done (by decide) (by decide) (fun _ _ h => absurd h List.not_mem_nil) (fun _ _ h => absurd h List.not_mem_nil)
    (fun _ _ h => absurd h List.not_mem_nil) (fun _ h => absurd h List.not_mem_nil) rfl

/-! ## The dirty bitmap (R426) -/

/-- The word is read, and then names the pages of the window that may still be written. -/
theorem execDirtyWordRead_spec (s : State) (v p : Nat) : ∃ u, execDirtyWordRead v p s = .next u ∧
    u.hostRd = (mapGet? (s.vd v).dirty p).getD 0 ∧ u.mem = s.mem ∧ u.teams = s.teams ∧
    (mapGet? (u.vd v).dirty p).getD 0 =
      maskOf ((List.range 64).filter fun i => decide (64 * p + i < (s.vd v).count) && pageHot s ((s.vd v).base + 64 * p + i)) := by
  refine ⟨_, rfl, rfl, rfl, rfl, ?_⟩
  simp only [vd_updVd, if_pos]
  exact getD_mapGet_setOrErase _ _ _

end Sys2Proof.Machine

namespace Sys2Proof

open Machine

/-! ## Registers that clear as they are read (R5) -/

theorem happens_hrlostRead (s : State) : Happens .hrlostRead s fun u =>
    u.hostRd = s.regs.hrlost ∧ u.regs.hrlost = 0 ∧ u.mem = s.mem ∧ u.teams = s.teams :=
  ⟨_, exec_hrlostRead s, rfl, rfl, rfl, rfl⟩

theorem happens_bpstatRead (s : State) (p : Nat) : Happens (.bpstatRead p) s fun u =>
    u.hostRd = BitVec.ofNat 64 (bpstat (s.port p)) ∧ (u.port p).retry = 0 ∧ u.mem = s.mem ∧ u.teams = s.teams :=
  ⟨_, exec_bpstatRead s p, updPort_hostRd _ _ _, by simp, updPort_mem _ _ _, updPort_teams _ _ _⟩

theorem happens_dirtyWordRead (s : State) (v p : Nat) : Happens (.dirtyWordRead v p) s fun u =>
    u.hostRd = (mapGet? (s.vd v).dirty p).getD 0 ∧ u.mem = s.mem ∧ u.teams = s.teams ∧
    ∀ i, i < 64 → bit ((mapGet? (u.vd v).dirty p).getD 0) i =
      (decide (64 * p + i < (s.vd v).count) && pageHot s ((s.vd v).base + 64 * p + i)) := by
  obtain ⟨u, hu, hread, hmem, hteams, hword⟩ := execDirtyWordRead_spec s v p
  refine ⟨u, hu, hread, hmem, hteams, fun i hi => ?_⟩
  rw [hword, bit_maskOf _ _ hi]
  simp [hi]

/-! ## Registers that store what is written (R414, R419, R435) -/

theorem happens_pcaplWrite (s : State) (y : BitVec 32) : Happens (.pcaplWrite y) s fun u =>
    u.regs.pcapl = y &&& 0x80000FFF ∧ u.mem = s.mem ∧ u.teams = s.teams :=
  ⟨_, exec_pcaplWrite s y, writeCap_pcapl s _, rfl, rfl⟩

theorem happens_pcaprWrite (s : State) (y : BitVec 32) : Happens (.pcaprWrite y) s fun u =>
    u.regs.pcapr = y &&& 0x80000FFF ∧ u.mem = s.mem ∧ u.teams = s.teams :=
  ⟨_, exec_pcaprWrite s y, writeCap_pcapr s _, rfl, rfl⟩

theorem happens_ctxarg0Write (s : State) (v : Nat) (x : BitVec 64) : Happens (.registerWrite v 0x08 x) s fun u =>
    (u.vd v).ctxarg0 = x ∧ u.mem = s.mem ∧ u.teams = s.teams :=
  ⟨s.updVd v fun d => { d with ctxarg0 := x }, rfl, by simp, rfl, rfl⟩

theorem happens_ctxarg1Write (s : State) (v : Nat) (x : BitVec 64) : Happens (.registerWrite v 0x10 x) s fun u =>
    (u.vd v).ctxarg1 = x ∧ u.mem = s.mem ∧ u.teams = s.teams :=
  ⟨s.updVd v fun d => { d with ctxarg1 := x }, rfl, by simp, rfl, rfl⟩

theorem happens_chctlWrite (s : State) (x : BitVec 64) : Happens (.registerWrite 0 0x200 x) s fun u =>
    u.regs.chctl = x.truncate 32 &&& 0x8700FFFF ∧ u.mem = s.mem ∧ u.teams = s.teams :=
  ⟨s.updReg fun g => { g with chctl := x.truncate 32 &&& 0x8700FFFF }, rfl, rfl, rfl, rfl⟩

/-- CHCTL is the physical function's: a write by another function is ignored. -/
theorem exec_chctlWrite_other (s : State) {v : Nat} (x : BitVec 64) (hv : v ≠ 0) : exec (.registerWrite v 0x200 x) s = .next s :=
  if_pos hv

/-! ## LMCTL (R427) -/

theorem happens_lmTrack (s : State) (v : Nat) (on : Bool) : Happens (.lmTrack v on) s fun u =>
    bit (u.vd v).lmctl 0 = on ∧ u.mem = s.mem ∧ u.teams = s.teams :=
  ⟨_, exec_lmTrack s v on, by simp [bit_setBit], rfl, rfl⟩

theorem happens_lmStop (s : State) (v : Nat) : Happens (.lmStop v) s fun u =>
    bit (u.vd v).lmctl 1 = true ∧ bit (u.vd v).lmctl 2 = false ∧ u.mem = s.mem ∧
    ∀ k t c, s.team k = some t → s.ctx t.ctx = some c → c.vd = v → t.kept = false →
      ∃ tm, u.team k = some tm ∧ tm.asked = true ∧ tm.mayKeep = false :=
  ⟨_, exec_lmStop s v, by simp [lmBegin_lmctl, bit_setBit], by simp [lmBegin_lmctl, bit_setBit], lmBegin_mem s v,
    fun _ _ _ ht hc hv hk => ⟨_, (lmBegin_team ht).trans (congrArg some (stopTeam_of_resident hc hv hk)), rfl, rfl⟩⟩

theorem happens_lmStopRelease (s : State) (v : Nat) : Happens (.lmStopRelease v) s fun u =>
    bit (u.vd v).lmctl 1 = false ∧ bit (u.vd v).lmctl 2 = false ∧ u.mem = s.mem ∧ u.teams = s.teams :=
  ⟨_, exec_lmStopRelease s v, by simp [lmEnd_lmctl, bit_setBit], by simp [lmEnd_lmctl, bit_setBit], rfl, rfl⟩

/-- Settles O58, one lemma for each register. -/
theorem hostRegisters : Obligations.HostRegisters := fun s v p x y =>
  ⟨happens_hrlostRead s, happens_bpstatRead s p, happens_pcaplWrite s y, happens_pcaprWrite s y, happens_ctxarg0Write s v x,
    happens_ctxarg1Write s v x, happens_chctlWrite s x, exec_chctlWrite_other s x, happens_lmTrack s v, happens_lmStop s v,
    fun hstop hnot hteams hclosed hposted hplaced _ hw =>
      ⟨_, (exec_lmStopComplete s v).trans (execLmStopComplete_done hstop hnot hteams hclosed hposted hplaced hw),
        by simp [bit_setBit], updVd_mem _ _ _, updVd_teams _ _ _⟩,
    happens_lmStopRelease s v, happens_dirtyWordRead s v p⟩

end Sys2Proof
end

section
/-! PROOFS. The layer on issuing: which operations change nothing but teams, which leave the registers as they were, and what a thread that
takes a fault looks like once its bundle has moved on (R389, R398). -/

namespace Sys2Proof

open Machine

/-! ## Nothing but teams -/

theorem OnlyTeams.refl (s : State) : OnlyTeams s s := rfl

theorem OnlyTeams.trans {a b c : State} (h : OnlyTeams a b) (k : OnlyTeams b c) : OnlyTeams a c := by
  unfold OnlyTeams at *
  rw [k, h]

theorem OnlyTeams.mem {s t : State} (h : OnlyTeams s t) : t.mem = s.mem := by rw [h]
theorem OnlyTeams.cores {s t : State} (h : OnlyTeams s t) : t.cores = s.cores := by rw [h]
theorem OnlyTeams.ctxs {s t : State} (h : OnlyTeams s t) : t.ctxs = s.ctxs := by rw [h]
theorem OnlyTeams.pages {s t : State} (h : OnlyTeams s t) : t.pages = s.pages := by rw [h]

theorem OnlyTeams.core {s t : State} (h : OnlyTeams s t) (c : Nat) : t.core c = s.core c := by rw [h]; rfl
theorem OnlyTeams.ctx {s t : State} (h : OnlyTeams s t) (x : Nat) : t.ctx x = s.ctx x := by rw [h]; rfl
theorem OnlyTeams.page {s t : State} (h : OnlyTeams s t) (p : Nat) : t.page p = s.page p := by rw [h]; rfl

theorem onlyTeams_updThread (s : State) (k i : Nat) (f : Thread → Thread) : OnlyTeams s (s.updThread k i f) := onlyTeams_updTeam (.refl s) k _
theorem onlyTeams_updGroup (s : State) (k g : Nat) (f : Group → Group) : OnlyTeams s (s.updGroup k g f) := onlyTeams_updTeam (.refl s) k _

theorem onlyTeams_foldl {α : Type} (l : List α) (f : State → α → State) (hf : ∀ s x, OnlyTeams s (f s x)) (s : State) :
    OnlyTeams s (l.foldl f s) := by
  induction l generalizing s with
  | nil => rfl
  | cons x xs ih => exact (hf s x).trans (ih _)

theorem onlyTeams_killTeam (s : State) (k : Nat) (f : FaultInfo) (by' : Option Nat) : OnlyTeams s (killTeam s k f by') :=
  onlyTeams_updTeam (.refl s) k _

theorem onlyTeams_leaveBundle (s : State) (k g : Nat) (m : LaneMask) : OnlyTeams s (leaveBundle s k g m) := onlyTeams_updGroup s k g _

theorem onlyTeams_parkThread (s : State) (k tid : Nat) (f : FaultInfo) : OnlyTeams s (parkThread s k tid f) := by
  unfold parkThread
  split
  · rfl
  · dsimp only
    split
    · exact (onlyTeams_leaveBundle ..).trans ((onlyTeams_updThread ..).trans (onlyTeams_killTeam ..))
    · split
      · exact (onlyTeams_leaveBundle ..).trans ((onlyTeams_updThread ..).trans (onlyTeams_killTeam ..))
      · exact (onlyTeams_leaveBundle ..).trans (onlyTeams_updThread ..)

theorem onlyTeams_parkAll (s : State) (e : Env) (ls : List (Nat × Nat)) (f : FaultInfo) : OnlyTeams s (parkAll s e ls f) :=
  onlyTeams_foldl ls _ (fun s p => onlyTeams_parkThread s e.tk p.2 f) s

theorem onlyTeams_endClause (s : State) (e : Env) : OnlyTeams s (Machine.endClause s e) := by
  unfold Machine.endClause
  split
  · rfl
  · split
    · rfl
    · exact (onlyTeams_foldl _ _ (fun s _ => onlyTeams_updThread s e.tk _ _) s).trans (onlyTeams_updGroup ..)

theorem onlyTeams_advance (s : State) (e : Env) : OnlyTeams s (Machine.advance s e) := by
  have h : OnlyTeams s (Machine.endReplay s e.tk e.g) := onlyTeams_updTeam (.refl s) e.tk _
  simp only [Machine.advance]
  split
  · exact h
  · split
    · exact h
    · split
      · exact h.trans (onlyTeams_updGroup ..)
      · exact h.trans ((onlyTeams_updGroup ..).trans (onlyTeams_endClause ..))

/-! ## Registers as before -/

theorem RegsSame.refl (s : State) : RegsSame s s := ⟨fun _ _ => rfl, fun _ _ => rfl⟩

theorem RegsSame.trans {a b c : State} (h : RegsSame a b) (k : RegsSame b c) : RegsSame a c :=
  ⟨fun x y => (k.1 x y).trans (h.1 x y), fun x y => (k.2 x y).trans (h.2 x y)⟩

theorem regsSame_of_teams {s t : State} (h : t.teams = s.teams) : RegsSame s t := by
  have ht : ∀ k, t.team k = s.team k := fun k => by simp only [State.team, h]
  exact ⟨fun k tid => by simp only [State.thread, ht], fun k g => by simp only [State.group, ht]⟩

theorem regsSame_updThread (s : State) (k i : Nat) (f : Thread → Thread) (hf : ∀ th, (f th).v = th.v) : RegsSame s (s.updThread k i f) := by
  refine ⟨fun j x => ?_, fun j g => by rw [group_updThread]⟩
  rw [thread_updThread]
  split
  · next h => obtain ⟨rfl, rfl⟩ := h; cases s.thread j x <;> simp [hf]
  · rfl

theorem regsSame_updGroup (s : State) (k g : Nat) (f : Group → Group) (hf : ∀ gr, (f gr).g = gr.g ∧ (f gr).m = gr.m) :
    RegsSame s (s.updGroup k g f) := by
  refine ⟨fun j x => by rw [thread_updGroup], fun j x => ?_⟩
  rw [group_updGroup]
  split
  · next h => obtain ⟨rfl, rfl⟩ := h; cases s.group j x <;> simp [hf]
  · rfl

/-- An update of a team that keeps its threads and groups. -/
theorem thread_updTeam (s : State) (k : Nat) (f : Team → Team) (hf : ∀ t, (f t).threads = t.threads) (j i : Nat) :
    (s.updTeam k f).thread j i = s.thread j i := by
  simp only [State.thread, team_updTeam]
  split
  · next h => subst h; cases s.team j <;> simp [hf]
  · rfl
theorem group_updTeam (s : State) (k : Nat) (f : Team → Team) (hf : ∀ t, (f t).groups = t.groups) (j i : Nat) :
    (s.updTeam k f).group j i = s.group j i := by
  simp only [State.group, team_updTeam]
  split
  · next h => subst h; cases s.team j <;> simp [hf]
  · rfl
theorem regsSame_updTeam (s : State) (k : Nat) (f : Team → Team) (ht : ∀ t, (f t).threads = t.threads) (hg : ∀ t, (f t).groups = t.groups) :
    RegsSame s (s.updTeam k f) :=
  ⟨fun j i => by rw [thread_updTeam s k f ht], fun j i => by rw [group_updTeam s k f hg]⟩

theorem regsSame_foldl {α : Type} (l : List α) (f : State → α → State) (hf : ∀ s x, RegsSame s (f s x)) (s : State) :
    RegsSame s (l.foldl f s) := by
  induction l generalizing s with
  | nil => exact .refl s
  | cons x xs ih => exact (hf s x).trans (ih _)

theorem regsSame_advance (s : State) (e : Env) : RegsSame s (Machine.advance s e) := ⟨advance_regs s e, advance_group s e⟩

theorem killTeam_thread (s : State) (k : Nat) (f : FaultInfo) (q : Option Nat) (j i : Nat) : (killTeam s k f q).thread j i = s.thread j i :=
  thread_updTeam s k _ (fun t => by split <;> rfl) j i
theorem killTeam_group (s : State) (k : Nat) (f : FaultInfo) (q : Option Nat) (j i : Nat) : (killTeam s k f q).group j i = s.group j i :=
  group_updTeam s k _ (fun t => by split <;> rfl) j i

theorem regsSame_killTeam (s : State) (k : Nat) (f : FaultInfo) (q : Option Nat) : RegsSame s (killTeam s k f q) :=
  ⟨fun j i => by rw [killTeam_thread], fun j i => by rw [killTeam_group]⟩

theorem regsSame_leaveBundle (s : State) (k g : Nat) (m : LaneMask) : RegsSame s (leaveBundle s k g m) :=
  regsSame_updGroup s k g _ fun gr => by split <;> exact ⟨rfl, rfl⟩

theorem RegsSame.updThread {s t : State} (h : RegsSame s t) {k i : Nat} {f : Thread → Thread} (hf : ∀ th, (f th).v = th.v) :
    RegsSame s (t.updThread k i f) := h.trans (regsSame_updThread t k i f hf)
theorem RegsSame.killTeam {s t : State} (h : RegsSame s t) {k : Nat} {f : FaultInfo} {q : Option Nat} : RegsSame s (Machine.killTeam t k f q) :=
  h.trans (regsSame_killTeam t k f q)

theorem regsSame_killHandler (s : State) (k tid : Nat) (f : FaultInfo) : RegsSame s (killHandler s k tid f) := by
  unfold killHandler
  exact ((RegsSame.refl s).updThread (by intro; rfl)).killTeam

theorem regsSame_parkThread (s : State) (k tid : Nat) (f : FaultInfo) : RegsSame s (parkThread s k tid f) := by
  unfold parkThread
  split
  · exact .refl s
  · dsimp only
    split
    · exact (regsSame_leaveBundle ..).trans (regsSame_killHandler ..)
    · split
      · exact ((regsSame_leaveBundle ..).updThread (by intro; rfl)).killTeam
      · exact (regsSame_leaveBundle ..).updThread (by intro; rfl)

theorem regsSame_parkAll (s : State) (e : Env) (ls : List (Nat × Nat)) (f : FaultInfo) : RegsSame s (parkAll s e ls f) :=
  regsSame_foldl ls _ (fun s p => regsSame_parkThread s e.tk p.2 f) s

/-! ## A thread that takes a fault (R389, R395) -/

/-- A thread as it stands once it has taken a fault: parked, the fault pending, its resume point the fault's. -/
def ParkedFor (f : FaultInfo) (th : Thread) : Prop :=
  th.st = .parked ∧ (∃ g, th.fault = some g ∧ g.cause = f.cause ∧ g.word = f.word ∧ g.clause = f.clause ∧ g.index = f.index) ∧
  th.rp.clause = f.clause ∧ th.rp.index = f.index

/-- The bundle of a group without some lanes. -/
def withoutLanes (m : LaneMask) (gr : Group) : Group :=
  match gr.bundle with
  | none => gr
  | some b => { gr with bundle := if b.lanes &&& ~~~m = 0 then none else some { b with lanes := b.lanes &&& ~~~m } }

theorem leaveBundle_eq (s : State) (k g : Nat) (m : LaneMask) : leaveBundle s k g m = s.updGroup k g (withoutLanes m) := rfl

/-- What parking a thread outside a handler does to the threads: the thread itself stands parked in its place, the others are as before. -/
theorem parkThread_thread {s : State} {k tid : Nat} {th : Thread} (f : FaultInfo) (ht : s.thread k tid = some th) (hh : th.handler = false) :
    (∃ th', (parkThread s k tid f).thread k tid = some th' ∧ ParkedFor f th' ∧ th'.grp = th.grp ∧ th'.lane = th.lane ∧ th'.handler = false) ∧
    ∀ i, i ≠ tid → (parkThread s k tid f).thread k i = s.thread k i := by
  obtain ⟨tm, hk, hth⟩ := Option.bind_eq_some_iff.mp ht
  have hg : tm.threads[tid]?.getD {} = th := by simp [hth]
  simp only [parkThread, hk, hg, hh, Bool.false_eq_true, if_false]
  set g := faultNow s tm tid f
  split <;> simp only [killTeam_thread, leaveBundle_eq, thread_updThread, thread_updGroup, ht, and_self, if_true, Option.map_some, true_and]
  all_goals
    exact ⟨⟨_, rfl, ⟨rfl, ⟨g, rfl, rfl, rfl, rfl, rfl⟩, rfl, rfl⟩, rfl, rfl, hh⟩, fun i hi => if_neg hi⟩

/-- Parking a thread takes its lane out of its group's bundle, and touches no other group. -/
theorem parkThread_group {s : State} {k tid : Nat} {th : Thread} (f : FaultInfo) (ht : s.thread k tid = some th) (hh : th.handler = false) (g : Nat) :
    (parkThread s k tid f).group k g = if g = th.grp then (s.group k g).map (withoutLanes (maskOf [th.lane])) else s.group k g := by
  obtain ⟨tm, hk, hth⟩ := Option.bind_eq_some_iff.mp ht
  have hg : tm.threads[tid]?.getD {} = th := by simp [hth]
  simp only [parkThread, hk, hg, hh, Bool.false_eq_true, if_false]
  split <;> simp only [killTeam_group, leaveBundle_eq, group_updThread, group_updGroup, true_and] <;> split <;> simp_all

theorem mem_bitsOf {w : Nat} {m : BitVec w} {l : Nat} (h : l ∈ bitsOf m) : bit m l = true := (List.mem_filter.mp h).2

/-- A lane that has left a bundle is not in it. -/
theorem withoutLanes_bundle {gr : Group} {m : LaneMask} {b : Bundle} (h : (withoutLanes m gr).bundle = some b) :
    ∃ b0, gr.bundle = some b0 ∧ b.lanes = b0.lanes &&& ~~~m := by
  unfold withoutLanes at h
  split at h
  · next h0 => rw [h0] at h; cases h
  · next b0 h0 =>
    dsimp only at h
    split at h
    · cases h
    · cases h; exact ⟨b0, h0, rfl⟩

theorem bit_without (x : LaneMask) (l : Nat) : bit (x &&& ~~~maskOf [l]) l = false := by
  by_cases hl : l < 32
  · have hm : bit (maskOf (w := 32) [l]) l = true := by rw [bit_maskOf [l] l hl]; simp
    simp only [bit] at hm ⊢
    simp [hm]
  · exact BitVec.getLsbD_of_ge _ _ (by omega)

theorem bit_and_false {w : Nat} {x : BitVec w} {l : Nat} (h : bit x l = false) (y : BitVec w) : bit (x &&& y) l = false := by
  simp only [bit] at h ⊢; simp [h]

/-- The threads of some lanes stand in those lanes of a group, outside any handler. -/
def StandIn (s : State) (tk g : Nat) (ls : List (Nat × Nat)) : Prop :=
  ∀ p ∈ ls, ∃ th, s.thread tk p.2 = some th ∧ th.handler = false ∧ th.grp = g ∧ th.lane = p.1

/-- None of some lanes is in the running bundle of a group. -/
def LanesOut (s : State) (tk g : Nat) (ls : List (Nat × Nat)) : Prop :=
  ∀ gr b, s.group tk g = some gr → gr.bundle = some b → ∀ p ∈ ls, bit b.lanes p.1 = false

/-- Parking a thread that stands in a lane of the group takes the lane out, and brings none back. -/
theorem lanesOut_parkThread {s : State} {tk g : Nat} {done : List (Nat × Nat)} {p : Nat × Nat} (f : FaultInfo) (hs : StandIn s tk g [p])
    (ho : LanesOut s tk g done) : LanesOut (parkThread s tk p.2 f) tk g (p :: done) := by
  obtain ⟨th, ht, hh, rfl, hl⟩ := hs p List.mem_cons_self
  intro gr b hg hb q hq
  rw [parkThread_group f ht hh, if_pos rfl, Option.map_eq_some_iff] at hg
  obtain ⟨gr0, hg0, rfl⟩ := hg
  obtain ⟨b0, hb0, hbl⟩ := withoutLanes_bundle hb
  rw [hbl, hl]
  rcases List.mem_cons.mp hq with rfl | hq
  · exact bit_without _ _
  · exact bit_and_false (ho gr0 b0 hg0 hb0 q hq) _

/-- Some threads of a bundle, each in its lane and outside any handler, take the same fault: they stand parked for it, out of the bundle. -/
theorem parkAll_spec (e : Env) (f : FaultInfo) (ls : List (Nat × Nat)) (hn : (ls.map Prod.snd).Nodup) (s : State) (hs : StandIn s e.tk e.g ls)
    (done : List (Nat × Nat)) (ho : LanesOut s e.tk e.g done) :
    (∀ p ∈ ls, ∃ th, (parkAll s e ls f).thread e.tk p.2 = some th ∧ ParkedFor f th ∧ th.grp = e.g ∧ th.lane = p.1) ∧
    (∀ i, i ∉ ls.map Prod.snd → (parkAll s e ls f).thread e.tk i = s.thread e.tk i) ∧
    LanesOut (parkAll s e ls f) e.tk e.g (done ++ ls) := by
  induction ls generalizing s done with
  | nil => exact ⟨fun p hp => absurd hp List.not_mem_nil, fun _ _ => rfl, by simpa [parkAll] using ho⟩
  | cons p ps ih =>
    simp only [List.map_cons, List.nodup_cons] at hn
    obtain ⟨hp, hn⟩ := hn
    obtain ⟨th, ht, hh, hg, hl⟩ := hs p List.mem_cons_self
    obtain ⟨⟨th', ht', hpk, hg', hl', -⟩, hother⟩ := parkThread_thread f ht hh
    have hs' : StandIn (parkThread s e.tk p.2 f) e.tk e.g ps := fun q hq => by
      rw [hother q.2 fun h => hp (h ▸ List.mem_map_of_mem hq)]
      exact hs q (List.mem_cons_of_mem _ hq)
    have ho' := lanesOut_parkThread f (fun q hq => by rw [List.mem_singleton.mp hq]; exact ⟨th, ht, hh, hg, hl⟩) ho
    obtain ⟨h1, h2, h3⟩ := ih hn _ hs' _ ho'
    refine ⟨fun q hq => ?_, fun i hi => ?_, fun gr b hgr hb q hq => h3 gr b hgr hb q ?_⟩
    · rcases List.mem_cons.mp hq with rfl | hq
      · exact ⟨th', (h2 _ hp).trans ht', hpk, hg'.trans hg, hl'.trans hl⟩
      · exact h1 q hq
    · simp only [List.map_cons, List.mem_cons, not_or] at hi
      exact (h2 i hi.2).trans (hother i hi.1)
    · simp only [List.mem_append, List.mem_cons] at hq ⊢
      tauto

theorem foldThreads_other {α : Type} (ls : List α) (tid : α → Nat) (F : α → Thread → Thread) (k i : Nat) (hi : ∀ x ∈ ls, tid x ≠ i) :
    ∀ t : State, (ls.foldl (fun s x => s.updThread k (tid x) (F x)) t).thread k i = t.thread k i := by
  induction ls with
  | nil => exact fun _ => rfl
  | cons x xs ih =>
    intro t
    rw [List.foldl_cons, ih (fun y hy => hi y (List.mem_cons_of_mem _ hy)), thread_updThread, if_neg]
    exact fun h => hi x List.mem_cons_self h.2.symm

/-- The end of the clause leaves alone a thread whose lane is not in the bundle. -/
theorem endClause_thread_out {t : State} {e : Env} {tid : Nat} {th : Thread} (ht : t.thread e.tk tid = some th)
    (ho : LanesOut t e.tk e.g [(th.lane, tid)]) : (Machine.endClause t e).thread e.tk tid = some th := by
  unfold Machine.endClause
  split
  · exact ht
  · next gr hgr =>
    split
    · exact ht
    · next b hb =>
      rw [thread_updGroup]
      refine (foldThreads_other _ Prod.snd _ _ _ ?_ t).trans ht
      rintro ⟨l, i⟩ hm rfl
      obtain ⟨tm, hk, hth⟩ := Option.bind_eq_some_iff.mp ht
      rw [hk] at hm
      obtain ⟨hx, hbit⟩ := mem_lanesOf hm
      obtain ⟨th', h1, -, h2⟩ := tidAt_spec hx
      obtain rfl : th = th' := Option.some.inj (hth.symm.trans h1)
      have := ho gr b hgr hb _ List.mem_cons_self
      rw [h2, mem_bitsOf hbit] at this
      cases this

/-- The moving on of a bundle leaves alone a thread whose lane is not in it, but for a replay that ends. -/
theorem advance_thread_out {t : State} {e : Env} {tid : Nat} {th : Thread} (ht : t.thread e.tk tid = some th)
    (ho : LanesOut t e.tk e.g [(th.lane, tid)]) :
    ∃ th', (Machine.advance t e).thread e.tk tid = some th' ∧ (th' = th ∨ th' = { th with replay := none }) := by
  obtain ⟨f, hf, hx⟩ := thread_endReplay t e.tk e.g e.tk tid
  rw [ht, Option.map_some] at hx
  refine ⟨f th, ?_, hf th⟩
  have hlane : (f th).lane = th.lane := by rcases hf th with h | h <;> rw [h]
  have ho' : LanesOut (Machine.endReplay t e.tk e.g) e.tk e.g [((f th).lane, tid)] := by
    intro gr b hgr hb
    rw [group_endReplay] at hgr
    rw [hlane]
    exact ho gr b hgr hb
  simp only [Machine.advance]
  split
  · exact hx
  · next gr hgr =>
    split
    · exact hx
    · next b hb =>
      split
      · rw [thread_updGroup]; exact hx
      · refine endClause_thread_out (by rw [thread_updGroup]; exact hx) fun gr' b' hgr' hb' => ?_
        rw [group_updGroup, if_pos ⟨rfl, rfl⟩, hgr, Option.map_some] at hgr'
        obtain rfl := Option.some.inj hgr'
        obtain rfl := Option.some.inj hb'
        exact ho' gr b hgr hb

/-! ## The threads of a bundle take a fault -/

theorem thread_of_lane {s : State} {e : Env} (h : envOf s = some e) {p : Nat × Nat} (hp : p ∈ e.lanes) :
    s.thread e.tk p.2 = some (e.thread p.2) ∧ (e.thread p.2).grp = e.g ∧ (e.thread p.2).lane = p.1 := by
  obtain ⟨th, h1, h2, h3⟩ := tidAt_spec (mem_lanesOf hp).1
  have he : e.thread p.2 = th := by simp [Env.thread, h1]
  exact ⟨by simp [State.thread, (envOf_spec h).1, h1, he], he ▸ h2, he ▸ h3⟩

theorem lanes_tids_nodup {e : Env} {ls : List (Nat × Nat)} (hs : ls.Sublist e.lanes) : (ls.map Prod.snd).Nodup := by
  refine List.Nodup.map_on ?_ ((lanes_nodup e).sublist hs)
  rintro ⟨l, i⟩ h ⟨l', i'⟩ h' rfl
  rw [lane_unique (hs.subset h) (hs.subset h')]

theorem sel_sublist (e : Env) (pm : BitVec 4) (pn : BitVec 1) : (e.sel pm pn).Sublist e.lanes := List.filter_sublist

/-- A state in which the bundle's threads stand as when it issued: the issue has changed no thread of the team. -/
theorem standIn_of_env {s t : State} {e : Env} (h : envOf s = some e) (ht : ∀ i, t.thread e.tk i = s.thread e.tk i) {ls : List (Nat × Nat)}
    (hs : ls.Sublist e.lanes) (hout : Outside e ls) : StandIn t e.tk e.g ls := fun p hp => by
  obtain ⟨h1, h2, h3⟩ := thread_of_lane h (hs.subset hp)
  exact ⟨_, (ht _).trans h1, hout p hp, h2, h3⟩

theorem parks_of_parkedFor {t : State} {e : Env} {ls : List (Nat × Nat)} {f : FaultInfo} (hw : f.word = e.word) (hc : f.clause = e.b.clause)
    (hi : f.index = e.b.index) (h : ∀ p ∈ ls, ∃ th, t.thread e.tk p.2 = some th ∧ ParkedFor f th) : Parks t e ls f.cause := by
  intro l tid hp
  obtain ⟨th, ht, hst, ⟨g, hg, g1, g2, g3, g4⟩, hr1, hr2⟩ := h (l, tid) hp
  exact ⟨th, g, ht, hst, hg, g1, g2.trans hw, g3.trans hc, g4.trans hi, hr1.trans hc, hr2.trans hi⟩

section
variable {s t : State} {e : Env} {ls : List (Nat × Nat)} {f : FaultInfo}

/-- Threads of the bundle take a fault of its instruction, and stay where they are (R389). -/
theorem parks_parkAll (h : envOf s = some e) (ht : ∀ i, t.thread e.tk i = s.thread e.tk i) (hs : ls.Sublist e.lanes) (hout : Outside e ls)
    (hw : f.word = e.word) (hc : f.clause = e.b.clause) (hi : f.index = e.b.index) : Parks (parkAll t e ls f) e ls f.cause := by
  obtain ⟨hp, -, -⟩ := parkAll_spec e f ls (lanes_tids_nodup hs) t (standIn_of_env h ht hs hout) [] fun _ _ _ _ _ hq => absurd hq List.not_mem_nil
  refine parks_of_parkedFor hw hc hi fun p hm => ?_
  obtain ⟨th, h1, h2, -⟩ := hp p hm
  exact ⟨th, h1, h2⟩

/-- They stand so too once the bundle's other threads have gone on (R398). -/
theorem parks_faultSel (h : envOf s = some e) (ht : ∀ i, t.thread e.tk i = s.thread e.tk i) (hs : ls.Sublist e.lanes) (hout : Outside e ls)
    (hw : f.word = e.word) (hc : f.clause = e.b.clause) (hi : f.index = e.b.index) : Parks (faultSel t e ls f) e ls f.cause := by
  obtain ⟨hp, -, ho⟩ := parkAll_spec e f ls (lanes_tids_nodup hs) t (standIn_of_env h ht hs hout) [] fun _ _ _ _ _ hq => absurd hq List.not_mem_nil
  refine parks_of_parkedFor hw hc hi fun p hm => ?_
  obtain ⟨th, h1, h2, -, h4⟩ := hp p hm
  obtain ⟨th', h5, h6⟩ := advance_thread_out h1 fun gr b hgr hb q hq => by
    rw [List.mem_singleton.mp hq, h4]
    exact ho gr b hgr hb p (by simpa using hm)
  refine ⟨th', h5, ?_⟩
  rcases h6 with rfl | rfl
  · exact h2
  · exact h2

end

theorem onlyTeams_faultSel (t : State) (e : Env) (ls : List (Nat × Nat)) (f : FaultInfo) : OnlyTeams t (faultSel t e ls f) :=
  (onlyTeams_parkAll t e ls f).trans (onlyTeams_advance _ e)

theorem regsSame_faultSel (t : State) (e : Env) (ls : List (Nat × Nat)) (f : FaultInfo) : RegsSame t (faultSel t e ls f) :=
  (regsSame_parkAll t e ls f).trans (regsSame_advance _ e)

end Sys2Proof
end

section
/-! PROOFS. Walks and the window that PRIVBASE opens: what a walk does with each kind of entry it has read (R16, R18), and the relocation of R11; O29 is
put together from them. -/

namespace Sys2Proof

open Machine

/-! ## Walks (R16, R18, R38) -/

theorem setWalker_walkers (s : State) (c n : Nat) (w : Walker) : mapGet? ((setWalker s c n w).core c).walkers n = some w := by
  simp [setWalker, mapGet_set]

theorem keepEntry_mem (s : State) (c : Nat) (w w' : Walker) (pte : DWord) : (keepEntry s c w w' pte).mem = s.mem := by
  unfold keepEntry
  split
  · rfl
  · rfl
  · split <;> rfl

theorem keepEntry_teams (s : State) (c : Nat) (w w' : Walker) (pte : DWord) : (keepEntry s c w w' pte).teams = s.teams := by
  unfold keepEntry
  split
  · rfl
  · rfl
  · split <;> rfl

/-- A walk that has read an entry takes it. -/
theorem execWalk_got {s : State} {c n : Nat} {w : Walker} (hw : mapGet? (s.core c).walkers n = some w) (he : w.ended = none)
    (hc : w.cas = none) {pte : DWord} (hg : w.got = some pte) :
    exec (.walk c n) s = .next (setWalker (keepEntry s c w (walkTake w pte w.poisoned) pte) c n (walkTake w pte w.poisoned)) := by
  simp [execWalk, hw, he, hc, hg]

/-- A walk whose next entry lies in a page that is not backed ends with UNBACKED (R38). -/
theorem execWalk_unbacked {s : State} {c n : Nat} {w : Walker} (hw : mapGet? (s.core c).walkers n = some w) (he : w.ended = none)
    (hc : w.cas = none) (hg : w.got = none) (ht : tlbPointer (s.core c) w = none) (hp : s.page (pageOf w.entry) = none) :
    exec (.walk c n) s = .next (setWalker s c n { w with ended := some (.fault .unbacked w.lvl (w.entry / 256 * 256)) }) := by
  simp [execWalk, hw, he, hc, hg, ht, hp]

/-- What every walk that takes an entry leaves: the entry's line is recorded and nothing is held. -/
theorem walkTake_lines_got (w : Walker) (pte : DWord) (p : Bool) :
    (walkTake w pte p).lines = w.lines ++ [lineOf w.entry] ∧ (walkTake w pte p).got = none := by
  unfold walkTake
  dsimp only
  split_ifs <;> exact ⟨rfl, rfl⟩

section
variable (w : Walker) (pte : DWord)

theorem walkTake_notMapped (hv : pteV pte = false) : (walkTake w pte false).ended = some (.fault .notmapped w.lvl w.entry) := by
  simp [walkTake, hv]

theorem walkTake_format (hv : pteV pte = true) (hf : formatBad pte w.lvl = true) :
    (walkTake w pte false).ended = some (.fault .format w.lvl w.entry) := by
  simp [walkTake, hv, hf]

theorem walkTake_permission (hv : pteV pte = true) (hf : formatBad pte w.lvl = false) (hl : pteLeaf pte = true)
    (hp : permitted pte w.kind w.sys = false) : (walkTake w pte false).ended = some (.fault .permission w.lvl w.entry) := by
  simp [walkTake, hv, hf, hl, hp]

theorem walkTake_update (he : w.ended = none) (hv : pteV pte = true) (hf : formatBad pte w.lvl = false) (hl : pteLeaf pte = true)
    (hp : permitted pte w.kind w.sys = true) (hu : needsUpdate pte w.kind = true) :
    (walkTake w pte false).ended = none ∧ (walkTake w pte false).cas = some (w.entry, pte) := by
  simp [walkTake, hv, hf, hl, hp, hu, he]

theorem walkTake_leaf (hv : pteV pte = true) (hf : formatBad pte w.lvl = false) (hl : pteLeaf pte = true)
    (hp : permitted pte w.kind w.sys = true) (hu : needsUpdate pte w.kind = false) :
    (walkTake w pte false).ended = some (.ok pte w.lvl) := by
  simp [walkTake, hv, hf, hl, hp, hu]

theorem walkTake_pointer (he : w.ended = none) (hv : pteV pte = true) (hf : formatBad pte w.lvl = false) (hl : pteLeaf pte = false) :
    (walkTake w pte false).ended = none ∧ (walkTake w pte false).table = fld pte 53 8 * 256 ∧ (walkTake w pte false).lvl = w.lvl - 1 := by
  simp [walkTake, hv, hf, hl, he]

end

/-- A walk read that the home answers gives the entry as it then stands in memory (R124). -/
theorem homeWalkRead_ok {s u : State} {core : Option Nat} {x : Nat} {pte : DWord} (h : homeWalkRead s core x = .ok pte u) :
    pte = BitVec.ofNat 64 (leNat (u.readMem x 8)) := by
  simp only [homeWalkRead] at h
  split_ifs at h
  obtain ⟨rfl, rfl⟩ := Home.ok.inj h
  simp [State.readMem, touchPage]

theorem execWalkRead_ok {s u : State} {c x n : Nat} {w : Walker} {pte : DWord}
    (hw : (s.core c).walkers.find? (fun p => p.2.ended.isNone && p.2.got.isNone && p.2.cas.isNone && p.2.entry == x) = some (n, w))
    (hp : (s.page (pageOf x)).isSome = true) (hr : homeWalkRead s (some c) x = .ok pte u) :
    exec (.walkRead c x) s = .next (setWalker u c n { w with got := some pte }) := by
  simp only [exec_walkRead, execWalkRead, hw, hr]
  rw [if_neg (by simp [Option.isSome_iff_ne_none.mp hp])]

theorem walks : Part.Walks := by
  intro s c n w hw he hc
  refine ⟨fun pte hg hpo => ?_, fun hg ht hp => ⟨_, execWalk_unbacked hw he hc hg ht hp, setWalker_walkers _ _ _ _⟩, fun x u pte hf hp hr => ?_⟩
  · refine ⟨_, walkTake w pte false, execWalk_got hw he hc hg, keepEntry_mem _ _ _ _ _, keepEntry_teams _ _ _ _ _, ?_,
      (walkTake_lines_got w pte false).1, (walkTake_lines_got w pte false).2, walkTake_notMapped w pte, walkTake_format w pte,
      walkTake_permission w pte, walkTake_update w pte he, walkTake_leaf w pte, walkTake_pointer w pte he⟩
    rw [setWalker_walkers, hpo]
  · have hpte := homeWalkRead_ok hr
    exact ⟨_, execWalkRead_ok hf hp hr, setWalker_walkers _ _ _ _, hpte⟩

/-! ## The window that PRIVBASE opens and a leaf's target (R11, R15) -/

theorem relocation : Part.Relocation := by
  intro c pslot va n stride g
  have hw : 0x01FF000000000000 ≤ va → va < 2 ^ 57 → relocate c pslot va n =
      if va % 2 ^ 48 + n > stride then none else if g ≥ 0x01FF000000000000 then none else some g := fun h1 h2 =>
    if_pos (by simp only [h1, h2, decide_true, Bool.and_self])
  refine ⟨fun h => if_neg (by simp; omega), fun h1 h2 h => ?_, fun h1 h2 h hg => ?_, fun p lvl hp => ?_⟩
  · rw [hw h1 h2, if_pos h]
  · rw [hw h1 h2, if_neg (by omega), if_neg (by omega)]
  · simp only [pteTarget, if_neg (show ¬ pteTgt p = 2 by omega)]

/-- Settles O29: what a walk does with each kind of entry, and the relocation of R11. -/
theorem translation : Obligations.Translation := ⟨walks, relocation⟩

end Sys2Proof
end

section
/-! PROOFS. What stops a memory access before any lane performs (R23, R287, R299): the check of the lanes names a fault, and the selected
threads take it; O26 is put together from that. -/

namespace Sys2Proof

open Machine

/-! ## The check of the lanes -/

@[simp] theorem dropEnded_mem (s : State) (c x : Nat) : (dropEnded s c x).mem = s.mem := rfl
@[simp] theorem dropEnded_teams (s : State) (c x : Nat) : (dropEnded s c x).teams = s.teams := rfl

/-- A check that faults names a fault of the bundle's instruction, and has only used up ended walks. -/
theorem checkLanes_fault {s u : State} {e : Env} {ls : List (Nat × Nat × Nat)} {n kind : Nat} {al : Bool} {g : FaultInfo}
    (h : checkLanes s e ls n kind al = .fault g u) :
    u = dropEnded s e.core e.team.ctx ∧ g.word = e.word ∧ g.clause = e.b.clause ∧ g.index = e.b.index := by
  simp only [checkLanes] at h
  split at h
  · cases h
  · split at h
    · obtain ⟨rfl, rfl⟩ := Checked.fault.inj h; exact ⟨rfl, rfl, rfl, rfl⟩
    · split at h
      · obtain ⟨rfl, rfl⟩ := Checked.fault.inj h; exact ⟨rfl, rfl, rfl, rfl⟩
      · split at h <;> cases h

/-! ## The release an access carries (R156) -/

/-- A release names what it covers in the bundle, and does nothing else. -/
theorem releasedBy_spec (s : State) (e : Env) (tids : List Nat) (scope : Nat) :
    (releasedBy s e tids scope).2 = s ∨ ∃ ids, (releasedBy s e tids scope).2 =
      s.updGroup e.tk e.g fun g => { g with bundle := g.bundle.map fun b => { b with snap := some ids } } := by
  unfold releasedBy
  split
  · exact .inl rfl
  · split
    · exact .inl rfl
    · split
      · exact .inr ⟨_, rfl⟩
      · exact .inl rfl

section
variable {s v : State} {e : Env} {c : Prop} [Decidable c] {scope : Nat} {ok : Bool}

theorem released_cases (h : (if c then released s e scope else (true, s)) = (ok, v)) :
    v = s ∨ ∃ ids, v = s.updGroup e.tk e.g fun g => { g with bundle := g.bundle.map fun b => { b with snap := some ids } } := by
  split at h
  · have h2 : (released s e scope).2 = v := congrArg Prod.snd h
    rw [← h2]
    exact releasedBy_spec ..
  · exact .inl (congrArg Prod.snd h).symm

theorem released_onlyTeams (h : (if c then released s e scope else (true, s)) = (ok, v)) : OnlyTeams s v := by
  rcases released_cases h with rfl | ⟨ids, rfl⟩
  · exact .refl _
  · exact onlyTeams_updGroup ..

theorem released_regsSame (h : (if c then released s e scope else (true, s)) = (ok, v)) : RegsSame s v := by
  rcases released_cases h with rfl | ⟨ids, rfl⟩
  · exact .refl _
  · exact regsSame_updGroup _ _ _ _ fun _ => ⟨rfl, rfl⟩

theorem released_thread (h : (if c then released s e scope else (true, s)) = (ok, v)) (k i : Nat) : v.thread k i = s.thread k i := by
  rcases released_cases h with rfl | ⟨ids, rfl⟩
  · rfl
  · exact thread_updGroup ..

end

/-! ## The faults of an access -/

/-- The threads of bundle and predicate have taken a fault of the access and the others gone on; nothing has been written. -/
structure AccessStops (s t u : State) (e : Env) (ls : List (Nat × Nat)) (g : FaultInfo) : Prop where
  parks : Parks t e ls g.cause
  faulted : t = faultSel u e ls g
  mem : t.mem = s.mem
  regs : RegsSame s t

/-- A fault found once the release of an access is satisfied, by a check that has only used up ended walks. -/
theorem accessStops_dropEnded {s v : State} {e : Env} {ls : List (Nat × Nat)} {g : FaultInfo} (hb : envOf s = some e) (hs : ls.Sublist e.lanes)
    (hout : Outside e ls) (hv : OnlyTeams s v) (hr : RegsSame s v) (ht : ∀ k i, v.thread k i = s.thread k i) (hw : g.word = e.word)
    (hc : g.clause = e.b.clause) (hi : g.index = e.b.index) :
    AccessStops s (faultSel (dropEnded v e.core e.team.ctx) e ls g) (dropEnded v e.core e.team.ctx) e ls g where
  parks := parks_faultSel hb (ht _) hs hout hw hc hi
  faulted := rfl
  mem := (onlyTeams_faultSel ..).mem.trans hv.mem
  regs := (hr.trans (regsSame_of_teams (dropEnded_teams ..))).trans (regsSame_faultSel ..)

theorem accessStops_of_check {s v u : State} {e : Env} {ls : List (Nat × Nat)} {as : List (Nat × Nat × Nat)} {n kind : Nat} {al : Bool} {g : FaultInfo}
    (hb : envOf s = some e) (hs : ls.Sublist e.lanes) (hout : Outside e ls) (hv : OnlyTeams s v) (hr : RegsSame s v)
    (ht : ∀ k i, v.thread k i = s.thread k i) (h : checkLanes v e as n kind al = .fault g u) : AccessStops s (faultSel u e ls g) u e ls g := by
  obtain ⟨rfl, hw, hc, hi⟩ := checkLanes_fault h
  exact accessStops_dropEnded hb hs hout hv hr ht hw hc hi

theorem lanesIn_mAddrs (e : Env) (f : MF) : lanesIn (mAddrs e f) = e.sel f.pm f.pn := by
  simp [lanesIn, mAddrs, Function.comp_def]
theorem lanesIn_packedAddrs (e : Env) (f : MF) (w : Nat) : lanesIn (packedAddrs e f w) = e.sel f.pm f.pn := by
  simp [lanesIn, packedAddrs, Function.comp_def]
theorem lanesIn_map (ls : List (Nat × Nat)) (a : Nat → Nat) : lanesIn (ls.map fun p => (p.1, p.2, a p.2)) = ls := by
  simp [lanesIn, Function.comp_def]

section
variable {s v u : State} {e : Env} {i : Instr} {g : FaultInfo}

/-- A load that faults (R23, R287). -/
theorem loadIssue_fault (h : Issues s i e) {f : MF} {addrs : Env → List (Nat × Nat × Nat)} (ha : lanesIn (addrs e) = e.sel f.pm f.pn)
    (hf : checkLanes s e (addrs e) (tyBytes f.ty) kRead true = .fault g u) : loadIssue s i f addrs = .next (faultSel u e (e.sel f.pm f.pn) g) := by
  simp only [loadIssue, h.withGate, hf, ha]

/-- A store that faults once its release is satisfied. -/
theorem storeIssue_fault (h : Issues s i e) {f : MF} {addrs : Env → List (Nat × Nat × Nat)} (ha : lanesIn (addrs e) = e.sel f.pm f.pn)
    (hr : (if f.ord = 2 then released s e f.scope.toNat else (true, s)) = (true, v))
    (hf : checkLanes v e (addrs e) (tyBytes f.ty) kWrite true = .fault g u) : storeIssue s i f addrs = .next (faultSel u e (e.sel f.pm f.pn) g) := by
  simp only [storeIssue, h.withGate, beq_iff_eq, hr, hf, ha, Bool.not_true, Bool.false_eq_true, if_false]

/-- The addresses of an atomic (R297). -/
def atomAddrs (e : Env) (f : MAF) : List (Nat × Nat × Nat) := (e.sel f.pm f.pn).map fun p => (p.1, p.2, (src64 e p.2 f.base).toNat)

/-- An atomic that faults once its release is satisfied. -/
theorem atomIssue_fault (h : Issues s i e) {f : MAF} (ret : Bool)
    (hr : (if f.ord = 2 ∨ f.ord = 3 then released s e f.scope.toNat else (true, s)) = (true, v))
    (hf : checkLanes v e (atomAddrs e f) (tyBytes f.ty.toNat) kRmw true = .fault g u) :
    atomIssue s i f ret = .next (faultSel u e (e.sel f.pm f.pn) g) := by
  unfold atomAddrs at hf
  simp only [atomIssue, h.withGate, Bool.or_eq_true, beq_iff_eq, hr, hf, lanesIn_map _ fun i => (src64 e i f.base).toNat, Bool.not_true,
    Bool.false_eq_true, if_false]

/-- An atomic that the host cannot serve takes HOSTATOM (R299). -/
theorem atomIssue_hostatom (h : Issues s i e) {f : MAF} (ret : Bool) {x : Target} {ts : List Target}
    (hr : (if f.ord = 2 ∨ f.ord = 3 then released s e f.scope.toNat else (true, s)) = (true, v)) (hx : x ∈ ts) (h1 : x.tgt = 1)
    (hno : hostAtomOk f.fn.toNat f.ty.toNat = false) (hok : checkLanes v e (atomAddrs e f) (tyBytes f.ty.toNat) kRmw true = .ok ts) :
    ∃ a, atomIssue s i f ret =
      .next (faultSel (dropEnded v e.core e.team.ctx) e (e.sel f.pm f.pn) { insnFault e .hostatom with addrs := [a] }) := by
  obtain ⟨y, hy⟩ : ∃ y, ts.find? (fun t => t.tgt == 1 && !hostAtomOk f.fn.toNat f.ty.toNat) = some y :=
    Option.isSome_iff_exists.mp (List.find?_isSome.mpr ⟨x, hx, by simp [h1, hno]⟩)
  unfold atomAddrs at hok
  exact ⟨y.va, by simp only [atomIssue, h.withGate, Bool.or_eq_true, beq_iff_eq, hr, hok, hy, lanesIn_map _ fun i => (src64 e i f.base).toNat,
    Bool.not_true, Bool.false_eq_true, if_false]⟩

end

/-- A lane that is not aligned counts with MISALIGN, wherever its address lies. -/
theorem checkLane_misalign (s : State) (e : Env) {tid va n kind : Nat} (h : va % n ≠ 0) : checkLane s e tid va n kind true = .fault .misalign [va] 0 := by
  simp [checkLane, h]

/-- An address at or above 2^57 is not canonical (R18). -/
theorem xlateWalk_noncanon {s : State} {core x pslot va n kind : Nat} {sys : Bool} (hx : (s.ctx x).isSome = true) (hva : 2 ^ 57 ≤ va) :
    xlateWalk s core x pslot va n kind sys = .fault .noncanon [va] 0 := by
  obtain ⟨c, hc⟩ := Option.isSome_iff_exists.mp hx
  have h : xlate s core x pslot va n kind sys = .fault .noncanon [va] 0 := by
    simp only [xlate, hc]; exact if_pos hva
  simp only [xlateWalk, h]

theorem checkLane_noncanon {s : State} {e : Env} {tid va n kind : Nat} {al : Bool} (hx : (s.ctx e.team.ctx).isSome = true) (hva : 2 ^ 57 ≤ va)
    (hal : al = true → va % n = 0) : checkLane s e tid va n kind al = .fault .noncanon [va] 0 := by
  unfold checkLane
  rw [if_neg (by cases al <;> simp_all)]
  exact xlateWalk_noncanon hx hva

/-- Settles O26: each kind of access is stopped by the fault that its check names. -/
theorem accessFaults : Obligations.AccessFaults := by
  intro s u v e g
  refine ⟨fun f p hp h hout hf => ?_, fun f p hp h hout hr hf => ?_, fun f i hi h hout hr => ⟨fun hf => ?_, fun x ts hx h1 hno hok => ?_⟩,
    fun tid va n kind hx hva => ⟨checkLane_noncanon hx hva (by simp), fun ha => checkLane_noncanon hx hva fun _ => ha⟩,
    fun tid va n kind h => checkLane_misalign s e h⟩
  · have hex : exec p.1 s = .next (faultSel u e (e.sel f.pm f.pn) g) := by
      simp only [List.mem_cons, List.not_mem_nil, or_false] at hp
      rcases hp with rfl | rfl
      · exact loadIssue_fault h (lanesIn_mAddrs e f) hf
      · exact loadIssue_fault h (lanesIn_packedAddrs e f _) hf
    have k := accessStops_of_check h.bundle (sel_sublist e f.pm f.pn) hout (.refl s) (.refl s) (fun _ _ => rfl) hf
    exact ⟨_, hex, k.parks, k.faulted, k.mem, k.regs⟩
  · have hex : exec p.1 s = .next (faultSel u e (e.sel f.pm f.pn) g) := by
      simp only [List.mem_cons, List.not_mem_nil, or_false] at hp
      rcases hp with rfl | rfl
      · exact storeIssue_fault h (lanesIn_mAddrs e f) hr hf
      · exact storeIssue_fault h (lanesIn_packedAddrs e f _) hr hf
    have k := accessStops_of_check h.bundle (sel_sublist e f.pm f.pn) hout (released_onlyTeams hr) (released_regsSame hr) (released_thread hr) hf
    exact ⟨_, hex, k.parks, k.faulted, k.mem, k.regs⟩
  · have hex : exec i s = .next (faultSel u e (e.sel f.pm f.pn) g) := by
      simp only [List.mem_cons, List.not_mem_nil, or_false] at hi
      rcases hi with rfl | rfl
      · exact atomIssue_fault h true hr hf
      · exact atomIssue_fault h false hr hf
    have k := accessStops_of_check h.bundle (sel_sublist e f.pm f.pn) hout (released_onlyTeams hr) (released_regsSame hr) (released_thread hr) hf
    exact ⟨_, hex, k.parks, k.faulted, k.mem, k.regs⟩
  · obtain ⟨a, hex⟩ : ∃ a, exec i s = .next (faultSel (dropEnded v e.core e.team.ctx) e (e.sel f.pm f.pn) { insnFault e .hostatom with addrs := [a] }) := by
      simp only [List.mem_cons, List.not_mem_nil, or_false] at hi
      rcases hi with rfl | rfl
      · exact atomIssue_hostatom h true hr hx h1 hno hok
      · exact atomIssue_hostatom h false hr hx h1 hno hok
    have k := accessStops_dropEnded h.bundle (sel_sublist e f.pm f.pn) hout (released_onlyTeams hr) (released_regsSame hr) (released_thread hr)
      (g := { insnFault e .hostatom with addrs := [a] }) rfl rfl rfl
    exact ⟨_, hex, k.parks, k.mem, k.regs⟩

end Sys2Proof
end

section
/-! PROOFS. Special registers: what csrr writes, what csrw meets by R355, and the reserve transfer of R60; O17 is put together from them. -/

namespace Sys2Proof

open Machine

/-! ## A result for the whole bundle (R313, R317, R352) -/

theorem onlyTeams_writeV (s : State) (e : Env) (tid : Nat) (d : BitVec 11) (k x : Nat) : OnlyTeams s (writeV s e tid d k x) := by
  unfold writeV
  split
  · exact onlyTeams_updThread ..
  · exact .refl s

theorem onlyTeams_writeG (s : State) (e : Env) (d : BitVec 11) (k x : Nat) : OnlyTeams s (writeG s e d k x) := by
  unfold writeG
  split
  · exact onlyTeams_updGroup ..
  · exact .refl s

theorem onlyTeams_writeAll (s : State) (e : Env) (d : BitVec 11) (k x : Nat) : OnlyTeams s (writeAll s e d k x) := by
  unfold writeAll
  split
  · exact onlyTeams_foldl _ _ (fun s _ => onlyTeams_writeV s e _ d k x) s
  · exact onlyTeams_writeG ..

/-- Once the bundle has moved on, the result stands in the destination of every thread of it, or in the group's. -/
theorem allHold_writeAll {s t : State} {e : Env} (h : envOf s = some e) (ht : t.teams = s.teams) (d : BitVec 11) (k x : Nat) :
    AllHold (Machine.advance (writeAll t e d k x) e) e d k x := by
  have hteam : ∀ j, t.team j = s.team j := fun j => by simp only [State.team, ht]
  refine ⟨fun n l tid hd hl => holds_of_regs (advance_regs _ e e.tk tid) ?_, fun n hd => gHolds_of_group (advance_group _ e e.tk e.g) ?_⟩
  · have hnd : ((e.lanes.map fun p => (p.2, x)).map Prod.fst).Nodup := by
      simpa [Function.comp_def] using lanes_tids_nodup (List.Sublist.refl e.lanes)
    have hth : (t.thread e.tk tid).isSome := by
      simpa only [State.thread, hteam] using thread_of_env h hl
    have := foldWriteV (k := k) hd _ hnd t tid x (List.mem_map.mpr ⟨(l, tid), hl, rfl⟩) hth
    simpa only [writeAll, hd, List.foldl_map] using this
  · have hg : t.group e.tk e.g = some e.grp := by simpa only [State.group, hteam] using group_of_env h
    simp only [writeAll, writeG, hd, group_updGroup, and_self, if_true, hg]
    exact ⟨_, rfl, holds_setG e.grp n k x⟩

/-- No other register changes. -/
theorem allKept_writeAll {s : State} {e : Env} (h : envOf s = some e) (d : BitVec 11) (k x : Nat) :
    AllKept s (Machine.advance (writeAll s e d k x) e) e d k := by
  refine Kept.advance ?_
  unfold writeAll
  split
  · refine Kept.foldl _ _ ?_ _ (Kept.refl h _ _ _)
    rintro u ⟨l, tid⟩ hl hu
    exact kept_writeV hu tid d k x fun r hr => ⟨⟨l, hl⟩, hr⟩
  · unfold writeG
    split
    · next n hd =>
      exact (Kept.refl h _ _ _).updGroup _ fun gr => ⟨rfl, fun r hr => setG_other gr n k x r fun hx => hr ⟨n, hd, hx.1, hx.2⟩, fun _ _ => rfl⟩
    · exact Kept.refl h _ _ _

theorem noRegs_advance {s : State} {e : Env} (h : envOf s = some e) : NoRegs s (Machine.advance s e) e := (Kept.refl h _ _ _).advance

/-! ## csrr (R354) -/

theorem exec_csrr_spec {f : SF} {s : State} {e : Env} (h : Issues s (.csrr f) e) :
    exec (.csrr f) s = .next (Machine.advance (writeAll (if f.csr = 6 then (readHintdrop s e.team.ctx).2 else s) e f.d (csrSpan f.csr)
      (csrValue s e.core e.team f.csr.toNat).toNat) e) := by
  have ht : (s.team e.tk).getD e.team = e.team := by rw [(envOf_spec h.bundle).1]; rfl
  rw [exec_csrr, execCsrr, h.simple, ht]

theorem readHintdrop_ctx {s : State} {x : Nat} {c : Ctx} (hc : s.ctx x = some c) : (readHintdrop s x).2.ctx x = some { c with hintdrop := 0 } := by
  simp [readHintdrop, hc]

theorem csrRead : Part.CsrRead := by
  intro f s e h
  have hteams : (if f.csr = 6 then (readHintdrop s e.team.ctx).2 else s).teams = s.teams := by
    split
    · exact updCtx_teams ..
    · rfl
  obtain ⟨hv, hg⟩ := allHold_writeAll h.bundle hteams f.d (csrSpan f.csr) (csrValue s e.core e.team f.csr.toNat).toNat
  refine ⟨_, exec_csrr_spec h, hv, hg, fun c h6 hc => ?_, fun h6 => ?_⟩
  · rw [(onlyTeams_advance _ e).ctx, (onlyTeams_writeAll ..).ctx, if_pos h6, readHintdrop_ctx hc]
  · rw [if_neg h6]
    exact allKept_writeAll h.bundle f.d _ _

/-! ## csrw (R355) -/

/-- The value a csrw writes: 64 bits where the register has them. -/
def csrOperand (s : State) (e : Env) (f : SF) : DWord := if csrSpan f.csr = 2 then uni64 e f.a else (uni32 s e f.a).zeroExtend 64

section
variable {f : SF} {s : State} {e : Env}

theorem exec_csrw_illegal (h : Issues s (.csrw f) e) (hf : csrFate f.csr.toNat e.b.handler = .illegal) :
    exec (.csrw f) s = .next (faultBundle s e (insnFault e .illinsn)) := by
  simp only [exec_csrw, execCsrw, h.withGate, hf]
theorem exec_csrw_ignored (h : Issues s (.csrw f) e) (hf : csrFate f.csr.toNat e.b.handler = .ignored) :
    exec (.csrw f) s = .next (Machine.advance s e) := by
  simp only [exec_csrw, execCsrw, h.withGate, hf]
theorem exec_csrw_performed (h : Issues s (.csrw f) e) (hf : csrFate f.csr.toNat e.b.handler = .performed) :
    exec (.csrw f) s = .next (Machine.advance (csrWrite s e.core e.team.ctx f.csr.toNat (csrOperand s e f)) e) := by
  simp only [exec_csrw, execCsrw, h.withGate, hf, csrOperand]

/-- A csrw that R355 forbids gives every thread of the bundle ILLINSN. -/
theorem parks_csrw_illegal (h : Issues s (.csrw f) e) (hout : Outside e e.lanes) (hf : csrFate f.csr.toNat e.b.handler = .illegal) :
    ∃ t, exec (.csrw f) s = .next t ∧ Parks t e e.lanes .illinsn :=
  ⟨_, exec_csrw_illegal h hf, parks_parkAll h.bundle (fun _ => rfl) (.refl _) hout rfl rfl rfl (f := insnFault e .illinsn)⟩

theorem noRegs_csrw_ignored (h : Issues s (.csrw f) e) (hf : csrFate f.csr.toNat e.b.handler = .ignored) :
    ∃ t, exec (.csrw f) s = .next t ∧ NoRegs s t e := ⟨_, exec_csrw_ignored h hf, noRegs_advance h.bundle⟩

end

theorem extractLsb'_zeroExtend_word (w : Word) : (w.zeroExtend 64 : DWord).extractLsb' 0 32 = w := by
  apply BitVec.eq_of_toNat_eq
  simp
  omega

/-- A write of a register of 32 bits. -/
theorem csrOperand_narrow {s : State} {e : Env} {f : SF} (h : csrSpan f.csr = 1) : (csrOperand s e f).extractLsb' 0 32 = uni32 s e f.a := by
  rw [csrOperand, if_neg (by omega), extractLsb'_zeroExtend_word]

/-- A kernel's write of one of its context's registers. -/
theorem csrw_ctx {f : SF} {s : State} {e : Env} (h : Issues s (.csrw f) e) {g : Ctx → Ctx} {c : Ctx} (hc : s.ctx e.team.ctx = some c)
    (hf : csrFate f.csr.toNat e.b.handler = .performed)
    (hw : csrWrite s e.core e.team.ctx f.csr.toNat (csrOperand s e f) = s.updCtx e.team.ctx g) :
    ∃ t, exec (.csrw f) s = .next t ∧ t.ctx e.team.ctx = some (g c) :=
  ⟨_, exec_csrw_performed h hf, by rw [(onlyTeams_advance _ e).ctx, hw, ctx_updCtx, if_pos rfl, hc]; rfl⟩

theorem csrFate_handler {n : Nat} (h1 : 0x10 ≤ n) (h2 : n ≤ 0x19) (b : Bool) : csrFate n b = .illegal := by
  unfold csrFate
  rw [if_neg (by omega), if_pos ⟨h1, h2⟩]
theorem csrFate_driver {n : Nat} (h1 : 0x20 ≤ n) (h2 : n ≤ 0x23) (b : Bool) :
    csrFate n b = if !b then .illegal else if n = 0x22 then .performed else .ignored := by
  unfold csrFate
  rw [if_neg (by omega), if_neg (by omega), if_pos ⟨h1, h2⟩]
theorem csrFate_low {n : Nat} (h : n < 8) (hn : n ∉ [1, 2, 3, 5]) (b : Bool) : csrFate n b = .ignored := by
  simp only [List.mem_cons, List.not_mem_nil, or_false] at hn
  unfold csrFate
  rw [if_neg hn, if_neg (by omega), if_neg (by omega)]
theorem csrFate_channel {n : Nat} (h : 0x30 ≤ n) (b : Bool) : csrFate n b = .ignored := by
  unfold csrFate
  rw [if_neg (by omega), if_neg (by omega), if_neg (by omega)]

theorem csrWrites : Part.CsrWrite := by
  intro f s e h v
  have num : ∀ {n : BitVec 12}, f.csr = n → f.csr.toNat = n.toNat := fun h => congrArg _ h
  refine ⟨fun c hc hn => ?_, fun c hc hn => ?_, fun c hc hn => ?_, fun hn => ?_, fun h1 h2 hout => ?_, fun h1 h2 hh hout => ?_, fun h1 hn => ?_,
    fun h1 => ?_, fun hh hn => ?_, fun hh hn => ?_⟩
  · have hv : (csrOperand s e f).extractLsb' 0 32 = v := csrOperand_narrow (by rw [hn]; decide)
    exact csrw_ctx h hc (by rw [num hn]; rfl) (g := fun c => { c with nvr := v &&& 1 }) (by rw [num hn, ← hv]; rfl)
  · have hv : (csrOperand s e f).extractLsb' 0 32 = v := csrOperand_narrow (by rw [hn]; decide)
    exact csrw_ctx h hc (by rw [num hn]; rfl) (g := fun c => { c with lease := v &&& 0x1FFF }) (by rw [num hn, ← hv]; rfl)
  · have hv : (csrOperand s e f).extractLsb' 0 32 = v := csrOperand_narrow (by rw [hn]; decide)
    exact csrw_ctx h hc (by rw [num hn]; rfl) (g := fun c => { c with xidle := v &&& 0xFFFF }) (by rw [num hn, ← hv]; rfl)
  · have hv : (csrOperand s e f).extractLsb' 0 32 = v := csrOperand_narrow (by rw [hn]; decide)
    have hw : csrWrite s e.core e.team.ctx f.csr.toNat (csrOperand s e f) =
        s.updCore e.core fun k => { k with tret := k.tret &&& ~~~(v &&& 0x80000000) } := by rw [num hn, ← hv]; rfl
    refine ⟨_, exec_csrw_performed h (by rw [num hn]; rfl), ?_⟩
    rw [(onlyTeams_advance _ e).core, hw, core_updCore, if_pos rfl]
  · exact parks_csrw_illegal h hout (csrFate_handler h1 h2 _)
  · exact parks_csrw_illegal h hout (by rw [csrFate_driver h1 h2, hh]; rfl)
  · exact noRegs_csrw_ignored h (csrFate_low h1 hn _)
  · exact noRegs_csrw_ignored h (csrFate_channel h1 _)
  · simp only [List.mem_cons, List.not_mem_nil, or_false] at hn
    exact noRegs_csrw_ignored h (by rw [csrFate_driver (by omega) (by omega), hh, if_neg (by simp), if_neg (by omega)])
  · have hw : csrOperand s e f = uni64 e f.a := if_pos (by rw [hn]; decide)
    exact ⟨_, exec_csrw_performed h (by rw [num hn, hh]; rfl), by rw [num hn, hw]; rfl⟩

/-! ## The reserve transfer (R60) -/

@[simp] theorem poolTake_ctx (s : State) (v n x : Nat) : (s.poolTake v n).ctx x = s.ctx x := rfl
@[simp] theorem poolTake_mem (s : State) (v n : Nat) : (s.poolTake v n).mem = s.mem := rfl
@[simp] theorem poolTake_teams (s : State) (v n : Nat) : (s.poolTake v n).teams = s.teams := rfl
@[simp] theorem poolTake_pool (s : State) (v n : Nat) : (s.poolTake v n).pool = s.pool - n := rfl
@[simp] theorem poolGive_ctx (s : State) (v n x : Nat) : (s.poolGive v n).ctx x = s.ctx x := rfl
@[simp] theorem poolGive_mem (s : State) (v n : Nat) : (s.poolGive v n).mem = s.mem := rfl
@[simp] theorem poolGive_teams (s : State) (v n : Nat) : (s.poolGive v n).teams = s.teams := rfl
@[simp] theorem poolGive_pool (s : State) (v n : Nat) : (s.poolGive v n).pool = s.pool + n := rfl

theorem poolOf_updCtx (s : State) (x v : Nat) (f : Ctx → Ctx) : (s.updCtx x f).poolOf v = s.poolOf v := by
  simp [State.poolOf, State.vd]

/-- A context after a transfer with a status. -/
def withStatus (st : Nat) (c : Ctx) : Ctx := { c with rsvadd := BitVec.ofNat 2 st ++ (0#25) ++ c.rsvadd.extractLsb' 0 37 }

section
variable {s : State} {x : Nat} {c : Ctx} {amount : BitVec 37}

theorem transferReserve_none (hc : s.ctx x = some c) (ha : amount.toInt = 0) :
    (transferReserve s x amount).2 = s.updCtx x (withStatus 0) := by
  simp only [transferReserve, hc, if_pos ha]; rfl

theorem transferReserve_take (hc : s.ctx x = some c) (ha : 0 < amount.toInt) (hp : amount.toInt.toNat ≤ s.poolOf c.vd) :
    (transferReserve s x amount).2 =
      ((s.poolTake c.vd amount.toInt.toNat).updCtx x fun c => { c with reserve := c.reserve + amount.toInt.toNat }).updCtx x (withStatus 0) := by
  simp only [transferReserve, hc, if_pos ha, if_neg ha.ne', if_pos hp]; rfl

theorem transferReserve_poolShort (hc : s.ctx x = some c) (ha : 0 < amount.toInt) (hp : ¬ amount.toInt.toNat ≤ s.poolOf c.vd) :
    (transferReserve s x amount).2 = s.updCtx x (withStatus 1) := by
  simp only [transferReserve, hc, if_pos ha, if_neg ha.ne', if_neg hp]; rfl

theorem transferReserve_give (hc : s.ctx x = some c) (ha : amount.toInt < 0) (hr : (-amount.toInt).toNat ≤ c.reserve) :
    (transferReserve s x amount).2 =
      ((s.poolGive c.vd (-amount.toInt).toNat).updCtx x fun c => { c with reserve := c.reserve - (-amount.toInt).toNat }).updCtx x (withStatus 0) := by
  simp only [transferReserve, hc, if_neg ha.le.not_gt, if_neg ha.ne, if_pos hr]; rfl

theorem transferReserve_reserveShort (hc : s.ctx x = some c) (ha : amount.toInt < 0) (hr : ¬ (-amount.toInt).toNat ≤ c.reserve) :
    (transferReserve s x amount).2 = s.updCtx x (withStatus 2) := by
  simp only [transferReserve, hc, if_neg ha.le.not_gt, if_neg ha.ne, if_neg hr]; rfl

end

/-- Whether a transfer of a sectors can be made: the pool has what the reserve gains, or the reserve what the pool gains. -/
def transferMoves (s : State) (c : Ctx) (a : Int) : Bool := decide (a ≤ s.poolOf c.vd) && decide (-a ≤ c.reserve)

/-- The status of a transfer (R60). -/
def transferStatus (s : State) (c : Ctx) (a : Int) : Nat := if transferMoves s c a then 0 else if 0 < a then 1 else 2

/-- What a transfer leaves: its status, and the sectors moved or not. -/
theorem transferReserve_spec {s : State} {x : Nat} {c : Ctx} (amount : BitVec 37) (hc : s.ctx x = some c) :
    ∃ n : Nat, (transferReserve s x amount).2.ctx x = some (withStatus (transferStatus s c amount.toInt) { c with reserve := n }) ∧
      (n : Int) = (if transferMoves s c amount.toInt then c.reserve + amount.toInt else c.reserve) ∧
      ((transferReserve s x amount).2.pool : Int) = (if transferMoves s c amount.toInt then s.pool - amount.toInt else s.pool) ∧
      (transferReserve s x amount).2.mem = s.mem ∧ (transferReserve s x amount).2.teams = s.teams := by
  have hp : s.poolOf c.vd ≤ s.pool := Nat.min_le_left ..
  have moves : transferMoves s c amount.toInt = true ↔ amount.toInt ≤ s.poolOf c.vd ∧ -amount.toInt ≤ c.reserve := by simp [transferMoves]
  rcases lt_trichotomy amount.toInt 0 with ha | ha | ha
  · by_cases hr : (-amount.toInt).toNat ≤ c.reserve
    · have hm : transferMoves s c amount.toInt = true := moves.mpr ⟨by omega, by omega⟩
      refine ⟨c.reserve - (-amount.toInt).toNat, ?_⟩
      rw [transferReserve_give hc ha hr]
      simp only [transferStatus, hm, if_true]
      exact ⟨by simp [hc], by omega, by simp; omega, by simp, by simp⟩
    · have hm : ¬ transferMoves s c amount.toInt = true := fun h => hr (by have := (moves.mp h).2; omega)
      refine ⟨c.reserve, ?_⟩
      rw [transferReserve_reserveShort hc ha hr]
      simp only [transferStatus, if_neg hm, if_neg ha.le.not_gt]
      exact ⟨by simp [hc], trivial, by simp, by simp, by simp⟩
  · have hm : transferMoves s c amount.toInt = true := moves.mpr ⟨by omega, by omega⟩
    refine ⟨c.reserve, ?_⟩
    rw [transferReserve_none hc ha]
    simp only [transferStatus, hm, if_true]
    exact ⟨by simp [hc], by omega, by simp [ha], by simp, by simp⟩
  · by_cases hr : amount.toInt.toNat ≤ s.poolOf c.vd
    · have hm : transferMoves s c amount.toInt = true := moves.mpr ⟨by omega, by omega⟩
      refine ⟨c.reserve + amount.toInt.toNat, ?_⟩
      rw [transferReserve_take hc ha hr]
      simp only [transferStatus, hm, if_true]
      exact ⟨by simp [hc], by omega, by simp; omega, by simp, by simp⟩
    · have hm : ¬ transferMoves s c amount.toInt = true := fun h => hr (by have := (moves.mp h).1; omega)
      refine ⟨c.reserve, ?_⟩
      rw [transferReserve_poolShort hc ha hr]
      simp only [transferStatus, if_neg hm, if_pos ha]
      exact ⟨by simp [hc], trivial, by simp, by simp, by simp⟩

/-- The low field of a register that is put together from fields. -/
theorem extractLsb'_append_low {v w : Nat} (x : BitVec v) (y : BitVec w) : (x ++ y).extractLsb' 0 w = y := by
  ext i hi
  simp [BitVec.getLsbD_append, hi]
/-- The high field. -/
theorem extractLsb'_append_high {v w : Nat} (x : BitVec v) (y : BitVec w) : (x ++ y).extractLsb' w v = x := by
  ext i hi
  simp [BitVec.getLsbD_append, BitVec.getLsbD_eq_getElem hi]

theorem withStatus_amount (st : Nat) (c : Ctx) : (withStatus st c).rsvadd.extractLsb' 0 37 = c.rsvadd.extractLsb' 0 37 :=
  extractLsb'_append_low (BitVec.ofNat 2 st ++ (0#25)) _
theorem withStatus_status (st : Nat) (c : Ctx) : ((withStatus st c).rsvadd.extractLsb' 62 2).toNat = st % 4 := by
  have h : (BitVec.ofNat 2 st ++ (0#25 ++ c.rsvadd.extractLsb' 0 37)).extractLsb' 62 2 = BitVec.ofNat 2 st := extractLsb'_append_high _ _
  have ha : (withStatus st c).rsvadd = BitVec.ofNat 2 st ++ (0#25 ++ c.rsvadd.extractLsb' 0 37) := BitVec.append_assoc
  rw [ha]
  exact congrArg BitVec.toNat h

theorem transferStatus_lt (s : State) (c : Ctx) (a : Int) : transferStatus s c a < 4 := by
  unfold transferStatus; split
  · omega
  · split <;> omega

theorem exec_rsvaddTransfer_some {s : State} {x : Nat} {c : Ctx} (amount : BitVec 37) (hc : s.ctx x = some c) :
    exec (.rsvaddTransfer x amount) s = .next (writeRsvadd s x amount) := by
  simp [execRsvaddTransfer, hc]

theorem reserveTransfer : Part.ReserveTransfer := by
  intro s x amount c hc a pool moved
  obtain ⟨c1, hc1, hvd, hres, hrsv⟩ : ∃ c1, (s.updCtx x fun c => { c with rsvadd := (0#27) ++ amount }).ctx x = some c1 ∧ c1.vd = c.vd ∧
      c1.reserve = c.reserve ∧ c1.rsvadd = (0#27) ++ amount := 
    ⟨{ c with rsvadd := (0#27) ++ amount }, by simp [hc], rfl, rfl, rfl⟩
  have hm : transferMoves (s.updCtx x fun c => { c with rsvadd := (0#27) ++ amount }) c1 amount.toInt = moved := by
    simp only [transferMoves, poolOf_updCtx, hvd, hres]; rfl
  obtain ⟨n, h1, h2, h3, h4, h5⟩ := transferReserve_spec amount hc1
  rw [hm] at h2 h3
  refine ⟨_, _, exec_rsvaddTransfer_some amount hc, h1, ?_, ?_, ?_, ?_, ?_, ?_⟩
  · rw [withStatus_amount, hrsv]
    exact extractLsb'_append_low (0#27) amount
  · rw [withStatus_status, Nat.mod_eq_of_lt (transferStatus_lt ..), transferStatus, hm]
  · rw [hres] at h2; exact h2
  · simpa [writeRsvadd] using h3
  · simpa [writeRsvadd] using h4
  · simpa [writeRsvadd] using h5

/-! ## The host's read of csr.hintdrop (R27) -/

theorem hintdropRead : Part.HintdropRead := by
  intro s x c hc
  refine ⟨{ (readHintdrop s x).2 with hostRd := (readHintdrop s x).1.zeroExtend 64 }, by simp [execHintdropRead, hc], by simp [readHintdrop, hc],
    readHintdrop_ctx hc, by simp [readHintdrop], by simp [readHintdrop]⟩

/-- Settles O17, one lemma for each way to the registers. -/
theorem specialRegisters : Obligations.SpecialRegisters := ⟨csrRead, csrWrites, reserveTransfer, hintdropRead⟩

end Sys2Proof
end

section
/-! PROOFS. The layer on caches and homes: which operations change caches, descriptors and error records alone, and which change what a home
keeps besides (R25, R56, R74, R79, R80, R93, R125). -/

namespace Sys2Proof.Machine

/-! ## Nothing but caches, descriptors and records -/

/-- Nothing but arrays of errors, counters, lines, descriptors, the memory-side cache, HBM4's runs, cores and part writes differs. -/
def CachesOnly (s t : State) : Prop :=
  t = { s with errors := t.errors, regs := t.regs, lines := t.lines, billets := t.billets, msc := t.msc, hbm := t.hbm, descs := t.descs, cores := t.cores, posts := t.posts }

namespace CachesOnly

theorem refl (s : State) : CachesOnly s s := rfl

theorem trans {a b c : State} (h : CachesOnly a b) (k : CachesOnly b c) : CachesOnly a c := by
  unfold CachesOnly at *
  rw [k, h]

variable {s t : State} (h : CachesOnly s t)
include h

theorem mem : t.mem = s.mem := by rw [h]
theorem teams : t.teams = s.teams := by rw [h]
theorem ctxs : t.ctxs = s.ctxs := by rw [h]
theorem pages : t.pages = s.pages := by rw [h]
theorem vds : t.vds = s.vds := by rw [h]
theorem frames : t.frames = s.frames := by rw [h]
theorem slovi : t.slovi = s.slovi := by rw [h]
theorem readMem (a n : Nat) : t.readMem a n = s.readMem a n := by rw [h]; rfl
theorem team (k : Nat) : t.team k = s.team k := by rw [h]; rfl
theorem ctx (x : Nat) : t.ctx x = s.ctx x := by rw [h]; rfl
theorem page (p : Nat) : t.page p = s.page p := by rw [h]; rfl
theorem vd (v : Nat) : t.vd v = s.vd v := by rw [h]; rfl
theorem slice (a : Nat) : t.slice a = s.slice a := by rw [h]; rfl

end CachesOnly

theorem cachesOnly_foldl {α : Type} (l : List α) (f : State → α → State) (hf : ∀ s x, CachesOnly s (f s x)) (s : State) :
    CachesOnly s (l.foldl f s) := by
  induction l generalizing s with
  | nil => rfl
  | cons x xs ih => exact (hf s x).trans (ih _)

theorem cachesOnly_updCore (s : State) (c : Nat) (f : Core → Core) : CachesOnly s (s.updCore c f) := rfl
theorem cachesOnly_updLine (s : State) (l : Nat) (f : Line → Line) : CachesOnly s (s.updLine l f) := rfl

theorem cachesOnly_takeError (s : State) (a p : Nat) : CachesOnly s (s.takeError a p).2 := by
  unfold State.takeError
  dsimp only
  split_ifs <;> rfl

/-- Without errors waiting in the arrays, none is taken. -/
theorem takeError_none {s : State} (h : s.errors = []) (a p : Nat) : s.takeError a p = (false, s) := by
  simp [State.takeError, h]

/-- A poisoning is counted and reported, and nothing else. -/
theorem reportPoison_eq (s : State) (ea : Nat) :
    s.reportPoison ea = { s with posts := (s.reportPoison ea).posts, regs := (s.reportPoison ea).regs } := by
  have h : ∀ (l : List (Nat × Ctx)) (r : List Byte) (u : State), u = { s with posts := u.posts } →
      l.foldl (fun s p => s.postCtx p.1 r) u = { s with posts := (l.foldl (fun s p => s.postCtx p.1 r) u).posts } := by
    intro l r
    induction l with
    | nil => exact fun _ hu => hu
    | cons p ps ih => exact fun u hu => ih _ (by rw [hu]; rfl)
  have h' := h (s.ctxs.filter fun p => some p.2.key == (s.page (pageOf ea)).map Page.key) (simpleRecord s 2 ea) s rfl
  unfold State.reportPoison
  dsimp only
  rw [h']
  rfl

theorem cachesOnly_reportPoison (s : State) (ea : Nat) : CachesOnly s (s.reportPoison ea) := by
  rw [reportPoison_eq]; rfl
theorem core_reportPoison (s : State) (ea c : Nat) : (s.reportPoison ea).core c = s.core c := by
  rw [reportPoison_eq]; rfl

theorem cachesOnly_dropCopies (s : State) (line : Nat) (except : Option Nat) : CachesOnly s (s.dropCopies line except) :=
  cachesOnly_foldl _ _ (fun s c => by split <;> rfl) s

theorem cachesOnly_poisonLine (s : State) (line : Nat) : CachesOnly s (s.poisonLine line) := by
  unfold State.poisonLine
  split
  · rfl
  · exact ((cachesOnly_dropCopies s line none).trans (cachesOnly_updLine ..)).trans (cachesOnly_reportPoison ..)

theorem cachesOnly_markPoison (s : State) (b : Nat) : CachesOnly s (s.markPoison b) :=
  ((cachesOnly_dropCopies s (2 * b) none).trans (cachesOnly_dropCopies _ (2 * b + 1) none)).trans rfl

theorem cachesOnly_poisonBillet (s : State) (b : Nat) : CachesOnly s (s.poisonBillet b) := by
  unfold State.poisonBillet
  split
  · rfl
  · exact (cachesOnly_markPoison s b).trans (cachesOnly_reportPoison ..)

theorem cachesOnly_poisonPage (s : State) (p : Nat) : CachesOnly s (s.poisonPage p) := by
  unfold State.poisonPage
  split
  · rfl
  · refine (cachesOnly_foldl _ _ (fun s i => ?_) s).trans (cachesOnly_reportPoison ..)
    split
    · rfl
    · exact cachesOnly_markPoison ..

theorem cachesOnly_poisonBillets (s : State) (p : Nat) : CachesOnly s (s.poisonBillets p) :=
  cachesOnly_foldl _ _ (fun s _ => cachesOnly_poisonBillet s _) s

/-! ## L1 (R93, R119) -/

theorem cachesOnly_l1Lose (s : State) (c ea : Nat) : CachesOnly s (l1Lose s c ea) := by
  unfold l1Lose
  dsimp only
  split
  · rfl
  · exact CachesOnly.trans (by rfl) (cachesOnly_poisonLine ..)

theorem cachesOnly_l1Read (s : State) (c ea : Nat) : CachesOnly s (l1Read s c ea).2 := by
  unfold l1Read
  split
  · rfl
  · dsimp only
    split
    · exact (cachesOnly_takeError ..).trans (cachesOnly_l1Lose ..)
    · exact cachesOnly_takeError ..

theorem cachesOnly_l1ReadOwned (s : State) (c line : Nat) (w : BitVec 32) : CachesOnly s (l1ReadOwned s c line w) := by
  unfold l1ReadOwned
  split
  · rfl
  · refine cachesOnly_foldl _ _ (fun s i => ?_) s
    split
    · rfl
    · exact cachesOnly_l1Read ..

theorem l1ReadOwned_none {s : State} (h : s.errors = []) (c line : Nat) (w : BitVec 32) : l1ReadOwned s c line w = s := by
  simp [l1ReadOwned, h]

theorem cachesOnly_sendUp (s : State) (c ea : Nat) (m : UpMsg) : CachesOnly s (sendUp s c ea m) := rfl
theorem cachesOnly_sendDown (s : State) (c ea : Nat) (m : DownMsg) : CachesOnly s (sendDown s c ea m) := rfl

theorem cachesOnly_releaseWords (s : State) (c line : Nat) (w : BitVec 32) : CachesOnly s (releaseWords s c line w) := by
  unfold releaseWords
  dsimp only
  split
  · exact cachesOnly_l1ReadOwned ..
  · exact (cachesOnly_l1ReadOwned ..).trans rfl

/-! ## The memory-side cache and descriptors (R69, R78 to R80) -/

theorem cachesOnly_mscDrop (s : State) (b : Nat) : CachesOnly s (mscDrop s b) := rfl
theorem cachesOnly_hbmWrite (s : State) (k n : Nat) (x : Sealed) : CachesOnly s (s.hbmWrite k n x) := rfl

theorem cachesOnly_mscWrite (s : State) (b : Nat) : CachesOnly s (mscWrite s b) := by
  unfold mscWrite
  split
  · split
    · rfl
    · dsimp only
      split
      · exact (cachesOnly_takeError ..).trans ((cachesOnly_mscDrop ..).trans (cachesOnly_poisonBillet ..))
      · exact (cachesOnly_takeError ..).trans rfl
  · rfl

theorem cachesOnly_mscRemove (s : State) (b : Nat) : CachesOnly s (mscRemove s b) := (cachesOnly_mscWrite s b).trans rfl

theorem cachesOnly_touchDesc (s : State) (b : Nat) : CachesOnly s (touchDesc s b) := by
  unfold touchDesc
  dsimp only
  refine CachesOnly.trans ?_ (by rfl)
  split
  · split
    · exact (cachesOnly_takeError ..).trans ((cachesOnly_takeError ..).trans (cachesOnly_poisonBillets ..))
    · exact (cachesOnly_takeError ..).trans (cachesOnly_takeError ..)
  · exact cachesOnly_takeError ..

end Sys2Proof.Machine
end

section
/-! PROOFS. A lane's way from the window: served in the core, sent to its home or to the host, or into the store buffer (R119, R150, R151,
R289); O21 is put together from these. -/

namespace Sys2Proof

open Machine

/-! ## An issue's lanes -/

theorem findIss_id {t : Team} {iss : Nat} {i : Inflight} (h : findIss t iss = some i) : i.id = iss := by
  simpa using List.find?_some h
theorem findLane_lane {i : Inflight} {lane : Nat} {l : LaneOp} (h : findLane i lane = some l) : l.lane = lane := by
  simpa using List.find?_some h
theorem findLane_mem {i : Inflight} {lane : Nat} {l : LaneOp} (h : findLane i lane = some l) : l ∈ i.lanes := List.mem_of_find?_eq_some h

theorem laneOf_some {s : State} {k iss lane : Nat} {t : Team} {i : Inflight} {l : LaneOp} :
    laneOf s k iss lane = some (t, i, l) ↔ s.team k = some t ∧ findIss t iss = some i ∧ findLane i lane = some l := by
  simp only [laneOf, Option.bind_eq_some_iff, Option.map_eq_some_iff, Prod.mk.injEq]
  constructor
  · rintro ⟨t', ht, i', hi, l', hl, rfl, rfl, rfl⟩
    exact ⟨ht, hi, hl⟩
  · rintro ⟨ht, hi, hl⟩
    exact ⟨t, ht, i, hi, l, hl, rfl, rfl, rfl⟩

theorem laneOf_of_teams {s t : State} (h : t.teams = s.teams) (k iss lane : Nat) : laneOf t k iss lane = laneOf s k iss lane := by
  simp only [laneOf, State.team, h]

/-- An issue that is looked up after an update of it. -/
theorem findIss_update (t : Team) (iss : Nat) (f : Inflight → Inflight) (hf : ∀ i, (f i).id = i.id) :
    findIss { t with iw := t.iw.map fun i => if i.id == iss then f i else i } iss = (findIss t iss).map f := by
  have hp : ((fun i : Inflight => i.id == iss) ∘ fun i => if i.id == iss then f i else i) = fun i => i.id == iss := by
    funext i; simp only [Function.comp_apply]; split <;> simp [hf]
  simp only [findIss, List.find?_map, hp]
  cases h : t.iw.find? (fun i => i.id == iss) with
  | none => rfl
  | some i => simp [findIss_id h]

/-- A lane that is looked up after an update of one. -/
theorem findLane_update (i : Inflight) (j lane : Nat) (f : LaneOp → LaneOp) (hf : ∀ l, (f l).lane = l.lane) :
    findLane { i with lanes := i.lanes.map fun l => if l.lane == j then f l else l } lane =
      (findLane i lane).map fun l => if lane = j then f l else l := by
  have hp : ((fun l : LaneOp => l.lane == lane) ∘ fun l => if l.lane == j then f l else l) = fun l => l.lane == lane := by
    funext l; simp only [Function.comp_apply]; split <;> simp [hf]
  simp only [findLane, List.find?_map, hp]
  cases h : i.lanes.find? (fun l => l.lane == lane) with
  | none => rfl
  | some l => have := findLane_lane h; simp [this]

theorem team_updLane {s : State} {k iss j : Nat} {t : Team} (h : s.team k = some t) (f : LaneOp → LaneOp) :
    (s.updLane k iss j f).team k = some { t with iw := t.iw.map fun i => if i.id == iss then { i with lanes := i.lanes.map fun l => if l.lane == j then f l else l } else i } := by
  rw [State.updLane, State.updIss, team_updTeam, if_pos rfl, h, Option.map_some]

/-- A lane of an issue, once a lane of it has been updated. -/
theorem laneOf_updLane {s : State} {k iss lane : Nat} {t : Team} {i : Inflight} {l : LaneOp} (h : laneOf s k iss lane = some (t, i, l)) (j : Nat)
    (f : LaneOp → LaneOp) (hf : ∀ l, (f l).lane = l.lane) : ∃ t', laneOf (s.updLane k iss j f) k iss lane =
      some (t', { i with lanes := i.lanes.map fun l => if l.lane == j then f l else l }, if lane = j then f l else l) := by
  obtain ⟨ht, hi, hl⟩ := laneOf_some.mp h
  refine ⟨_, laneOf_some.mpr ⟨team_updLane ht f, ?_, ?_⟩⟩
  · have := findIss_update t iss (fun i => { i with lanes := i.lanes.map fun l => if l.lane == j then f l else l }) fun _ => rfl
    rw [this, hi, Option.map_some]
  · rw [findLane_update i j lane f hf, hl, Option.map_some]

theorem onlyTeams_updLane (s : State) (k iss lane : Nat) (f : LaneOp → LaneOp) : OnlyTeams s (s.updLane k iss lane f) := onlyTeams_updTeam (.refl s) k _

/-- An update of a lane gives each lane of the issue the number it had. -/
theorem lanes_update_lane (ls : List LaneOp) (j : Nat) (f : LaneOp → LaneOp) (hf : ∀ l, (f l).lane = l.lane) :
    (ls.map fun l => if l.lane == j then f l else l).map LaneOp.lane = ls.map LaneOp.lane := by
  rw [List.map_map]
  refine List.map_congr_left fun l _ => ?_
  simp only [Function.comp_apply]; split <;> simp [hf]

/-! ## Served in the core (R151) -/

theorem execLocalLoad_hit {s : State} {k iss lane : Nat} {tm : Team} {i : Inflight} {l : LaneOp} {bs : List Byte}
    (h : laneOf s k iss lane = some (tm, i, l)) (hk : l.kind = .load) (hs : l.stage = .ready) (hp : i.scratch = false) (hm : mustFollow tm iss l = false)
    (hh : l1Lookup s tm.core l = .hit bs) : exec (.localLoad k iss lane) s = .next (takeLocal s k iss tm.core l) := by
  simp [execLocalLoad, h, hk, hs, hp, hm, hh]

/-- A lane whose bytes the core holds, and whose chunk is sound, takes them. -/
theorem takeLocal_hit {s : State} {k iss c : Nat} {l : LaneOp} {bs : List Byte} (hh : l1Lookup s c l = .hit bs)
    (hr : (newestOverlap (s.core c) l).isSome = true ∨ l1Read s c l.ea = (false, s)) :
    takeLocal s k iss c l = s.updLane k iss l.lane fun l => { l with stage := .returned, result := bs } := by
  have : (if (newestOverlap (s.core c) l).isSome then (false, s) else l1Read s c l.ea) = (false, s) := by
    rcases hr with h | h
    · rw [if_pos h]
    · split
      · rfl
      · exact h
  simp [takeLocal, hh, this]

/-! ## What L1 loses (R93) -/

/-- Owned words and held chunks of a line are among those of another. -/
def L1Less (x y : L1Line) : Prop :=
  x.owned &&& y.owned = x.owned ∧ ∀ j : Nat, (x.chunks[j]?).getD Holding.empty = (y.chunks[j]?).getD .empty ∨ (x.chunks[j]?).getD Holding.empty = .empty

theorem L1Less.refl (x : L1Line) : L1Less x x := ⟨BitVec.and_self, fun _ => .inl rfl⟩

theorem L1Less.trans {x y z : L1Line} (h : L1Less x y) (k : L1Less y z) : L1Less x z := by
  refine ⟨?_, fun j => ?_⟩
  · rw [← h.1, BitVec.and_assoc, k.1]
  · rcases h.2 j with h1 | h1
    · rw [h1]; exact k.2 j
    · exact .inr h1

theorem l1Less_empty (y : L1Line) : L1Less {} y := by
  refine ⟨BitVec.zero_and, fun j => .inr ?_⟩
  show ((List.replicate 8 Holding.empty)[j]?).getD .empty = .empty
  rw [List.getElem?_replicate]; split <;> rfl

theorem l1Line_setL1 (c : Core) (l m : Nat) (x : L1Line) : (c.setL1 l x).l1Line m = if m = l then (if x.isEmpty then {} else x) else c.l1Line m := by
  unfold Core.setL1 Core.l1Line
  split
  · rw [mapGet_erase]; split <;> rfl
  · rw [mapGet_set]; split <;> rfl

theorem l1Less_setL1 {c : Core} {l : Nat} {x : L1Line} (h : L1Less x (c.l1Line l)) (m : Nat) : L1Less ((c.setL1 l x).l1Line m) (c.l1Line m) := by
  rw [l1Line_setL1]
  split
  · next hm =>
    subst hm
    split
    · exact l1Less_empty _
    · exact h
  · exact .refl _

theorem l1Less_dropTracked (x : L1Line) : L1Less x.dropTracked x := by
  refine ⟨BitVec.and_self, fun j => ?_⟩
  simp only [L1Line.dropTracked, List.getElem?_map]
  cases h : x.chunks[j]? with
  | none => exact .inl rfl
  | some y => simp only [Option.map_some, Option.getD_some]; split <;> simp

/-- Of a core's L1 nothing is added, and its store buffer and lease clock are as before. -/
structure L1Shrinks (c : Nat) (s t : State) : Prop where
  sb : (t.core c).sb = (s.core c).sb
  lclk : (t.core c).lclk = (s.core c).lclk
  less : ∀ line, L1Less ((t.core c).l1Line line) ((s.core c).l1Line line)

theorem L1Shrinks.refl (c : Nat) (s : State) : L1Shrinks c s s := ⟨rfl, rfl, fun _ => .refl _⟩
theorem L1Shrinks.trans {c : Nat} {s t u : State} (h : L1Shrinks c s t) (k : L1Shrinks c t u) : L1Shrinks c s u :=
  ⟨k.sb.trans h.sb, k.lclk.trans h.lclk, fun line => (k.less line).trans (h.less line)⟩

theorem l1Shrinks_of_core {c : Nat} {s t : State} (h : t.core c = s.core c) : L1Shrinks c s t := by
  refine ⟨by rw [h], by rw [h], fun line => ?_⟩
  rw [h]; exact .refl _

theorem l1Shrinks_updCore (c d : Nat) (s : State) (f : Core → Core) (hsb : ∀ k, (f k).sb = k.sb) (hcl : ∀ k, (f k).lclk = k.lclk)
    (hl : ∀ line, L1Less ((f (s.core d)).l1Line line) ((s.core d).l1Line line)) : L1Shrinks c s (s.updCore d f) := by
  by_cases h : c = d
  · subst h
    exact ⟨by simp [hsb], by simp [hcl], fun line => by simpa using hl line⟩
  · exact l1Shrinks_of_core (by simp [h])

theorem l1Shrinks_foldl {α : Type} {c : Nat} (l : List α) (f : State → α → State) (hf : ∀ s x, L1Shrinks c s (f s x)) (s : State) :
    L1Shrinks c s (l.foldl f s) := by
  induction l generalizing s with
  | nil => exact .refl c s
  | cons x xs ih => exact (hf s x).trans (ih _)

theorem l1Shrinks_invalidate (c d line : Nat) (s : State) : L1Shrinks c s (s.updCore d (·.invalidate line)) :=
  l1Shrinks_updCore c d s _ (fun _ => rfl) (fun _ => rfl) fun m => l1Less_setL1 (l1Less_dropTracked _) m

theorem l1Shrinks_reportPoison (c : Nat) (s : State) (ea : Nat) : L1Shrinks c s (s.reportPoison ea) := l1Shrinks_of_core (core_reportPoison s ea c)

theorem l1Shrinks_dropCopies (c : Nat) (s : State) (line : Nat) (except : Option Nat) : L1Shrinks c s (s.dropCopies line except) :=
  l1Shrinks_foldl _ _ (fun s d => by
    split
    · exact .refl c s
    · exact l1Shrinks_invalidate c d line s) s

theorem l1Shrinks_poisonLine (c : Nat) (s : State) (line : Nat) : L1Shrinks c s (s.poisonLine line) := by
  unfold State.poisonLine
  split
  · exact .refl c s
  · exact ((l1Shrinks_dropCopies c s line none).trans (l1Shrinks_of_core (by rfl))).trans (l1Shrinks_reportPoison ..)

theorem l1Less_lose (x : L1Line) (w m : BitVec 32) (c : BitVec 8) :
    L1Less { x with owned := x.owned &&& ~~~w, written := m, chunks := x.chunks.mapIdx fun i h => if bit c i then .empty else h } x := by
  refine ⟨?_, fun j => ?_⟩
  · rw [BitVec.and_assoc, BitVec.and_comm (~~~w), ← BitVec.and_assoc, BitVec.and_self]
  · simp only [List.getElem?_mapIdx]
    cases h : x.chunks[j]? with
    | none => exact .inl rfl
    | some y => simp only [Option.map_some, Option.getD_some]; split <;> simp

theorem l1Shrinks_l1Lose (c : Nat) (s : State) (d ea : Nat) : L1Shrinks c s (l1Lose s d ea) := by
  have h : ∀ (w m : BitVec 32) (b : BitVec 8) (line : Nat), L1Shrinks c s (s.updCore d fun k => k.setL1 line
      { (s.core d).l1Line line with owned := ((s.core d).l1Line line).owned &&& ~~~w, written := m, chunks := ((s.core d).l1Line line).chunks.mapIdx fun i h => if bit b i then .empty else h }) :=
    fun w m b line => l1Shrinks_updCore c d s _ (fun _ => rfl) (fun _ => rfl) fun l => l1Less_setL1 (l1Less_lose _ w m b) l
  unfold l1Lose
  dsimp only
  split
  · exact h ..
  · exact ((h ..).trans (l1Shrinks_of_core (by rfl))).trans (l1Shrinks_poisonLine ..)

theorem core_takeError (s : State) (a p c : Nat) : (s.takeError a p).2.core c = s.core c := by
  unfold State.takeError
  dsimp only
  split_ifs <;> rfl

theorem l1Shrinks_l1Read (c : Nat) (s : State) (d ea : Nat) : L1Shrinks c s (l1Read s d ea).2 := by
  unfold l1Read
  split
  · exact .refl c s
  · dsimp only
    split
    · exact (l1Shrinks_of_core (core_takeError ..)).trans (l1Shrinks_l1Lose ..)
    · exact l1Shrinks_of_core (core_takeError ..)

/-! ## A miss stays a miss -/

theorem chunkHeld_less {c d : Core} {x y : L1Line} {pol ea : Nat} (hc : d.lclk = c.lclk) (h : L1Less y x) (hh : chunkHeld d y pol ea = true) :
    chunkHeld c x pol ea = true := by
  unfold chunkHeld at hh ⊢
  rcases h.2 (ea % 128 / 16) with h1 | h1
  · rw [← h1, ← hc]; exact hh
  · rw [h1] at hh; cases hh

theorem l1Hit_less {c d : Core} {l : LaneOp} (hc : d.lclk = c.lclk) (h : L1Less (d.l1Line (lineOf l.ea)) (c.l1Line (lineOf l.ea)))
    (hh : l.l1Hit d = true) : l.l1Hit c = true := by
  simp only [LaneOp.l1Hit, Bool.and_eq_true, Bool.or_eq_true, beq_iff_eq] at hh ⊢
  obtain ⟨hp, hw | ⟨hk, hk'⟩⟩ := hh
  · refine ⟨hp, .inl ?_⟩
    rw [← hw, ← BitVec.and_assoc, BitVec.and_comm _ (d.l1Line _).owned, h.1]
  · exact ⟨hp, .inr ⟨hk, chunkHeld_less hc h hk'⟩⟩

/-- A lane that misses in the store buffer and L1 misses too once L1 has lost something. -/
theorem l1Lookup_miss_shrinks {c : Nat} {s t : State} {l : LaneOp} (h : L1Shrinks c s t) (hm : l1Lookup s c l = .miss) : l1Lookup t c l = .miss := by
  simp only [l1Lookup] at hm ⊢
  have ho : newestOverlap (t.core c) l = newestOverlap (s.core c) l := by simp only [newestOverlap, h.sb]
  rw [ho]
  cases hn : newestOverlap (s.core c) l with
  | some e => rw [hn] at hm; dsimp only at hm; split at hm <;> cases hm
  | none =>
    rw [hn] at hm
    dsimp only at hm ⊢
    split at hm
    · cases hm
    · next hs => rw [if_neg fun hh => hs (l1Hit_less h.lclk (h.less _) hh)]

/-! ## The lanes that the core can serve before the request goes (R289) -/

/-- While an issue's lanes take what the core holds for them, one that misses stands ready as before. -/
structure StillReady (s u : State) (k iss c : Nat) (i : Inflight) (l : LaneOp) : Prop where
  mem : u.mem = s.mem
  slovi : u.slovi = s.slovi
  lane : ∃ t' i', laneOf u k iss l.lane = some (t', i', l) ∧ i'.lanes.map LaneOp.lane = i.lanes.map LaneOp.lane
  l1 : L1Shrinks c s u

variable {s u : State} {k iss c : Nat} {i : Inflight} {l : LaneOp}

theorem StillReady.slice (h : StillReady s u k iss c i l) (a : Nat) : u.slice a = s.slice a := by
  simp [State.slice, h.slovi]

theorem stillReady_caches {v : State} (h : StillReady s u k iss c i l) (hc : CachesOnly u v) (hl : L1Shrinks c u v) : StillReady s v k iss c i l where
  mem := hc.mem.trans h.mem
  slovi := hc.slovi.trans h.slovi
  lane := by rw [laneOf_of_teams hc.teams]; exact h.lane
  l1 := h.l1.trans hl

theorem stillReady_updLane (h : StillReady s u k iss c i l) {j : Nat} (hj : l.lane ≠ j) {f : LaneOp → LaneOp} (hf : ∀ l, (f l).lane = l.lane) :
    StillReady s (u.updLane k iss j f) k iss c i l where
  mem := (onlyTeams_updLane ..).mem.trans h.mem
  slovi := by rw [onlyTeams_updLane u k iss j f]; exact h.slovi
  lane := by
    obtain ⟨t', i', hl, hi⟩ := h.lane
    obtain ⟨t2, hl2⟩ := laneOf_updLane hl j f hf
    rw [if_neg hj] at hl2
    exact ⟨t2, _, hl2, (lanes_update_lane _ _ _ hf).trans hi⟩
  l1 := h.l1.trans (l1Shrinks_of_core ((onlyTeams_updLane ..).core c))

theorem stillReady_takeLocal (hm : l1Lookup s c l = .miss) (hn : (i.lanes.map LaneOp.lane).Nodup) (hl : l ∈ i.lanes) {o : LaneOp} (ho : o ∈ i.lanes)
    (h : StillReady s u k iss c i l) : StillReady s (takeLocal u k iss c o) k iss c i l := by
  have hmu := l1Lookup_miss_shrinks h.l1 hm
  unfold takeLocal
  split
  · next bs hb =>
    have hne : l.lane ≠ o.lane := fun he => by
      rw [List.inj_on_of_nodup_map hn hl ho he, hb] at hmu; cases hmu
    have hread : StillReady s (if (newestOverlap (u.core c) o).isSome = true then (false, u) else l1Read u c o.ea).2 k iss c i l := by
      split
      · exact h
      · exact stillReady_caches h (cachesOnly_l1Read ..) (l1Shrinks_l1Read ..)
    generalize (if (newestOverlap (u.core c) o).isSome = true then (false, u) else l1Read u c o.ea) = q at hread ⊢
    obtain ⟨lost, v⟩ := q
    dsimp only at hread ⊢
    split
    · exact hread
    · exact stillReady_updLane hread hne (by intro; rfl)
  · exact h

theorem stillReady_takeAll (hm : l1Lookup s c l = .miss) (hn : (i.lanes.map LaneOp.lane).Nodup) (hl : l ∈ i.lanes) (os : List LaneOp)
    (hos : ∀ o ∈ os, o ∈ i.lanes) (h : StillReady s u k iss c i l) : StillReady s (os.foldl (fun s o => takeLocal s k iss c o) u) k iss c i l := by
  induction os generalizing u with
  | nil => exact h
  | cons o os ih =>
    exact ih (fun x hx => hos x (List.mem_cons_of_mem _ hx)) (stillReady_takeLocal hm hn hl (hos o List.mem_cons_self) h)

/-! ## The words a request covers (R119, R289) -/

theorem bit_wordsMask {off n j : Nat} (hj : j < 32) : bit (wordsMask off n) j = (decide (j * 4 < off + n) && decide (off < (j + 1) * 4)) := by
  rw [wordsMask, bit_maskOf _ _ hj]
  simp [hj]

theorem foldl_min_ea (ls : List LaneOp) (l : LaneOp) (h : ∀ o ∈ ls, lineOf o.ea = lineOf l.ea) (m : Nat) (hm : m ≤ l.ea) (hml : lineOf m = lineOf l.ea) :
    ls.foldl (fun m o => min m o.ea) m ≤ l.ea ∧ lineOf (ls.foldl (fun m o => min m o.ea) m) = lineOf l.ea := by
  induction ls generalizing m with
  | nil => exact ⟨hm, hml⟩
  | cons o os ih =>
    refine ih (fun x hx => h x (List.mem_cons_of_mem _ hx)) _ ((Nat.min_le_left ..).trans hm) ?_
    show lineOf (min m o.ea) = lineOf l.ea
    rcases Nat.le_total m o.ea with h1 | h1
    · rw [Nat.min_eq_left h1, hml]
    · rw [Nat.min_eq_right h1, h o List.mem_cons_self]

theorem le_foldl_max (ls : List LaneOp) (m : Nat) : m ≤ ls.foldl (fun m o => max m (o.ea + o.n - 1)) m := by
  induction ls generalizing m with
  | nil => exact Nat.le_refl _
  | cons o os ih => exact (Nat.le_max_left ..).trans (ih _)

/-- A grain begins at or before its first byte, in the same line, and reaches past its last byte or to the line's end. -/
theorem grainOf_spec (lo hi : Nat) : (grainOf lo hi).1 ≤ lo ∧ lineOf (grainOf lo hi).1 = lineOf lo ∧
    (hi < (grainOf lo hi).1 + (grainOf lo hi).2 ∨ (grainOf lo hi).1 % 128 + (grainOf lo hi).2 = 128) := by
  unfold grainOf
  split
  · next g hg =>
    have heq := List.find?_some hg
    have hmem := List.mem_of_find?_eq_some hg
    simp only [beq_iff_eq, List.mem_cons, List.not_mem_nil, or_false] at heq hmem
    simp only [lineOf]
    rcases hmem with rfl | rfl | rfl <;> omega
  · simp only [lineOf]; omega

/-- The words of a lane are among those of the grain that its line's lanes make up. -/
theorem wordsMask_lanesGrain (ls : List LaneOp) (l : LaneOp) (h : ∀ o ∈ ls, lineOf o.ea = lineOf l.ea) {j : Nat} (hj : j < 32)
    (hb : bit (wordsMask (l.ea % 128) l.n) j = true) : bit (wordsMask ((lanesGrain ls l).1 % 128) (lanesGrain ls l).2) j = true := by
  obtain ⟨h1, h2⟩ := foldl_min_ea ls l h l.ea (Nat.le_refl _) rfl
  have h3 := le_foldl_max ls (l.ea + l.n - 1)
  obtain ⟨g1, g2, g3⟩ := grainOf_spec (ls.foldl (fun m o => min m o.ea) l.ea) (ls.foldl (fun m o => max m (o.ea + o.n - 1)) (l.ea + l.n - 1))
  change (lanesGrain ls l).1 ≤ _ at g1
  change lineOf (lanesGrain ls l).1 = _ at g2
  change _ < (lanesGrain ls l).1 + (lanesGrain ls l).2 ∨ (lanesGrain ls l).1 % 128 + (lanesGrain ls l).2 = 128 at g3
  rw [bit_wordsMask hj, Bool.and_eq_true, decide_eq_true_eq, decide_eq_true_eq] at hb ⊢
  simp only [lineOf] at g2 h2
  omega

theorem and_eq_zero_of_subset {w : Nat} {x m n : BitVec w} (h : x &&& n = 0) (hs : ∀ j, j < w → bit m j = true → bit n j = true) : x &&& m = 0 := by
  ext j hj
  have h0 : (x &&& n)[j] = false := by rw [h]; simp
  have hsj := hs j hj
  simp only [bit, BitVec.getLsbD_eq_getElem hj] at hsj
  simp only [BitVec.getElem_and, BitVec.ofNat_eq_ofNat, BitVec.getElem_zero, Bool.and_eq_false_iff] at h0 ⊢
  rcases h0 with h0 | h0
  · exact .inl h0
  · exact .inr (by cases hm : m[j] with | false => rfl | true => rw [hsj hm] at h0; cases h0)

theorem and_andNot_and {w : Nat} (x y : BitVec w) : x &&& ~~~(x &&& y) &&& y = 0 := by
  ext j hj
  simp only [BitVec.getElem_and, BitVec.getElem_not, BitVec.ofNat_eq_ofNat, BitVec.getElem_zero]
  cases x[j] <;> cases y[j] <;> rfl

/-- A core that gives words of a line up owns none of them any more (R119). -/
theorem releaseWords_owned (s : State) (c line : Nat) (w : BitVec 32) : (((releaseWords s c line w).core c).l1Line line).owned &&& w = 0 := by
  simp only [releaseWords]
  split
  · next h => exact h
  · simp only [core_updCore, if_true, l1Line_setL1]
    split
    · exact BitVec.zero_and
    · exact and_andNot_and ..

/-! ## A request goes (R150, R289) -/

/-- The state once the lanes of the line that the core can serve have taken their bytes. -/
def afterServed (s : State) (k iss c : Nat) (i : Inflight) (l : LaneOp) : State := (lineMates i l).foldl (fun s o => takeLocal s k iss c o) s
/-- The issue as it then stands. -/
def issueIn (u : State) (k iss : Nat) (i : Inflight) : Inflight := ((u.team k).bind fun t => findIss t iss).getD i
/-- The state once the core has given up what it owns of the grain (R119). -/
def afterGivenUp (u : State) (c : Nat) (i : Inflight) (l : LaneOp) : State :=
  if l.pol = 0 then u
  else releaseWords u c (lineOf l.ea) (wordsMask ((lanesGrain (lineLanes i l) l).1 % 128) (lanesGrain (lineLanes i l) l).2)
/-- The line's request. -/
def requestOf (v : State) (t : Team) (k iss : Nat) (i : Inflight) (l : LaneOp) : HomeReq :=
  { core := t.core, line := lineOf l.ea, kind := if l.pol = 1 then .wtLoad else .fill l.pol (chunksOf ((lanesGrain (lineLanes i l) l).1 % 128) (lanesGrain (lineLanes i l) l).2) l.lease,
    team := k, iss := iss, lane := l.lane, ctx := t.ctx, ea := (lanesGrain (lineLanes i l) l).1, n := (lanesGrain (lineLanes i l) l).2,
    held := ((v.core t.core).l1Line (lineOf l.ea)).held }

section
variable {tm : Team}

theorem execSend_host (h : laneOf s k iss l.lane = some (tm, i, l)) (hk : l.kind = .load) (hs : l.stage = .ready) (hp : i.scratch = false)
    (hf : mustFollow tm iss l = false) (hm : l1Lookup s tm.core l = .miss) (ht : l.tgt = 1) : exec (.send k iss l.lane) s =
      .next { s.updLane k iss l.lane fun l => { l with stage := .sent, since := s.ns } with hostOut := s.hostOut ++ [.read l.ea l.n] } := by
  simp [execSend, h, hk, hs, hp, hf, hm, ht]

theorem execSend_home (h : laneOf s k iss l.lane = some (tm, i, l)) (hk : l.kind = .load) (hs : l.stage = .ready) (hp : i.scratch = false)
    (hf : mustFollow tm iss l = false) (hm : l1Lookup s tm.core l = .miss) (ht : l.tgt ≠ 1) (hw : lineWaits s tm i l = false)
    (hy : l.pol = 1 ∨ l1Way s tm.core (lineOf l.ea) = true) {j : Inflight} (hj : issueIn (afterServed s k iss tm.core i l) k iss i = j) :
    let v := afterGivenUp (afterServed s k iss tm.core i l) tm.core j l
    exec (.send k iss l.lane) s = .next ((lineMates j l).foldl (fun s o => s.updLane k iss o.lane fun o => { o with stage := .sent, lead := l.lane })
      (sendUp v tm.core l.ea (.req (requestOf v tm k iss j l)))) := by
  subst hj
  have hy' : (l.pol != 1 && !l1Way s tm.core (lineOf l.ea)) = false := by
    rcases hy with h | h <;> simp [h]
  simp only [exec_send, execSend, h, hk, hs, hp, hf, hm, ht, hw, hy', beq_self_eq_true, Bool.and_self, Bool.not_true, Bool.not_false, if_false,
    Bool.false_eq_true]
  rfl

/-- Lanes marked sent, one after another: a lane among them is sent at the end. -/
theorem sent_of_mates (ms : List LaneOp) {lead : Nat} {l' : LaneOp} {t' : Team} {i' : Inflight} {lane : Nat}
    (h : laneOf u k iss lane = some (t', i', l')) (hm : l'.stage = .sent ∨ lane ∈ ms.map LaneOp.lane) :
    ∃ t2 i2 l2, laneOf (ms.foldl (fun s o => s.updLane k iss o.lane fun o => { o with stage := .sent, lead := lead }) u) k iss lane = some (t2, i2, l2) ∧
      l2.stage = .sent := by
  induction ms generalizing u t' i' l' with
  | nil => exact ⟨t', i', l', h, hm.resolve_right List.not_mem_nil⟩
  | cons o os ih =>
    obtain ⟨t2, h2⟩ := laneOf_updLane h o.lane (fun o => { o with stage := .sent, lead := lead }) fun _ => rfl
    refine ih h2 ?_
    split
    · exact .inl rfl
    · next hne =>
      rcases hm with hm | hm
      · exact .inl hm
      · exact .inr ((List.mem_cons.mp hm).resolve_left hne)

theorem mem_lineMates (hl : l ∈ i.lanes) (hk : l.kind = .load) (hs : l.stage = .ready) : l ∈ lineMates i l := by
  simp [lineMates, lineLanes, hl, hk, hs]

theorem lineLanes_line {o : LaneOp} (h : o ∈ lineLanes i l) : lineOf o.ea = lineOf l.ea := by
  simp only [lineLanes, List.mem_filter, Bool.and_eq_true, beq_iff_eq] at h
  exact h.2.2

theorem cachesOnly_afterGivenUp (u : State) (c : Nat) (i : Inflight) (l : LaneOp) : CachesOnly u (afterGivenUp u c i l) := by
  unfold afterGivenUp
  split
  · rfl
  · exact cachesOnly_releaseWords ..

/-- Words of the lane that the core owned are given up where its policy is not OWN. -/
theorem afterGivenUp_owned (u : State) (c : Nat) (i : Inflight) (hp : l.pol ≠ 0) :
    (((afterGivenUp u c i l).core c).l1Line (lineOf l.ea)).owned &&& wordsMask (l.ea % 128) l.n = 0 := by
  rw [afterGivenUp, if_neg hp]
  exact and_eq_zero_of_subset (releaseWords_owned ..) fun j hj hb => wordsMask_lanesGrain _ l (fun _ => lineLanes_line) hj hb

theorem onlyTeams_sendMates (ms : List LaneOp) (lead : Nat) (u : State) :
    OnlyTeams u (ms.foldl (fun s o => s.updLane k iss o.lane fun o => { o with stage := .sent, lead := lead }) u) :=
  onlyTeams_foldl _ _ (fun _ _ => onlyTeams_updLane ..) u

end

theorem sendUp_up (v : State) (c ea : Nat) (m : UpMsg) :
    mapGet? ((sendUp v c ea m).core c).up (v.slice ea) = some (((mapGet? (v.core c).up (v.slice ea)).getD []) ++ [m]) := by
  simp [sendUp, mapGet_set]

theorem l1Line_sendUp (v : State) (c ea : Nat) (m : UpMsg) (line : Nat) : ((sendUp v c ea m).core c).l1Line line = (v.core c).l1Line line := by
  simp [sendUp, Core.l1Line]

theorem loadLanes : Part.LoadLanes := by
  intro s k iss lane tm i l h hk hs hp hf
  obtain rfl := findLane_lane (laneOf_some.mp h).2.2
  have hmem := findLane_mem (laneOf_some.mp h).2.2
  refine ⟨fun bs hh hr => ?_, fun hm hn hw => ?_⟩
  · obtain ⟨t', h'⟩ := laneOf_updLane h l.lane (fun l => { l with stage := .returned, result := bs }) fun _ => rfl
    rw [if_pos rfl] at h'
    have he := execLocalLoad_hit h hk hs hp hf hh
    rw [takeLocal_hit hh hr] at he
    exact ⟨_, t', _, he, h', onlyTeams_updLane ..⟩
  · by_cases ht : l.tgt = 1
    · obtain ⟨t', h'⟩ := laneOf_updLane h l.lane (fun l => { l with stage := .sent, since := s.ns }) fun _ => rfl
      rw [if_pos rfl] at h'
      refine ⟨_, t', _, _, execSend_host h hk hs hp hf hm ht, (laneOf_of_teams (by rfl) ..).trans h', rfl, (onlyTeams_updLane ..).mem,
        fun h1 => absurd ht h1, fun _ => rfl⟩
    · obtain ⟨hw, hy⟩ := hw.resolve_left ht
      have hu : StillReady s (afterServed s k iss tm.core i l) k iss tm.core i l :=
        stillReady_takeAll hm hn hmem _ (fun o ho => (List.mem_filter.mp (List.mem_filter.mp ho).1).1) ⟨rfl, rfl, ⟨tm, i, h, rfl⟩, .refl _ _⟩
      set u := afterServed s k iss tm.core i l
      obtain ⟨t', i', hl', -⟩ := hu.lane
      have hj : issueIn u k iss i = i' := by
        obtain ⟨h1, h2, -⟩ := laneOf_some.mp hl'
        simp [issueIn, h1, h2]
      have hv := cachesOnly_afterGivenUp u tm.core i' l
      set v := afterGivenUp u tm.core i' l with hvd
      obtain ⟨t2, i2, l2, hl2, hst⟩ := sent_of_mates (lineMates i' l) (lead := l.lane)
        ((laneOf_of_teams (hv.trans (cachesOnly_sendUp v tm.core l.ea (.req (requestOf v tm k iss i' l)))).teams ..).trans hl')
        (.inr (List.mem_map_of_mem (mem_lineMates (findLane_mem (laneOf_some.mp hl').2.2) hk hs)))
      have hot := onlyTeams_sendMates (k := k) (iss := iss) (lineMates i' l) l.lane (sendUp v tm.core l.ea (.req (requestOf v tm k iss i' l)))
      have hex := execSend_home h hk hs hp hf hm ht hw hy hj
      have hup := sendUp_up v tm.core l.ea (.req (requestOf v tm k iss i' l))
      rw [hv.slice, hu.slice] at hup
      exact ⟨_, t2, i2, l2, hex, hl2, hst, hot.mem.trans (hv.mem.trans hu.mem), fun _ => ⟨requestOf v tm k iss i' l, _, by rw [hot.core]; exact hup, rfl, rfl, rfl, rfl, rfl, rfl,
        fun hp0 => by rw [hot.core, l1Line_sendUp]; exact afterGivenUp_owned u tm.core i' hp0⟩, fun h1 => absurd h1 ht⟩

/-! ## A store-class lane enters the store buffer (R150) -/

/-- The entry a lane of the store class becomes, under the number the state gives next. -/
def entryOf (s : State) (tm : Team) (k iss : Nat) (l : LaneOp) : SbEntry :=
  { id := s.fresh.1, team := k, tid := l.tid, iss := iss, lane := l.lane, ctx := tm.ctx, ea := l.ea, tgt := l.tgt, n := l.n, kind := l.kind, pol := l.pol,
    data := l.data, admitted := !l.unadmitted, ptes := l.ptes }

theorem execEnter_ready {tm : Team} (h : laneOf s k iss l.lane = some (tm, i, l)) (hk : l.kind ≠ .load) (hs : l.stage = .ready) (hp : i.scratch = false)
    (hf : mustFollow tm iss l = false) (hn : l.n ≠ 0) (hlow : ∀ o ∈ i.lanes, o.lane < l.lane → o.stage ≠ .ready)
    (hsb : ∀ e ∈ (s.core tm.core).sb, overlaps e.tgt e.ea e.n l.tgt l.ea l.n = false) (hdep : l.tgt ≠ 1 → othersDepend s tm.core (lineOf l.ea) iss = false) :
    exec (.enter k iss l.lane) s = .next ((s.fresh.2.updCore tm.core fun c => { c with sb := c.sb ++ [entryOf s tm k iss l] }).updLane k iss l.lane
      fun x => { x with stage := .entered, sb := s.fresh.1 }) := by
  have h1 : (l.kind == .load || l.stage != .ready || i.scratch) = false := by simp [hk, hs, hp]
  have h2 : (i.lanes.any fun o => decide (o.lane < l.lane) && o.stage == .ready) = false := by simpa using hlow
  have h3 : (l.tgt != 1 && l.n != 0 && othersDepend s tm.core (lineOf l.ea) iss) = false := by
    by_cases ht : l.tgt = 1
    · simp [ht]
    · simp [hdep ht]
  have h4 : ((s.core tm.core).sb.any fun e => overlaps e.tgt e.ea e.n l.tgt l.ea l.n) = false := by simpa using hsb
  have h5 : (l.n == 0) = false := by simp [hn]
  simp only [exec_enter, execEnter, h, h1, h2, hf, h3, h4, h5, Bool.and_false, Bool.false_and, Bool.false_eq_true, if_false]
  rfl

theorem storeEntry : Part.StoreEntry := by
  intro s k iss lane tm i l h hk hs hp hf hn hlow hsb hdep
  obtain rfl := findLane_lane (laneOf_some.mp h).2.2
  set u := s.fresh.2.updCore tm.core fun c => { c with sb := c.sb ++ [entryOf s tm k iss l] }
  have hl : laneOf u k iss l.lane = some (tm, i, l) := (laneOf_of_teams rfl ..).trans h
  obtain ⟨t', h'⟩ := laneOf_updLane hl l.lane (fun x => { x with stage := .entered, sb := s.fresh.1 }) fun _ => rfl
  rw [if_pos rfl] at h'
  have hot := onlyTeams_updLane u k iss l.lane fun x => { x with stage := .entered, sb := s.fresh.1 }
  refine ⟨_, t', _, _, entryOf s tm k iss l, execEnter_ready h hk hs hp hf hn hlow hsb hdep, ?_, rfl, rfl, rfl, rfl, rfl, rfl, rfl, rfl, rfl, rfl, rfl, h', rfl, rfl, hot.mem⟩
  rw [hot.core]
  rw [core_updCore, if_pos rfl]
  rfl

/-- Settles O21: a ready lane is served, sent, or enters the store buffer. -/
theorem coreSide : Obligations.CoreSide := ⟨loadLanes, storeEntry⟩

end Sys2Proof
end

section
/-! PROOFS. The layer on the upkeep of pages: what the operations that empty, free, back and hand over pages leave standing (R30, R39, R62, R63,
R85, R418). -/

namespace Sys2Proof.Machine

/-! ## What upkeep leaves standing -/

/-- What a page is as its owner sees it: its context, whether it is of fixed size, and its key. -/
def Page.identity (g : Page) : Nat × Bool × Nat := (g.ctx, g.fixed, g.key)

/-- Memory, the pages' identities and the windows' bases are as before. -/
structure Stands (s t : State) : Prop where
  mem : t.mem = s.mem
  identity : ∀ p, (t.page p).map Page.identity = (s.page p).map Page.identity
  base : ∀ v, (t.vd v).base = (s.vd v).base

namespace Stands

theorem refl (s : State) : Stands s s := ⟨rfl, fun _ => rfl, fun _ => rfl⟩

theorem trans {a b c : State} (h : Stands a b) (k : Stands b c) : Stands a c :=
  ⟨k.mem.trans h.mem, fun p => (k.identity p).trans (h.identity p), fun v => (k.base v).trans (h.base v)⟩

/-- A state whose memory, pages and virtual devices are another's stands as that one does. -/
theorem of_eq {s t : State} (hm : t.mem = s.mem) (hp : t.pages = s.pages) (hv : t.vds = s.vds) : Stands s t :=
  ⟨hm, fun _ => by rw [State.page, hp]; rfl, fun _ => by rw [State.vd, hv]; rfl⟩

theorem of_caches {s t : State} (h : CachesOnly s t) : Stands s t := of_eq h.mem h.pages h.vds

variable {s t : State} (h : Stands s t)
include h

theorem page_some {p : Nat} {g : Page} (hg : s.page p = some g) : ∃ g', t.page p = some g' ∧ g'.ctx = g.ctx ∧ g'.fixed = g.fixed ∧ g'.key = g.key := by
  have hi := h.identity p
  rw [hg, Option.map_some, Option.map_eq_some_iff] at hi
  obtain ⟨g', hg', hi⟩ := hi
  simp only [Page.identity, Prod.mk.injEq] at hi
  exact ⟨g', hg', hi.1, hi.2.1, hi.2.2⟩

theorem key (p : Nat) : (t.page p).map Page.key = (s.page p).map Page.key := by
  simpa [Option.map_map, Function.comp_def, Page.identity] using congrArg (Option.map fun i => i.2.2) (h.identity p)

theorem zeroPage (p : Nat) : Stands (zeroPage s p) (zeroPage t p) :=
  ⟨by rw [Machine.zeroPage, h.mem]; rfl, h.identity, h.base⟩

end Stands

theorem stands_foldl {α : Type} (l : List α) (f : State → α → State) (hf : ∀ s x, Stands s (f s x)) (s : State) : Stands s (l.foldl f s) := by
  induction l generalizing s with
  | nil => exact .refl s
  | cons x xs ih => exact (hf s x).trans (ih _)

theorem stands_updPage (s : State) (p : Nat) (f : Page → Page) (hf : ∀ g, (f g).identity = g.identity) : Stands s (s.updPage p f) := by
  refine ⟨updPage_mem .., fun q => ?_, fun v => ?_⟩
  · rw [page_updPage]
    split
    · next h => simp [h, Option.map_map, Function.comp_def, hf]
    · rfl
  · unfold State.updPage; split <;> rfl

theorem stands_updCtx (s : State) (x : Nat) (f : Ctx → Ctx) : Stands s (s.updCtx x f) := by
  unfold State.updCtx
  split
  · exact .of_eq rfl rfl rfl
  · exact .refl s

theorem stands_updVd (s : State) (v : Nat) (f : Vd → Vd) (hf : ∀ d, (f d).base = d.base) : Stands s (s.updVd v f) := by
  refine ⟨rfl, fun _ => rfl, fun w => ?_⟩
  rw [vd_updVd]
  split
  · next h => rw [hf, h]
  · rfl

theorem stands_pool (s : State) (n : Nat) : Stands s { s with pool := n } := .of_eq rfl rfl rfl
theorem stands_poolGive (s : State) (v n : Nat) : Stands s (s.poolGive v n) :=
  (stands_updVd s v (fun d => { d with share := d.share + n }) fun _ => rfl).trans (stands_pool ..)
theorem stands_poolTake (s : State) (v n : Nat) : Stands s (s.poolTake v n) :=
  (stands_updVd s v (fun d => { d with share := d.share - n }) fun _ => rfl).trans (stands_pool ..)

theorem stands_setBm (s : State) (v op n p st : Nat) : Stands s (setBm s v op n p st) := stands_updVd s v _ fun _ => rfl

/-- The command word that a page command leaves. -/
theorem setBm_bmcmd (s : State) (v op n p st : Nat) :
    ((setBm s v op n p st).vd v).bmcmd = BitVec.ofNat 64 (op * 2 ^ 60 + n % 4096 * 2 ^ 48 + p % 2 ^ 32 * 2 ^ 16 + st) := by
  rw [setBm, vd_updVd, if_pos rfl]

/-! ## Runs, credits and promotions -/

theorem stands_freeRun (s : State) (st f n : Nat) : Stands s (freeRun s st f n) := by
  unfold freeRun
  split
  · exact .refl s
  · exact .of_eq rfl rfl rfl

theorem stands_withdraw (s : State) (b : Nat) : Stands s (withdraw s b) := by
  unfold withdraw
  dsimp only
  split
  · exact .of_eq rfl rfl rfl
  · exact .refl s

theorem stands_credit (s : State) (x n p : Nat) : Stands s (s.credit x n p) := by
  unfold State.credit
  split
  · exact stands_updCtx ..
  · exact stands_poolGive ..

theorem stands_tier (s : State) (m : Map Nat) : Stands s { s with tier := m } := .of_eq rfl rfl rfl
theorem stands_freeTier (s : State) (p : Nat) : Stands s (freeTier s p) :=
  (stands_updPage s p (fun g => { g with tierBlock := 0, tierLen := 0 }) fun _ => rfl).trans (stands_tier ..)

theorem stands_updReg (s : State) (f : Regs → Regs) : Stands s (s.updReg f) := .of_eq rfl rfl rfl

theorem stands_endChcmd (s : State) (op p st : Nat) : Stands s (endChcmd s op p st) := by
  unfold endChcmd
  split
  · exact stands_updReg ..
  · exact .refl s

theorem stands_migrations (s : State) (l : List Migration) : Stands s { s with migrations := l } := .of_eq rfl rfl rfl
theorem stands_abandonMigration (s : State) (p : Nat) : Stands s (abandonMigration s p) := by
  unfold abandonMigration
  split
  · exact ((stands_migrations ..).trans (stands_freeTier ..)).trans (stands_endChcmd ..)
  · exact .refl s

/-! ## Pages emptied -/

theorem cachesOnly_discardPage (s : State) (p : Nat) : CachesOnly s (discardPage s p) := by
  refine cachesOnly_foldl _ _ (fun s x => ?_) s
  refine (cachesOnly_dropCopies s x none).trans ?_
  dsimp only
  split
  · exact cachesOnly_updLine ..
  · exact (cachesOnly_updCore ..).trans (cachesOnly_updLine ..)

theorem cachesOnly_zeroRuns (s : State) (p : Nat) : CachesOnly s (zeroRuns s p) :=
  cachesOnly_foldl _ _ (fun _ _ => (cachesOnly_mscDrop ..).trans (cachesOnly_hbmWrite ..)) s

theorem stands_freePageRuns (s : State) (p : Nat) : Stands s (freePageRuns s p) := by
  refine (stands_foldl _ _ (fun s x => ?_) s).trans (stands_freeTier ..)
  refine Stands.trans ?_ (.of_caches (cachesOnly_mscDrop ..))
  split
  · exact stands_freeRun ..
  · exact stands_withdraw ..

theorem stands_billets (s : State) (m : Map Billet) : Stands s { s with billets := m } := .of_eq rfl rfl rfl
theorem stands_kills (s : State) (m : Map (List Nat)) : Stands s { s with kills := m } := .of_eq rfl rfl rfl

/-- An emptied page reads zero; nothing else of what stands differs. -/
theorem stands_emptyPage (s : State) (p : Nat) : Stands (zeroPage s p) (emptyPage s p).2 := by
  have hc : Stands (discardPage s p) ((((discardPage s p).billets.filter fun (b, _) => pageOfBillet b == p)).foldl
      (fun s (x : Nat × Billet) => if x.2.opened then s.credit x.2.rctx (8 - x.2.count) p else s) (discardPage s p)) := by
    refine stands_foldl _ _ (fun s x => ?_) _
    split
    · exact stands_credit ..
    · exact .refl s
  have h := (((Stands.of_caches (cachesOnly_discardPage s p)).trans hc).trans (stands_freePageRuns _ p)).zeroPage p
  exact h.trans ((stands_billets ..).trans (stands_updPage _ p _ fun _ => rfl))

/-- A page of fixed size whose contents end reads zero; nothing else of what stands differs. -/
theorem stands_clearFixed (s : State) (p : Nat) : Stands (zeroPage s p) (clearFixed s p) :=
  (((Stands.of_caches (cachesOnly_discardPage s p)).zeroPage p).trans (stands_billets ..)).trans (.of_caches (cachesOnly_zeroRuns ..))

/-- Once what goes on in a page is at its end, all that stands is as before. -/
theorem stands_pageEnds {s w : State} {p : Nat} (h : pageEnds s p = .ready w) : Stands s w := by
  unfold pageEnds at h
  dsimp only at h
  by_cases h1 : promoting (abandonMigration s p) p = true
  · rw [if_pos h1] at h; cases h
  rw [if_neg h1] at h
  by_cases h2 : (!grantHeld (abandonMigration s p) (p * 65536) true) = true
  · rw [if_pos h2] at h; cases h
  rw [if_neg h2] at h
  cases h3 : discardCloses (abandonMigration s p) p with
  | some u => rw [h3] at h; cases h
  | none =>
    rw [h3] at h
    split_ifs at h
    cases h
    exact (stands_abandonMigration s p).trans (stands_kills ..)

/-! ## Runs placed -/

theorem firstSome_some {α β : Type} {f : α → Option β} {l : List α} {y : β} (h : firstSome f l = some y) : ∃ x, f x = some y := by
  induction l with
  | nil => cases h
  | cons x xs ih =>
    simp only [firstSome] at h
    split at h
    · next hx => cases h; exact ⟨x, hx⟩
    · exact ih h

/-- A run found takes bits of its frame alone. -/
theorem allocRun_frames {s t : State} {b n st f : Nat} (h : allocRun s b n = some (st, f, t)) : t = { s with frames := t.frames } := by
  obtain ⟨k, hk⟩ := firstSome_some h
  obtain ⟨r, -, hr⟩ := Option.map_eq_some_iff.mp hk
  cases hr
  rfl

theorem allocRuns_frames {s t : State} {b n k : Nat} {rs : List (Nat × Nat)} (h : allocRuns s b n k = some (rs, t)) : t = { s with frames := t.frames } := by
  induction k generalizing t rs with
  | zero => cases h; rfl
  | succ k ih =>
    simp only [allocRuns] at h
    split at h
    · cases h
    · next u hu =>
      obtain ⟨⟨st, f, t'⟩, ht, he⟩ := Option.map_eq_some_iff.mp h
      cases he
      rw [allocRun_frames ht, ih hu]

/-- A fold of steps that may fail keeps what each step that succeeds keeps. -/
theorem stands_foldl_option {α : Type} (l : List α) (f : State → α → Option State) (hf : ∀ s x t, f s x = some t → Stands s t) {o : Option State} {s t : State}
    (ho : ∀ u, o = some u → Stands s u) (h : l.foldl (fun acc x => acc.bind fun s => f s x) o = some t) : Stands s t := by
  induction l generalizing o with
  | nil => exact ho t h
  | cons x xs ih =>
    refine ih (fun u hu => ?_) h
    obtain ⟨v, hv, hu⟩ := Option.bind_eq_some_iff.mp hu
    exact (ho v hv).trans (hf v x u hu)

theorem stands_fixedRuns {s t : State} {p : Nat} (h : fixedRuns s p = some t) : Stands s t := by
  refine stands_foldl_option _ _ (fun s i t ht => ?_) (fun u hu => by cases hu; exact .refl s) h
  obtain ⟨⟨st, f, u⟩, hu, rfl⟩ := Option.map_eq_some_iff.mp ht
  exact (Stands.of_eq (s := s) (t := u) (by rw [allocRun_frames hu]) (by rw [allocRun_frames hu]) (by rw [allocRun_frames hu])).trans (.of_eq rfl rfl rfl)

/-- The page's runs found, it is entered, its bytes being zero. -/
def pageEntered (s : State) (v x p need : Nat) (g : Page) : State :=
  let s := zeroPage (s.poolTake v need) p
  { s with pages := mapSet s.pages p g, billets := s.billets.filter fun (b, _) => pageOfBillet b != p }.updCtx x fun c => { c with backed := c.backed + 1 }

theorem stands_pageEntered {s u : State} (hu : Stands s u) (v x p need : Nat) (g : Page) :
    Stands { zeroPage s p with pages := mapSet s.pages p g } (pageEntered u v x p need g) := by
  have hz := (hu.trans (stands_poolTake u v need)).zeroPage p
  refine Stands.trans (b := { zeroPage (u.poolTake v need) p with
    pages := mapSet u.pages p g, billets := u.billets.filter fun (b, _) => pageOfBillet b != p }) ⟨hz.mem, fun q => ?_, hz.base⟩ (stands_updCtx ..)
  have hi := hz.identity q
  simp only [State.page, mapGet_set] at hi ⊢
  split
  · rfl
  · exact hi

/-- A page backed belongs to its context, is of the size asked for, and reads zero. -/
theorem backPage_done {s w : State} {v x p : Nat} {fixed : Bool} (h : backPage s v x p fixed = .done w) :
    ∃ g : Page, g.ctx = x ∧ g.fixed = fixed ∧ Stands { zeroPage s p with pages := mapSet s.pages p g } w := by
  unfold backPage at h
  cases hc : s.ctx x with
  | none => rw [hc] at h; cases h
  | some c =>
    rw [hc] at h
    dsimp only at h
    by_cases hno : ((s.page p).isSome || !inWindow s v p || !capAllows c || decide (s.poolOf v < 64 + if fixed = true then 2048 else 0)) = true
    · rw [if_pos hno] at h; cases h
    rw [if_neg hno] at h
    cases hr : allocRuns s (p * 256) 8 8 with
    | none => rw [hr] at h; cases h
    | some r =>
      obtain ⟨ds, u⟩ := r
      rw [hr] at h
      have hu : Stands s u := by rw [allocRuns_frames hr]; exact .of_eq rfl rfl rfl
      generalize (64 + if fixed = true then 2048 else 0) = need at h
      have he := stands_pageEntered hu v x p need { ctx := x, fixed := fixed, key := c.key, lastMs := u.ns / 1000000, desc := ds }
      refine ⟨_, rfl, rfl, he.trans ?_⟩
      dsimp only at h
      split at h
      · obtain rfl := Backing.done.inj h; exact .refl _
      · split at h
        · next hf => rw [← Backing.done.inj h]; exact (stands_fixedRuns hf).trans (.of_caches (cachesOnly_zeroRuns ..))
        · cases h

/-! ## Pages and billets poisoned (R56) -/

theorem billet_dropCopies (s : State) (line : Nat) (ex : Option Nat) (b : Nat) : (s.dropCopies line ex).billet b = s.billet b := by
  unfold State.dropCopies
  generalize s.sharerCores (s.line line).sharers = cs
  induction cs generalizing s with
  | nil => rfl
  | cons c cs ih =>
    rw [List.foldl_cons, ih]
    split <;> rfl

theorem billet_reportPoison (s : State) (ea b : Nat) : (s.reportPoison ea).billet b = s.billet b := by
  rw [reportPoison_eq]; rfl

@[simp] theorem billet_updLine (s : State) (l : Nat) (f : Line → Line) (b : Nat) : (s.updLine l f).billet b = s.billet b := rfl

theorem billet_markPoison (s : State) (b c : Nat) :
    (s.markPoison b).billet c = if c = b then { s.billet b with poison := true, written := 0 } else s.billet c := by
  unfold State.markPoison
  simp only [billet_updLine, billet_updBillet, billet_dropCopies]

theorem poison_poisonBillet (s : State) (b c : Nat) : ((s.poisonBillet b).billet c).poison = (decide (c = b) || (s.billet c).poison) := by
  unfold State.poisonBillet
  split
  · next h => by_cases hc : c = b <;> simp [hc, h]
  · rw [billet_reportPoison, billet_markPoison]
    by_cases hc : c = b <;> simp [hc]

/-- Steps each of which poisons its billet and clears no other leave all their billets poisoned. -/
theorem poison_foldl {f : State → Nat → State} {n : Nat → Nat} (hf : ∀ s i c, ((f s i).billet c).poison = (decide (c = n i) || (s.billet c).poison))
    (l : List Nat) (s : State) {c : Nat} (h : (s.billet c).poison = true ∨ c ∈ l.map n) : ((l.foldl f s).billet c).poison = true := by
  induction l generalizing s with
  | nil => simpa using h
  | cons i is ih =>
    refine ih _ ?_
    rw [hf]
    rcases h with h | h
    · simp [h]
    · rcases List.mem_cons.mp h with rfl | h
      · simp
      · exact .inr h

theorem poison_poisonBillets (s : State) (p : Nat) {i : Nat} (hi : i < 256) : ((s.poisonBillets p).billet (p * 256 + i)).poison = true :=
  poison_foldl (n := fun i => p * 256 + i) (fun s _ => poison_poisonBillet s _) _ s
    (.inr (List.mem_map.mpr ⟨i, List.mem_range.mpr hi, rfl⟩))

theorem poison_poisonPage (s : State) (p : Nat) {i : Nat} (hi : i < 256) : ((s.poisonPage p).billet (p * 256 + i)).poison = true := by
  unfold State.poisonPage
  split
  · next h => simpa using List.all_eq_true.mp h i (List.mem_range.mpr hi)
  · rw [billet_reportPoison]
    refine poison_foldl (n := fun i => p * 256 + i) (fun s i c => ?_) _ s (.inr (List.mem_map.mpr ⟨i, List.mem_range.mpr hi, rfl⟩))
    split
    · next h => by_cases hc : c = p * 256 + i <;> simp [hc, h]
    · rw [billet_markPoison]
      by_cases hc : c = p * 256 + i <;> simp [hc]

end Sys2Proof.Machine
end

section
/-! PROOFS. Pages sent out and taken in under the migration key, and key slots (R29, R428). -/

namespace Sys2Proof.Machine

/-! ## A migration abandoned (R86) -/

theorem endChcmd_migrations (s : State) (op p st : Nat) : (endChcmd s op p st).migrations = s.migrations := by
  unfold endChcmd
  split
  · rw [setChcmd, updReg_migrations]
  · rfl

/-- The page's migrations to the tier, and no others, are given up. -/
theorem abandonMigration_migrations (s : State) (p : Nat) :
    (abandonMigration s p).migrations = s.migrations.filter fun m => !(m.page == p && !m.up) := by
  unfold abandonMigration
  split
  · simp [endChcmd_migrations, freeTier]
  · next h => rw [List.filter_eq_self.mpr]; simpa [← imp_iff_not_or] using h

theorem mem_abandonAll {ms : List Migration} {s : State} {m : Migration} (h : m ∈ (ms.foldl (fun s m => abandonMigration s m.page) s).migrations) :
    m ∈ s.migrations ∧ (m.up = false → ∀ x ∈ ms, x.page ≠ m.page) := by
  induction ms generalizing s with
  | nil => exact ⟨h, fun _ _ hx => absurd hx List.not_mem_nil⟩
  | cons x xs ih =>
    obtain ⟨hm, hu⟩ := ih h
    rw [abandonMigration_migrations, List.mem_filter] at hm
    refine ⟨hm.1, fun hup y hy => ?_⟩
    rcases List.mem_cons.mp hy with rfl | hy
    · intro he
      simp [he, hup] at hm
    · exact hu hup y hy

/-- The migrations to the tier of the pages under the slot's key. -/
def slotMigrations (s : State) (n : Nat) : List Migration := s.migrations.filter fun m => !m.up && ((s.page m.page).map Page.key) == some n
/-- The state once they are given up. -/
def slotAbandoned (s : State) (n : Nat) : State := (slotMigrations s n).foldl (fun s m => abandonMigration s m.page) s

theorem stands_slotAbandoned (s : State) (n : Nat) : Stands s (slotAbandoned s n) :=
  stands_foldl _ _ (fun s (m : Migration) => stands_abandonMigration s m.page) s

theorem exec_keySlotRelease_next (s : State) (n : Nat) : exec (.keySlotRelease n) s = .next { slotAbandoned s n with
    slovi := { (slotAbandoned s n).slovi with keys := mapErase (slotAbandoned s n).slovi.keys n } } := rfl

/-- A key slot given back: the migrations to the tier of the pages under its key are given up (R29). -/
theorem keySlotReleased (s : State) (n : Nat) : Happens (.keySlotRelease n) s fun u => mapGet? u.slovi.keys n = none ∧ u.mem = s.mem ∧
    ∀ q m, findMig u q false = some m → (s.page q).map Page.key ≠ some n := by
  refine ⟨_, exec_keySlotRelease_next s n, by simp [mapGet_erase], (stands_slotAbandoned s n).mem, fun q m hm hk => ?_⟩
  have hq := List.find?_some hm
  simp only [Bool.and_eq_true, beq_iff_eq] at hq
  obtain ⟨hms, hno⟩ := mem_abandonAll (List.mem_of_find?_eq_some hm)
  refine hno hq.2 m (List.mem_filter.mpr ⟨hms, ?_⟩) rfl
  rw [hq.1, hk, hq.2]
  simp

/-! ## The page that is to be filled (R428) -/

/-- The page that an image is to fill stands in its window as before. -/
theorem importPage_base {s w : State} {v n p : Nat} {fixed : Bool} (h : importPage s v n p = .ready w fixed) : (w.vd v).base = (s.vd v).base := by
  unfold importPage at h
  split at h
  · by_cases hw : (!inWindow s v p) = true
    · rw [if_pos hw] at h; cases h
    rw [if_neg hw] at h
    cases he : pageEnds s p with
    | waits u => rw [he] at h; cases h
    | ready u =>
      rw [he] at h
      have hu := stands_pageEnds he
      dsimp only at h
      split at h
      · obtain rfl := (Importing.ready.inj h).1
        exact ((stands_clearFixed u p).base v).trans (hu.base v)
      · obtain rfl := (Importing.ready.inj h).1
        exact (((stands_emptyPage u p).trans (stands_poolGive ..)).base v).trans (hu.base v)
  · split at h
    · next hb =>
      obtain rfl := (Importing.ready.inj h).1
      obtain ⟨x, -, hx⟩ := Option.map_eq_some_iff.mp hb
      obtain ⟨g, -, -, hw⟩ := backPage_done hx
      exact hw.base v
    all_goals cases h

/-! ## The statement -/

/-- Settles O59, clause by clause: a page sent out, a page taken in, and the key slots. -/
theorem pageImages : Obligations.PageImages := by
  intro s v n p key hkey
  refine ⟨fun bad w => ?_, fun w fixed img h => ?_, fun w img h hne => ?_, fun img h => ?_, fun h => ?_, keySlotReleased s n⟩
  · intro ls hp hw hc hr
    have hall : ls.all s.calm = true := List.all_eq_true.mpr hc
    have hn : ((s.page p).isNone || !inWindow s v p) = false := by rw [hw, ← Option.not_isSome, hp]; rfl
    have hx : exec (.pageExport v p) s = match (if bad || pagePoisoned w p then none else if inTier w p then tierValue w p else pageWords w p) with
        | none => .next { w with hostBytes := [] }
        | some ws => .next { w with hostBytes := crypt Config.xtsEncrypt key ((p - (w.vd v).base) * 32) (tierImage ws) } := by
      rw [exec_pageExport, execPageExport]
      dsimp only
      rw [hkey]
      dsimp only
      rw [if_neg (by rw [hn]; exact Bool.false_ne_true), if_neg (by rw [hall]; exact Bool.false_ne_true), hr] <;> rfl
    refine ⟨fun ws hb hps hws => ?_, fun hb => ?_⟩
    · rw [hb, hps, Bool.or_self, if_neg Bool.false_ne_true, hws] at hx
      exact ⟨_, hx, rfl, rfl⟩
    · rw [if_pos (by simpa using hb)] at hx
      exact ⟨_, hx, rfl, rfl⟩
  · rw [importPage_base h]
    cases hd : tierDecode (crypt Config.xtsDecrypt key ((p - (s.vd v).base) * 32) img) with
    | some ws =>
      intro z fz hz
      refine ⟨{ z with hostRd := 0 }, ?_, rfl, rfl, rfl⟩
      simp only [exec_pageImport, execPageImport, hkey, h, hd, hz]
    | none =>
      refine ⟨_, by simp only [exec_pageImport, execPageImport, hkey, h, hd]; rfl, ?_, fun i hi => poison_poisonPage _ p hi⟩
      rw [cachesOnly_poisonPage { w with hostRd := 0 } p]
  · exact ⟨{ w with hostRd := 1 }, by simp only [exec_pageImport, execPageImport, hkey, h, if_neg hne], rfl, rfl, rfl⟩
  · exact ⟨{ s with hostRd := 2 }, by simp only [exec_pageImport, execPageImport, hkey, h], rfl, rfl, rfl⟩
  · refine ⟨{ s with slovi := { s.slovi with keys := mapSet s.slovi.keys n (Config.randomDraw s.slovi.draws), draws := s.slovi.draws + 1 } },
      by rw [exec_keySlotFill, execKeySlotFill, h]; rfl, ?_, rfl, rfl⟩
    simp [mapGet_set]

end Sys2Proof.Machine
end

section
/-! PROOFS. The driver's page commands, the Thinning doorbell, compaction and scrubbing (R30, R39, R42, R56, R62, R63, R84, R418). -/

namespace Sys2Proof.Machine

/-! ## A page that reads zero -/

theorem cellGet_filter {w : Nat} (c : Cells w) (q : Nat → Bool) (i : Nat) : cellGet (c.filter fun (a, _) => q a) i = if q i then cellGet c i else 0 := by
  induction c with
  | nil => simp
  | cons x xs ih =>
    obtain ⟨k, v⟩ := x
    rw [List.filter_cons]
    by_cases hq : q k = true
    · rw [if_pos hq, cellGet, cellGet, ih]
      by_cases hi : i = k
      · rw [if_pos hi, if_pos hi, hi, if_pos hq]
      · rw [if_neg hi, if_neg hi]
    · rw [if_neg hq, ih, cellGet]
      by_cases hi : i = k
      · rw [hi, if_neg hq, if_neg hq]
      · rw [if_neg hi]

/-- The bytes of one page are zero, and no other byte differs. -/
def PageZeroed (s u : State) (p : Nat) : Prop := MemoryKept s u (fun a => pageOf a = p) ∧ ∀ a, pageOf a = p → u.readMem a 1 = [0]

theorem pageZeroed_of_mem {s u : State} {p : Nat} (h : u.mem = (zeroPage s p).mem) : PageZeroed s u p := by
  have hr : ∀ a, u.readMem a 1 = [if pageOf a != p then cellGet s.mem a else 0] := fun a => by
    simp only [State.readMem, h, zeroPage, cellsGet, List.range_one, List.map_cons, List.map_nil, Nat.add_zero]
    rw [cellGet_filter s.mem fun a => pageOf a != p]
  refine ⟨fun a ha => ?_, fun a ha => ?_⟩
  · rw [hr, if_pos (by simpa using ha)]
    rfl
  · rw [hr, if_neg (by simpa using ha)]

/-! ## Backing (R30, R39) -/

variable {s : State} {v n p : Nat}

theorem backCommand_done {x op : Nat} {fixed : Bool} {w : State} (hx : ctxOf s v n = some x) (hb : backPage s v x p fixed = .done w) :
    backCommand s op v n p fixed = .next (setBm w v op n p 0) := by
  simp only [backCommand, hx, Option.map_some, hb]

/-- A page backed is there, its context's, and zero. -/
theorem backed_spec {x op : Nat} {fixed : Bool} {w : State} (hb : backPage s v x p fixed = .done w) :
    (∃ g, (setBm w v op n p 0).page p = some g ∧ g.ctx = x ∧ g.fixed = fixed) ∧ PageZeroed s (setBm w v op n p 0) p := by
  obtain ⟨g, hgx, hgf, hw⟩ := backPage_done hb
  have hu := hw.trans (stands_setBm w v op n p 0)
  have hp : State.page { zeroPage s p with pages := mapSet s.pages p g } p = some g := by simp [State.page, mapGet_set]
  obtain ⟨g', hg', h1, h2, -⟩ := hu.page_some hp
  exact ⟨⟨g', hg', h1.trans hgx, h2.trans hgf⟩, pageZeroed_of_mem hu.mem⟩

/-- A page that is backed is not backed again (R418). -/
theorem backCommand_backed {op : Nat} {fixed : Bool} (hp : (s.page p).isSome = true) : backCommand s op v n p fixed = .next (setBm s v op n p 2) := by
  have hr : ∀ x, backPage s v x p fixed = .rejected := fun x => by
    unfold backPage
    split
    · rfl
    · exact if_pos (by rw [hp, Bool.true_or, Bool.true_or, Bool.true_or])
  unfold backCommand
  cases ctxOf s v n with
  | none => rfl
  | some x => rw [Option.map_some, hr]

/-! ## Unbacking and reassigning (R30, R418) -/

theorem unbackPage_mem (s : State) (p : Nat) (pg : Page) : (unbackPage s p pg).mem = (zeroPage s p).mem :=
  ((stands_emptyPage s p).trans ((stands_foldl pg.desc _ (fun s d => stands_freeRun s d.1 d.2 8) _).trans
    ((stands_poolGive _ (s.vdOfPage p) ((emptyPage s p).1 + 64)).trans (stands_updCtx ..)))).mem

theorem unbackPage_page (s : State) (p : Nat) (pg : Page) : (unbackPage s p pg).page p = none := by
  simp [unbackPage, State.page, mapGet_erase]

/-- A page unbacked is gone, and reads zero. -/
theorem unback_spec {g : Page} {w : State} (hp : s.page p = some g) (hw : inWindow s v p = true) (hx : (ctxOf s v n).isSome = true)
    (he : pageEnds s p = .ready w) : exec (.unback v n p) s = .next (setBm (unbackPage w p g) v 3 n p 0) ∧
      (setBm (unbackPage w p g) v 3 n p 0).page p = none ∧ PageZeroed s (setBm (unbackPage w p g) v 3 n p 0) p := by
  refine ⟨?_, unbackPage_page w p g, pageZeroed_of_mem ?_⟩
  · simp only [exec_unback, execUnback, hp, hw, hx, Bool.and_self, if_true, pageCommand, he]
  · exact ((stands_setBm ..).mem.trans (unbackPage_mem w p g)).trans ((stands_pageEnds he).zeroPage p).mem

theorem ownPage_page {pg g : Page} (hg : s.page p = some g) (x : Nat) (c : Ctx) : (ownPage s p pg x c).page p = some { g with ctx := x, key := c.key } := by
  have h : ∀ (u : State) (y : Nat) (f : Ctx → Ctx), (u.updCtx y f).page p = u.page p := fun u y f => by rw [State.page, updCtx_pages]; rfl
  rw [ownPage, page_updPage, if_pos rfl, h, h, hg, Option.map_some]

theorem ownPage_mem (s : State) (p : Nat) (pg : Page) (x : Nat) (c : Ctx) : (ownPage s p pg x c).mem = s.mem := by
  rw [ownPage, updPage_mem, updCtx_mem, updCtx_mem]

/-- The page handed over is the new owner's, under its key, and zero. -/
theorem reassignPage_spec {pg g : Page} (hg : s.page p = some g) (x : Nat) (c : Ctx) :
    (∃ g', (reassignPage s p pg x c).page p = some g' ∧ g'.ctx = x ∧ g'.key = c.key) ∧ (reassignPage s p pg x c).mem = (zeroPage s p).mem := by
  unfold reassignPage
  split
  · have h := stands_clearFixed (ownPage s p pg x c) p
    obtain ⟨g', hg', h1, -, h2⟩ := h.page_some (ownPage_page hg x c)
    refine ⟨⟨g', hg', h1, h2⟩, h.mem.trans ?_⟩
    rw [zeroPage, ownPage_mem]; rfl
  · have h := (stands_emptyPage s p).trans (stands_poolGive _ ((emptyPage s p).2.vdOfPage p) (emptyPage s p).1)
    obtain ⟨g', hg', -⟩ := h.page_some hg
    exact ⟨⟨_, ownPage_page hg' x c, rfl, rfl⟩, (ownPage_mem ..).trans h.mem⟩

section
variable {g : Page} {x : Nat} {c : Ctx} (hp : s.page p = some g) (hx : ctxOf s v n = some x) (hc : s.ctx x = some c) (hw : inWindow s v p = true)
  (ho : g.ctx = x ∨ capAllows c = true)
include hp hx hc hw ho

/-- A page that is handed over under the same key keeps its bytes. -/
theorem reassign_sameKey (hk : g.key = c.key) : exec (.reassign v n p) s = .next (setBm (ownPage (abandonMigration s p) p g x c) v 4 n p 0) ∧
    (∃ g', (setBm (ownPage (abandonMigration s p) p g x c) v 4 n p 0).page p = some g' ∧ g'.ctx = x ∧ g'.key = c.key) ∧
    (setBm (ownPage (abandonMigration s p) p g x c) v 4 n p 0).mem = s.mem := by
  have ho' : (inWindow s v p && (g.ctx == x || capAllows c)) = true := by simpa [hw] using ho
  obtain ⟨g', hg', -⟩ := (stands_abandonMigration s p).page_some hp
  refine ⟨?_, ⟨_, ownPage_page hg' x c, rfl, rfl⟩, (ownPage_mem ..).trans (stands_abandonMigration s p).mem⟩
  simp only [exec_reassign, execReassign, hp, hx, hc, Option.bind_some, Option.map_some, ho', Bool.not_true, Bool.false_eq_true, if_false, hk, if_true]

/-- A page that is handed over under another key reads zero. -/
theorem reassign_otherKey {w : State} (hk : g.key ≠ c.key) (he : pageEnds s p = .ready w) :
    exec (.reassign v n p) s = .next (setBm (reassignPage w p g x c) v 4 n p 0) ∧
    (∃ g', (setBm (reassignPage w p g x c) v 4 n p 0).page p = some g' ∧ g'.ctx = x ∧ g'.key = c.key) ∧
    PageZeroed s (setBm (reassignPage w p g x c) v 4 n p 0) p := by
  have ho' : (inWindow s v p && (g.ctx == x || capAllows c)) = true := by simpa [hw] using ho
  obtain ⟨g', hg', -⟩ := (stands_pageEnds he).page_some hp
  obtain ⟨hpg, hm⟩ := reassignPage_spec (pg := g) hg' x c
  refine ⟨?_, hpg, pageZeroed_of_mem (hm.trans ((stands_pageEnds he).zeroPage p).mem)⟩
  simp only [exec_reassign, execReassign, hp, hx, hc, Option.bind_some, Option.map_some, ho', Bool.not_true, Bool.false_eq_true, if_false, hk, pageCommand, he]

end

theorem pageCommands : Part.PageCommands := by
  intro s v n p
  refine ⟨fun x w hx hb => ?_, fun x w hx hb => ?_, fun hp => ⟨?_, ?_⟩, fun hp => ⟨?_, ?_⟩, fun g w hp hw hx he => ?_, fun g x c hp hx hc hw ho => ⟨fun hk => ?_, fun w hk he => ?_⟩,
    fun g w hp hw hx he hne => ?_⟩
  · exact ⟨_, backCommand_done hx hb, setBm_bmcmd .., backed_spec hb⟩
  · exact ⟨_, backCommand_done hx hb, setBm_bmcmd .., backed_spec hb⟩
  · exact ⟨_, backCommand_backed hp, setBm_bmcmd .., rfl, rfl⟩
  · exact ⟨_, backCommand_backed hp, setBm_bmcmd .., rfl, rfl⟩
  · exact ⟨_, by simp only [exec_unback, execUnback, hp], setBm_bmcmd .., rfl, rfl⟩
  · exact ⟨_, by simp only [exec_reassign, execReassign, hp], setBm_bmcmd .., rfl, rfl⟩
  · obtain ⟨h1, h2⟩ := unback_spec hp hw hx he
    exact ⟨_, h1, setBm_bmcmd .., h2⟩
  · obtain ⟨h1, h2⟩ := reassign_sameKey hp hx hc hw ho hk
    exact ⟨_, h1, setBm_bmcmd .., h2⟩
  · obtain ⟨h1, h2⟩ := reassign_otherKey hp hx hc hw ho hk he
    exact ⟨_, h1, setBm_bmcmd .., h2⟩
  · refine ⟨setBm w v 3 n p 1, ?_, setBm_bmcmd .., rfl, rfl⟩
    simp only [exec_unback, execUnback, hp, hw, hx, Bool.and_self, if_true, pageCommand, he, bmBusy, if_neg hne]

/-! ## The Thinning doorbell (R62) -/

theorem leBytes_succ (n w : Nat) : leBytes (n + 1) w = BitVec.ofNat 8 w :: leBytes n (w / 256) := by
  rw [leBytes, List.range_succ_eq_map, List.map_cons, List.map_map]
  refine congrArg₂ List.cons (by simp) (List.map_congr_left fun i _ => ?_)
  rw [Function.comp_apply, Nat.div_div_eq_div_mul, show 8 * i.succ = 8 + 8 * i by omega, Nat.pow_add]

/-- Bytes written of a number give it back, so far as they hold it. -/
theorem leNat_leBytes (n w : Nat) : leNat (leBytes n w) = w % 2 ^ (8 * n) := by
  induction n generalizing w with
  | zero => simp [leBytes, leNat, Nat.mod_one]
  | succ n ih =>
    rw [leBytes_succ, leNat, ih, BitVec.toNat_ofNat, show 8 * (n + 1) = 8 + 8 * n by omega, Nat.pow_add, Nat.mod_mul]

theorem length_leBytes (n w : Nat) : (leBytes n w).length = n := by simp [leBytes]

/-- Clearing PEND in a mailbox's word leaves its bit 47 clear (R62). -/
theorem bit_mailbox_clear (m : DWord) : bit (mailbox (setBit m 47 false)) 47 = false := by
  simp [bit, mailbox, setBit]

/-- The bits from 48 on, SEQ, are what they were: the masks lie below. -/
theorem fld_mailbox_seq (m : DWord) : fld (mailbox (setBit m 47 false)) 63 48 = fld m 63 48 := by
  have hfld : ∀ w : DWord, fld w 63 48 = (w.extractLsb' 48 16).toNat := fun w => by simp [fld, BitVec.extractLsb'_toNat, Nat.shiftRight_eq_div_pow]
  rw [hfld, hfld]
  refine congrArg BitVec.toNat (BitVec.eq_of_getLsbD_eq fun i hi => ?_)
  have h1 : (BitVec.ofNat 64 (1023 * 2 ^ 36)).getLsbD (48 + i) = false := by
    rw [BitVec.getLsbD_ofNat, Nat.testBit_lt_two_pow (lt_of_lt_of_le (by norm_num) (Nat.pow_le_pow_right (n := 2) (by decide) (Nat.le_add_right 48 i))), Bool.and_false]
  have h2 : ((1#64) <<< 47).getLsbD (48 + i) = false := by
    rw [BitVec.getLsbD_shiftLeft]
    simp
    omega
  simp only [mailbox, setBit, Bool.false_eq_true, if_false, BitVec.getLsbD_extractLsb', BitVec.getLsbD_and, BitVec.getLsbD_not, h1, h2, hi, decide_true,
    Bool.true_and, show 48 + i < 64 by omega, Bool.not_false, Bool.and_true]

/-- A health record begins with its kind. -/
theorem healthRecord_kind (q a : Nat) : (healthRecord 4 0 0 0 0 q 0 0 0 0 0 a).take 1 = [4] := rfl

/-- A health record's bytes 8 and 9 are its queue or sequence number. -/
theorem healthRecord_queue (q a : Nat) : leNat (((healthRecord 4 0 0 0 0 q 0 0 0 0 0 a).drop 8).take 2) = q % 65536 := leNat_leBytes 2 q

theorem thinningDoorbell_taken {s w : State} {b : Nat} {c d : Ctx} {bs : List Byte} (hc : s.ctx b = some c) (hp : s.posted b = true)
    (hr : readAt s c.ccb 8 = .ok bs w) (hd : w.ctx b = some d) :
    let m := mailbox (BitVec.ofNat 64 (leNat bs))
    ((bit m 47 = false ∨ fld m 35 0 ≠ 0) → Happens (.thinningDoorbell b) s fun u => u.mem = w.mem ∧ u.posts = w.posts ∧ ∃ cu, u.ctx b = some cu ∧ cu.balloon = m) ∧
    (bit m 47 = true → fld m 35 0 = 0 → Happens (.thinningDoorbell b) s fun u => u.mem = w.mem ∧
      (∃ cu, u.ctx b = some cu ∧ bit cu.balloon 47 = false ∧ fld cu.balloon 63 48 = fld m 63 48) ∧
      ∃ x r, u.posts = w.posts ++ [.bytes b d.ccb x, .health b r] ∧ bit (BitVec.ofNat 64 (leNat x)) 47 = false ∧ r.take 1 = [4] ∧
        leNat ((r.drop 8).take 2) = fld m 63 48) := by
  intro m
  have hx : exec (.thinningDoorbell b) s = if bit m 47 && fld m 35 0 == 0 then .next (notifyThinned (setMailbox w b (setBit m 47 false)) b m)
      else .next (w.updCtx b fun c => { c with balloon := m }) := by
    simp only [exec_thinningDoorbell, execThinningDoorbell, hc, hp, hr, Bool.not_true, Bool.false_eq_true, if_false]
    rfl
  refine ⟨fun hno => ⟨_, hx.trans (if_neg ?_), updCtx_mem .., ?_, ?_⟩, fun h47 h0 => ⟨_, hx.trans (if_pos (by simp [h47, h0])), ?_⟩⟩
  · rcases hno with h | h <;> simp [h]
  · simp
  · simp [hd]
  · simp only [setMailbox, hd, notifyThinned, State.postCtx]
    refine ⟨by simp, ⟨{ d with balloon := mailbox (setBit m 47 false) }, ?_, bit_mailbox_clear m, fld_mailbox_seq m⟩, leBytes 8 (mailbox (setBit m 47 false)).toNat,
      healthRecord 4 0 0 0 0 (fld m 63 48) 0 0 0 0 0 w.ns, ?_, ?_, healthRecord_kind .., ?_⟩
    · show (w.updCtx b _).ctx b = _
      rw [ctx_updCtx, if_pos rfl, hd, Option.map_some]
    · simp
    · rw [leNat_leBytes, Nat.mod_eq_of_lt (BitVec.isLt _), BitVec.ofNat_toNat, BitVec.setWidth_eq]
      exact bit_mailbox_clear m
    · rw [healthRecord_queue]
      exact Nat.mod_eq_of_lt (Nat.mod_lt _ (by decide))

/-! ## The scrubber (R84) -/

section
variable {b : Nat} (hp : (s.page (pageOfBillet b)).isSome = true) (he : s.errors = [])
include hp he

theorem execPatrolScrub_noError (k : ErrKind) : exec (.patrolScrub b k) s = match k with
    | .clean => .next s
    | .correctable => .next (s.updReg fun r => { r with corrections := r.corrections + 1 })
    | .uncorrectable => .next (if (s.billet b).held ≠ 0 then s.poisonBillet b else s.poisonBillets (pageOfBillet b)) := by
  have hn : (s.page (pageOfBillet b)).isNone = false := by rw [← Option.not_isSome, hp]; rfl
  simp only [exec_patrolScrub, execPatrolScrub, hn, Bool.false_eq_true, if_false, takeError_none he, ite_self] <;> rfl

theorem patrolScrub_spec : (exec (.patrolScrub b .clean) s = .next s) ∧
    (Happens (.patrolScrub b .correctable) s fun u => u.mem = s.mem ∧ u.regs.corrections = s.regs.corrections + 1) ∧
    ((s.billet b).held ≠ 0 → Happens (.patrolScrub b .uncorrectable) s fun u => u.mem = s.mem ∧ (u.billet b).poison = true) ∧
    ((s.billet b).held = 0 → Happens (.patrolScrub b .uncorrectable) s fun u => u.mem = s.mem ∧ ∀ i, i < 256 → (u.billet (pageOfBillet b * 256 + i)).poison = true) := by
  refine ⟨execPatrolScrub_noError hp he .clean, ⟨_, execPatrolScrub_noError hp he .correctable, rfl, rfl⟩, fun hh => ?_, fun hh => ?_⟩
  · refine ⟨_, execPatrolScrub_noError hp he .uncorrectable, ?_⟩
    rw [if_pos hh]
    exact ⟨(cachesOnly_poisonBillet s b).mem, by rw [poison_poisonBillet]; simp⟩
  · refine ⟨_, execPatrolScrub_noError hp he .uncorrectable, ?_⟩
    rw [if_neg (by simpa using hh)]
    exact ⟨(cachesOnly_poisonBillets s _).mem, fun i hi => poison_poisonBillets s _ hi⟩

end

/-! ## Compaction (R42) -/

/-- Without errors waiting, a run leaves the memory-side cache for HBM4, and nothing else differs. -/
theorem mscRemove_noError {s : State} (he : s.errors = []) (b : Nat) : mscRemove s b = { s with msc := (mscRemove s b).msc, hbm := (mscRemove s b).hbm } := by
  have hw : mscWrite s b = { s with msc := (mscWrite s b).msc, hbm := (mscWrite s b).hbm } := by
    unfold mscWrite
    split
    · simp only [takeError_none he, Bool.false_eq_true, if_false]
      split <;> rfl
    · rfl
  unfold mscRemove mscDrop
  rw [hw]

theorem freeRun_frames (s : State) (st f n : Nat) : freeRun s st f n = { s with frames := (freeRun s st f n).frames } := by
  unfold freeRun
  split <;> rfl

/-- A run moved: the billet's place alone differs, once its old place is given up. -/
theorem runMoved_spec {s u : State} (hu : u = { s with msc := u.msc, hbm := u.hbm }) (b : Nat) (fr : Map (BitVec 8)) (st se n : Nat) (g : Billet → Billet) :
    ((freeRun { u with frames := fr } st se n).updBillet b g).mem = s.mem ∧ ((freeRun { u with frames := fr } st se n).updBillet b g).billet b = g (s.billet b) ∧
      ∀ x, x ≠ b → ((freeRun { u with frames := fr } st se n).updBillet b g).billet x = s.billet x := by
  rw [freeRun_frames, hu]
  refine ⟨rfl, ?_, fun x hx => ?_⟩
  · rw [billet_updBillet, if_pos rfl]; rfl
  · rw [billet_updBillet, if_neg hx]; rfl

theorem compaction_spec {b f o : Nat} (he : s.errors = []) (hm : movable (s.billet b) = true) (hf : f < Config.numStacks * Config.framesPerStack)
    (hr : runFits ((mapGet? s.frames f).getD 0) (s.billet b).nsec = some o) : Happens (.compaction b f) s fun u => u.mem = s.mem ∧
      u.billet b = { s.billet b with stack := f / Config.framesPerStack, sect := BitVec.ofNat 32 (f % Config.framesPerStack * 8 + o) } ∧
      ∀ x, x ≠ b → u.billet x = s.billet x := by
  have hc : (!movable (s.billet b) || decide (Config.numStacks * Config.framesPerStack ≤ f)) = false := by
    rw [hm, decide_eq_false (Nat.not_le.mpr hf)]; rfl
  have hm' := mscRemove_noError he b
  simp only [Happens, exec_compaction, execCompaction, hc, Bool.false_eq_true, if_false, hr]
  rw [takeError_none (by rw [hm']; exact he)]
  simp only [Bool.false_eq_true, if_false]
  split
  · exact ⟨_, rfl, runMoved_spec (by rw [hm']; rfl) ..⟩
  · exact ⟨_, rfl, runMoved_spec hm' ..⟩

theorem upkeep : Part.Upkeep := by
  intro s w b f
  refine ⟨fun c d bs hc hp hr hd => thinningDoorbell_taken hc hp hr hd, fun o he => ?_, fun hp he => patrolScrub_spec hp he⟩
  intro d h1 h2 h3 h4 h5 h6 h7 hf hr
  exact compaction_spec he (by simp [movable, d, h1, h2, h3, h4, h5, h6, h7]) hf hr

/-- Settles O53: the driver's page commands, the Thinning doorbell, compaction and scrubbing. -/
theorem pageUpkeep : Obligations.PageUpkeep := ⟨pageCommands, upkeep⟩

end Sys2Proof.Machine
end

section
/-! PROOFS. The billets' classes: the encoder's choice, the size of a payload, and the way back from it (R32 to R35). -/

namespace Sys2Proof.Machine

/-! ## The choice of a class (R33) -/

/-- The encoder's fold: it keeps one of the candidates or what it began with, of the fewest sectors. -/
theorem fewest_foldl (cs : List (Nat × Nat)) (best : Nat × Nat) :
    let r := cs.foldl (fun best c => if c.2 < best.2 then c else best) best
    (r = best ∨ r ∈ cs) ∧ r.2 ≤ best.2 ∧ ∀ c ∈ cs, r.2 ≤ c.2 := by
  induction cs generalizing best with
  | nil => exact ⟨.inl rfl, Nat.le_refl _, fun c hc => absurd hc List.not_mem_nil⟩
  | cons c cs ih =>
    obtain ⟨h1, h2, h3⟩ := ih (if c.2 < best.2 then c else best)
    have hle : (if c.2 < best.2 then c else best).2 ≤ best.2 ∧ (if c.2 < best.2 then c else best).2 ≤ c.2 := by split <;> omega
    refine ⟨?_, h2.trans hle.1, fun d hd => ?_⟩
    · rcases h1 with h1 | h1
      · rw [List.foldl_cons, h1]
        split
        · exact .inr List.mem_cons_self
        · exact .inl rfl
      · exact .inr (List.mem_cons_of_mem _ h1)
    · rcases List.mem_cons.mp hd with rfl | hd
      · exact h2.trans hle.2
      · exact h3 d hd

theorem mem_candidates {ws : List Word} {c : Nat × Nat} (h : c ∈ candidates ws) :
    (c = (0, 0) ∧ nonzeroWords ws = 0) ∨ (c = (1, 0) ∧ ∀ w ∈ ws, w = ws.headD 0) ∨ (c = (2, 3) ∧ deltasFit ws (-128) 127 = true) ∨
    (c = (3, swSectors (nonzeroWords ws)) ∧ 1 ≤ nonzeroWords ws ∧ nonzeroWords ws ≤ 54) ∨ (c = (4, 5) ∧ deltasFit ws (-32768) 32767 = true) ∨ c = (5, 8) := by
  simp only [candidates, List.mem_append, List.mem_ite_nil_right, List.mem_singleton, Bool.and_eq_true, List.all_eq_true, beq_iff_eq] at h
  tauto

/-- The class that needs no condition is among the candidates, so the encoder's choice is too, and of at most its size. -/
theorem encodeClass_spec (ws : List Word) : encodeClass ws ∈ candidates ws ∧ (∀ c ∈ candidates ws, (encodeClass ws).2 ≤ c.2) ∧ (encodeClass ws).2 ≤ 8 := by
  obtain ⟨h1, -, h3⟩ := fewest_foldl (candidates ws) (5, 9)
  have h5 : (5, 8) ∈ candidates ws := List.mem_append_right _ List.mem_cons_self
  have h8 := h3 _ h5
  refine ⟨h1.resolve_left fun h => ?_, h3, h8⟩
  rw [h] at h8
  exact absurd h8 (by decide)

/-! ## Words and their bytes -/

theorem length_wordBytes (w : Word) : (wordBytes w).length = 4 := length_leBytes 4 _

theorem ofNat_leNat_wordBytes (w : Word) : BitVec.ofNat 32 (leNat (wordBytes w)) = w := by
  rw [wordBytes, leNat_leBytes, Nat.mod_eq_of_lt w.isLt, BitVec.ofNat_toNat, BitVec.setWidth_eq]

theorem toWords_wordBytes_append (w : Word) (bs : List Byte) : toWords (wordBytes w ++ bs) = w :: toWords bs := by
  have hw : wordBytes w = [BitVec.ofNat 8 w.toNat, BitVec.ofNat 8 (w.toNat / 256), BitVec.ofNat 8 (w.toNat / 256 / 256), BitVec.ofNat 8 (w.toNat / 256 / 256 / 256)] := by
    rw [wordBytes, leBytes_succ, leBytes_succ, leBytes_succ, leBytes_succ]; rfl
  have h := ofNat_leNat_wordBytes w
  rw [hw] at h ⊢
  exact congrArg₂ List.cons h rfl

theorem toWords_flatMap (ws : List Word) : toWords (ws.flatMap wordBytes) = ws := by
  induction ws with
  | nil => rfl
  | cons w ws ih => rw [List.flatMap_cons, toWords_wordBytes_append, ih]

theorem length_flatMap_const {α β : Type} {f : α → List β} {k : Nat} (hf : ∀ x, (f x).length = k) (l : List α) : (l.flatMap f).length = k * l.length := by
  induction l with
  | nil => rfl
  | cons x xs ih => rw [List.flatMap_cons, List.length_append, ih, hf, List.length_cons]; ring

/-- Pieces of one length, one after another, are found again at their places. -/
theorem map_take_drop_flatMap {α β : Type} {f : α → List β} {k : Nat} (hf : ∀ x, (f x).length = k) (l : List α) (rest : List β) :
    (List.range l.length).map (fun i => ((l.flatMap f ++ rest).drop (k * i)).take k) = l.map f := by
  induction l with
  | nil => rfl
  | cons x xs ih =>
    rw [List.length_cons, List.range_succ_eq_map, List.map_cons, List.map_map, List.map_cons, List.flatMap_cons, List.append_assoc]
    refine congrArg₂ List.cons ?_ (Eq.trans (List.map_congr_left fun i _ => ?_) ih)
    · rw [Nat.mul_zero, List.drop_zero, List.take_left' (hf x)]
    · rw [Function.comp_apply, Nat.mul_succ, Nat.add_comm, ← List.drop_drop, List.drop_left' (hf x)]

/-! ## Deltas (R34) -/

/-- A delta that fits a narrower signed number comes back from it. -/
theorem signExtend_narrow {n : Nat} (hn : n ≤ 32) (d : Word) (h1 : -(2 ^ (n - 1) : Int) ≤ d.toInt) (h2 : d.toInt < 2 ^ (n - 1)) (h0 : 0 < n) :
    (BitVec.ofNat n d.toNat).signExtend 32 = d := by
  apply BitVec.eq_of_toInt_eq
  rw [BitVec.toInt_signExtend_of_le hn, BitVec.ofNat_toNat, BitVec.toInt_setWidth]
  have hp : (2 : Int) ^ n = 2 * 2 ^ (n - 1) := by
    obtain ⟨k, rfl⟩ : ∃ k, n = k + 1 := ⟨n - 1, by omega⟩
    rw [Nat.add_sub_cancel, pow_succ, mul_comm]
  have hd : d.toInt = (d.toNat : Int).bmod (2 ^ 32) := BitVec.toInt_eq_toNat_bmod d
  rw [← Int.bmod_bmod_of_dvd (Nat.pow_dvd_pow 2 hn), ← hd]
  refine Int.bmod_eq_of_le ?_ ?_ <;> push_cast <;> omega


theorem delta_back {n : Nat} {b w : Word} (hn : n ≤ 32) (h0 : 0 < n) (h1 : -(2 ^ (n - 1) : Int) ≤ (w - b).toInt) (h2 : (w - b).toInt < 2 ^ (n - 1)) :
    b + (BitVec.ofNat n (w - b).toNat).signExtend 32 = w := by
  rw [signExtend_narrow hn _ h1 h2 h0, BitVec.add_comm, BitVec.sub_add_cancel]

/-- A block of words whose deltas fit comes back from its base and its deltas. -/
theorem map_delta_back {ws : List Word} {n : Nat} (hn : n ≤ 32) (h0 : 0 < n) (h : deltasFit ws (-(2 ^ (n - 1))) (2 ^ (n - 1) - 1) = true) :
    (ws.map fun w => BitVec.ofNat n (w - ws.headD 0).toNat).map (fun d => ws.headD 0 + d.signExtend 32) = ws := by
  rw [List.map_map]
  refine (List.map_congr_left (g := id) fun w hw => ?_).trans (List.map_id ws)
  simp only [deltasFit, List.all_eq_true, Bool.and_eq_true, decide_eq_true_eq] at h
  obtain ⟨h1, h2⟩ := h w hw
  exact delta_back hn h0 h1 (by omega)

/-! ## Decoding, class by class -/

variable {ws : List Word} (rest : List Byte)

theorem decode_zero (hl : ws.length = 64) (h : nonzeroWords ws = 0) : decodePayload 0 (payload 0 ws ++ rest) = some (ws, rest) := by
  have hz : ws = List.replicate 64 0 := by
    rw [List.eq_replicate_iff]
    refine ⟨hl, fun w hw => ?_⟩
    simpa using List.filter_eq_nil_iff.mp (List.length_eq_zero_iff.mp h) w hw
  exact congrArg (fun l => some (l, rest)) hz.symm

theorem take_base {tl : List Byte} (w : Word) : BitVec.ofNat 32 (leNat ((wordBytes w ++ tl).take 4)) = w := by
  rw [List.take_left' (length_wordBytes w), ofNat_leNat_wordBytes]

theorem decode_same (hl : ws.length = 64) (h : ∀ w ∈ ws, w = ws.headD 0) : decodePayload 1 (payload 1 ws ++ rest) = some (ws, rest) := by
  have hp : payload 1 ws = wordBytes (ws.headD 0) := rfl
  have hlen : ¬ (payload 1 ws ++ rest).length < 4 := by rw [hp, List.length_append, length_wordBytes]; omega
  rw [decodePayload, if_neg hlen, hp, take_base, List.drop_left' (length_wordBytes _), ← List.eq_replicate_iff.mpr ⟨hl, h⟩]

theorem decode_delta8 (hl : ws.length = 64) (h : deltasFit ws (-128) 127 = true) : decodePayload 2 (payload 2 ws ++ rest) = some (ws, rest) := by
  have hp : payload 2 ws ++ rest = wordBytes (ws.headD 0) ++ ((ws.map fun w => BitVec.ofNat 8 (w - ws.headD 0).toNat) ++ rest) := List.append_assoc ..
  have hlen : ¬ (payload 2 ws ++ rest).length < 68 := by simp [hp, length_wordBytes, hl]; omega
  rw [decodePayload, if_neg hlen, hp]
  dsimp only
  rw [take_base, show (68 : Nat) = 4 + 64 from rfl, ← List.drop_drop, List.drop_left' (length_wordBytes _), List.take_left' (by simp [hl]), List.drop_left' (by simp [hl]),
    map_delta_back (n := 8) (by decide) (by decide) h]

theorem decode_delta16 (hl : ws.length = 64) (h : deltasFit ws (-32768) 32767 = true) : decodePayload 4 (payload 4 ws ++ rest) = some (ws, rest) := by
  have hp : payload 4 ws ++ rest = wordBytes (ws.headD 0) ++ ((ws.flatMap fun w => leBytes 2 (w - ws.headD 0).toNat) ++ rest) := List.append_assoc ..
  have hf : ∀ w : Word, (leBytes 2 (w - ws.headD 0).toNat).length = 2 := fun w => length_leBytes 2 _
  have hm : (ws.flatMap fun w => leBytes 2 (w - ws.headD 0).toNat).length = 128 := by rw [length_flatMap_const hf, hl]
  have hlen : ¬ (payload 4 ws ++ rest).length < 132 := by simp only [hp, List.length_append, length_wordBytes, hm]; omega
  have hds := map_take_drop_flatMap hf ws rest
  have hb : ∀ w : Word, BitVec.ofNat 16 (leNat (leBytes 2 (w - ws.headD 0).toNat)) = BitVec.ofNat 16 (w - ws.headD 0).toNat := fun w => by
    rw [leNat_leBytes]; exact BitVec.eq_of_toNat_eq (by simp)
  rw [decodePayload, if_neg hlen, hp]
  dsimp only
  rw [take_base, show (132 : Nat) = 4 + 128 from rfl, ← List.drop_drop, List.drop_left' (length_wordBytes _), List.drop_left' hm]
  rw [hl] at hds
  have hd2 := congrArg (List.map fun b => BitVec.ofNat 16 (leNat b)) hds
  rw [List.map_map, List.map_map] at hd2
  simp only [Function.comp_def, hb] at hd2
  rw [hd2, map_delta_back (n := 16) (by decide) (by decide) h]

theorem decode_plain (hl : ws.length = 64) : decodePayload 5 (payload 5 ws ++ rest) = some (ws, rest) := by
  have hm : (ws.flatMap wordBytes).length = 256 := by rw [length_flatMap_const length_wordBytes, hl]
  have hlen : ¬ (payload 5 ws ++ rest).length < 256 := by simp only [payload, List.length_append, hm]; omega
  rw [decodePayload, if_neg hlen, payload, List.take_left' hm, List.drop_left' hm, toWords_flatMap]

/-! ## The sparse class: a mask and the words that are not zero (R34) -/

/-- The mask of the words that are not zero. -/
def nonzeroMask (ws : List Word) : BitVec 64 := maskOf ((List.range 64).filter fun i => ws.getD i 0 != 0)

theorem testBit_nonzeroMask (ws : List Word) {i : Nat} (hi : i < 64) : (nonzeroMask ws).toNat.testBit i = (ws.getD i 0 != 0) := by
  have h := bit_maskOf (w := 64) ((List.range 64).filter fun i => ws.getD i 0 != 0) i hi
  rw [bit, BitVec.getLsbD] at h
  rw [nonzeroMask, h, Bool.eq_iff_iff, decide_eq_true_eq, List.mem_filter, List.mem_range]
  exact and_iff_right hi

theorem filter_range_length (ws : List Word) (q : Word → Bool) : ((List.range ws.length).filter fun i => q (ws.getD i 0)).length = (ws.filter q).length := by
  rw [← List.countP_eq_length_filter, ← List.countP_eq_length_filter]
  induction ws with
  | nil => rfl
  | cons w ws ih =>
    rw [List.length_cons, List.range_succ_eq_map, List.countP_cons, List.countP_cons, List.countP_map, ← ih]
    rfl

/-- One step of the way back: a bit that is set takes the next word. -/
def sparseStep (m : Nat) (acc : List Word × List Word) (i : Nat) : List Word × List Word :=
  if m.testBit i then (acc.1 ++ [acc.2.headD 0], acc.2.drop 1) else (acc.1 ++ [0], acc.2)

theorem foldl_sparseStep {m : Nat} (ws : List Word) (k : Nat) (acc : List Word) (hm : ∀ i < ws.length, m.testBit (k + i) = (ws.getD i 0 != 0)) :
    (List.range' k ws.length).foldl (sparseStep m) (acc, ws.filter (· != 0)) = (acc ++ ws, []) := by
  induction ws generalizing k acc with
  | nil => simp
  | cons w ws ih =>
    have h0 : m.testBit k = (w != 0) := hm 0 (Nat.succ_pos _)
    have hs : sparseStep m (acc, (w :: ws).filter (· != 0)) k = (acc ++ [w], ws.filter (· != 0)) := by
      rw [sparseStep, h0]
      by_cases hw : w = 0
      · simp [hw]
      · rw [if_pos (bne_iff_ne.mpr hw), List.filter_cons, if_pos (bne_iff_ne.mpr hw)]
        rfl
    rw [List.length_cons, List.range'_succ, List.foldl_cons, hs, ih (k + 1) _ fun i hi => ?_, List.append_assoc]
    · rfl
    · rw [Nat.add_right_comm, Nat.add_assoc]
      exact hm (i + 1) (Nat.succ_lt_succ hi)

theorem payload_sparse (ws : List Word) : payload 3 ws = leBytes 8 (nonzeroMask ws).toNat ++ (ws.filter (· != 0)).flatMap wordBytes := rfl

theorem length_payload_sparse (ws : List Word) : (payload 3 ws).length = 8 + 4 * nonzeroWords ws := by
  rw [payload_sparse, List.length_append, length_leBytes, length_flatMap_const length_wordBytes, nonzeroWords]

theorem decode_sparse (hl : ws.length = 64) (h1 : 1 ≤ nonzeroWords ws) (h2 : nonzeroWords ws ≤ 54) :
    decodePayload 3 (payload 3 ws ++ rest) = some (ws, rest) := by
  have hp : payload 3 ws ++ rest = leBytes 8 (nonzeroMask ws).toNat ++ ((ws.filter (· != 0)).flatMap wordBytes ++ rest) := List.append_assoc ..
  have hlen : (payload 3 ws ++ rest).length = 8 + 4 * nonzeroWords ws + rest.length := by rw [List.length_append, length_payload_sparse]
  have hmask : leNat ((payload 3 ws ++ rest).take 8) = (nonzeroMask ws).toNat := by
    rw [hp, List.take_left' (length_leBytes 8 _), leNat_leBytes, Nat.mod_eq_of_lt (nonzeroMask ws).isLt]
  have hcount : ((List.range 64).filter fun i => (nonzeroMask ws).toNat.testBit i).length = nonzeroWords ws := by
    rw [List.filter_congr fun i hi => testBit_nonzeroMask ws (List.mem_range.mp hi), ← hl, filter_range_length ws (· != 0), nonzeroWords]
  have hwords : ((payload 3 ws ++ rest).drop 8).take (4 * nonzeroWords ws) = (ws.filter (· != 0)).flatMap wordBytes := by
    rw [hp, List.drop_left' (length_leBytes 8 _), List.take_left' (by rw [length_flatMap_const length_wordBytes]; rfl)]
  have hfold := foldl_sparseStep ws 0 [] fun i hi => by rw [Nat.zero_add]; exact testBit_nonzeroMask ws (hl ▸ hi)
  rw [hl, ← List.range_eq_range', List.nil_append] at hfold
  rw [decodePayload, if_neg (by omega)]
  dsimp only
  rw [hmask, hcount, if_neg (by omega), hwords, toWords_flatMap]
  change some ((List.foldl (sparseStep (nonzeroMask ws).toNat) ([], ws.filter (· != 0)) (List.range 64)).1, _) = _
  rw [hfold, List.drop_left' (length_payload_sparse ws)]

/-! ## Every block of 64 words (R32 to R35) -/

/-- A payload fits the sectors of its class, and gives the words back. -/
theorem candidate_spec (hl : ws.length = 64) {c : Nat × Nat} (h : c ∈ candidates ws) :
    (2 ≤ c.1 → (payload c.1 ws).length ≤ 32 * c.2) ∧ decodePayload c.1 (payload c.1 ws ++ rest) = some (ws, rest) := by
  rcases mem_candidates h with ⟨rfl, hz⟩ | ⟨rfl, he⟩ | ⟨rfl, hd⟩ | ⟨rfl, h1, h2⟩ | ⟨rfl, hd⟩ | rfl
  · exact ⟨fun h2 => absurd h2 (by decide), decode_zero rest hl hz⟩
  · exact ⟨fun h2 => absurd h2 (by decide), decode_same rest hl he⟩
  · refine ⟨fun _ => ?_, decode_delta8 rest hl hd⟩
    simp [payload, length_wordBytes, hl]
  · refine ⟨fun _ => ?_, decode_sparse rest hl h1 h2⟩
    rw [length_payload_sparse, swSectors]
    omega
  · refine ⟨fun _ => ?_, decode_delta16 rest hl hd⟩
    rw [payload, List.length_append, length_wordBytes, length_flatMap_const fun w => length_leBytes 2 _, hl]
    decide
  · refine ⟨fun _ => ?_, decode_plain rest hl⟩
    rw [payload, length_flatMap_const length_wordBytes, hl]
    exact Nat.le_refl 256

theorem codec : Part.Codec := by
  intro ws rest hl e
  obtain ⟨h1, h2, h3⟩ := encodeClass_spec ws
  obtain ⟨h4, h5⟩ := candidate_spec rest hl h1
  exact ⟨h1, h2, h4, h3, h5⟩

end Sys2Proof.Machine
end

section
/-! PROOFS. Evictions from L1, L2, the translations and the filter (R21, R48, R72, R76, R122, R139). -/

namespace Sys2Proof

open Machine

variable {s : State} {c line : Nat}

/-! ## L1 (R72, R122) -/

theorem held_of_isEmpty {x : L1Line} (h : x.isEmpty = true) : x.held = false := by
  simp only [L1Line.isEmpty, Bool.and_eq_true, List.all_eq_true, beq_iff_eq] at h
  rw [L1Line.held, List.any_eq_false]
  intro y hy
  rw [h.2 y hy]
  decide

/-- Words given up: the release goes up last, and the line is held as before. -/
theorem releaseAll_spec (he : s.errors = []) (c line : Nat) : let x := (s.core c).l1Line line
    (((releaseWords s c line (BitVec.allOnes 32)).core c).l1Line line).held = x.held ∧
    (x.owned ≠ 0 → Sends (releaseWords s c line (BitVec.allOnes 32)) c (line * 128) (.release line x.owned (x.written &&& x.owned) x.data)) := by
  intro x
  have hw : x.owned &&& BitVec.allOnes 32 = x.owned := BitVec.and_allOnes
  simp only [releaseWords, l1ReadOwned_none he]
  by_cases h0 : x.owned = 0
  · rw [if_pos (by rw [hw, h0])]
    exact ⟨rfl, fun h => absurd h0 h⟩
  · rw [if_neg (by rw [hw]; exact h0)]
    refine ⟨?_, fun _ => ?_⟩
    · rw [core_updCore, if_pos rfl, l1Line_setL1, if_pos rfl]
      split
      · next h => exact (held_of_isEmpty h).symm
      · rfl
    · have hs := sendUp_up s c (line * 128) (.release line x.owned (x.written &&& x.owned) x.data)
      exact ⟨_, by rw [hw, core_updCore, if_pos rfl]; exact hs⟩

/-- A copy that L1 drops is notified, its translations going with it; L1 then holds nothing of the line. -/
theorem evictL1_spec (u : State) (c line : Nat) (h : Bool) :
    let t := (if h then (sendUp u c (line * 128) (.evict line)).updCore c fun c => c.dropTlb line else u).updCore c fun c => { c with l1 := mapErase c.l1 line }
    CachesOnly u t ∧ mapGet? (t.core c).l1 line = none ∧
    (h = true → Sends t c (line * 128) (.evict line) ∧ ∀ y ∈ (t.core c).tlb, line ∉ y.lines) ∧
    (h = false → ∀ m, Sends u c (line * 128) m → Sends t c (line * 128) m) := by
  cases h with
  | false =>
    refine ⟨rfl, ?_, fun h => Bool.noConfusion h, fun _ m ⟨q, hq⟩ => ⟨q, ?_⟩⟩
    · simp [mapGet_erase]
    · rw [core_updCore, if_pos rfl]; exact hq
  | true =>
    refine ⟨rfl, ?_, fun _ => ⟨⟨(mapGet? (u.core c).up (u.slice (line * 128))).getD [], ?_⟩, fun y hy => ?_⟩, fun h => Bool.noConfusion h⟩
    · simp [mapGet_erase]
    · have hs := sendUp_up u c (line * 128) (.evict line)
      simp only [if_true, core_updCore, Core.dropTlb]
      exact hs
    · simp only [if_true, core_updCore, Core.dropTlb, List.mem_filter] at hy
      simpa using hy.2

theorem l1Eviction_spec (he : s.errors = []) (h : l1MayLeave s c line = true) :
    ∃ t, exec (.l1Eviction c line) s = .next t ∧ t.mem = s.mem ∧ mapGet? (t.core c).l1 line = none ∧ let x := (s.core c).l1Line line
      (x.held = true → Sends t c (line * 128) (.evict line) ∧ ∀ y ∈ (t.core c).tlb, line ∉ y.lines) ∧
      (x.held = false → x.owned ≠ 0 → Sends t c (line * 128) (.release line x.owned (x.written &&& x.owned) x.data)) := by
  obtain ⟨hh, hs⟩ := releaseAll_spec he c line
  have hu := cachesOnly_releaseWords s c line (BitVec.allOnes 32)
  have hx : exec (.l1Eviction c line) s = .next (evictL1 s c line) := by rw [exec_l1Eviction, execL1Eviction, if_pos h]
  have hev : evictL1 s c line = (if ((s.core c).l1Line line).held then (sendUp (releaseWords s c line (BitVec.allOnes 32)) c (line * 128) (.evict line)).updCore c fun c => c.dropTlb line
      else releaseWords s c line (BitVec.allOnes 32)).updCore c fun c => { c with l1 := mapErase c.l1 line } := by rw [evictL1, ← hh]
  obtain ⟨h1, h2, h3, h4⟩ := evictL1_spec (releaseWords s c line (BitVec.allOnes 32)) c line ((s.core c).l1Line line).held
  refine ⟨_, hx, ?_⟩
  rw [hev]
  exact ⟨(hu.trans h1).mem, h2, h3, fun hf ho => h4 hf _ (hs ho)⟩

/-! ## L2 (R76) -/

theorem present_leaveL2 (u : State) (l m : Nat) : ((leaveL2 u l).line m).present = (if m = l then false else (u.line m).present) ∧
    ((leaveL2 u l).line m).valid = (if m = l then 0 else (u.line m).valid) ∧ ((leaveL2 u l).line m).lv = (if m = l then false else (u.line m).lv) := by
  rw [leaveL2, line_updLine]
  split <;> exact ⟨rfl, rfl, rfl⟩

/-- Without errors waiting, room in the memory-side cache is made by writes to HBM4 alone. -/
theorem mscEvict_noError (b n : Nat) (fuel : Nat) (he : s.errors = []) : mscEvict s b n fuel = { s with msc := (mscEvict s b n fuel).msc, hbm := (mscEvict s b n fuel).hbm } := by
  induction fuel generalizing s with
  | zero => rfl
  | succ fuel ih =>
    rw [mscEvict]
    split
    · rfl
    · split
      · next k _ _ =>
        have hr := mscRemove_noError he k
        rw [ih (by rw [hr]; exact he)]
        rw [hr]
      · rfl

theorem mscInsert_noError (b n : Nat) (e : MscEntry) (he : s.errors = []) : mscInsert s b n e = { s with msc := (mscInsert s b n e).msc, hbm := (mscInsert s b n e).hbm } := by
  unfold mscInsert
  split
  · rfl
  · dsimp only
    rw [mscEvict_noError b n 16 he]

/-- The line, or both lines of its billet, leave L2. -/
theorem leavePair_spec {u : State} (he : s.errors = []) (h : leavePair s (billetOfLine line) = some u) :
    u.mem = s.mem ∧ (u.line line).present = false ∧ (u.line line).valid = 0 ∧ (u.line line).lv = false := by
  unfold leavePair at h
  dsimp only at h
  split at h
  · obtain rfl := Option.some.inj h
    have hl : ∀ m, m = 2 * billetOfLine line ∨ m = 2 * billetOfLine line + 1 →
        let v := leaveL2 (leaveL2 s (2 * billetOfLine line)) (2 * billetOfLine line + 1)
        (v.line m).present = false ∧ (v.line m).valid = 0 ∧ (v.line m).lv = false := by
      intro m hm v
      obtain ⟨a1, a2, a3⟩ := present_leaveL2 (leaveL2 s (2 * billetOfLine line)) (2 * billetOfLine line + 1) m
      obtain ⟨b1, b2, b3⟩ := present_leaveL2 s (2 * billetOfLine line) m
      rw [a1, a2, a3, b1, b2, b3]
      rcases hm with rfl | rfl <;> simp
    rw [mscInsert_noError _ _ _ (by exact he)]
    exact ⟨rfl, hl line (by simp only [billetOfLine]; omega)⟩
  · cases h

theorem l2Eviction_clean (he : s.errors = []) (hp : (s.line line).present = true) (hb : (s.line line).busy = false) (hst : (s.line line).started = false)
    (hsh : s.sharerCores (s.line line).sharers = []) (hw : (s.line line).wmask = 0) (hd : (s.line line).dirty = false) (hps : (s.line line).psn = false)
    (hcalm : s.calm line = true) : ∃ t, exec (.l2Eviction line) s = .next t ∧ t.mem = s.mem ∧ (t.line line).present = false ∧ (t.line line).valid = 0 ∧ (t.line line).lv = false := by
  have hx : exec (.l2Eviction line) s = match leavePair s (billetOfLine line) with
      | some s => .next s
      | none => .next (leaveL2 (if (s.billet (billetOfLine line)).poison then s.updBillet (billetOfLine line) fun d => { d with written := 0 } else s) line) := by
    simp [execL2Eviction, hp, hb, hst, he, hsh, hw, hd, hps, hcalm] <;> rfl
  cases hlp : leavePair s (billetOfLine line) with
  | some u =>
    rw [hlp] at hx
    exact ⟨u, hx, leavePair_spec he hlp⟩
  | none =>
    rw [hlp] at hx
    refine ⟨_, hx, ?_, ?_⟩
    · show (if (s.billet (billetOfLine line)).poison then s.updBillet (billetOfLine line) fun d => { d with written := 0 } else s).mem = s.mem
      split <;> rfl
    · obtain ⟨h1, h2, h3⟩ := present_leaveL2 (if (s.billet (billetOfLine line)).poison then s.updBillet (billetOfLine line) fun d => { d with written := 0 } else s) line line
      rw [h1, h2, h3]
      simp

/-- The copies of a line called in, and its owner's words. -/
def calledIn (s : State) (line : Nat) : State :=
  let v := (s.sharerCores (s.line line).sharers).foldl (fun s c => sendDown s c (line * 128) (.inv line)) s
  if (s.line line).wmask = 0 then v else sendDown v (s.line line).owner (line * 128) (.recall line (s.line line).wmask true)

theorem cachesOnly_calledIn (s : State) (line : Nat) : CachesOnly s (calledIn s line) := by
  have h := cachesOnly_foldl (s.sharerCores (s.line line).sharers) (fun s c => sendDown s c (line * 128) (.inv line)) (fun _ _ => cachesOnly_sendDown ..) s
  unfold calledIn
  dsimp only
  split
  · exact h
  · exact h.trans (cachesOnly_sendDown ..)

theorem l2Eviction_shared (he : s.errors = []) (hp : (s.line line).present = true) (hb : (s.line line).busy = false) (hst : (s.line line).started = false)
    (hsh : s.sharerCores (s.line line).sharers ≠ []) : ∃ t, exec (.l2Eviction line) s = .next t ∧ t.mem = s.mem ∧
      (t.line line).invPend = s.sharerCores (s.line line).sharers ∧ (t.line line).sharers = .ptrs [] := by
  have hx : exec (.l2Eviction line) s = .next ((calledIn s line).updLine line fun l => { l with
      invPend := s.sharerCores (s.line line).sharers, sharers := .ptrs [],
      recallPend := if l.wmask = 0 then [] else [l.owner], recallForWrite := true }) := by
    have hne : (!(s.sharerCores (s.line line).sharers).isEmpty || decide ((s.line line).wmask ≠ 0)) = true := by simp [hsh]
    rw [exec_l2Eviction, execL2Eviction]
    simp only [hp, hb, hst, he, hne, List.contains_nil, Bool.not_true, Bool.or_self, Bool.false_eq_true, if_false, if_true]
    rfl
  refine ⟨_, hx, (cachesOnly_calledIn s line).mem, ?_⟩
  simp

/-! ## Translations and the filter (R21, R48) -/

theorem translationEviction_spec {i : Nat} (hi : i < (s.core c).tlb.length) :
    ∃ t, exec (.translationEviction c i) s = .next t ∧ t.mem = s.mem ∧ t.teams = s.teams ∧ (t.core c).tlb = (s.core c).tlb.eraseIdx i := by
  refine ⟨s.updCore c fun k => { k with tlb := k.tlb.eraseIdx i }, ?_, rfl, rfl, ?_⟩
  · rw [exec_translationEviction, execTranslationEviction, if_neg (by omega)]
  · rw [core_updCore, if_pos rfl]

theorem filterEviction_spec {b : Nat} (hb : b ∈ (s.core c).filter) :
    ∃ t, exec (.filterEviction c b) s = .next t ∧ t.mem = s.mem ∧ t.teams = s.teams ∧ b ∉ (t.core c).filter := by
  refine ⟨s.updCore c fun k => { k with filter := k.filter.filter (· != b) }, ?_, rfl, rfl, ?_⟩
  · rw [exec_filterEviction, execFilterEviction, if_pos (by simpa using hb)]
  · simp

theorem evictions : Part.Evictions := fun _ _ _ he =>
  ⟨l1Eviction_spec he, l2Eviction_clean he, l2Eviction_shared he, fun _ => translationEviction_spec, fun _ => filterEviction_spec⟩

end Sys2Proof
end

section
/-! PROOFS. A billet's close (R35, R41, R46, R47, R75); O34 is put together here. -/

namespace Sys2Proof

open Machine

variable {s : State} {b : Nat}

/-! ## What a close finds where no error waits -/

/-- The state in which a close looks for the billet's value. -/
def closeFound (s : State) (b : Nat) : State :=
  let s := touchDesc (noteClosed s b) b
  let s := recallNow (recallNow s (2 * b) (BitVec.allOnes 32) false) (2 * b + 1) (BitVec.allOnes 32) false
  l2Error (l2Error s (2 * b)) (2 * b + 1)

theorem touchDesc_noError (he : s.errors = []) (b : Nat) : touchDesc s b = { s with descs := (touchDesc s b).descs } := by
  simp only [touchDesc, takeError_none he, Bool.false_or]
  split <;> rfl

theorem recallNow_noError (he : s.errors = []) {line : Nat} (hw : (s.line line).wmask = 0) (w : BitVec 32) (fw : Bool) : recallNow s line w fw = s := by
  simp [recallNow, l1ReadOwned_none he, hw]

theorem l2Error_noError (he : s.errors = []) (line : Nat) : l2Error s line = s := by
  unfold l2Error
  simp only [takeError_none he]
  split <;> rfl

theorem closeFound_eq (he : s.errors = []) (h0 : (s.line (2 * b)).wmask = 0) (h1 : (s.line (2 * b + 1)).wmask = 0) :
    closeFound s b = { s with cores := (closeFound s b).cores, descs := (closeFound s b).descs } := by
  have ht := touchDesc_noError (s := noteClosed s b) he b
  have hr : closeFound s b = touchDesc (noteClosed s b) b := by
    unfold closeFound
    dsimp only
    have he' : (touchDesc (noteClosed s b) b).errors = [] := by rw [ht]; exact he
    have h0' : ((touchDesc (noteClosed s b) b).line (2 * b)).wmask = 0 := by rw [ht]; exact h0
    have h1' : ((touchDesc (noteClosed s b) b).line (2 * b + 1)).wmask = 0 := by rw [ht]; exact h1
    rw [recallNow_noError he' h0', recallNow_noError he' h1', l2Error_noError he', l2Error_noError he']
  rw [hr, ht]
  rfl

theorem readStored_noError (he : s.errors = []) (b : Nat) : readStored s b = (storedValue s b, s) := by
  unfold readStored
  simp only [takeError_none he, Bool.not_false, if_true, Bool.false_eq_true, if_false]
  split
  · rfl
  · split <;> rfl

/-! ## The bytes that L2 lacks come from the stored form (R75) -/

theorem putChunks_descs (s : State) (x : Map Core) (y : List Nat) (line : Nat) (ch : BitVec 8) (bs : List Byte) :
    putChunks { s with cores := x, descs := y } line ch bs = { putChunks s line ch bs with cores := x, descs := y } := by
  unfold putChunks
  generalize bitsOf ch = cs
  induction cs generalizing s with
  | nil => rfl
  | cons i is ih =>
    rw [List.foldl_cons, List.foldl_cons, ← ih]
    refine congrArg (fun s => List.foldl _ s is) ?_
    dsimp only
    by_cases h : s.readMem (line * 128 + 16 * i) 16 = List.take 16 (List.drop (line % 2 * 128 + 16 * i) bs)
    · rw [if_pos h]; exact if_pos h
    · rw [if_neg h]; exact if_neg h

theorem putChunks_mem {s u : State} (hu : u = { s with mem := u.mem }) (line : Nat) (ch : BitVec 8) (bs : List Byte) :
    putChunks u line ch bs = { s with mem := (putChunks u line ch bs).mem } := by
  unfold putChunks
  generalize bitsOf ch = cs
  induction cs generalizing u with
  | nil => exact hu
  | cons i is ih =>
    refine ih ?_
    dsimp only
    split_ifs
    · exact hu
    · rw [hu]; rfl

theorem fillBytes_descs (s : State) (x : Map Core) (y : List Nat) (b : Nat) (bs : List Byte) :
    fillBytes { s with cores := x, descs := y } b bs = { fillBytes s b bs with cores := x, descs := y } := by
  unfold fillBytes
  rw [← putChunks_descs, ← putChunks_descs]
  rfl

theorem fillBytes_mem (s : State) (b : Nat) (bs : List Byte) : fillBytes s b bs = { s with mem := (fillBytes s b bs).mem } := by
  unfold fillBytes
  exact putChunks_mem (putChunks_mem rfl ..) ..

/-! ## A run's place (R41, R42) -/

theorem firstSome_map {α β γ : Type} (f : α → Option β) (g : β → γ) (l : List α) : firstSome (fun x => (f x).map g) l = (firstSome f l).map g := by
  induction l with
  | nil => rfl
  | cons x xs ih =>
    rw [firstSome, firstSome, ih]
    cases f x <;> rfl

/-- Where a run is found depends on the frames and the slices' places alone. -/
theorem allocRun_congr {u : State} (hf : u.frames = s.frames) (hs : u.slovi = s.slovi) (b n : Nat) :
    allocRun u b n = (allocRun s b n).map fun r => (r.1, r.2.1, { u with frames := r.2.2.frames }) := by
  have ho : stackOrder u b = stackOrder s b := by simp only [stackOrder, State.slice, hs]
  rw [allocRun, allocRun, ← firstSome_map, ho, hf]
  simp only [Option.map_map, Function.comp_def]

theorem placeRun_isSome {u : State} (hb : u.billets = s.billets) (hf : u.frames = s.frames) (hs : u.slovi = s.slovi) (n : Nat) :
    (placeRun u b n).isSome = (placeRun s b n).isSome := by
  have hd : u.billet b = s.billet b := by rw [State.billet, hb]; rfl
  unfold placeRun
  rw [hd, allocRun_congr hf hs]
  dsimp only
  split_ifs <;> simp

theorem placeRun_frames {u : State} {n : Nat} {r : Nat × Nat × Nat} (h : placeRun s b n = some (u, r)) : u = { s with frames := u.frames } := by
  unfold placeRun at h
  dsimp only at h
  split at h
  · cases h; rfl
  split at h
  · cases h; exact freeRun_frames ..
  · obtain ⟨⟨st, f, t⟩, ht, he⟩ := Option.map_eq_some_iff.mp h
    have hu : u = freeRun t (s.billet b).stack (s.billet b).sect.toNat (s.billet b).count := (congrArg Prod.fst he).symm
    rw [hu, freeRun_frames, allocRun_frames ht]

/-! ## The close (R35, R46, R47) -/

/-- L2 holds all of the billet. -/
def wholeInL2 (s : State) (b : Nat) : Bool := (s.line (2 * b)).valid == 0xFF && (s.line (2 * b + 1)).valid == 0xFF

/-- The billet in its new form: its run is stored and it is shut. -/
def runClosed (u : State) (b cls n : Nat) (ws : List Word) (stk sec rel : Nat) : State :=
  let s := u.updBillet b fun d => { d with
    cls := cls, nsec := n, reloc := rel, loc := 0, stack := (if n = 0 then 0 else stk),
    sect := (if cls = 1 then ws.headD 0 else if n = 0 then 0 else BitVec.ofNat 32 sec) }
  shutBillet (if n = 0 then mscDrop s b else storeRun s b n (s.sealRun b (runBytes cls n ws)) none) b

section
variable {u : State} (hu : closeFound s b = u) (hpo : (u.billet b).poison = false) (hp0 : (u.line (2 * b)).psn = false) (hp1 : (u.line (2 * b + 1)).psn = false)
include hu hpo hp0 hp1

/-- A stored form that fails its check: the billet is poisoned, and its reserve comes back (R35). -/
theorem finishClose_bad (hw : wholeInL2 u b = false) (hv : readStored u b = (none, u)) :
    finishClose s b = some (shutBillet ((u.poisonBillet b).credit (u.billet b).rctx (8 - (u.billet b).count) (pageOfBillet b)) b) := by
  unfold closeFound at hu
  unfold wholeInL2 at hw
  dsimp only at hu
  unfold finishClose
  dsimp only
  rw [hu]
  simp only [hpo, hp0, hp1, hw, hv, Bool.or_self, Bool.false_eq_true, if_false]
  simp

/-- A value found: the billet is encoded, its run placed, its reserve credited (R35, R41, R46). -/
theorem finishClose_good {bs : List Byte} (hv : (if wholeInL2 u b then some (u.readMem (b * 256) 256) else storedValue u b) = some bs) (he : u.errors = [])
    (hfx : ((u.page (pageOfBillet b)).map Page.fixed).getD false = false) {v : State} (hvf : (if wholeInL2 u b then u else fillBytes u b bs) = v)
    (hfv : v.page = u.page) {ws : List Word} (hws : toWords (v.readMem (b * 256) 256) = ws) {e : Nat × Nat} (hen : encodeClass ws = e) :
    finishClose s b = (placeRun v b e.2).map fun r =>
      markMigration ((runClosed r.1 b e.1 e.2 ws r.2.1 r.2.2.1 r.2.2.2).credit (u.billet b).rctx (8 - e.2) (pageOfBillet b)) (pageOfBillet b) := by
  subst hws hen
  unfold closeFound at hu
  unfold wholeInL2 at hv hvf
  dsimp only at hu
  unfold finishClose
  dsimp only
  rw [hu]
  simp only [hpo, hp0, hp1, Bool.or_self, Bool.false_eq_true, if_false, readStored_noError he]
  by_cases hw : ((u.line (2 * b)).valid == 0xFF && (u.line (2 * b + 1)).valid == 0xFF) = true
  · rw [if_pos hw] at hv hvf
    subst hvf
    simp only [hw, if_true, hfx, Bool.false_eq_true, if_false] <;> rfl
  · rw [if_neg hw] at hv hvf
    subst hvf
    simp only [hw, if_false, hv, hfx, hfv, Bool.false_eq_true] <;> rfl

end

/-! ## What a billet shut and credited is -/

theorem billet_credit (u : State) (x n p k : Nat) : (u.credit x n p).billet k = u.billet k := by
  unfold State.credit
  split
  · rw [State.billet, updCtx_billets]; rfl
  · rfl

theorem ctx_credit {u : State} {x : Nat} {c : Ctx} (hc : u.ctx x = some c) (n p : Nat) : (u.credit x n p).ctx x = some { c with reserve := c.reserve + n } := by
  simp [State.credit, hc]

theorem billet_markMigration (u : State) (p k : Nat) : (markMigration u p).billet k = u.billet k := rfl
theorem ctx_markMigration (u : State) (p x : Nat) : (markMigration u p).ctx x = u.ctx x := rfl

theorem shutBillet_mem (u : State) (b : Nat) : (shutBillet u b).mem = u.mem := rfl
theorem shutBillet_ctx (u : State) (b x : Nat) : (shutBillet u b).ctx x = u.ctx x := rfl

/-- A billet shut is neither open nor closing, and is otherwise what it was. -/
theorem billet_shutBillet (u : State) (b : Nat) : ((shutBillet u b).billet b).opened = false ∧ ((shutBillet u b).billet b).closing = false ∧
    ((shutBillet u b).billet b).cls = (u.billet b).cls ∧ ((shutBillet u b).billet b).nsec = (u.billet b).nsec ∧
    ((shutBillet u b).billet b).poison = (u.billet b).poison := by
  simp only [shutBillet, billet_updLine, billet_updBillet, if_true, and_self]

theorem billet_mscDrop (u : State) (b k : Nat) : (mscDrop u b).billet k = u.billet k := rfl
theorem billet_storeRun (u : State) (b n : Nat) (x : Sealed) (k : Nat) : (storeRun u b n x none).billet k = u.billet k := rfl

theorem runClosed_spec (u : State) (b cls n : Nat) (ws : List Word) (stk sec rel : Nat) : let t := runClosed u b cls n ws stk sec rel
    t.mem = u.mem ∧ t.ctx = u.ctx ∧ (t.billet b).opened = false ∧ (t.billet b).closing = false ∧ (t.billet b).cls = cls ∧ (t.billet b).nsec = n := by
  intro t
  obtain ⟨x, hx, hm, hc, h1, h2⟩ : ∃ x, t = shutBillet x b ∧ x.mem = u.mem ∧ x.ctx = u.ctx ∧ (x.billet b).cls = cls ∧ (x.billet b).nsec = n := by
    refine ⟨_, rfl, ?_⟩
    split
    · refine ⟨rfl, rfl, ?_, ?_⟩ <;> simp only [billet_mscDrop, billet_updBillet, if_true]
    · refine ⟨rfl, rfl, ?_, ?_⟩ <;> simp only [billet_storeRun, billet_updBillet, if_true]
  obtain ⟨ho, hcl, hcs, hn, -⟩ := billet_shutBillet x b
  rw [hx]
  exact ⟨hm, hc, ho, hcl, hcs.trans h1, hn.trans h2⟩

/-! ## The statement -/

/-- What a close that may be finished begins from: nothing waits in an array, nothing of the billet is poisoned, and no core owns words of it. -/
structure Closing (s : State) (b : Nat) (c : Ctx) : Prop where
  errors : s.errors = []
  opened : (s.billet b).opened = true
  closing : (s.billet b).closing = true
  kept : (s.billet b).discard = false
  ready : closeReady s b = true
  sound0 : s.isPoisoned (2 * b) = false
  sound1 : s.isPoisoned (2 * b + 1) = false
  unowned0 : (s.line (2 * b)).wmask = 0
  unowned1 : (s.line (2 * b + 1)).wmask = 0
  owner : s.ctx (s.billet b).rctx = some c
  plain : ((s.page (pageOfBillet b)).map Page.fixed).getD false = false

namespace Closing

variable {c : Ctx} (h : Closing s b c)
include h

theorem found_eq : closeFound s b = { s with cores := (closeFound s b).cores, descs := (closeFound s b).descs } :=
  closeFound_eq h.errors h.unowned0 h.unowned1

theorem exec_eq {t : State} (ht : finishClose s b = some t) : exec (.billetClose b) s = .next t := by
  simp only [exec_billetClose, execBilletClose, closeStep, h.opened, h.closing, h.kept, h.ready, ht, Bool.not_true, Bool.or_self, Bool.false_eq_true, if_false, if_true]

/-- Nothing of the billet is poisoned where the close looks for its value. -/
theorem sound : ((closeFound s b).billet b).poison = false ∧ ((closeFound s b).line (2 * b)).psn = false ∧ ((closeFound s b).line (2 * b + 1)).psn = false := by
  have h0 := h.sound0
  have h1 := h.sound1
  simp only [State.isPoisoned, Bool.or_eq_false_iff, billetOfLine, show 2 * b / 2 = b by omega, show (2 * b + 1) / 2 = b by omega] at h0 h1
  rw [h.found_eq]
  exact ⟨h0.2, h0.1, h1.1⟩

theorem encodes {bs : List Byte} (hv : (if wholeInL2 s b then some (s.readMem (b * 256) 256) else storedValue s b) = some bs) {v : State}
    (hvf : (if wholeInL2 s b then s else fillBytes s b bs) = v) {e : Nat × Nat} (hen : encodeClass (toWords (v.readMem (b * 256) 256)) = e)
    (hp : (placeRun s b e.2).isSome = true) : ∃ t, exec (.billetClose b) s = .next t ∧ t.mem = v.mem ∧ (t.billet b).opened = false ∧
      (t.billet b).closing = false ∧ (t.billet b).cls = e.1 ∧ (t.billet b).nsec = e.2 ∧ t.ctx (s.billet b).rctx = some { c with reserve := c.reserve + (8 - e.2) } := by
  obtain ⟨hpo, hp0, hp1⟩ := h.sound
  have hu := h.found_eq
  have hw : wholeInL2 (closeFound s b) b = wholeInL2 s b := by rw [hu]; rfl
  have hvv : v = { s with mem := v.mem } := by
    rw [← hvf]
    split
    · rfl
    · exact fillBytes_mem ..
  have hf : (if wholeInL2 (closeFound s b) b then closeFound s b else fillBytes (closeFound s b) b bs) =
      { v with cores := (closeFound s b).cores, descs := (closeFound s b).descs } := by
    rw [hw, hu, ← hvf]
    split
    · rfl
    · exact fillBytes_descs ..
  obtain ⟨r, hr⟩ := Option.isSome_iff_exists.mp ((placeRun_isSome (s := s) (u := { v with cores := (closeFound s b).cores, descs := (closeFound s b).descs })
    (b := b) (by rw [hvv]) (by rw [hvv]) (by rw [hvv]) e.2).trans hp)
  have hfin := finishClose_good rfl hpo hp0 hp1 (bs := bs) (by rw [hw, hu]; exact hv) (by rw [hu]; exact h.errors) (by rw [hu]; exact h.plain) hf
    (by rw [hvv, hu]; rfl) (ws := toWords (v.readMem (b * 256) 256)) rfl hen
  rw [hr, Option.map_some] at hfin
  obtain ⟨hm, hct, h1, h2, h3, h4⟩ := runClosed_spec r.1 b e.1 e.2 (toWords (v.readMem (b * 256) 256)) r.2.1 r.2.2.1 r.2.2.2
  have hrf := placeRun_frames hr
  have hd : ((closeFound s b).billet b).rctx = (s.billet b).rctx := by rw [hu]; rfl
  have hc : r.1.ctx (s.billet b).rctx = some c := by rw [hrf, hvv]; exact h.owner
  refine ⟨_, h.exec_eq hfin, ?_, ?_⟩
  · exact (stands_credit ..).mem.trans (hm.trans (by rw [hrf]))
  · simp only [billet_markMigration, billet_credit, h1, h2, h3, h4, true_and]
    rw [ctx_markMigration, hd]
    exact ctx_credit (by rw [hct]; exact hc) ..

theorem poisons (hw : wholeInL2 s b = false) (hv : storedValue s b = none) : ∃ t, exec (.billetClose b) s = .next t ∧ t.mem = s.mem ∧ (t.billet b).opened = false ∧
    (t.billet b).poison = true ∧ t.ctx (s.billet b).rctx = some { c with reserve := c.reserve + (8 - (s.billet b).count) } := by
  obtain ⟨hpo, hp0, hp1⟩ := h.sound
  have hu := h.found_eq
  have hp := cachesOnly_poisonBillet (closeFound s b) b
  have hfin := finishClose_bad rfl hpo hp0 hp1 (by rw [hu]; exact hw) (by rw [readStored_noError (by rw [hu]; exact h.errors), hu]; exact congrArg (·, _) hv)
  refine ⟨_, h.exec_eq hfin, ?_, ?_⟩
  · rw [shutBillet_mem, (stands_credit ..).mem, hp.mem, hu]
  · obtain ⟨h1, -, -, -, h4⟩ := billet_shutBillet (((closeFound s b).poisonBillet b).credit ((closeFound s b).billet b).rctx (8 - ((closeFound s b).billet b).count) (pageOfBillet b)) b
    refine ⟨h1, ?_, ?_⟩
    · rw [h4, billet_credit, poison_poisonBillet]
      simp
    · have hd : (closeFound s b).billet b = s.billet b := by rw [hu]; rfl
      rw [hd, shutBillet_ctx]
      exact ctx_credit (by rw [hp.ctx, hu]; exact h.owner) ..

end Closing

theorem billetClose : Part.BilletClose := by
  intro s b c he ho hcl hdi hrd hq0 hq1 hw0 hw1 hc hfx whole
  have h : Closing s b c := ⟨he, ho, hcl, hdi, hrd, hq0, hq1, hw0, hw1, hc, hfx⟩
  exact ⟨fun bs hbs => h.encodes hbs rfl rfl, h.poisons⟩

/-- Settles O34: a billet's close, its classes, and the evictions. -/
theorem billetsAndEvictions : Obligations.BilletsAndEvictions := ⟨billetClose, codec, evictions⟩

end Sys2Proof
end

section
/-! PROOFS. The layer on the window: what leaves its instructions and the completion flags alone, and what an instruction that enters it leaves (R150,
R286). -/

namespace Sys2Proof

open Machine

/-! ## The window and the flags are as before -/

/-- Every team's instructions in the window and every group's completion flags are the same in two states. -/
def WindowSame (s t : State) : Prop :=
  (∀ k, (t.team k).map Team.iw = (s.team k).map Team.iw) ∧ ∀ k g, (t.group k g).map Group.cf = (s.group k g).map Group.cf

theorem WindowSame.refl (s : State) : WindowSame s s := ⟨fun _ => rfl, fun _ _ => rfl⟩

theorem WindowSame.trans {a b c : State} (h : WindowSame a b) (k : WindowSame b c) : WindowSame a c :=
  ⟨fun x => (k.1 x).trans (h.1 x), fun x g => (k.2 x g).trans (h.2 x g)⟩

theorem windowSame_updTeam (s : State) (k : Nat) (f : Team → Team) (hi : ∀ t, (f t).iw = t.iw) (hg : ∀ t, (f t).groups = t.groups) :
    WindowSame s (s.updTeam k f) := by
  refine ⟨fun j => ?_, fun j g => by rw [group_updTeam s k f hg]⟩
  rw [team_updTeam]
  split
  · next h => simp [h, Option.map_map, Function.comp_def, hi]
  · rfl

theorem windowSame_updThread (s : State) (k i : Nat) (f : Thread → Thread) : WindowSame s (s.updThread k i f) :=
  windowSame_updTeam s k _ (fun _ => rfl) fun _ => rfl

theorem windowSame_updGroup (s : State) (k g : Nat) (f : Group → Group) (hf : ∀ gr, (f gr).cf = gr.cf) : WindowSame s (s.updGroup k g f) := by
  refine ⟨fun j => ?_, fun j x => ?_⟩
  · rw [team_updGroup]
    split
    · next h => simp [h, Option.map_map, Function.comp_def]
    · rfl
  · rw [group_updGroup]
    split
    · next h => simp [h.1, h.2, Option.map_map, Function.comp_def, hf]
    · rfl

theorem windowSame_foldl {α : Type} (l : List α) (f : State → α → State) (hf : ∀ s x, WindowSame s (f s x)) (s : State) :
    WindowSame s (l.foldl f s) := by
  induction l generalizing s with
  | nil => exact .refl s
  | cons x xs ih => exact (hf s x).trans (ih _)

theorem windowSame_endReplay (s : State) (k g : Nat) : WindowSame s (endReplay s k g) :=
  windowSame_updTeam s k _ (fun t => by split <;> rfl) fun t => by split <;> rfl

theorem windowSame_endClause (s : State) (e : Env) : WindowSame s (Machine.endClause s e) := by
  unfold Machine.endClause
  split
  · exact .refl s
  split
  · exact .refl s
  · exact (windowSame_foldl _ _ (fun s (x : Nat × Nat) => windowSame_updThread s e.tk x.2 _) s).trans (windowSame_updGroup _ _ _ _ fun _ => rfl)

theorem windowSame_advance (s : State) (e : Env) : WindowSame s (Machine.advance s e) := by
  have hr := windowSame_endReplay s e.tk e.g
  unfold Machine.advance
  dsimp only
  split
  · exact hr
  split
  · exact hr
  split
  · exact hr.trans (windowSame_updGroup _ _ _ _ fun _ => rfl)
  · refine WindowSame.trans (hr.trans ?_) (windowSame_endClause ..)
    exact windowSame_updGroup _ _ _ _ fun _ => rfl

/-! ## Completion flags (R286) -/

theorem flag_setFlag (g : Group) (k j n : Nat) : (g.setFlag k n).flag j = if j = k then n else g.flag j := by
  unfold Group.setFlag Group.flag
  dsimp only
  split
  · next h0 => rw [mapGet_erase]; split <;> simp [h0]
  · rw [mapGet_set]; split <;> rfl

theorem flag_incFlag (g : Group) (o : Option Nat) (k : Nat) : (g.incFlag o).flag k = if o = some k then g.flag k + 1 else g.flag k := by
  cases o with
  | none => rfl
  | some j =>
    simp only [Group.incFlag, flag_setFlag, Option.some.injEq, eq_comm]
    split
    · next h => rw [h]
    · rfl

theorem flag_decFlag (g : Group) (o : Option Nat) (k : Nat) : (g.decFlag o).flag k = if o = some k then g.flag k - 1 else g.flag k := by
  cases o with
  | none => rfl
  | some j =>
    simp only [Group.decFlag, flag_setFlag, Option.some.injEq, eq_comm]
    split
    · next h => rw [h]
    · rfl

theorem flag_of_cf {g h : Group} (hc : g.cf = h.cf) (k : Nat) : g.flag k = h.flag k := by rw [Group.flag, hc]; rfl

/-! ## An instruction enters (R150) -/

/-- What of the issue stands in the window. -/
def entered (id : Nat) (e : Env) (i : Instr) (lanes : List LaneOp) (acq : Option Nat) (scratch engine : Bool) : Inflight :=
  { id := id, grp := e.g, insn := i, word := e.word, clause := e.b.clause, index := e.b.index, prio := e.b.prio, bundle := e.b.lanes, lanes := lanes, flag := e.flag i,
    acq := acq, scratch := scratch, engine := engine, tids := e.lanes.map Prod.snd, replays := e.lanes.filterMap fun p => ((e.thread p.2).replay).map fun r => (p.2, r) }

theorem enterWindow_eq (u : State) (e : Env) (i : Instr) (lanes : List LaneOp) (acq : Option Nat) (sc en : Bool) :
    enterWindow u e i lanes acq sc en = ((u.fresh.2).updTeam e.tk fun t => { t with iw := t.iw ++ [entered u.nextId e i lanes acq sc en] }).updGroup e.tk e.g
      fun g => g.incFlag (e.flag i) := rfl

theorem regsSame_enterWindow (u : State) (e : Env) (i : Instr) (lanes : List LaneOp) (acq : Option Nat) (sc en : Bool) :
    RegsSame u (enterWindow u e i lanes acq sc en) := by
  rw [enterWindow_eq]
  refine RegsSame.trans (b := u.fresh.2) (regsSame_of_teams rfl) (RegsSame.trans ?_ (regsSame_updGroup _ _ _ _ fun g => ?_))
  · exact regsSame_updTeam _ _ _ (fun _ => rfl) fun _ => rfl
  · cases e.flag i <;> exact ⟨rfl, rfl⟩

theorem onlyTeams_enterWindow (u : State) (e : Env) (i : Instr) (lanes : List LaneOp) (acq : Option Nat) (sc en : Bool) :
    OnlyTeams u.fresh.2 (enterWindow u e i lanes acq sc en) := by
  rw [enterWindow_eq]
  exact (onlyTeams_updTeam (.refl _) _ _).trans (onlyTeams_updGroup ..)

section
variable {s u t : State} {e : Env} {i : Instr} {lanes : List LaneOp} {acq : Option Nat} {sc en : Bool} (he : envOf s = some e) (hu : u.teams = s.teams)
include he hu

theorem team_of_teams : u.fresh.2.team e.tk = some e.team := by
  rw [← (envOf_spec he).1]
  exact congrArg (mapGet? · e.tk) hu

theorem enterWindow_iw : ((enterWindow u e i lanes acq sc en).team e.tk).map Team.iw = some (e.team.iw ++ [entered u.nextId e i lanes acq sc en]) := by
  rw [enterWindow_eq, team_updGroup, if_pos rfl, team_updTeam, if_pos rfl, team_of_teams he hu]
  rfl

theorem enterWindow_cf : ((enterWindow u e i lanes acq sc en).group e.tk e.g).map Group.cf = some (e.grp.incFlag (e.flag i)).cf := by
  have hg : u.fresh.2.group e.tk e.g = some e.grp := by
    rw [State.group, team_of_teams he hu, ← (envOf_spec he).1, ← group_of_env he]
    rfl
  rw [enterWindow_eq, group_updGroup, if_pos ⟨rfl, rfl⟩, group_updTeam, hg]
  · rfl
  · exact fun _ => rfl

omit he hu in
/-- A state whose window and flags are as after the entry, up to what the entry notes of the store buffer, has the instruction in its window. -/
theorem enters_of (hm : t.mem = u.mem) (hr : RegsSame u t) {x : Inflight} (hx : { x with fence := none } = entered u.nextId e i lanes acq sc en)
    (hiw : (t.team e.tk).map Team.iw = some (e.team.iw ++ [x])) (hcf : (t.group e.tk e.g).map Group.cf = some (e.grp.incFlag (e.flag i)).cf) :
    Enters u t e i lanes acq := by
  obtain ⟨tm, htm, hti⟩ := Option.map_eq_some_iff.mp hiw
  obtain ⟨gr, hgr, hgc⟩ := Option.map_eq_some_iff.mp hcf
  refine ⟨hm, hr, ⟨tm, x, htm, hti, ?_⟩, gr, hgr, fun k hk => ?_, fun k hk => ?_⟩
  · exact ⟨congrArg Inflight.insn hx, congrArg Inflight.lanes hx, congrArg Inflight.acq hx, congrArg Inflight.flag hx, congrArg Inflight.grp hx,
      congrArg Inflight.word hx, congrArg Inflight.clause hx, congrArg Inflight.index hx, congrArg Inflight.bundle hx⟩
  · rw [flag_of_cf hgc, flag_incFlag, if_pos hk]
  · rw [flag_of_cf hgc, flag_incFlag, if_neg hk]

/-- A memory instruction issued enters the window, and the bundle moves on. -/
theorem enters_memIssue : ∃ t, memIssue u e i lanes acq = .next t ∧ Enters u t e i lanes acq ∧ RegsSame s t := by
  have hw := windowSame_advance (enterWindow u e i lanes acq false false) e
  have hr := (regsSame_enterWindow u e i lanes acq false false).trans (regsSame_advance _ e)
  refine ⟨_, rfl, enters_of ?_ hr (x := entered u.nextId e i lanes acq false false) rfl ((hw.1 _).trans (enterWindow_iw he hu)) ((hw.2 _ _).trans (enterWindow_cf he hu)),
    (regsSame_of_teams hu).trans hr⟩
  exact (onlyTeams_advance ..).mem.trans (onlyTeams_enterWindow ..).mem

end

end Sys2Proof
end

section
/-! PROOFS. The layer on reads at a home: they leave the teams alone (R74, R79, R80, R87, R119, R161). -/

namespace Sys2Proof.Machine

theorem teams_foldl {α : Type} (l : List α) (f : State → α → State) (hf : ∀ s x, (f s x).teams = s.teams) (s : State) : (l.foldl f s).teams = s.teams := by
  induction l generalizing s with
  | nil => rfl
  | cons x xs ih => exact (ih _).trans (hf s x)

/-! ## L2 (R74, R77, R79, R80, R87) -/

theorem teams_fillBytes (s : State) (b : Nat) (bs : List Byte) : (fillBytes s b bs).teams = s.teams := by rw [fillBytes_mem]
theorem teams_putChunks (s : State) (l : Nat) (ch : BitVec 8) (bs : List Byte) : (putChunks s l ch bs).teams = s.teams := by rw [putChunks_mem rfl]
theorem teams_installBoth (s : State) (b : Nat) (bs : List Byte) : (installBoth s b bs).teams = s.teams := teams_fillBytes s b bs
theorem teams_fillPoison (s : State) (b : Nat) : (fillPoison s b).teams = s.teams := (cachesOnly_poisonBillet s b).teams

theorem teams_hbmFill (s : State) (line : Nat) (ch : BitVec 8) : (hbmFill s line ch).teams = s.teams := by
  have ht := (cachesOnly_takeError s 1 (billetOfLine line)).teams
  unfold hbmFill
  dsimp only
  split
  · exact (teams_fillPoison ..).trans ht
  · split
    · exact (teams_putChunks ..).trans ht
    · exact (teams_installBoth ..).trans ht

theorem teams_l2Error (s : State) (line : Nat) : (l2Error s line).teams = s.teams := by
  have ht := (cachesOnly_takeError s 5 line).teams
  unfold l2Error
  dsimp only
  split_ifs
  · rfl
  · exact ht
  · exact (cachesOnly_poisonLine ..).teams.trans ht
  · exact ht

theorem teams_takeError (s : State) (a p : Nat) : (s.takeError a p).2.teams = s.teams := (cachesOnly_takeError s a p).teams
theorem teams_touchDesc (s : State) (b : Nat) : (touchDesc s b).teams = s.teams := (cachesOnly_touchDesc s b).teams
theorem teams_mscDrop (s : State) (b : Nat) : (mscDrop s b).teams = s.teams := rfl
theorem teams_mscRemove (s : State) (b : Nat) : (mscRemove s b).teams = s.teams := (cachesOnly_mscRemove s b).teams
theorem teams_poisonPage (s : State) (p : Nat) : (s.poisonPage p).teams = s.teams := (cachesOnly_poisonPage s p).teams
theorem teams_installPoisoned (s : State) (b : Nat) : (installPoisoned s b).teams = s.teams := rfl

theorem teams_l2Fill (s : State) (line : Nat) (ch : BitVec 8) : (l2Fill s line ch).teams = s.teams := by
  have h0 := teams_l2Error s line
  have h1 := (teams_touchDesc (l2Error s line) (billetOfLine line)).trans h0
  unfold l2Fill
  dsimp only
  split
  · rw [updLine_teams, h0]
  split
  · rw [updLine_teams, h0]
  split
  · rw [teams_installPoisoned, h1]
  split
  · split
    · rw [teams_installPoisoned, teams_poisonPage, teams_takeError, h1]
    · rw [teams_installBoth, teams_takeError, h1]
  split
  · rw [teams_fillPoison, h1]
  split
  · rw [teams_installBoth, h1]
  split
  · split
    · split
      · rw [teams_fillPoison, teams_mscDrop, teams_takeError, h1]
      · rw [teams_hbmFill, teams_mscDrop, teams_takeError, h1]
    · split
      · rw [teams_fillPoison, teams_mscRemove, teams_takeError, h1]
      · rw [teams_installBoth, teams_mscRemove, teams_takeError, h1]
  · rw [teams_hbmFill, h1]

/-! ## Owned words recalled (R119, R126) -/

theorem teams_withdraw (s : State) (b : Nat) : (withdraw s b).teams = s.teams := by
  unfold withdraw
  dsimp only
  split <;> rfl

theorem teams_markWritten (s : State) (line off n : Nat) : (markWritten s line off n).teams = s.teams := by
  unfold markWritten
  dsimp only
  split
  · split
    · rw [updLine_teams, updLine_teams, updBillet_teams, teams_withdraw, updBillet_teams]
    · rw [updBillet_teams]
  split
  · split
    · rw [updLine_teams, updLine_teams]
    · rw [updLine_teams]
  · rfl

theorem teams_markMigration (s : State) (p : Nat) : (markMigration s p).teams = s.teams := rfl
theorem teams_markDirtyPage (s : State) (p : Nat) : (markDirtyPage s p).teams = s.teams := by
  unfold markDirtyPage
  dsimp only
  split <;> rfl

theorem teams_mergeAtHome (s : State) (line : Nat) (w : BitVec 32) (d : Cells 8) : (mergeAtHome s line w d).teams = s.teams := by
  unfold mergeAtHome
  split
  · rfl
  · dsimp only
    have h : ∀ u, ((bitsOf w).foldl (fun s i => markWritten s line (4 * i) 4) u).teams = u.teams := teams_foldl _ _ fun _ _ => teams_markWritten ..
    have g : ∀ u : State, ((dataOfWords d w).foldl (fun (s : State) (x : Nat × Byte) => s.writeMem (line * 128 + x.1) [x.2]) u).teams = u.teams := teams_foldl _ _ fun _ _ => rfl
    split
    · rw [h, updLine_teams, g, teams_l2Fill]
    · rw [teams_markDirtyPage, teams_markMigration, h, updLine_teams, g, teams_l2Fill]

theorem teams_recallNow (s : State) (line : Nat) (w : BitVec 32) (fw : Bool) : (recallNow s line w fw).teams = s.teams := by
  unfold recallNow
  dsimp only
  split
  · exact (cachesOnly_l1ReadOwned ..).teams
  · exact (teams_mergeAtHome ..).trans (cachesOnly_l1ReadOwned ..).teams

theorem teams_dirErrorNow (s : State) (line : Nat) : (dirErrorNow s line).teams = s.teams := by
  unfold dirErrorNow
  dsimp only
  split
  · exact (cachesOnly_takeError ..).teams
  · rw [updLine_teams, teams_foldl _ _ fun _ _ => updCore_teams .., teams_recallNow, teams_takeError]

theorem teams_touchPage (s : State) (p : Nat) : (touchPage s p).teams = s.teams := by rw [touchPage, updPage_teams]

/-! ## Reads (R161, R296) -/

/-- An answer of a home, if it is one that an access goes on from, leaves the teams as they were. -/
def Home.KeepsTeams {α : Type} (x : Home α) (s : State) : Prop :=
  match x with
  | .ok _ u => u.teams = s.teams
  | .poisoned _ u => u.teams = s.teams
  | _ => True

theorem keepsTeams_peerAccess {s : State} {core : Option Nat} {ea n : Nat} {put : Option (List Byte)} {r : Home (List Byte)}
    (h : peerAccess s core ea n put = some r) : r.KeepsTeams s := by
  unfold peerAccess at h
  split at h
  · cases h
  split at h
  · cases h
    split
    · trivial
    · dsimp only
      split <;> trivial
  · split at h
    · cases h
    · cases h; trivial

theorem keepsTeams_answer {s u : State} (hu : u.teams = s.teams) (bad : Bool) (ea p : Nat) (bs : List Byte) :
    Home.KeepsTeams (if bad then .poisoned ea u else .ok bs (touchPage u p)) s := by
  split
  · exact hu
  · exact (teams_touchPage ..).trans hu

theorem keepsTeams_readLine (s : State) (ea n : Nat) (core : Option Nat) (copy : Bool) : (readLine s ea n core copy).KeepsTeams s := by
  unfold readLine
  dsimp only
  split
  · exact rfl
  split
  · next h => exact keepsTeams_peerAccess h
  split
  · trivial
  split
  · trivial
  · have hf : (l2Fill (if copy && core == some ((dirErrorNow s (lineOf ea)).line (lineOf ea)).owner then dirErrorNow s (lineOf ea)
        else recallNow (dirErrorNow s (lineOf ea)) (lineOf ea) (wordsMask (ea % 128) n) false) (lineOf ea) (chunksOf (ea % 128) n)).teams = s.teams := by
      rw [teams_l2Fill]
      split
      · exact teams_dirErrorNow ..
      · exact (teams_recallNow ..).trans (teams_dirErrorNow ..)
    exact keepsTeams_answer hf ..

theorem keepsTeams_hostFetch (s : State) (core ctx ea n : Nat) : (hostFetch s core ctx ea n).KeepsTeams s := by
  unfold hostFetch
  split
  · split
    · exact rfl
    · trivial
  · trivial

theorem keepsTeams_kcRead (s : State) (core ctx tgt ea n : Nat) : (kcRead s core ctx tgt ea n).KeepsTeams s := by
  have h : ∀ (u : State) (r : Home (List Byte)), u.teams = s.teams → r.KeepsTeams u →
      (r.bind fun bs v => .ok ((bs.drop (ea % 128)).take n) (v.updCore core fun k => kcInstall k (kcKey tgt (lineOf ea)) bs)).KeepsTeams s := by
    intro u r hu hr
    cases r with
    | ok bs v => exact (hr : v.teams = u.teams).trans hu
    | poisoned a v => exact (hr : v.teams = u.teams).trans hu
    | wait v => trivial
    | refused c b x v => trivial
  have ht : (if (mapGet? (s.core core).kc (kcKey tgt (lineOf ea))).isSome then s.takeError 13 (kcKey tgt (lineOf ea) * 1024 + core) else (false, s)).2.teams = s.teams := by
    split
    · exact teams_takeError ..
    · rfl
  unfold kcRead
  dsimp only
  split
  · exact ht
  · refine h _ _ ht ?_
    split
    · exact keepsTeams_hostFetch ..
    · exact keepsTeams_readLine ..

end Sys2Proof.Machine
end

section
/-! PROOFS. Constant-path loads, fences and hints (R27, R51, R150, R156, R158, R160, R161, R261, R296, R300 to R303); O27 is put together here. -/

namespace Sys2Proof

open Machine

/-! ## Loads through the constant path (R296) -/

/-- One lane's read through the constant cache. -/
def kcStep (e : Env) (n : Nat) (acc : Option (List LaneOp) × State) (t : Target) : Option (List LaneOp) × State :=
  match acc.1 with
  | none => acc
  | some ls =>
    let lane : LaneOp := { lane := t.lane, tid := t.tid, va := t.va, ea := t.ea, tgt := t.tgt, n := n, kind := .load, pol := 1, ptes := t.lines, stage := .returned }
    match kcRead acc.2 e.core e.team.ctx t.tgt t.ea n with
    | .ok bs s => (some (ls ++ [{ lane with result := bs }]), s)
    | .poisoned _ s => (some (ls ++ [{ lane with stage := .poisoned }]), s)
    | .wait s => (none, s)
    | .refused _ _ _ s => (none, s)

theorem kcLanes_eq (s : State) (e : Env) (n : Nat) (ts : List Target) : kcLanes s e n ts = ts.foldl (kcStep e n) (some [], s) := rfl

/-- A lane that is read comes back with bytes or with poison, behind those before it; the teams stay. -/
theorem kcStep_some {e : Env} {n : Nat} {ls ls' : List LaneOp} {s u : State} {t : Target} (h : kcStep e n (some ls, s) t = (some ls', u)) :
    u.teams = s.teams ∧ ∃ l : LaneOp, ls' = ls ++ [l] ∧ (l.lane, l.tid) = (t.lane, t.tid) ∧ (l.stage = .returned ∨ l.stage = .poisoned) := by
  have hk := keepsTeams_kcRead s e.core e.team.ctx t.tgt t.ea n
  simp only [kcStep] at h
  cases hr : kcRead s e.core e.team.ctx t.tgt t.ea n with
  | ok bs v => rw [hr] at h hk; cases h; exact ⟨hk, _, rfl, rfl, .inl rfl⟩
  | poisoned a v => rw [hr] at h hk; cases h; exact ⟨hk, _, rfl, rfl, .inr rfl⟩
  | wait v => rw [hr] at h; cases h
  | refused c b r v => rw [hr] at h; cases h

theorem kcFold_none (e : Env) (n : Nat) (ts : List Target) (s : State) : ts.foldl (kcStep e n) (none, s) = (none, s) := by
  induction ts with
  | nil => rfl
  | cons t ts ih => exact ih

theorem kcFold_some {e : Env} {n : Nat} {ts : List Target} {ls lanes : List LaneOp} {s u : State} (h : ts.foldl (kcStep e n) (some ls, s) = (some lanes, u)) :
    u.teams = s.teams ∧ ∃ new : List LaneOp, lanes = ls ++ new ∧ new.map (fun l => (l.lane, l.tid)) = ts.map (fun g => (g.lane, g.tid)) ∧
      ∀ l ∈ new, l.stage = .returned ∨ l.stage = .poisoned := by
  induction ts generalizing ls s with
  | nil => cases h; exact ⟨rfl, [], by simp, rfl, by simp⟩
  | cons t ts ih =>
    rw [List.foldl_cons] at h
    cases hs : kcStep e n (some ls, s) t with
    | mk o v =>
      rw [hs] at h
      cases o with
      | none => rw [kcFold_none] at h; cases h
      | some ls' =>
        obtain ⟨hv, l, rfl, hl, hst⟩ := kcStep_some hs
        obtain ⟨hu, new, rfl, hm, hn⟩ := ih h
        refine ⟨hu.trans hv, l :: new, by simp, by rw [List.map_cons, List.map_cons, hm, hl], fun x hx => ?_⟩
        rcases List.mem_cons.mp hx with rfl | hx
        · exact hst
        · exact hn x hx

theorem kcLanes_spec {s u : State} {e : Env} {n : Nat} {ts : List Target} {lanes : List LaneOp} (h : kcLanes s e n ts = (some lanes, u)) :
    u.teams = s.teams ∧ lanes.map (fun l => (l.lane, l.tid)) = ts.map (fun g => (g.lane, g.tid)) ∧ ∀ l ∈ lanes, l.stage = .returned ∨ l.stage = .poisoned := by
  rw [kcLanes_eq] at h
  obtain ⟨hu, new, rfl, hm, hn⟩ := kcFold_some h
  exact ⟨hu, hm, hn⟩

theorem ldk_enters {s u : State} {e : Env} {g : Target} {ts : List Target} {f : MF} {lanes : List LaneOp} (hi : Issues s (.ldk f) e)
    (hc : checkLanes s e (mAddrs e f) (tyBytes f.ty) kRead true = .ok (g :: ts))
    (hk : kcLanes (dropEnded s e.core e.team.ctx) e (tyBytes f.ty) (g :: ts) = (some lanes, u)) :
    ∃ t, exec (.ldk f) s = .next t ∧ Enters u t e (.ldk f) lanes none ∧ RegsSame s t ∧
      lanes.map (fun l => (l.lane, l.tid)) = (g :: ts).map (fun g => (g.lane, g.tid)) ∧ ∀ l ∈ lanes, l.stage = .returned ∨ l.stage = .poisoned := by
  obtain ⟨ht, hl, hs⟩ := kcLanes_spec hk
  obtain ⟨t, hx, hen, hr⟩ := enters_memIssue (u := u) (i := .ldk f) (lanes := lanes) (acq := none) hi.bundle (ht.trans (dropEnded_teams ..))
  refine ⟨t, ?_, hen, hr, hl, hs⟩
  rw [exec_ldk, execLdk, hi.withGate]
  simp only [hc, hk, List.isEmpty_cons, Bool.false_eq_true, if_false, hx]

theorem sext_toNat (w : Word) : sext 32 w.toNat = w.toInt := by
  unfold sext
  rw [BitVec.toInt_eq_toNat_cond, Nat.mod_eq_of_lt w.isLt]
  dsimp only
  split <;> split <;> omega

/-- The address a group's load names: its base and a signed offset, aligned down (R296). -/
def gldkAddr (s : State) (e : Env) (f : VF) : Nat := addrPlus (uni64 e f.a).toNat (src32 s e 0 f.b).toInt / tyBytes f.ty * tyBytes f.ty
/-- Every thread of the bundle takes the same bytes. -/
def gldkLanes (s : State) (e : Env) (f : VF) (g : Target) (bs : List Byte) : List LaneOp := e.lanes.map fun p =>
  { lane := p.1, tid := p.2, va := gldkAddr s e f, ea := g.ea, tgt := g.tgt, n := tyBytes f.ty, kind := .load, pol := 1, ptes := g.lines, stage := .returned, result := bs }

theorem exec_gldk_ok {s u : State} {e : Env} {g : Target} {ts : List Target} {f : VF} {l tid : Nat} {bs : List Byte} (hi : Issues s (.gldk f) e)
    (hl : e.lanes.head? = some (l, tid)) (hc : checkLanes s e [(l, tid, gldkAddr s e f)] (tyBytes f.ty) kRead false = .ok (g :: ts))
    (hk : kcRead (dropEnded s e.core e.team.ctx) e.core e.team.ctx g.tgt g.ea (tyBytes f.ty) = .ok bs u) :
    exec (.gldk f) s = memIssue u e (.gldk f) (gldkLanes s e f g bs) none := by
  have ha : addrPlus (uni64 e f.a).toNat (sext 32 (s32 s e 0 f.b)) / tyBytes f.ty * tyBytes f.ty = gldkAddr s e f := by rw [s32, sext_toNat]; rfl
  rw [exec_gldk, execGldk, hi.withGate]
  simp only [hl, ha, hc, List.head?_cons, hk]
  rfl

theorem gldk_enters {s u : State} {e : Env} {g : Target} {ts : List Target} {f : VF} {l tid : Nat} {bs : List Byte} (hi : Issues s (.gldk f) e)
    (hl : e.lanes.head? = some (l, tid)) (hc : checkLanes s e [(l, tid, gldkAddr s e f)] (tyBytes f.ty) kRead false = .ok (g :: ts))
    (hk : kcRead (dropEnded s e.core e.team.ctx) e.core e.team.ctx g.tgt g.ea (tyBytes f.ty) = .ok bs u) :
    ∃ t lanes, exec (.gldk f) s = .next t ∧ Enters u t e (.gldk f) lanes none ∧ RegsSame s t ∧
      lanes.map (fun l => (l.lane, l.tid)) = e.lanes ∧ ∀ l ∈ lanes, l.stage = .returned ∧ l.result = bs := by
  have ht := keepsTeams_kcRead (dropEnded s e.core e.team.ctx) e.core e.team.ctx g.tgt g.ea (tyBytes f.ty)
  rw [hk] at ht
  obtain ⟨t, hx, hen, hr⟩ := enters_memIssue (u := u) (i := .gldk f) (acq := none) (lanes := gldkLanes s e f g bs) hi.bundle (ht.trans (dropEnded_teams ..))
  refine ⟨t, _, (exec_gldk_ok hi hl hc hk).trans hx, hen, hr, by simp [gldkLanes, Function.comp_def], fun l hl => ?_⟩
  obtain ⟨p, -, rfl⟩ := List.mem_map.mp hl
  exact ⟨rfl, rfl⟩

/-! ## The group's destination (R160) -/

/-- Lanes that all came back with the same bytes write the group's register, whichever of them writes last. -/
theorem gHolds_writeResults {tk n : Nat} {i : Inflight} {f : VF} {bs : List Byte} (hi : i.insn = .gldk f) (hd : opKind f.d = .g n) (ls : List LaneOp)
    (hls : ∀ l ∈ ls, l.stage = .returned ∧ l.result = bs) {s : State} (hg : (s.group tk i.grp).isSome = true)
    (h : ls ≠ [] ∨ gHolds s tk i.grp n (tySpan f.ty) (extendTo f.ty (leNat bs))) :
    gHolds (ls.foldl (fun s l => if l.stage == .returned || l.stage == .performed then writeResult s tk i l else s) s) tk i.grp n (tySpan f.ty)
      (extendTo f.ty (leNat bs)) := by
  induction ls generalizing s with
  | nil => exact h.resolve_left fun h => h rfl
  | cons l ls ih =>
    obtain ⟨hst, hre⟩ := hls l List.mem_cons_self
    have hw : writeResult s tk i l = s.updGroup tk i.grp fun g => g.setG n (tySpan f.ty) (extendTo f.ty (leNat bs)) := by
      simp only [writeResult, hi, resultOf, hd, hre, if_true]
    obtain ⟨gr, hgr⟩ := Option.isSome_iff_exists.mp hg
    have hgu : (s.updGroup tk i.grp fun g => g.setG n (tySpan f.ty) (extendTo f.ty (leNat bs))).group tk i.grp =
        some (gr.setG n (tySpan f.ty) (extendTo f.ty (leNat bs))) := by rw [group_updGroup, if_pos ⟨rfl, rfl⟩, hgr]; rfl
    rw [List.foldl_cons, if_pos (by rw [hst]; rfl), hw]
    refine ih (fun x hx => hls x (List.mem_cons_of_mem _ hx)) (by rw [hgu]; rfl) (.inr ⟨_, hgu, holds_setG _ _ _ _⟩)

theorem regsSame_leaveWindow (s : State) (tk : Nat) (i : Inflight) : RegsSame s (leaveWindow s tk i) := by
  refine RegsSame.trans (b := s.updTeam tk fun t => { t with iw := t.iw.filter fun x => x.id != i.id }) ?_ (regsSame_updGroup _ _ _ _ fun g => ?_)
  · exact regsSame_updTeam _ _ _ (fun _ => rfl) fun _ => rfl
  · cases i.flag <;> exact ⟨rfl, rfl⟩

theorem gHolds_leaveWindow {s : State} {tk g n k x : Nat} {i : Inflight} (h : gHolds s tk g n k x) : gHolds (leaveWindow s tk i) tk g n k x := by
  obtain ⟨gr, hgr, hh⟩ := h
  have h2 := (regsSame_leaveWindow s tk i).2 tk g
  rw [hgr] at h2
  obtain ⟨gr', hgr', he⟩ := Option.map_eq_some_iff.mp h2
  exact ⟨gr', hgr', by rw [(Prod.mk.inj he).1]; exact hh⟩

theorem acquire_teams (s : State) (c sc : Nat) : (acquire s c sc).teams = s.teams := by
  unfold acquire
  split <;> rfl

theorem gldk_complete {s : State} {k iss : Nat} {tm : Team} {i : Inflight} {gr : Group} {f : VF} {bs : List Byte} {n : Nat} (ht : s.team k = some tm)
    (hf : findIss tm iss = some i) (hg : s.group k i.grp = some gr) (ha : (s.core tm.core).asleep = false) (hi : i.insn = .gldk f) (he : i.engine = false)
    (hfe : i.fence = none) (hne : i.lanes ≠ []) (hls : ∀ l ∈ i.lanes, l.stage = .returned ∧ l.result = bs) (ho : heldByOlder tm i = false) (hd : opKind f.d = .g n) :
    ∃ t, exec (.complete k iss) s = .next t ∧ gHolds t k i.grp n (tySpan f.ty) (extendTo f.ty (leNat bs)) := by
  have hfin : i.lanes.all LaneOp.final = true := List.all_eq_true.mpr fun l hl => by simp [LaneOp.final, (hls l hl).1]
  have hbad : (i.lanes.filter fun l => l.stage == .refused || l.stage == .poisoned) = [] := List.filter_eq_nil_iff.mpr fun l hl => by simp [(hls l hl).1]
  have hpo : (i.lanes.any fun l => l.stage == .poisoned) = false := List.any_eq_false.mpr fun l hl => by simp [(hls l hl).1]
  have hre : (i.lanes.filter fun l => l.stage == .refused) = [] := List.filter_eq_nil_iff.mpr fun l hl => by simp [(hls l hl).1]
  simp only [exec_complete, execComplete, ht, hf, ha, hfe, he, hfin, ho, hbad, hpo, takeRefusal, hre, Option.bind_some, Option.map_some, List.map_nil, List.isEmpty_nil,
    Bool.not_true, Bool.or_self, Bool.false_and, Bool.false_eq_true, if_false, if_true]
  refine ⟨_, rfl, gHolds_leaveWindow (gHolds_writeResults hi hd _ hls ?_ (.inl hne))⟩
  split
  · rw [State.group, State.team, acquire_teams]
    exact Option.isSome_iff_exists.mpr ⟨gr, hg⟩
  · rw [hg]; rfl

theorem constantLoads : Part.ConstantLoads := fun _ _ _ _ _ =>
  ⟨fun _ _ => ldk_enters, fun _ _ _ _ => gldk_enters, fun _ _ _ _ _ _ _ _ => gldk_complete⟩

/-! ## Fences (R156, R158, R161, R300) -/

theorem noLease_dropLeases (k : Core) : ∀ p ∈ k.dropLeases.l1, ∀ h ∈ p.2.chunks, h.isLeased = false := by
  intro p hp h hh
  simp only [Core.dropLeases, List.mem_filter, List.mem_map] at hp
  obtain ⟨⟨q, -, rfl⟩, -⟩ := hp
  simp only [L1Line.dropLeased, List.mem_map] at hh
  obtain ⟨c, -, rfl⟩ := hh
  split
  · rfl
  · next hc => simpa using hc

theorem acquire_mem (s : State) (c sc : Nat) : (acquire s c sc).mem = s.mem := by
  unfold acquire
  split <;> rfl

theorem fence_spec {s u : State} {e : Env} {f : MF} (hi : Issues s (.fence f) e) {ord : Nat} (ho : (if f.ord = 0 then 3 else f.ord.toNat) = ord)
    (hr : (if 2 ≤ ord then released s e f.scope.toNat else (true, s)) = (true, u))
    (ha : ord % 2 = 1 → openLanes e.team (e.lanes.map Prod.snd) (fun i l => l.openLoad || (i.scratch && l.stage != .performed && l.stage != .returned)) = false) :
    ∃ t, exec (.fence f) s = .next t ∧ t.mem = s.mem ∧ RegsSame s t ∧
      (ord % 2 = 1 → 2 ≤ f.scope.toNat → ∀ p ∈ (t.core e.core).l1, ∀ h ∈ p.2.chunks, h.isLeased = false) := by
  have hx : exec (.fence f) s = .next (Machine.advance (if ord % 2 == 1 then acquire u e.core f.scope.toNat else u) e) := by
    rw [exec_fence, execFence, hi.withGate]
    simp only [beq_iff_eq, ho, ge_iff_le, hr]
    by_cases h1 : ord % 2 = 1
    · simp [h1, ha h1]
    · simp [h1]
  have hm : (if ord % 2 == 1 then acquire u e.core f.scope.toNat else u).mem = u.mem := by
    split
    · exact acquire_mem ..
    · rfl
  have ht : (if ord % 2 == 1 then acquire u e.core f.scope.toNat else u).teams = u.teams := by
    split
    · exact acquire_teams ..
    · rfl
  refine ⟨_, hx, (onlyTeams_advance ..).mem.trans (hm.trans (released_onlyTeams hr).mem),
    (released_regsSame hr).trans ((regsSame_of_teams ht).trans (regsSame_advance ..)), fun h1 h2 p hp h hh => ?_⟩
  rw [(onlyTeams_advance ..).core, if_pos (by simpa using h1), acquire, if_neg (by omega), core_updCore, if_pos rfl] at hp
  exact noLease_dropLeases _ p hp h hh

/-! ## pfence (R301) -/

/-- What pfence notes of the store buffer, in the issue that has just entered. -/
def noteFence (id : Nat) (ids : List Nat) (x : Inflight) : Inflight := if x.id == id then { x with fence := some ids } else x

theorem map_noteFence {id : Nat} (ids : List Nat) {iw : List Inflight} (h : ∀ i ∈ iw, i.id ≠ id) {x : Inflight} (hx : x.id = id) :
    (iw ++ [x]).map (noteFence id ids) = iw ++ [{ x with fence := some ids }] := by
  rw [List.map_append, List.map_singleton, noteFence, if_pos (by simpa using hx)]
  refine congrArg (· ++ _) ((List.map_congr_left fun i hi => ?_).trans (List.map_id _))
  rw [noteFence, if_neg (by simpa using h i hi)]
  rfl

/-- The team's window with that note. -/
def noteAll (w : State) (tk id : Nat) (ids : List Nat) : State := w.updTeam tk fun t => { t with iw := t.iw.map (noteFence id ids) }

theorem regsSame_noteAll (w : State) (tk id : Nat) (ids : List Nat) : RegsSame w (noteAll w tk id ids) := regsSame_updTeam w tk _ (fun _ => rfl) fun _ => rfl
theorem group_noteAll (w : State) (tk id : Nat) (ids : List Nat) (k g : Nat) : (noteAll w tk id ids).group k g = w.group k g := by
  rw [noteAll, group_updTeam]
  exact fun _ => rfl
theorem onlyTeams_noteAll (w : State) (tk id : Nat) (ids : List Nat) : OnlyTeams w (noteAll w tk id ids) := onlyTeams_updTeam (.refl w) tk _
theorem iw_noteAll (w : State) (tk id : Nat) (ids : List Nat) : ((noteAll w tk id ids).team tk).map Team.iw = ((w.team tk).map Team.iw).map (List.map (noteFence id ids)) := by
  rw [noteAll, team_updTeam, if_pos rfl, Option.map_map, Option.map_map]
  rfl

theorem pfence_enters {s : State} {e : Env} {f : MF} (hi : Issues s (.pfence f) e) (hn : ∀ i ∈ e.team.iw, i.id ≠ s.nextId) :
    ∃ t tm x, exec (.pfence f) s = .next t ∧ Enters s t e (.pfence f) [] none ∧ t.team e.tk = some tm ∧ tm.iw = e.team.iw ++ [x] ∧
      x.fence = some ((s.core e.core).sb.map SbEntry.id) ∧ x.tids = e.lanes.map Prod.snd := by
  have hiw := enterWindow_iw (i := .pfence f) (lanes := []) (acq := none) (sc := false) (en := false) hi.bundle (rfl : s.teams = s.teams)
  have hcf := enterWindow_cf (i := .pfence f) (lanes := []) (acq := none) (sc := false) (en := false) hi.bundle (rfl : s.teams = s.teams)
  have hre := regsSame_enterWindow s e (.pfence f) [] none false false
  have hot := onlyTeams_enterWindow s e (.pfence f) [] none false false
  have hx : exec (.pfence f) s = .next (Machine.advance (noteAll (enterWindow s e (.pfence f) [] none false false) e.tk s.nextId
      (((enterWindow s e (.pfence f) [] none false false).core e.core).sb.map SbEntry.id)) e) := by
    rw [exec_pfence, execPfence, hi.withGate]
    rfl
  have hsb : ((enterWindow s e (.pfence f) [] none false false).core e.core).sb = (s.core e.core).sb := by rw [hot.core]; rfl
  rw [hsb] at hx
  have hvi := iw_noteAll (enterWindow s e (.pfence f) [] none false false) e.tk s.nextId ((s.core e.core).sb.map SbEntry.id)
  rw [hiw, Option.map_some, map_noteFence _ hn rfl] at hvi
  have hvc := (congrArg (Option.map Group.cf) (group_noteAll (enterWindow s e (.pfence f) [] none false false) e.tk s.nextId ((s.core e.core).sb.map SbEntry.id) e.tk e.g)).trans hcf
  have hvm := (onlyTeams_noteAll (enterWindow s e (.pfence f) [] none false false) e.tk s.nextId ((s.core e.core).sb.map SbEntry.id)).mem.trans hot.mem
  have hvr := hre.trans (regsSame_noteAll (enterWindow s e (.pfence f) [] none false false) e.tk s.nextId ((s.core e.core).sb.map SbEntry.id))
  generalize noteAll (enterWindow s e (.pfence f) [] none false false) e.tk s.nextId ((s.core e.core).sb.map SbEntry.id) = v at *
  have hw := windowSame_advance v e
  have hti := (hw.1 e.tk).trans hvi
  obtain ⟨tm, htm, htmi⟩ := Option.map_eq_some_iff.mp hti
  exact ⟨_, tm, _, hx, enters_of ((onlyTeams_advance v e).mem.trans hvm) (hvr.trans (regsSame_advance v e)) rfl hti ((hw.2 _ _).trans hvc), htm, htmi, rfl, rfl⟩

/-- pfence complete: it leaves the window, its flag is given back, and the constant cache is empty. -/
theorem pfence_complete {s : State} {k iss : Nat} {tm : Team} {i : Inflight} {gr : Group} {ids : List Nat} (ht : s.team k = some tm) (hf : findIss tm iss = some i)
    (hg : s.group k i.grp = some gr) (ha : (s.core tm.core).asleep = false) (hfe : i.fence = some ids) (hsb : ∀ x ∈ (s.core tm.core).sb, x.id ∉ ids)
    (hw : writesOpen (olderThan tm iss) i.tids = false) :
    ∃ t tm' gr', exec (.complete k iss) s = .next t ∧ t.mem = s.mem ∧ RegsSame s t ∧ (t.core tm.core).kc = [] ∧ t.team k = some tm' ∧
      findIss tm' iss = none ∧ t.group k i.grp = some gr' ∧ ∀ n, i.flag = some n → gr'.flag n = gr.flag n - 1 := by
  have hid : i.id = iss := by simpa using List.find?_some hf
  have hx : exec (.complete k iss) s = .next ((dropConstReads (leaveWindow s k i) tm.core).updCore tm.core fun k => { k with kc := [] }) := by
    have hno : ((s.core tm.core).sb.any (fun e => ids.contains e.id) || writesOpen (olderThan tm i.id) i.tids) = false := by
      rw [hid, hw, Bool.or_false, List.any_eq_false]
      intro x hx
      simpa using hsb x hx
    simp only [exec_complete, execComplete, ht, hf, ha, hfe, completeFence, hno, Option.bind_some, Option.map_some, Bool.false_eq_true, if_false]
  have hot : OnlyTeams s (leaveWindow s k i) := (onlyTeams_updTeam (.refl s) k _).trans (onlyTeams_updGroup ..)
  have hteam : (leaveWindow s k i).team k = some { tm with iw := tm.iw.filter (fun x => x.id != i.id), groups := listUpd tm.groups i.grp fun g => g.decFlag i.flag } := by
    rw [leaveWindow, team_updGroup, if_pos rfl, team_updTeam, if_pos rfl, ht]; rfl
  have hgroup : (leaveWindow s k i).group k i.grp = some (gr.decFlag i.flag) := by
    rw [leaveWindow, group_updGroup, if_pos ⟨rfl, rfl⟩, group_updTeam, hg]
    · rfl
    · exact fun _ => rfl
  refine ⟨_, _, _, hx, hot.mem, regsSame_leaveWindow s k i, ?_, hteam, ?_, hgroup, fun n hn => ?_⟩
  · rw [core_updCore, if_pos rfl]
  · simp [findIss, hid]
  · rw [flag_decFlag, if_pos hn]

theorem fences : Part.Fences := fun _ _ _ _ =>
  ⟨fun hi => fence_spec hi rfl, pfence_enters, fun _ _ _ _ _ _ => pfence_complete⟩

/-! ## Hints (R27, R302, R303) -/

/-- Of a list, those that give something and those that do not are all there are. -/
theorem length_filterMap_add {α β : Type} (f : α → Option β) (l : List α) : (l.filterMap f).length + (l.filter fun x => (f x).isNone).length = l.length := by
  induction l with
  | nil => rfl
  | cons x xs ih =>
    cases h : f x <;> simp [h] <;> omega

/-- The lane's target, where its address translates. -/
def hintTarget (r : Nat × Nat × Nat × Xlate) : Option Target :=
  match r.2.2.2 with
  | .ok tgt ea pte lines => some { lane := r.1, tid := r.2.1, va := r.2.2.1, tgt := tgt, ea := ea, pte := pte, lines := lines }
  | _ => none

/-- The lanes of a hint, translated: the others are counted (R27). -/
theorem hintLanes_spec {s u : State} {e : Env} {ls : List (Nat × Nat × Nat)} {ts : List Target} (h : hintLanes s e ls = (some ts, u)) :
    ∃ k, k ≤ ls.length ∧ ts.length + k = ls.length ∧
      u = (dropEnded s e.core e.team.ctx).updCtx e.team.ctx fun c => { c with hintdrop := BitVec.ofNat 32 (min 0xFFFFFFFF (c.hintdrop.toNat + k)) } := by
  unfold hintLanes at h
  dsimp only at h
  split at h
  · cases h
  · obtain ⟨h1, h2⟩ := Prod.mk.inj h
    set rs := ls.map fun (x : Nat × Nat × Nat) => (x.1, x.2.1, x.2.2, checkLane s e x.2.1 x.2.2 1 kHint false) with hrs
    have hlen := length_filterMap_add hintTarget rs
    have hrl : rs.length = ls.length := List.length_map ..
    have hts : ts = rs.filterMap hintTarget := (Option.some.inj h1).symm.trans (List.filterMap_congr fun r _ => by unfold hintTarget; rfl)
    have hbad : (rs.filter fun r => (hintTarget r).isNone) = rs.filter fun (_, _, _, r) => match r with | .ok _ _ _ _ => false | _ => true :=
      List.filter_congr fun r _ => by
        obtain ⟨l, tid, va, x⟩ := r
        cases x <;> rfl
    rw [hrl, hbad, ← hts] at hlen
    exact ⟨_, by omega, hlen, h2.symm⟩

section
variable {s u : State} {e : Env} {f : MF} {ts : List Target} (h : hintLanes s e (mAddrs e f) = (some ts, u))
include h

theorem hintCount {c : Ctx} (hc : s.ctx e.team.ctx = some c) : ∃ k, k ≤ (mAddrs e f).length ∧ ts.length + k = (mAddrs e f).length ∧
    u.ctx e.team.ctx = some { c with hintdrop := BitVec.ofNat 32 (min 0xFFFFFFFF (c.hintdrop.toNat + k)) } := by
  obtain ⟨k, h1, h2, hu⟩ := hintLanes_spec h
  refine ⟨k, h1, h2, ?_⟩
  rw [hu, ctx_updCtx, if_pos rfl]
  show (s.ctx e.team.ctx).map _ = _
  rw [hc, Option.map_some]

theorem pref_spec (hi : Issues s (.pref f) e) : ∃ t, exec (.pref f) s = .next t ∧ (ts = [] → t = Machine.advance u e) ∧
    t = Machine.advance ((dedup ((ts.filter fun g => g.tgt == 0).map fun g => lineOf g.ea)).foldl (fun v line => prefetch v e (f.fn == 1)
      ((((ts.filter fun g => g.tgt == 0).find? fun g => lineOf g.ea == line).map fun g => effectivePol v e.team.ctx f.coh.toNat g.tgt g.pte).getD 1) line) u) e := by
  refine ⟨_, ?_, fun ht => ?_, rfl⟩
  · rw [exec_pref, execPref, hi.withGate, h]
  · rw [ht]; rfl

end

/-! ### resid (R303) -/

/-- What a hint makes of its page's record: hot for a time, unless its promotion is more than the pool meets; or cold. -/
def hinted (s : State) (hot : Bool) (p : Nat) (x : Page) : Page :=
  if hot then
    if (s.billet (p * 256)).loc ≠ 1 ∨ promotionNeed s p ≤ s.poolOf (s.vdOfPage p) then { x with hotUntil := s.ns + 1000000 } else x
  else { x with count := 0 }

/-- What the fate of a hint depends on is the same in two states. -/
structure SamePool (s t : State) : Prop where
  ns : t.ns = s.ns
  billets : t.billets = s.billets
  pool : t.pool = s.pool
  vds : t.vds = s.vds

theorem hinted_samePool {s t : State} (h : SamePool s t) : hinted t = hinted s := by
  have hb : t.billet = s.billet := by funext b; rw [State.billet, h.billets]; rfl
  have hn : promotionNeed t = promotionNeed s := by funext p; rw [promotionNeed, hb]; rfl
  have hv : t.vdOfPage = s.vdOfPage := by funext p; rw [State.vdOfPage, h.vds]; rfl
  have hp : t.poolOf = s.poolOf := by funext v; rw [State.poolOf, State.vd, h.pool, h.vds]; rfl
  funext hot p x
  rw [hinted, hb, hn, hv, hp, h.ns]
  rfl

theorem hinted_hinted (s : State) (hot : Bool) (p : Nat) (x : Page) : hinted s hot p (hinted s hot p x) = hinted s hot p x := by
  unfold hinted
  split_ifs <;> rfl

theorem samePool_updPage (s : State) (p : Nat) (f : Page → Page) : SamePool s (s.updPage p f) :=
  ⟨updPage_ns .., updPage_billets .., updPage_pool .., updPage_vds ..⟩

theorem startPromotion_eq (s : State) (p : Nat) : startPromotion s p = { s with migrations := (startPromotion s p).migrations } := by
  unfold startPromotion
  split <;> rfl

theorem hintPage_spec (s : State) (hot : Bool) (p : Nat) : SamePool s (hintPage s hot p) ∧ (hintPage s hot p).mem = s.mem ∧
    (hintPage s hot p).teams = s.teams ∧ ∀ q, (hintPage s hot p).page q = if q = p then (s.page q).map (hinted s hot q) else s.page q := by
  have hu : ∀ (f : Page → Page) (t : State), (∃ m, t = { s.updPage p f with migrations := m }) → f = hinted s hot p → SamePool s t ∧ t.mem = s.mem ∧ t.teams = s.teams ∧
      ∀ q, t.page q = if q = p then (s.page q).map (hinted s hot q) else s.page q := by
    rintro f t ⟨m, rfl⟩ rfl
    obtain ⟨h1, h2, h3, h4⟩ := samePool_updPage s p (hinted s hot p)
    refine ⟨⟨h1, h2, h3, h4⟩, updPage_mem .., updPage_teams .., fun q => ?_⟩
    refine (page_updPage s p q (hinted s hot p)).trans ?_
    split
    · next hq => rw [hq]
    · rfl
  unfold hintPage
  cases hot with
  | false => exact hu _ _ ⟨_, rfl⟩ rfl
  | true =>
    dsimp only
    rw [if_pos rfl]
    split
    · next hl => exact hu _ _ ⟨_, rfl⟩ (funext fun x => by rw [hinted, if_pos rfl, if_pos (.inl hl)])
    split
    · next hn => exact hu _ _ ⟨_, startPromotion_eq ..⟩ (funext fun x => by rw [hinted, if_pos rfl, if_pos (.inr hn)])
    · next hl hn =>
      have hid : hinted s true p = id := funext fun x => by rw [hinted, if_pos rfl, if_neg (by tauto)]; rfl
      refine ⟨⟨rfl, rfl, rfl, rfl⟩, rfl, rfl, fun q => ?_⟩
      split
      · next hq => rw [hq, hid, Option.map_id, id]
      · rfl

theorem hintPages_spec (s : State) (hot : Bool) (ps : List Nat) : let t := ps.foldl (fun s p => hintPage s hot p) s
    t.mem = s.mem ∧ t.teams = s.teams ∧ ∀ q, q ∈ ps → t.page q = (s.page q).map (hinted s hot q) := by
  have h : ∀ (ps : List Nat) (u : State), SamePool s u → let t := ps.foldl (fun s p => hintPage s hot p) u
      t.mem = u.mem ∧ t.teams = u.teams ∧ ∀ q, (q ∈ ps ∨ u.page q = (u.page q).map (hinted s hot q)) → t.page q = (u.page q).map (hinted s hot q) := by
    intro ps
    induction ps with
    | nil => exact fun u _ => ⟨rfl, rfl, fun q hq => hq.resolve_left List.not_mem_nil⟩
    | cons p ps ih =>
      intro u hu
      obtain ⟨h1, h2, h3, h4⟩ := hintPage_spec u hot p
      rw [hinted_samePool hu] at h4
      obtain ⟨i1, i2, i3⟩ := ih (hintPage u hot p) ⟨h1.ns.trans hu.ns, h1.billets.trans hu.billets, h1.pool.trans hu.pool, h1.vds.trans hu.vds⟩
      refine ⟨i1.trans h2, i2.trans h3, fun q hq => ?_⟩
      have hid : ((u.page q).map (hinted s hot q)).map (hinted s hot q) = (u.page q).map (hinted s hot q) := by
        rw [Option.map_map]; exact congrArg (Option.map · (u.page q)) (funext (hinted_hinted s hot q))
      rw [List.foldl_cons]
      by_cases hqp : q = p
      · rw [i3 q (.inr ?_), h4, if_pos hqp, hid]
        rw [h4, if_pos hqp, hid]
      · rw [i3 q ?_, h4, if_neg hqp]
        rw [h4, if_neg hqp]
        exact hq.imp_left fun hm => (List.mem_cons.mp hm).resolve_left hqp
  exact ⟨(h ps s ⟨rfl, rfl, rfl, rfl⟩).1, (h ps s ⟨rfl, rfl, rfl, rfl⟩).2.1, fun q hq => (h ps s ⟨rfl, rfl, rfl, rfl⟩).2.2 q (.inl hq)⟩

theorem mem_dedup {x : Nat} {l : List Nat} (h : x ∈ l) : x ∈ dedup l := by
  have hf : ∀ (l acc : List Nat), (x ∈ acc ∨ x ∈ l) → x ∈ l.foldl (fun acc x => if acc.contains x then acc else acc ++ [x]) acc := by
    intro l
    induction l with
    | nil => exact fun acc h => h.resolve_right List.not_mem_nil
    | cons y ys ih =>
      intro acc h
      refine ih _ ?_
      dsimp only
      rcases h with h | h
      · left; split
        · exact h
        · exact List.mem_append_left _ h
      · rcases List.mem_cons.mp h with rfl | h
        · left; split
          · next hc => simpa using hc
          · exact List.mem_append_right _ List.mem_cons_self
        · exact .inr h
  exact hf l [] (.inr h)

theorem resid_spec {s u : State} {e : Env} {f : MF} {ts : List Target} (h : hintLanes s e (mAddrs e f) = (some ts, u)) (hi : Issues s (.resid f) e) :
    ∃ t, exec (.resid f) s = .next t ∧ (ts = [] → t = Machine.advance u e) ∧ t.mem = s.mem ∧ RegsSame s t ∧
    ∀ p, p ∈ (ts.filter fun g => g.tgt == 0).map (fun g => pageOf g.ea) → ∀ x, s.page p = some x → ∃ y, t.page p = some y ∧
      (f.fn = 0 → (s.billet (p * 256)).loc ≠ 1 ∨ promotionNeed s p ≤ s.poolOf (s.vdOfPage p) → y.hotUntil = s.ns + 1000000) ∧
      (f.fn = 0 → (s.billet (p * 256)).loc = 1 → s.poolOf (s.vdOfPage p) < promotionNeed s p → y.hotUntil = x.hotUntil) ∧ (f.fn ≠ 0 → y.count = 0) := by
  obtain ⟨k, -, -, hu⟩ := hintLanes_spec h
  have hus : SamePool s u := by rw [hu]; exact ⟨updCtx_ns .., updCtx_billets .., updCtx_pool .., updCtx_vds ..⟩
  have hum : u.mem = s.mem := by rw [hu, updCtx_mem]; rfl
  have hut : u.teams = s.teams := by rw [hu, updCtx_teams]; rfl
  have hup : u.page = s.page := by funext p; rw [hu, State.page, updCtx_pages]; rfl
  obtain ⟨hm, ht, hp⟩ := hintPages_spec u (f.fn == 0) (dedup ((ts.filter fun g => g.tgt == 0).map fun g => pageOf g.ea))
  have hx : exec (.resid f) s = .next (Machine.advance ((dedup ((ts.filter fun g => g.tgt == 0).map fun g => pageOf g.ea)).foldl (fun s p => hintPage s (f.fn == 0) p) u) e) := by
    rw [exec_resid, execResid, hi.withGate, h]
  refine ⟨_, hx, fun hts => ?_, (onlyTeams_advance ..).mem.trans (hm.trans hum), (regsSame_of_teams (ht.trans hut)).trans (regsSame_advance ..), fun p hpm x hx => ?_⟩
  · rw [hts]; rfl
  · have hpg := hp p (mem_dedup hpm)
    rw [hup, hx, Option.map_some, hinted_samePool hus] at hpg
    refine ⟨_, ((onlyTeams_advance ..).page p).trans hpg, fun h0 hc => ?_, fun h0 hl hn => ?_, fun h0 => ?_⟩
    · rw [hinted, if_pos (by simpa using h0), if_pos hc]
    · rw [hinted, if_pos (by simpa using h0), if_neg (by omega)]
    · rw [hinted, if_neg (by simpa using h0)]

theorem hints : Part.Hints := fun _ _ _ _ _ h => ⟨pref_spec h, resid_spec h, fun _ => hintCount h⟩

/-- Settles O27: loads through the constant path, fences and hints. -/
theorem constantFenceHint : Obligations.ConstantFenceHint := ⟨constantLoads, fences, hints⟩

end Sys2Proof
end

section
/-! PROOFS. Admission at the reserve home (R38, R45, R49, R52); O32 is put together here. -/

namespace Sys2Proof

open Machine

/-! ## What a home tells a core, and what an issue's lanes are told -/

/-- The message stands last in the channel of the address's home. -/
theorem replies_sendDown (s : State) (c ea : Nat) (m : DownMsg) : Replies (sendDown s c ea m) c ea m := by
  refine ⟨((mapGet? (s.core c).down (s.slice ea)).getD []), ?_⟩
  show mapGet? ((sendDown s c ea m).core c).down (s.slice ea) = _
  rw [sendDown, core_updCore, if_pos rfl, mapGet_set, if_pos rfl]

theorem onlyTeams_updIss (s : State) (k iss : Nat) (f : Inflight → Inflight) : OnlyTeams s (s.updIss k iss f) :=
  onlyTeams_updTeam (.refl s) k _

theorem onlyTeams_shareOutcome (s : State) (r : HomeReq) (f : LaneOp → LaneOp) : OnlyTeams s (shareOutcome s r f) := by
  unfold shareOutcome
  split
  · rfl
  · exact onlyTeams_updIss ..

theorem OnlyTeams.billet {s t : State} (h : OnlyTeams s t) (b : Nat) : t.billet b = s.billet b := by rw [h]; rfl
theorem OnlyTeams.line {s t : State} (h : OnlyTeams s t) (l : Nat) : t.line l = s.line l := by rw [h]; rfl
theorem OnlyTeams.slice {s t : State} (h : OnlyTeams s t) (a : Nat) : t.slice a = s.slice a := by rw [h]; rfl

/-- A refusal reaches the core, and takes nothing from memory, a context or a billet (R49, R53). -/
theorem refuseReq_spec (s : State) (r : HomeReq) (cause : Cause) (reserve : Nat) : let t := refuseReq s r cause reserve
    t.mem = s.mem ∧ (∀ x, t.ctx x = s.ctx x) ∧ (∀ b, t.billet b = s.billet b) ∧ Replies t r.core r.ea (.refuse r.sb (billetOf r.ea) reserve cause) := by
  have h := (onlyTeams_shareOutcome s r fun l => { l with doomed := true, cause := cause, billet := billetOf r.ea, reserve := reserve }).trans
    (onlyTeams_updIss _ r.team r.iss fun i => { i with lastReserve := reserve })
  exact ⟨h.mem, h.ctx, h.billet, replies_sendDown ..⟩

/-! ## The decision -/

/-- The billet is open against a context, whose reserve is less by what the billet may come to need. -/
def granted (s : State) (b x : Nat) : State :=
  (markMigration (s.updCtx x fun c => { c with reserve := c.reserve - (8 - (s.billet b).count) }) (pageOfBillet b)).updBillet b fun d =>
    { d with opened := true, rctx := x, holders := .ptrs [] }

theorem granted_spec (s : State) (b x : Nat) : let t := granted s b x
    t.ctx x = (s.ctx x).map (fun c => { c with reserve := c.reserve - (8 - (s.billet b).count) }) ∧
      (t.billet b).opened = true ∧ (t.billet b).rctx = x ∧ t.mem = s.mem := by
  refine ⟨?_, ?_, ?_, ?_⟩
  · exact (ctx_updCtx s x x _).trans (if_pos rfl)
  · rw [granted, billet_updBillet, if_pos rfl]
  · rw [granted, billet_updBillet, if_pos rfl]
  · exact updCtx_mem ..

section
variable {s : State} {b x : Nat} (he : s.errors = []) (hc : (s.billet b).closing = false) (hf : s.frozen (pageOfBillet b) = false)
  (hl : (s.billet b).loc = 0) (ho : (s.billet b).opened = false)

/-- A page without a record has no descriptors (R38). -/
theorem admission_unbacked (hp : s.page (pageOfBillet b) = none) : Machine.admission s b x = .refuse s .unbacked 0 := by
  simp [Machine.admission, hp]

include he hc hf hl ho

/-- A billet that is not open is weighed against the reserve alone (R45). -/
theorem admission_shut (hp : (s.page (pageOfBillet b)).isSome = true) : Machine.admission s b x =
    if 8 - (s.billet b).count ≤ ((s.ctx x).map Ctx.reserve).getD 0 then
      .grant (granted (touchDesc s b) b x)
    else .refuse (markMigration (touchDesc s b) (pageOfBillet b)) .caprefuse (((s.ctx x).map Ctx.reserve).getD 0) := by
  have ht := touchDesc_noError he b
  have hb : (touchDesc s b).billet b = s.billet b := by rw [ht]; rfl
  have hx : (touchDesc s b).ctx x = s.ctx x := by rw [ht]; rfl
  obtain ⟨p, hp⟩ := Option.isSome_iff_exists.mp hp
  simp [Machine.admission, granted, hp, hc, hf, hl, ho, hx, hb]

end

/-- Settles O32: the request at the head is decided by `Machine.admission`, which the billet's descriptor and the context's reserve fix. -/
theorem admission : Obligations.Admission := by
  intro s line r c he hnext hneeds hpoison hfrozen hgrant hrl hline hdoom hhost hctx d hclosing hloc hopened
  have hb : billetOf r.ea = billetOfLine line := by rw [← hline]; simp [billetOf, billetOfLine, lineOf, Nat.div_div_eq_div_mul]
  have hpg : pageOfBillet (billetOfLine line) = pageOfLine line := by simp [pageOfBillet, billetOfLine, pageOfLine, Nat.div_div_eq_div_mul]
  have hexec : exec (.admissionRequest line) s = match Machine.admission s (billetOfLine line) r.ctx with
      | .grant s => .next ((shareGrant s r).updLine line fun l => { l with admitted := true })
      | .refuse s cause reserve => .next (refuseReq s r cause reserve)
      | .wait s' => if s' = s then notNow "the billet is closing, or its page is being moved" else .next s' := by
    rw [exec_admissionRequest]
    simp [execAdmissionRequest, hnext, hhost, hneeds, hpoison, hdoom, hfrozen, hgrant] <;> rfl
  have ht := touchDesc_noError he (billetOfLine line)
  have hshut := admission_shut (x := r.ctx) he hclosing (by rw [hpg]; exact hfrozen) hloc hopened
  rw [hpg] at hshut
  refine ⟨fun hp => ?_, fun hp hle => ?_, fun hp hlt => ?_⟩
  · obtain ⟨hm, hx, -, hr⟩ := refuseReq_spec s r .unbacked 0
    refine ⟨_, by rw [hexec, admission_unbacked (by rw [hpg]; exact hp)], (hx _).trans hctx, hm, by rw [← hb]; exact hr⟩
  · have h := onlyTeams_shareOutcome (granted (touchDesc s (billetOfLine line)) (billetOfLine line) r.ctx) r fun l => { l with granted := true }
    obtain ⟨hgc, hgb, hgx, hgm⟩ := granted_spec (touchDesc s (billetOfLine line)) (billetOfLine line) r.ctx
    have htx : (touchDesc s (billetOfLine line)).ctx r.ctx = some c := by rw [ht]; exact hctx
    have htb : (touchDesc s (billetOfLine line)).billet (billetOfLine line) = d := by rw [ht]; rfl
    refine ⟨(shareGrant (granted (touchDesc s (billetOfLine line)) (billetOfLine line) r.ctx) r).updLine line fun l => { l with admitted := true }, ?_, ?_, ?_, ?_, ?_, ?_⟩
    · rw [hexec, hshut hp, hctx, Option.map_some, Option.getD_some, if_pos hle]
    · exact ((h.ctx _).trans hgc).trans (by rw [htx, htb]; rfl)
    · exact (congrArg Billet.opened (h.billet _)).trans hgb
    · exact (congrArg Billet.rctx (h.billet _)).trans hgx
    · rw [line_updLine, if_pos rfl]
    · exact h.mem.trans (hgm.trans (by rw [ht]))
  · obtain ⟨hm, hx, hbl, hr⟩ := refuseReq_spec (markMigration (touchDesc s (billetOfLine line)) (pageOfLine line)) r .caprefuse c.reserve
    refine ⟨_, by rw [hexec, hshut hp, hctx]; simp only [Option.map_some, Option.getD_some]; rw [if_neg (Nat.not_le.mpr hlt)], ?_, ?_, ?_, ?_⟩
    · rw [hx, ctx_markMigration, ht]; exact hctx
    · rw [hbl, billet_markMigration, ht]; exact hopened
    · exact hb ▸ hr
    · rw [hm, markMigration, ht]

end Sys2Proof
end

section
/-! PROOFS. An entry leaves the store buffer (R67, R150, R152, R167); O22 is put together here. -/

namespace Sys2Proof

open Machine

/-! ## Lanes of an issue that has been updated -/

theorem findLane_map (i : Inflight) (lane : Nat) (g : LaneOp → LaneOp) (hg : ∀ l, (g l).lane = l.lane) :
    findLane { i with lanes := i.lanes.map g } lane = (findLane i lane).map g := by
  have hp : (fun l : LaneOp => l.lane == lane) ∘ g = fun l => l.lane == lane := by funext l; simp [hg]
  simp only [findLane, List.find?_map, hp]

/-- A lane after an update of its issue. -/
theorem laneOf_updIss {s : State} {k iss lane : Nat} {t : Team} {i : Inflight} {l l' : LaneOp} (h : laneOf s k iss lane = some (t, i, l))
    {f : Inflight → Inflight} (hf : ∀ i, (f i).id = i.id) (hl : findLane (f i) lane = some l') :
    ∃ t', laneOf (s.updIss k iss f) k iss lane = some (t', f i, l') := by
  obtain ⟨ht, hi, -⟩ := laneOf_some.mp h
  refine ⟨{ t with iw := t.iw.map fun i => if i.id == iss then f i else i }, laneOf_some.mpr ⟨?_, ?_, hl⟩⟩
  · rw [State.updIss, team_updTeam, if_pos rfl, ht, Option.map_some]
  · rw [findIss_update t iss f hf, hi, Option.map_some]

/-- Progress of a team leaves its issues as they are. -/
theorem laneOf_progress {s : State} {k iss lane : Nat} {t : Team} {i : Inflight} {l : LaneOp} (h : laneOf s k iss lane = some (t, i, l)) (j : Nat) :
    ∃ t', laneOf (progress s j) k iss lane = some (t', i, l) := by
  obtain ⟨ht, hi, hl⟩ := laneOf_some.mp h
  by_cases hj : k = j
  · exact ⟨{ t with lookout := 0 }, laneOf_some.mpr ⟨by rw [progress, team_updTeam, if_pos hj, ← hj, ht, Option.map_some], hi, hl⟩⟩
  · exact ⟨t, laneOf_some.mpr ⟨by rw [progress, team_updTeam, if_neg hj, ht], hi, hl⟩⟩

theorem onlyTeams_progress (s : State) (k : Nat) : OnlyTeams s (progress s k) := onlyTeams_updTeam (.refl s) k _

/-! ## An entry's lane has performed -/

/-- The admission that a performed entry brings the others of its issue in the billet (R49). -/
def admitMates (s : State) (c : Nat) (e : SbEntry) : State :=
  if e.admitted then s else
    (s.updIss e.team e.iss fun i => { i with lanes := i.lanes.map fun l => if sharesBillet l e then { l with unadmitted := false } else l }).updCore c fun c =>
      { c with sb := c.sb.map fun x => if x.iss == e.iss && x.team == e.team && x.tgt == e.tgt && billetOf x.ea == billetOf e.ea then { x with admitted := true } else x }

theorem laneDone_eq (s : State) (c : Nat) (e : SbEntry) (bs : List Byte) : laneDone s c e bs =
    progress ((admitMates s c e).updLane e.team e.iss e.lane fun l => { l with stage := .performed, result := bs, unadmitted := false }) e.team := rfl

/-- Two cores alike but for the marks of their store-buffer entries. -/
def SameButSb (x y : Core) : Prop := y = { x with sb := y.sb } ∧ y.sb.map SbEntry.id = x.sb.map SbEntry.id

theorem admitMates_spec (s : State) (c : Nat) (e : SbEntry) : (admitMates s c e).mem = s.mem ∧ (admitMates s c e).hostOut = s.hostOut ∧
    (admitMates s c e).hostPend = s.hostPend ∧ ∀ d, SameButSb (s.core d) ((admitMates s c e).core d) := by
  unfold admitMates
  split
  · exact ⟨rfl, rfl, rfl, fun d => ⟨rfl, rfl⟩⟩
  · have ho := onlyTeams_updIss s e.team e.iss fun i => { i with lanes := i.lanes.map fun l => if sharesBillet l e then { l with unadmitted := false } else l }
    refine ⟨ho.mem, by rw [ho]; rfl, by rw [ho]; rfl, fun d => ?_⟩
    rw [core_updCore, ho.core, ho.core]
    split
    · next hd =>
      subst hd
      refine ⟨rfl, ?_⟩
      rw [List.map_map]
      exact List.map_congr_left fun x _ => by simp only [Function.comp_apply]; split <;> rfl
    · exact ⟨rfl, rfl⟩

/-- What a performed entry's lane leaves alone (R49, R387). -/
theorem laneDone_spec (s : State) (c : Nat) (e : SbEntry) (bs : List Byte) : let t := laneDone s c e bs
    t.mem = s.mem ∧ t.hostOut = s.hostOut ∧ t.hostPend = s.hostPend ∧ ∀ d, SameButSb (s.core d) (t.core d) := by
  obtain ⟨hm, ho, hp, hc⟩ := admitMates_spec s c e
  have h := (onlyTeams_updLane (admitMates s c e) e.team e.iss e.lane fun l => { l with stage := .performed, result := bs, unadmitted := false }).trans
    (onlyTeams_progress _ e.team)
  rw [laneDone_eq]
  exact ⟨h.mem.trans hm, .trans (by rw [h]) ho, .trans (by rw [h]) hp, fun d => by rw [h.core]; exact hc d⟩

/-! ## The entry itself -/

section
variable {s : State} {c : Nat} {e : SbEntry} {rest : List SbEntry} (hsb : (s.core c).sb = e :: rest) (hid : ∀ x ∈ rest, x.id ≠ e.id)
include hsb hid

theorem dropEntry_sb : ((dropEntry s c e.id).core c).sb = rest := by
  rw [dropEntry, core_updCore, if_pos rfl]
  simpa [hsb] using hid

theorem markSent_sb : ((markSent s c e.id).core c).sb = { e with sent := true } :: rest := by
  rw [markSent, core_updCore, if_pos rfl]
  simp only [hsb, List.map_cons, beq_self_eq_true, if_true, List.cons.injEq, true_and]
  exact (List.map_congr_left fun x hx => by simp [hid x hx]).trans (List.map_id _)

/-- An entry dropped whose lane has performed leaves the younger ones, and L1 and memory as they are. -/
theorem laneDone_dropEntry (bs : List Byte) : let t := laneDone (dropEntry s c e.id) c e bs
    (t.core c).sb.map SbEntry.id = rest.map SbEntry.id ∧ (t.core c).l1 = (s.core c).l1 ∧ t.mem = s.mem ∧ t.hostOut = s.hostOut ∧ t.hostPend = s.hostPend := by
  intro t
  obtain ⟨hm, ho, hp, hc⟩ := laneDone_spec (dropEntry s c e.id) c e bs
  obtain ⟨hcore, hids⟩ := hc c
  refine ⟨hids.trans (by rw [dropEntry_sb hsb hid]), ?_, hm, ho, hp⟩
  have : ((dropEntry s c e.id).core c).l1 = (s.core c).l1 := by rw [dropEntry, core_updCore, if_pos rfl]
  rw [← this, hcore]

end

/-! ## Words the core owns (R152) -/

theorem l1Line_writeOwned {s : State} {c : Nat} {e : SbEntry} (h : ((s.core c).l1Line (lineOf e.ea)).owned ≠ 0) :
    ((writeOwned s c e).core c).l1Line (lineOf e.ea) = { (s.core c).l1Line (lineOf e.ea) with
      data := cellsSet ((s.core c).l1Line (lineOf e.ea)).data (e.ea % 128) e.data
      written := ((s.core c).l1Line (lineOf e.ea)).written ||| wordsMask (e.ea % 128) e.n } := by
  rw [writeOwned, core_updCore, if_pos rfl, l1Line_setL1, if_pos rfl, if_neg]
  simp only [L1Line.isEmpty, Bool.and_eq_true, beq_iff_eq]
  exact fun hx => h hx.1

/-- A line of which the core owns no word has nothing to release. -/
theorem releaseWords_unowned {s : State} {c line : Nat} (h : ((s.core c).l1Line line).owned = 0) (w : BitVec 32) : releaseWords s c line w = s := by
  have hr : l1ReadOwned s c line w = s := by
    unfold l1ReadOwned
    split
    · rfl
    · exact List.foldl_fixed' (f := fun s i => if ((s.core c).l1Line line).owned &&& w &&& chunkWords (setBit 0 i true) = 0 then s
        else (l1Read s c (line * 128 + 16 * i)).2) (fun i => if_pos (by rw [h, BitVec.ofNat_eq_ofNat, BitVec.zero_and, BitVec.zero_and])) _
  simp [releaseWords, hr, h]

/-! ## The request (R150) -/

/-- The request that an entry becomes. -/
def storeReq (s : State) (c : Nat) (e : SbEntry) : HomeReq :=
  let own := e.pol == 0 && e.kind == .store
  { core := c, line := lineOf e.ea, kind := match e.kind with
      | .atom op ty ret => .atom op ty ret
      | _ => if own then .own (wordsMask (e.ea % 128) e.n) else .write
    team := e.team, iss := e.iss, lane := e.lane, sb := e.id, ctx := e.ctx, ea := e.ea, n := e.n, data := e.data, mark := !e.admitted
    held := ((s.core c).l1Line (lineOf e.ea)).held, has := ((s.core c).l1Line (lineOf e.ea)).tracked }

/-- The state once the request of an entry of a line that the core owns no word of is sent. -/
def requested (s : State) (c : Nat) (e : SbEntry) : State := markSent (sendUp (s.updCore c (·.dropTlb (lineOf e.ea))) c e.ea (.req (storeReq s c e))) c e.id

theorem requested_spec {s : State} {c : Nat} {e : SbEntry} {rest : List SbEntry} (hsb : (s.core c).sb = e :: rest) (hid : ∀ x ∈ rest, x.id ≠ e.id) :
    ((requested s c e).core c).sb = { e with sent := true } :: rest ∧ (requested s c e).mem = s.mem ∧
      ∃ q, mapGet? ((requested s c e).core c).up (s.slice e.ea) = some (q ++ [.req (storeReq s c e)]) := by
  refine ⟨markSent_sb ?_ hid, rfl, ((mapGet? ((s.updCore c (·.dropTlb (lineOf e.ea))).core c).up (s.slice e.ea)).getD []), ?_⟩
  · simp [sendUp, Core.dropTlb, hsb]
  · have h := sendUp_up (s.updCore c (·.dropTlb (lineOf e.ea))) c e.ea (.req (storeReq s c e))
    rw [requested, markSent, core_updCore, if_pos rfl]
    exact h

/-- A write goes to the host port, whose completion is awaited (R167). -/
def hostSent (s : State) (c : Nat) (e : SbEntry) : State :=
  { s with
    hostOut := s.hostOut ++ [.write e.ea e.data]
    hostPend := s.hostPend ++ [{ core := c, entry := e.id, team := e.team, iss := e.iss, ea := e.ea, ctx := e.ctx, since := s.ns }] }

section
variable {s : State} {c : Nat} {e : SbEntry} {rest : List SbEntry} (hsb : (s.core c).sb = e :: rest)
include hsb

theorem execLeave_sent (hs : e.sent = true) (hn : e.n = 0) : exec (.leave c e.id) s = wbackAtHome s c e := by
  simp [execLeave, hsb, hs, hn]

theorem execLeave_wback (hs : e.sent = false) (hn : e.n = 0) : exec (.leave c e.id) s = .next (markSent s c e.id) := by
  simp [execLeave, hsb, hs, hn]

variable (hs : e.sent = false) (hn : e.n ≠ 0)
include hs hn

theorem execLeave_hostStore (ht : e.tgt = 1) (hk : e.kind = .store) : exec (.leave c e.id) s =
    .next (laneDone (dropEntry (hostSent s c e) c e.id) c e []) := by
  simp [execLeave, hostSent, hsb, hs, hn, ht, hk]

theorem execLeave_hostAtomic (ht : e.tgt = 1) {op ty : Nat} {ret : Bool} (hk : e.kind = .atom op ty ret) : exec (.leave c e.id) s =
    .next (markSent { s.updLane e.team e.iss e.lane fun l => { l with since := s.ns } with hostOut := s.hostOut ++ [.atomic e.ea op ty e.data] } c e.id) := by
  simp [execLeave, hsb, hs, hn, ht, hk]

theorem execLeave_owned (ht : e.tgt ≠ 1) (hk : e.kind = .store) (hp : e.pol = 0) (ho : ((s.core c).l1Line (lineOf e.ea)).owned &&& wordsMask (e.ea % 128) e.n = wordsMask (e.ea % 128) e.n)
    (hf : ownInFlight (s.core c) (lineOf e.ea) (wordsMask (e.ea % 128) e.n) = false) : exec (.leave c e.id) s = .next (laneDone (dropEntry (writeOwned s c e) c e.id) c e []) := by
  rw [exec_leave]
  simp [execLeave, hsb, hs, hn, ht, hk, hp, ho, hf]

theorem execLeave_request (ht : e.tgt ≠ 1) (ho : ((s.core c).l1Line (lineOf e.ea)).owned = 0) (hw : wordsMask (e.ea % 128) e.n ≠ 0)
    (hf : ownInFlight (s.core c) (lineOf e.ea) (wordsMask (e.ea % 128) e.n) = false) (hcc : copyComing s c (lineOf e.ea) = false)
    (hway : e.pol = 0 → e.kind = .store → l1Way s c (lineOf e.ea) = true) (hd : othersDepend s c (lineOf e.ea) e.iss = false) :
    exec (.leave c e.id) s = .next (requested s c e) := by
  have hz : decide ((0 : BitVec 32) &&& wordsMask (e.ea % 128) e.n = wordsMask (e.ea % 128) e.n) = false := by simpa using hw.symm
  have hway' : (decide (e.pol = 0) && e.kind == .store && !l1Way s c (lineOf e.ea)) = false := by
    by_cases h : e.pol = 0 ∧ e.kind = .store
    · simp [hway h.1 h.2]
    · rcases not_and_or.mp h with h | h <;> simp [h]
  have hrel : (if (e.pol == 0 && e.kind == .store) = true then s else releaseWords s c (lineOf e.ea) (wordsMask (e.ea % 128) e.n)) = s := by
    rw [releaseWords_unowned ho, ite_self]
  have hl : ((s.updCore c (·.dropTlb (lineOf e.ea))).core c).l1Line (lineOf e.ea) = (s.core c).l1Line (lineOf e.ea) := by simp [Core.dropTlb, Core.l1Line]
  rw [exec_leave]
  simp only [execLeave, hsb, hs, hn, ht, ho, hf, hcc, hd, hrel, hl, hway', hz, List.find?_cons, List.takeWhile_cons, beq_self_eq_true, bne_self_eq_false,
    List.any_nil, Bool.and_false, Bool.false_and, Bool.false_eq_true, if_false]
  rfl

end

/-- Settles O22, by the ways an oldest entry leaves: to the host port, into owned words, as a request, or as a write-back. -/
theorem storeLeaves : Obligations.StoreLeaves := by
  intro s c e rest hsb hid
  refine ⟨fun hs hn ht hk => ?_, fun op ty ret hs hn ht hk => ?_, fun hs hn ht hk hp hw ho hf => ?_, fun hs hn ht ho hw hf hcc hway hd => ?_,
    fun hs hn => ⟨_, execLeave_wback hsb hs hn, markSent_sb hsb hid⟩, fun hs hn hcl => ?_⟩
  · obtain ⟨hids, -, hm, hout, hpend⟩ := laneDone_dropEntry (s := hostSent s c e) hsb hid []
    exact ⟨_, execLeave_hostStore hsb hs hn ht hk, hids, hout, hpend, hm⟩
  · have h := onlyTeams_updLane s e.team e.iss e.lane fun l => { l with since := s.ns }
    refine ⟨_, execLeave_hostAtomic hsb hs hn ht hk, markSent_sb ?_ hid, rfl, h.mem⟩
    exact (congrArg Core.sb (h.core c)).trans hsb
  · have hne : ((s.core c).l1Line (lineOf e.ea)).owned ≠ 0 := fun h0 => hw (by rw [← ho, h0]; exact BitVec.zero_and)
    have hsb' : ((writeOwned s c e).core c).sb = e :: rest := by rw [writeOwned, core_updCore, if_pos rfl]; exact hsb
    obtain ⟨hids, hl1, hm, -⟩ := laneDone_dropEntry hsb' hid []
    refine ⟨_, execLeave_owned hsb hs hn ht hk hp ho hf, hids, hm, ?_⟩
    rw [Core.l1Line, hl1]
    exact congrArg L1Line.data (l1Line_writeOwned hne)
  · obtain ⟨hsb', hm, q, hq⟩ := requested_spec hsb hid
    exact ⟨_, storeReq s c e, q, execLeave_request hsb hs hn ht ho hw hf hcc hway hd, hsb', hm, hq, rfl, rfl, rfl, rfl, rfl⟩
  · obtain ⟨hids, -, hm, -⟩ := laneDone_dropEntry hsb hid []
    refine ⟨_, ?_, hids, hm⟩
    rw [execLeave_sent hsb hs hn, wbackAtHome, if_pos hcl]

end Sys2Proof
end

section
/-! PROOFS. The context commands (R60, R361, R414, R415); O49 is put together here. -/

namespace Sys2Proof

open Machine

/-! ## What a command's status and arguments leave alone -/

@[simp] theorem setCtx_mem (s : State) (v op n st : Nat) : (setCtx s v op n st).mem = s.mem := rfl
@[simp] theorem setCtx_teams (s : State) (v op n st : Nat) : (setCtx s v op n st).teams = s.teams := rfl
@[simp] theorem setCtx_ctx (s : State) (v op n st x : Nat) : (setCtx s v op n st).ctx x = s.ctx x := rfl
@[simp] theorem setCtx_team (s : State) (v op n st k : Nat) : (setCtx s v op n st).team k = s.team k := rfl
@[simp] theorem setCtx_thread (s : State) (v op n st k i : Nat) : (setCtx s v op n st).thread k i = s.thread k i := rfl
@[simp] theorem setCtx_ctxcmd (s : State) (v op n st : Nat) : ((setCtx s v op n st).vd v).ctxcmd = cmdValue op n st := by simp [setCtx]
@[simp] theorem setCtx_ctxarg1 (s : State) (v op n st w : Nat) : ((setCtx s v op n st).vd w).ctxarg1 = (s.vd w).ctxarg1 := by
  simp only [setCtx, vd_updVd]; split <;> simp [*]
@[simp] theorem setCtx_ctxOf (s : State) (v op n st w m : Nat) : ctxOf (setCtx s v op n st) w m = ctxOf s w m := by
  simp only [ctxOf, setCtx, vd_updVd]; split <;> simp [*]

@[simp] theorem setArgs_mem (s : State) (v a b : Nat) : (setArgs s v a b).mem = s.mem := rfl
@[simp] theorem setArgs_teams (s : State) (v a b : Nat) : (setArgs s v a b).teams = s.teams := rfl
@[simp] theorem setArgs_ctx (s : State) (v a b x : Nat) : (setArgs s v a b).ctx x = s.ctx x := rfl
@[simp] theorem setArgs_page (s : State) (v a b p : Nat) : (setArgs s v a b).page p = s.page p := rfl
@[simp] theorem setArgs_team (s : State) (v a b k : Nat) : (setArgs s v a b).team k = s.team k := rfl
@[simp] theorem setArgs_ctxarg1 (s : State) (v a b : Nat) : ((setArgs s v a b).vd v).ctxarg1 = BitVec.ofNat 64 b := by simp [setArgs]
@[simp] theorem setArgs_ctxOf (s : State) (v a b w m : Nat) : ctxOf (setArgs s v a b) w m = ctxOf s w m := by
  simp only [ctxOf, setArgs, vd_updVd]; split <;> simp [*]
@[simp] theorem setArgs_debugThread (s : State) (v a b x p : Nat) : debugThread (setArgs s v a b) x p = debugThread s x p := rfl
@[simp] theorem setArgs_keys (s : State) (v a b w : Nat) :
    ((setArgs s v a b).vd w).keyBase = (s.vd w).keyBase ∧ ((setArgs s v a b).vd w).keyCount = (s.vd w).keyCount := by
  simp only [setArgs, vd_updVd]; split <;> simp [*]

@[simp] theorem teamArgs_mem (s : State) (v q i k : Nat) : (teamArgs s v q i k).mem = s.mem := rfl
@[simp] theorem teamArgs_teams (s : State) (v q i k : Nat) : (teamArgs s v q i k).teams = s.teams := rfl
@[simp] theorem teamArgs_team (s : State) (v q i k j : Nat) : (teamArgs s v q i k).team j = s.team j := rfl

/-! ## A number without a context -/

theorem commands_rejected (s : State) (v n : Nat) (h : ctxOf s v n = none) (a b d : Nat) (w : BitVec 37) :
    (Happens (.ctxDestroy v n) s fun u => (u.vd v).ctxcmd = cmdValue 2 n 2 ∧ u.mem = s.mem ∧ u.teams = s.teams) ∧
    (Happens (.ctxKillTeam v n a b d) s fun u => (u.vd v).ctxcmd = cmdValue 3 n 2 ∧ u.mem = s.mem ∧ u.teams = s.teams) ∧
    (Happens (.ctxDescheduleTeam v n a b d) s fun u => (u.vd v).ctxcmd = cmdValue 4 n 2 ∧ u.mem = s.mem ∧ u.teams = s.teams) ∧
    (Happens (.ctxDebugReplay v n a) s fun u => (u.vd v).ctxcmd = cmdValue 5 n 2 ∧ u.mem = s.mem ∧ u.teams = s.teams) ∧
    (Happens (.ctxDebugSkip v n a) s fun u => (u.vd v).ctxcmd = cmdValue 6 n 2 ∧ u.mem = s.mem ∧ u.teams = s.teams) ∧
    (Happens (.ctxReloadImages v n) s fun u => (u.vd v).ctxcmd = cmdValue 7 n 2 ∧ u.mem = s.mem ∧ u.teams = s.teams) ∧
    (Happens (.ctxReserveTransfer v n w) s fun u => (u.vd v).ctxcmd = cmdValue 8 n 2 ∧ u.mem = s.mem ∧ u.teams = s.teams) := by
  refine ⟨⟨setCtx s v 2 n 2, ?_, ?_⟩, ⟨setCtx (teamArgs s v a b d) v 3 n 2, ?_, ?_⟩, ⟨setCtx (teamArgs s v a b d) v 4 n 2, ?_, ?_⟩,
    ⟨setCtx (setArgs s v (s.vd v).ctxarg0.toNat a) v 5 n 2, ?_, ?_⟩, ⟨setCtx (setArgs s v (s.vd v).ctxarg0.toNat a) v 6 n 2, ?_, ?_⟩,
    ⟨setCtx s v 7 n 2, ?_, ?_⟩, ⟨setCtx (setArgs s v w.toNat 0) v 8 n 2, ?_, ?_⟩⟩
  · simp [execCtxDestroy, h]
  · simp
  · simp [execCtxKillTeam, h]
  · simp
  · simp [execCtxDescheduleTeam, h]
  · simp
  · simp [execCtxDebugReplay, debugResume, h]
  · simp
  · simp [execCtxDebugSkip, debugResume, h]
  · simp
  · simp [execCtxReloadImages, h]
  · simp
  · simp [execCtxReserveTransfer, h]
  · simp

/-! ## Bind (R415) -/

/-- A number of the package holds a context. -/
def withCtx (s : State) (x : Nat) (c : Ctx) : State := { s with ctxs := mapSet s.ctxs x c }
@[simp] theorem withCtx_mem (s : State) (x : Nat) (c : Ctx) : (withCtx s x c).mem = s.mem := rfl
@[simp] theorem withCtx_teams (s : State) (x : Nat) (c : Ctx) : (withCtx s x c).teams = s.teams := rfl
@[simp] theorem withCtx_vd (s : State) (x v : Nat) (c : Ctx) : (withCtx s x c).vd v = s.vd v := rfl
@[simp] theorem withCtx_ctx (s : State) (x : Nat) (c : Ctx) : (withCtx s x c).ctx x = some c := (mapGet_set ..).trans (if_pos rfl)
@[simp] theorem purgeCtx_mem (s : State) (x : Nat) : (purgeCtx s x).mem = s.mem := rfl
@[simp] theorem purgeCtx_teams (s : State) (x : Nat) : (purgeCtx s x).teams = s.teams := rfl

/-- A context bound to a number of a virtual device: its reserve comes from the device's share, and translations under the number are gone. -/
def bound (w : State) (v n x : Nat) (c : Ctx) : State :=
  withCtx ((withCtx (purgeCtx (w.poolTake v c.reserve) x) x c).updVd v fun d => { d with ctxs := mapSet d.ctxs n x }) x c

/-- No packet of RUNNING runs again where there is none. -/
theorem restoreRunning_idle (s : State) (x : Nat) (c : Ctx) (h : c.running = []) : restoreRunning s x c = .ok c s := by
  rw [restoreRunning, h]; rfl

/-- A bind without packets to run again leaves the context its control block describes under the lowest free number. -/
theorem bind_spec (s : State) (v n : Nat) (ccb : BitVec 64) (x : Nat) (b : List Byte) (w : State) (hn : n < 256) (hfree : ctxOf s v n = none)
    (hal : ccb.toNat % 4096 = 0) (hda : ccb.toNat < daLimit) (hpg : (s.page (pageOf ccb.toNat)).isSome = true)
    (hx : (List.range 4096).find? (fun x => (s.ctx x).isNone) = some x)
    (hread : readAt (setArgs s v ccb.toNat (s.vd v).ctxarg1.toNat) ccb.toNat 4096 = .ok b w)
    (hk0 : (s.vd v).keyBase ≤ num b 0x1C 4 % 1024) (hk1 : num b 0x1C 4 % 1024 < (s.vd v).keyBase + (s.vd v).keyCount)
    (hres : num b 0x48 8 % 2 ^ 36 ≤ w.poolOf v) (hrun : (List.range 24).filterMap (fun i => runningFrom b i w.ns) = []) :
    Happens (.ctxBind v n ccb) s fun u => (u.vd v).ctxcmd = cmdValue 1 n 0 ∧ u.ctx x = some (ctxFromCcb v n x ccb.toNat b) ∧ ctxOf u v n = some x ∧
      u.mem = w.mem ∧ u.teams = w.teams := by
  have hex : exec (.ctxBind v n ccb) s = .next (setCtx (bound w v n x (ctxFromCcb v n x ccb.toNat b)) v 1 n 0) := by
    rw [exec_ctxBind]
    have hfind : (List.range 4096).find? (fun x => ((setArgs s v ccb.toNat (s.vd v).ctxarg1.toNat).ctx x).isNone) = some x := hx
    have hguard : (decide (256 ≤ n) || (ctxOf (setArgs s v ccb.toNat (s.vd v).ctxarg1.toNat) v n).isSome || decide (ccb.toNat % 4096 ≠ 0) || decide (daLimit ≤ ccb.toNat) ||
        ((setArgs s v ccb.toNat (s.vd v).ctxarg1.toNat).page (pageOf ccb.toNat)).isNone) = false := by
      simp [Nat.not_le.mpr hn, hfree, hal, Nat.not_le.mpr hda, Option.isNone_eq_false_iff.mpr hpg]
    obtain ⟨hb0, hb1⟩ := setArgs_keys s v ccb.toNat (s.vd v).ctxarg1.toNat v
    have hkey : (!decide (((setArgs s v ccb.toNat (s.vd v).ctxarg1.toNat).vd v).keyBase ≤ num b 0x1C 4 % 1024 && num b 0x1C 4 % 1024 <
        ((setArgs s v ccb.toNat (s.vd v).ctxarg1.toNat).vd v).keyBase + ((setArgs s v ccb.toNat (s.vd v).ctxarg1.toNat).vd v).keyCount) ||
        decide (w.poolOf v < num b 0x48 8 % 2 ^ 36)) = false := by
      simpa [hb0, hb1, hk0, hk1] using hres
    unfold execCtxBind
    dsimp only
    rw [hguard, if_neg Bool.false_ne_true, hfind]
    dsimp only
    rw [hread]
    dsimp only
    rw [hrun, restoreRunning_idle _ _ _ rfl]
    exact if_neg (by rw [← Bool.not_eq_true] at hkey; exact hkey)
  refine ⟨_, hex, setCtx_ctxcmd .., withCtx_ctx .., ?_, ?_, ?_⟩
  · rw [setCtx_ctxOf, bound, ctxOf, withCtx_vd, vd_updVd, if_pos rfl, mapGet_set, if_pos rfl]
  · rw [setCtx_mem, bound, withCtx_mem, updVd_mem, withCtx_mem, purgeCtx_mem, poolTake_mem]
  · rw [setCtx_teams, bound, withCtx_teams, updVd_teams, withCtx_teams, purgeCtx_teams, poolTake_teams]

/-! ## Destroy and kill (R414) -/

theorem mem_of_mapGet {α : Type} {m : Map α} {k : Nat} {x : α} (h : mapGet? m k = some x) : (k, x) ∈ m := by
  induction m with
  | nil => cases h
  | cons p rest ih =>
    obtain ⟨j, y⟩ := p
    rw [mapGet?] at h
    split at h
    · next hj => cases h; subst hj; exact .head _
    · exact .tail _ (ih h)

/-- A team marked for a kill keeps its first cause (R400). -/
theorem team_killTeam {s : State} {k : Nat} {t : Team} (h : s.team k = some t) (j : Nat) (f : FaultInfo) (q : Option Nat) :
    ∃ tm, (killTeam s j f q).team k = some tm ∧ (t.kill.isSome = true → tm.kill = t.kill) ∧ (t.kill = none → j ≠ k → tm.kill = none) ∧
      (t.kill = none → j = k → tm.kill = some f) := by
  by_cases hj : k = j
  · refine ⟨_, by rw [killTeam, team_updTeam, if_pos hj, ← hj, h, Option.map_some], ?_⟩
    split
    · next hs => exact ⟨fun _ => rfl, fun hn => by simp [hn] at hs, fun hn => by simp [hn] at hs⟩
    · next hs => exact ⟨fun h => absurd h hs, fun _ hne => absurd hj.symm hne, fun _ _ => rfl⟩
  · exact ⟨t, by rw [killTeam, team_updTeam, if_neg hj, h], fun _ => rfl, fun hn _ => hn, fun _ h => absurd h.symm hj⟩

/-- Every team of a list is to be killed by the driver. -/
def killAllOf (s : State) (ts : List (Nat × Team)) : State := ts.foldl (fun s (k, t) => killTeam s k (drvkill s t) none) s

theorem onlyTeams_killAllOf (s : State) (ts : List (Nat × Team)) : OnlyTeams s (killAllOf s ts) :=
  onlyTeams_foldl ts _ (fun s p => onlyTeams_killTeam s p.1 _ none) s

theorem team_killAllOf (ts : List (Nat × Team)) {s : State} {k : Nat} {t : Team} (h : s.team k = some t) : ∃ tm, (killAllOf s ts).team k = some tm ∧
    (t.kill.isSome = true → tm.kill = t.kill) ∧ (t.kill = none → k ∈ ts.map Prod.fst → ∃ f, tm.kill = some f ∧ f.cause = .drvkill) := by
  induction ts generalizing s t with
  | nil => exact ⟨t, h, fun _ => rfl, fun _ hm => by cases hm⟩
  | cons p ps ih =>
    obtain ⟨t1, h1, hsome, hother, hself⟩ := team_killTeam h p.1 (drvkill s p.2) none
    obtain ⟨tm, hm, hkeep, hkill⟩ := ih h1
    refine ⟨tm, hm, fun hs => ?_, fun hn hk => ?_⟩
    · rw [hkeep (by rw [hsome hs]; exact hs), hsome hs]
    · by_cases hj : p.1 = k
      · have ht1 := hself hn hj
        exact ⟨drvkill s p.2, by rw [hkeep (by rw [ht1]; rfl), ht1], rfl⟩
      · refine hkill (hother hn hj) ?_
        rw [List.map_cons, List.mem_cons] at hk
        exact hk.resolve_left fun h => hj h.symm

/-- The images of a control block read without what stands before them. -/
theorem imageOf_zeros (b : List Byte) (i : Nat) : imageOf (zeros 0x50 ++ b) i = leNat ((b.drop (8 * i)).take 8) := by
  rw [imageOf, num, List.drop_append, zeros, List.drop_replicate, List.length_replicate]
  simp

section
variable {s : State} {v n x : Nat} {c : Ctx} (hx : ctxOf s v n = some x) (hc : s.ctx x = some c)
include hx hc

theorem destroy_begins (hd : c.destroying = false) : Happens (.ctxDestroy v n) s fun u => (u.vd v).ctxcmd = cmdValue 2 n 1 ∧ u.mem = s.mem ∧
    (∃ cu, u.ctx x = some cu ∧ cu.destroying = true) ∧
    ∀ k t, s.team k = some t → t.ctx = x → ∃ tm f, u.team k = some tm ∧ tm.kill = some f ∧ (t.kill = none → f.cause = .drvkill) := by
  have ho := onlyTeams_killAllOf s (s.teams.filter fun (_, t) => t.ctx == x)
  refine ⟨setCtx ((killAllOf s (s.teams.filter fun (_, t) => t.ctx == x)).updCtx x fun c => { c with destroying := true }) v 2 n 1, ?_, setCtx_ctxcmd .., ?_, ?_, fun k t hk ht => ?_⟩
  · simp [execCtxDestroy, hx, hc, hd, killAllOf]
  · rw [setCtx_mem, updCtx_mem, ho.mem]
  · exact ⟨{ c with destroying := true }, by rw [setCtx_ctx, ctx_updCtx, if_pos rfl, ho.ctx, hc]; rfl, rfl⟩
  · obtain ⟨tm, hm, hkeep, hkill⟩ := team_killAllOf (s.teams.filter fun (_, t) => t.ctx == x) hk
    have hmem : k ∈ (s.teams.filter fun (_, t) => t.ctx == x).map Prod.fst :=
      List.mem_map.mpr ⟨(k, t), List.mem_filter.mpr ⟨mem_of_mapGet hk, by simpa using ht⟩, rfl⟩
    have hu : (setCtx ((killAllOf s (s.teams.filter fun (_, t) => t.ctx == x)).updCtx x fun c => { c with destroying := true }) v 2 n 1).team k = some tm := by
      rw [setCtx_team, State.team, updCtx_teams]; exact hm
    cases hko : t.kill with
    | none =>
      obtain ⟨f, hf, hfc⟩ := hkill hko hmem
      exact ⟨tm, f, hu, hf, fun _ => hfc⟩
    | some f => exact ⟨tm, f, hu, by rw [hkeep (by simp [hko]), hko], fun h => by cases h⟩

theorem killTeam_begins {q idx team k : Nat} {t : Team} (hf : findTeam s x q idx team = some (k, t)) (ht : s.team k = some t) (hk : t.kill = none) :
    Happens (.ctxKillTeam v n q idx team) s fun u => (u.vd v).ctxcmd = cmdValue 3 n 1 ∧ u.mem = s.mem ∧
      ∃ tm f, u.team k = some tm ∧ tm.kill = some f ∧ f.cause = .drvkill := by
  obtain ⟨tm, hm, -, -, hself⟩ := team_killTeam ht k (drvkill s t) none
  refine ⟨setCtx (teamArgs (killTeam s k (drvkill s t) none) v q idx team) v 3 n 1, ?_, setCtx_ctxcmd .., ?_, tm, _, ?_, hself hk rfl, rfl⟩
  · simp [execCtxKillTeam, hx, hc, hf, hk]
  · rw [setCtx_mem, teamArgs_mem, (onlyTeams_killTeam ..).mem]
  · rw [setCtx_team, teamArgs_team, hm]

theorem deschedule_begins {q idx team k : Nat} {t : Team} (hf : findTeam s x q idx team = some (k, t)) (ht : s.team k = some t) (hk : t.kept = false)
    (ha : t.asked = false) (hb : cmdBusy s v 4 n = false) : Happens (.ctxDescheduleTeam v n q idx team) s fun u =>
      (u.vd v).ctxcmd = cmdValue 4 n 1 ∧ u.mem = s.mem ∧ ∃ tm, u.team k = some tm ∧ tm.asked = true := by
  refine ⟨setCtx (teamArgs (s.updTeam k fun t => { t with asked := true, mayKeep := false }) v q idx team) v 4 n 1, ?_, setCtx_ctxcmd .., ?_, { t with asked := true, mayKeep := false }, ?_, rfl⟩
  · simp [execCtxDescheduleTeam, hx, hc, hf, hk, ha, hb]
  · rw [setCtx_mem, teamArgs_mem, updTeam_mem]
  · rw [setCtx_team, teamArgs_team, team_updTeam, if_pos rfl, ht, Option.map_some]

/-! ## The debugger (R361) -/

/-- The thread goes on in its handler, at its instruction or past it. -/
def sentOn (th : Thread) (skip : Bool) : Thread :=
  { th with dbg := false, st := .runnable, fetch := true, setPrio := some th.rp.prio, rp := { th.rp with index := if skip then th.rp.index + 1 else th.rp.index } }

omit hc in
/-- A thread that the debugger holds in its handler goes on there, at its instruction or past it. -/
theorem debugResume_handler {pslot tk tid : Nat} {th : Thread} (hd : debugThread s x pslot = some (tk, tid, th)) (ht : s.thread tk tid = some th)
    (hh : th.handler = true) (op : Nat) (skip : Bool) : ∃ u, debugResume s op v n pslot skip = .next u ∧ (u.vd v).ctxcmd = cmdValue op n 0 ∧ u.mem = s.mem ∧
      ∃ tu, u.thread tk tid = some tu ∧ tu.st = .runnable ∧ tu.dbg = false ∧ tu.rp.index = (if skip then th.rp.index + 1 else th.rp.index) ∧
        tu.rp.clause = th.rp.clause := by
  refine ⟨setCtx ((setArgs s v (s.vd v).ctxarg0.toNat pslot).updThread tk tid fun th => sentOn th skip) v op n 0, ?_, setCtx_ctxcmd .., ?_, sentOn th skip, ?_,
    rfl, rfl, rfl, rfl⟩
  · simp [debugResume, sentOn, hx, hd, hh]
  · rw [setCtx_mem, updThread_mem, setArgs_mem]
  · rw [setCtx_thread, thread_updThread, if_pos ⟨rfl, rfl⟩]
    exact congrArg (Option.map _) ht

/-! ## Images and transfers (R60, R414) -/

theorem reload_spec {b : List Byte} {w : State} (hr : readAt s (c.ccb + 0x50) 112 = .ok b w) (hw : w.ctx x = some c) :
    Happens (.ctxReloadImages v n) s fun u => (u.vd v).ctxcmd = cmdValue 7 n 0 ∧ u.mem = w.mem ∧
      ∃ cu, u.ctx x = some cu ∧ cu.rsvcap.toNat = leNat ((b.drop 72).take 8) % 2 ^ 36 ∧ cu.acap.toNat = leNat ((b.drop 32).take 8) % 2 ^ 25 ∧
        cu.dbgctl.toNat = leNat ((b.drop 64).take 8) % 2 := by
  let d := ctxFromCcb c.vd c.loc x c.ccb (zeros 0x50 ++ b)
  refine ⟨setCtx (w.updCtx x fun c => { c with rsvcap := d.rsvcap, acap := d.acap, keepalive := d.keepalive, dbgctl := d.dbgctl }) v 7 n 0, ?_, setCtx_ctxcmd .., ?_,
    { c with rsvcap := d.rsvcap, acap := d.acap, keepalive := d.keepalive, dbgctl := d.dbgctl }, ?_, ?_, ?_, ?_⟩
  · simp [execCtxReloadImages, hx, hc, hr, d]
  · rw [setCtx_mem, updCtx_mem]
  · rw [setCtx_ctx, ctx_updCtx, if_pos rfl, hw, Option.map_some]
  · simp [d, ctxFromCcb, imageOf_zeros]
    exact lt_of_lt_of_le (Nat.mod_lt _ (by norm_num)) (by norm_num)
  · simp [d, ctxFromCcb, imageOf_zeros]
    exact lt_of_lt_of_le (Nat.mod_lt _ (by norm_num)) (by norm_num)
  · simp [d, ctxFromCcb, imageOf_zeros]
    exact lt_of_lt_of_le (Nat.mod_lt _ (by norm_num)) (by norm_num)

omit hc in
theorem transfer_spec {a : BitVec 37} {st : Nat} {w : State} (h : transferReserve s x a = (st, w)) : Happens (.ctxReserveTransfer v n a) s fun u =>
    (u.vd v).ctxcmd = cmdValue 8 n (if st = 0 then 0 else 2) ∧ u.mem = w.mem ∧ (u.vd v).ctxarg1 = BitVec.ofNat 64 st := by
  refine ⟨setCtx (setArgs w v a.toNat st) v 8 n (if st = 0 then 0 else 2), ?_, setCtx_ctxcmd .., rfl, ?_⟩
  · simp [execCtxReserveTransfer, hx, h]
  · rw [setCtx_ctxarg1, setArgs_ctxarg1]

end

/-- Settles O49: each command by its own lemma. -/
theorem contextCommands : Obligations.ContextCommands := by
  intro s v n
  refine ⟨fun h a b d w => commands_rejected s v n h a b d w,
    fun ccb x b w hn hfree hal hda hpg hx hread hk0 hk1 hres hrun => bind_spec s v n ccb x b w hn hfree hal hda hpg hx hread hk0 hk1 hres hrun,
    fun x c hx hc => ⟨destroy_begins hx hc, fun q idx team k t hf ht hk => killTeam_begins hx hc hf ht hk,
      fun q idx team k t hf ht hk ha hb => deschedule_begins hx hc hf ht hk ha hb, fun pslot tk tid th hd ht hh => ?_,
      fun b w hr hw => reload_spec hx hc hr hw, fun a st w h => transfer_spec hx h⟩⟩
  exact ⟨debugResume_handler hx hd ht hh 5 false, debugResume_handler hx hd ht hh 6 true⟩

end Sys2Proof
end

section
/-! PROOFS. The layer on what a home keeps: which fields of a line and of a billet a fill or a perform leaves alone, the bytes that a fill
puts in memory, and when it finds poison, where no error waits in an array (R56, R74, R75, R87). -/

namespace Sys2Proof.Machine

/-! ## Directory entries and descriptors kept -/

/-- The line's directory entry is as before: what L2 holds of the line may differ. -/
def LineKept (x y : Line) : Prop := y = { x with present := y.present, valid := y.valid, dirty := y.dirty, psn := y.psn, written := y.written }
/-- The billet is open or not, closing or not, for whom and held by whom as before. -/
def BilletKept (x y : Billet) : Prop := y = { x with poison := y.poison, cls := y.cls, nsec := y.nsec, written := y.written }

/-- Teams, slices, and what the homes record of lines and billets are as before. -/
structure HomeKept (s t : State) : Prop where
  teams : t.teams = s.teams
  slovi : t.slovi = s.slovi
  line : ∀ l, LineKept (s.line l) (t.line l)
  billet : ∀ b, BilletKept (s.billet b) (t.billet b)

theorem LineKept.trans {x y z : Line} (h : LineKept x y) (k : LineKept y z) : LineKept x z := by unfold LineKept at *; rw [k, h]
theorem BilletKept.trans {x y z : Billet} (h : BilletKept x y) (k : BilletKept y z) : BilletKept x z := by unfold BilletKept at *; rw [k, h]

namespace HomeKept

theorem refl (s : State) : HomeKept s s := ⟨rfl, rfl, fun _ => rfl, fun _ => rfl⟩
theorem trans {a b c : State} (h : HomeKept a b) (k : HomeKept b c) : HomeKept a c :=
  ⟨k.teams.trans h.teams, k.slovi.trans h.slovi, fun l => (h.line l).trans (k.line l), fun d => (h.billet d).trans (k.billet d)⟩
theorem of_eq {s t : State} (ht : t.teams = s.teams) (hs : t.slovi = s.slovi) (hl : t.lines = s.lines) (hb : t.billets = s.billets) : HomeKept s t :=
  ⟨ht, hs, fun l => by rw [State.line, State.line, hl]; rfl, fun b => by rw [State.billet, State.billet, hb]; rfl⟩
theorem updLine {s : State} {l : Nat} {f : Line → Line} (hf : ∀ x, LineKept x (f x)) : HomeKept s (s.updLine l f) := by
  refine ⟨rfl, rfl, fun m => ?_, fun _ => rfl⟩
  rw [line_updLine]
  split
  · next h => rw [h]; exact hf _
  · rfl
theorem updBillet {s : State} {b : Nat} {f : Billet → Billet} (hf : ∀ x, BilletKept x (f x)) : HomeKept s (s.updBillet b f) := by
  refine ⟨rfl, rfl, fun _ => rfl, fun c => ?_⟩
  rw [billet_updBillet]
  split
  · next h => rw [h]; exact hf _
  · rfl
theorem foldl {α : Type} (xs : List α) (f : State → α → State) (hf : ∀ s x, HomeKept s (f s x)) (s : State) : HomeKept s (xs.foldl f s) := by
  induction xs generalizing s with
  | nil => exact .refl s
  | cons x xs ih => exact (hf s x).trans (ih _)

variable {s t : State} (h : HomeKept s t)
include h

theorem slice (a : Nat) : t.slice a = s.slice a := by rw [State.slice, h.slovi]; rfl
theorem queue (l : Nat) : (t.line l).queue = (s.line l).queue := by rw [h.line l]
theorem wmask (l : Nat) : (t.line l).wmask = (s.line l).wmask := by rw [h.line l]
theorem owner (l : Nat) : (t.line l).owner = (s.line l).owner := by rw [h.line l]
theorem sharers (l : Nat) : (t.line l).sharers = (s.line l).sharers := by rw [h.line l]
theorem recallPend (l : Nat) : (t.line l).recallPend = (s.line l).recallPend := by rw [h.line l]
theorem opened (b : Nat) : (t.billet b).opened = (s.billet b).opened := by rw [h.billet b]
theorem closing (b : Nat) : (t.billet b).closing = (s.billet b).closing := by rw [h.billet b]

end HomeKept

/-! ## The operations that keep them -/

theorem homeKept_updCore (s : State) (c : Nat) (f : Core → Core) : HomeKept s (s.updCore c f) := .of_eq rfl rfl rfl rfl
theorem homeKept_writeMem (s : State) (a : Nat) (bs : List Byte) : HomeKept s (s.writeMem a bs) := .of_eq rfl rfl rfl rfl
theorem homeKept_mscDrop (s : State) (b : Nat) : HomeKept s (mscDrop s b) := .of_eq rfl rfl rfl rfl
theorem homeKept_hbmWrite (s : State) (k n : Nat) (x : Sealed) : HomeKept s (s.hbmWrite k n x) := .of_eq rfl rfl rfl rfl
theorem homeKept_markMigration (s : State) (p : Nat) : HomeKept s (markMigration s p) := .of_eq rfl rfl rfl rfl

theorem homeKept_takeError (s : State) (a p : Nat) : HomeKept s (s.takeError a p).2 := by
  unfold State.takeError
  dsimp only
  split_ifs <;> exact .of_eq rfl rfl rfl rfl

theorem homeKept_reportPoison (s : State) (ea : Nat) : HomeKept s (s.reportPoison ea) := by
  rw [reportPoison_eq]; exact .of_eq rfl rfl rfl rfl
theorem homeKept_dropCopies (s : State) (line : Nat) (except : Option Nat) : HomeKept s (s.dropCopies line except) := by
  refine .foldl _ _ (fun s c => ?_) s
  split
  · exact .refl s
  · exact homeKept_updCore ..
theorem homeKept_poisonLine (s : State) (line : Nat) : HomeKept s (s.poisonLine line) := by
  unfold State.poisonLine
  split
  · exact .refl s
  · refine ((homeKept_dropCopies s line none).trans (.updLine ?_)).trans (homeKept_reportPoison ..)
    exact fun _ => rfl
theorem homeKept_markPoison (s : State) (b : Nat) : HomeKept s (s.markPoison b) := by
  unfold State.markPoison
  refine ((((homeKept_dropCopies s (2 * b) none).trans (homeKept_dropCopies _ (2 * b + 1) none)).trans (.updBillet ?_)).trans (.updLine ?_)).trans (.updLine ?_)
  all_goals exact fun _ => rfl
theorem homeKept_poisonBillet (s : State) (b : Nat) : HomeKept s (s.poisonBillet b) := by
  unfold State.poisonBillet
  split
  · exact .refl s
  · exact (homeKept_markPoison s b).trans (homeKept_reportPoison ..)
theorem homeKept_poisonPage (s : State) (p : Nat) : HomeKept s (s.poisonPage p) := by
  unfold State.poisonPage
  split
  · exact .refl s
  · refine (HomeKept.foldl _ _ (fun s i => ?_) s).trans (homeKept_reportPoison ..)
    split
    · exact .refl s
    · exact homeKept_markPoison ..

theorem homeKept_mscWrite (s : State) (b : Nat) : HomeKept s (mscWrite s b) := by
  have ht := homeKept_takeError s 2 b
  unfold mscWrite
  split
  · dsimp only
    split_ifs
    · exact .refl s
    · exact (ht.trans (homeKept_mscDrop ..)).trans (homeKept_poisonBillet ..)
    · exact ht.trans (.of_eq rfl rfl rfl rfl)
  · exact .refl s
theorem homeKept_mscRemove (s : State) (b : Nat) : HomeKept s (mscRemove s b) := (homeKept_mscWrite s b).trans (homeKept_mscDrop ..)

theorem homeKept_putChunks (s : State) (line : Nat) (ch : BitVec 8) (bs : List Byte) : HomeKept s (putChunks s line ch bs) := by
  rw [putChunks_mem rfl]; exact .of_eq rfl rfl rfl rfl
theorem homeKept_installBoth (s : State) (b : Nat) (bs : List Byte) : HomeKept s (installBoth s b bs) := by
  have h : HomeKept s (fillBytes s b bs) := by rw [fillBytes_mem]; exact .of_eq rfl rfl rfl rfl
  refine (h.trans (.updLine ?_)).trans (.updLine ?_)
  all_goals exact fun _ => rfl
theorem homeKept_installPoisoned (s : State) (b : Nat) : HomeKept s (installPoisoned s b) := by
  refine HomeKept.trans (.updLine ?_) (.updLine ?_)
  all_goals exact fun _ => rfl

theorem mem_markWritten (s : State) (line off n : Nat) : (markWritten s line off n).mem = s.mem := by
  unfold markWritten withdraw
  dsimp only
  split_ifs <;> rfl

theorem homeKept_withdraw (s : State) (b : Nat) : HomeKept s (withdraw s b) := by
  unfold withdraw
  dsimp only
  split
  · exact .of_eq rfl rfl rfl rfl
  · exact .refl s
theorem homeKept_markWritten (s : State) (line off n : Nat) : HomeKept s (markWritten s line off n) := by
  unfold markWritten
  dsimp only
  split
  · split
    · refine ((((HomeKept.updBillet ?_).trans (homeKept_withdraw ..)).trans (.updBillet ?_)).trans (.updLine ?_)).trans (.updLine ?_)
      all_goals exact fun _ => rfl
    · exact .updBillet fun _ => rfl
  · split
    · split
      · refine HomeKept.trans (.updLine ?_) (.updLine ?_)
        all_goals exact fun _ => rfl
      · exact .updLine fun _ => rfl
    · exact .refl s

theorem mem_markDirtyPage (s : State) (p : Nat) : (markDirtyPage s p).mem = s.mem := by
  unfold markDirtyPage
  dsimp only
  split <;> rfl
theorem homeKept_markDirtyPage (s : State) (p : Nat) : HomeKept s (markDirtyPage s p) := by
  unfold markDirtyPage
  dsimp only
  split
  · exact .of_eq rfl rfl rfl rfl
  · exact .refl s
theorem mem_touchPage (s : State) (p : Nat) : (touchPage s p).mem = s.mem := updPage_mem ..
theorem homeKept_touchPage (s : State) (p : Nat) : HomeKept s (touchPage s p) :=
  .of_eq (updPage_teams ..) (updPage_slovi ..) (updPage_lines ..) (updPage_billets ..)

/-- What a store-class perform marks of its page changes no byte (R90, R426). -/
def pageWritten (s : State) (p : Nat) : State := markDirtyPage (markMigration s p) p
theorem mem_pageWritten (s : State) (p : Nat) : (pageWritten s p).mem = s.mem := mem_markDirtyPage ..
theorem homeKept_pageWritten (s : State) (p : Nat) : HomeKept s (pageWritten s p) := (homeKept_markMigration s p).trans (homeKept_markDirtyPage ..)

/-! ## A fill where no error waits (R74, R87) -/

/-- The value that a fill finds for a billet: its image's in the tier, its stored form's otherwise; none where it is poisoned or fails its check. -/
def fillValue (s : State) (b : Nat) : Option (List Byte) :=
  if (s.billet b).poison then none
  else if (s.billet b).loc = 1 then (tierValue s (pageOfBillet b)).map fun ws => (ws.getD (b % 256) []).flatMap wordBytes
  else storedValue s b
/-- A RAW run in HBM4 alone, of which a fill brings the chunks asked for (R74). -/
def rawRun (s : State) (b : Nat) : Bool := (s.billet b).loc != 1 && (s.billet b).cls == 5 && (mapGet? s.msc b).isNone
/-- Nothing but descriptors cached, the memory-side cache and HBM4's runs differs. -/
def StoresOnly (s t : State) : Prop := t = { s with descs := t.descs, msc := t.msc, hbm := t.hbm }

/-- What a fill does: nothing for valid chunks, ones for a peer's line, poison where no value is found, else the value's bytes. -/
inductive FillsTo (s : State) (line : Nat) (ch : BitVec 8) : State → Prop where
  | valid : (s.line line).valid &&& ch = ch → FillsTo s line ch (s.updLine line fun l => { l with present := true })
  | peer : (s.line line).valid &&& ch ≠ ch → isPeer (line * 128) = true →
      FillsTo s line ch (s.updLine line fun l => { l with present := true, valid := 0xFF })
  | poison (u v : State) : (s.line line).valid &&& ch ≠ ch → isPeer (line * 128) = false → fillValue s (billetOfLine line) = none → StoresOnly s u →
      (v = u ∨ v = u.poisonPage (pageOfBillet (billetOfLine line)) ∨ v = u.poisonBillet (billetOfLine line)) → FillsTo s line ch (installPoisoned v (billetOfLine line))
  | raw (u : State) (bs : List Byte) : (s.line line).valid &&& ch ≠ ch → isPeer (line * 128) = false → fillValue s (billetOfLine line) = some bs →
      rawRun s (billetOfLine line) = true → StoresOnly s u →
      FillsTo s line ch ((putChunks u line (ch &&& ~~~(s.line line).valid) bs).updLine line fun l => { l with present := true, valid := l.valid ||| ch })
  | whole (u : State) (bs : List Byte) : (s.line line).valid &&& ch ≠ ch → isPeer (line * 128) = false → fillValue s (billetOfLine line) = some bs →
      rawRun s (billetOfLine line) = false → StoresOnly s u → FillsTo s line ch (installBoth u (billetOfLine line) bs)

theorem runValue_congr {s t : State} (h : StoresOnly s t) (b : Nat) (x : Option Sealed) : runValue t b x = runValue s b x := by
  rw [h]; rfl

/-- What a fill from HBM4 comes to. -/
theorem fillsTo_hbmFill {s u : State} (he : s.errors = []) (line : Nat) (ch : BitVec 8) (hn : (s.line line).valid &&& ch ≠ ch)
    (hp : isPeer (line * 128) = false) (hu : StoresOnly s u) (hpo : (s.billet (billetOfLine line)).poison = false) (hl : (s.billet (billetOfLine line)).loc ≠ 1)
    (hb : (s.billet (billetOfLine line)).bad = false) (hc : ¬ (s.billet (billetOfLine line)).cls ≤ 1) (hm : mapGet? s.msc (billetOfLine line) = none)
    (hh : u.hbm = s.hbm) : FillsTo s line ch (hbmFill u line ch) := by
  have he' : u.errors = [] := by rw [hu]; exact he
  have hbl : ∀ b, u.billet b = s.billet b := fun b => by rw [hu]; rfl
  have hln : ∀ l, u.line l = s.line l := fun l => by rw [hu]; rfl
  have hv : fillValue s (billetOfLine line) = runValue s (billetOfLine line) (mapGet? s.hbm (runPlace (s.billet (billetOfLine line)).stack (s.billet (billetOfLine line)).sect.toNat)) := by
    simp [fillValue, storedValue, hpo, hl, hb, hc, hm]
  simp only [hbmFill, takeError_none he', hbl, hln, hh, Bool.false_eq_true, if_false, runValue_congr hu, ← hv]
  cases hf : fillValue s (billetOfLine line) with
  | none => exact .poison u _ hn hp hf hu (.inr (.inr rfl))
  | some bs =>
    dsimp only
    split
    · next h5 => exact .raw u bs hn hp hf (by simp [rawRun, hl, h5, hm]) hu
    · next h5 => exact .whole u bs hn hp hf (by simp [rawRun, h5]) hu

theorem fillsTo_l2Fill {s : State} (he : s.errors = []) (line : Nat) (ch : BitVec 8) : FillsTo s line ch (l2Fill s line ch) := by
  obtain ⟨u, hu, hd⟩ : ∃ u, touchDesc s (billetOfLine line) = u ∧ StoresOnly s u := ⟨_, rfl, by rw [StoresOnly, touchDesc_noError he]⟩
  have he' : u.errors = [] := by rw [hd]; exact he
  have hbl : ∀ b, u.billet b = s.billet b := fun b => by rw [hd]; rfl
  have hmsc : u.msc = s.msc := by rw [← hu, touchDesc_noError he]
  have hhbm : u.hbm = s.hbm := by rw [← hu, touchDesc_noError he]
  have htv : tierValue u (pageOfBillet (billetOfLine line)) = tierValue s (pageOfBillet (billetOfLine line)) := by rw [hd]; rfl
  have hrm : StoresOnly s (mscRemove u (billetOfLine line)) := by unfold StoresOnly; rw [mscRemove_noError he', hd]
  unfold l2Fill
  simp only [l2Error_noError he, hu, takeError_none he', hbl, hmsc, htv, Bool.false_eq_true, if_false]
  split_ifs with h1 h2 h3 h4 h5 h6
  · exact .valid h1
  · exact .peer h1 h2
  · exact .poison u u h1 (by simpa using h2) (by simp [fillValue, h3]) hd (.inl rfl)
  · cases hv : tierValue s (pageOfBillet (billetOfLine line)) with
    | none => exact .poison u _ h1 (by simpa using h2) (by simp [fillValue, h4, hv]) hd (.inr (.inl rfl))
    | some ws => exact .whole u _ h1 (by simpa using h2) (by simp [fillValue, h3, h4, hv]) (by simp [rawRun, h4]) hd
  · exact .poison u _ h1 (by simpa using h2) (by simp [fillValue, storedValue, h4, h5]) hd (.inr (.inr rfl))
  · exact .whole u _ h1 (by simpa using h2) (by simp [fillValue, storedValue, h3, h4, h5, h6]) (by simp [rawRun]; omega) hd
  · cases hm : mapGet? s.msc (billetOfLine line) with
    | none => exact fillsTo_hbmFill he line ch h1 (by simpa using h2) hd (by simpa using h3) h4 (by simpa using h5) h6 hm hhbm
    | some e =>
      have hv : fillValue s (billetOfLine line) = runValue s (billetOfLine line) (some e.run) := by simp [fillValue, storedValue, h3, h4, h5, h6, hm]
      dsimp only
      rw [runValue_congr hrm, ← hv]
      cases hf : fillValue s (billetOfLine line) with
      | none => exact .poison _ _ h1 (by simpa using h2) hf hrm (.inr (.inr rfl))
      | some bs => exact .whole _ bs h1 (by simpa using h2) hf (by simp [rawRun, hm]) hrm

theorem homeKept_l2Fill {s : State} (he : s.errors = []) (line : Nat) (ch : BitVec 8) : HomeKept s (l2Fill s line ch) := by
  have hstores : ∀ {u : State}, StoresOnly s u → HomeKept s u := fun hu => .of_eq (by rw [hu]) (by rw [hu]) (by rw [hu]) (by rw [hu])
  have hf := fillsTo_l2Fill he line ch
  generalize l2Fill s line ch = t at hf
  cases hf with
  | valid => exact .updLine fun _ => rfl
  | peer => exact .updLine fun _ => rfl
  | poison u v _ _ _ hu hv =>
    refine HomeKept.trans ?_ (homeKept_installPoisoned ..)
    rcases hv with rfl | rfl | rfl
    · exact hstores hu
    · exact (hstores hu).trans (homeKept_poisonPage ..)
    · exact (hstores hu).trans (homeKept_poisonBillet ..)
  | raw u bs _ _ _ _ hu =>
    refine ((hstores hu).trans (homeKept_putChunks ..)).trans (.updLine ?_)
    exact fun _ => rfl
  | whole u bs _ _ _ _ hu => exact (hstores hu).trans (homeKept_installBoth ..)

/-! ## The bytes a fill puts in memory -/

theorem readMem_one (s : State) (a : Nat) : s.readMem a 1 = [cellGet s.mem a] := by simp [State.readMem, cellsGet]

theorem putChunks_congr {s t : State} (h : t.mem = s.mem) (line : Nat) (ch : BitVec 8) (bs : List Byte) : (putChunks t line ch bs).mem = (putChunks s line ch bs).mem := by
  unfold putChunks
  generalize bitsOf ch = is
  induction is generalizing s t with
  | nil => exact h
  | cons i is ih =>
    refine ih ?_
    have hr : t.readMem (line * 128 + 16 * i) 16 = s.readMem (line * 128 + 16 * i) 16 := by rw [State.readMem, h]; rfl
    dsimp only
    rw [hr]
    split
    · exact h
    · rw [State.writeMem, State.writeMem, h]

theorem fillBytes_congr {s t : State} (h : t.mem = s.mem) {b : Nat} (hv : ∀ l, (t.line l).valid = (s.line l).valid) (bs : List Byte) :
    (fillBytes t b bs).mem = (fillBytes s b bs).mem := by
  rw [fillBytes, fillBytes, hv, hv]
  exact putChunks_congr (putChunks_congr h ..) ..

/-- A byte of no chunk that is put stays. -/
theorem putChunks_other {s : State} {line : Nat} {ch : BitVec 8} {a : Nat} (h : ¬ (lineOf a = line ∧ bit ch (chunkOf (a % 128)) = true)) (bs : List Byte) :
    cellGet (putChunks s line ch bs).mem a = cellGet s.mem a := by
  have hb : ∀ i ∈ bitsOf ch, i < 8 ∧ bit ch i = true := fun i hi => by simpa [bitsOf] using hi
  unfold putChunks
  generalize bitsOf ch = is at hb
  induction is generalizing s with
  | nil => rfl
  | cons i is ih =>
    refine (ih fun j hj => hb j (.tail _ hj)).trans ?_
    obtain ⟨hi, hbi⟩ := hb i (.head _)
    dsimp only
    split
    · rfl
    · rw [readMem_write, if_neg]
      rintro ⟨h1, h2⟩
      have hl := List.length_take_le 16 (bs.drop (line % 2 * 128 + 16 * i))
      have h3 : lineOf a = line := by unfold lineOf; omega
      have h4 : chunkOf (a % 128) = i := by unfold chunkOf; omega
      exact h ⟨h3, by rw [h4]; exact hbi⟩

/-- Memory as a fill leaves it. -/
def fillMem (s : State) (line : Nat) (ch : BitVec 8) : Cells 8 :=
  if (s.line line).valid &&& ch = ch ∨ isPeer (line * 128) = true then s.mem else
  match fillValue s (billetOfLine line) with
  | none => s.mem
  | some bs => if rawRun s (billetOfLine line) then (putChunks s line (ch &&& ~~~(s.line line).valid) bs).mem else (fillBytes s (billetOfLine line) bs).mem
/-- A fill finds the line poisoned. -/
def fillPoisons (s : State) (line : Nat) (ch : BitVec 8) : Bool :=
  decide ((s.line line).valid &&& ch ≠ ch) && !isPeer (line * 128) && (fillValue s (billetOfLine line)).isNone

theorem mem_installBoth (s : State) (b : Nat) (bs : List Byte) : (installBoth s b bs).mem = (fillBytes s b bs).mem := rfl
theorem mem_installPoisoned (s : State) (b : Nat) : (installPoisoned s b).mem = s.mem := rfl

theorem mem_l2Fill {s : State} (he : s.errors = []) (line : Nat) (ch : BitVec 8) : (l2Fill s line ch).mem = fillMem s line ch := by
  have hf := fillsTo_l2Fill he line ch
  generalize l2Fill s line ch = t at hf
  unfold fillMem
  cases hf with
  | valid h => rw [if_pos (.inl h)]; rfl
  | peer _ h => rw [if_pos (.inr h)]; rfl
  | poison u v hn hp hv hu hw =>
    rw [if_neg (by simp [hn, hp]), hv]
    have hm : u.mem = s.mem := by rw [hu]
    rcases hw with rfl | rfl | rfl
    · exact hm
    · exact (cachesOnly_poisonPage ..).mem.trans hm
    · exact (cachesOnly_poisonBillet ..).mem.trans hm
  | raw u bs hn hp hv hr hu =>
    rw [if_neg (by simp [hn, hp]), hv]
    dsimp only
    rw [if_pos hr, updLine_mem, putChunks_congr (s := s) (by rw [hu])]
  | whole u bs hn hp hv hr hu =>
    rw [if_neg (by simp [hn, hp]), hv]
    dsimp only
    rw [hr, if_neg Bool.false_ne_true, mem_installBoth, fillBytes_congr (s := s) (by rw [hu]) (fun l => by rw [hu]; rfl)]

theorem isPoisoned_updLine {s : State} {l : Nat} {f : Line → Line} (hf : ∀ x, (f x).psn = x.psn) (m : Nat) : (s.updLine l f).isPoisoned m = s.isPoisoned m := by
  simp only [State.isPoisoned, line_updLine]
  split
  · next h => rw [hf, h]; rfl
  · rfl

theorem billetOfLine_eq {line b : Nat} (h : billetOfLine line = b) : line = 2 * b ∨ line = 2 * b + 1 := by unfold billetOfLine at h; omega

theorem isPoisoned_installPoisoned (s : State) (line : Nat) : (installPoisoned s (billetOfLine line)).isPoisoned line = true := by
  have h : ((installPoisoned s (billetOfLine line)).line line).psn = true := by
    simp only [installPoisoned, line_updLine]
    rcases billetOfLine_eq (line := line) rfl with h | h
    · rw [if_neg (by omega), if_pos h]
    · rw [if_pos h]
  rw [State.isPoisoned, h, Bool.true_or]

theorem isPoisoned_l2Fill {s : State} (he : s.errors = []) (line : Nat) (ch : BitVec 8) :
    (l2Fill s line ch).isPoisoned line = (s.isPoisoned line || fillPoisons s line ch) := by
  have hf := fillsTo_l2Fill he line ch
  generalize l2Fill s line ch = t at hf
  have hmem : ∀ {u : State} (x : Cells 8), StoresOnly s u → ({ u with mem := x }).isPoisoned line = s.isPoisoned line := fun x hu => by rw [hu]; rfl
  unfold fillPoisons
  cases hf with
  | valid h =>
    refine (isPoisoned_updLine ?_ line).trans (by simp [h])
    exact fun _ => rfl
  | peer _ h =>
    refine (isPoisoned_updLine ?_ line).trans (by simp [h])
    exact fun _ => rfl
  | poison u v hn hp hv hu hw => rw [isPoisoned_installPoisoned, hv]; simp [hn, hp]
  | raw u bs hn hp hv hr hu =>
    refine (isPoisoned_updLine ?_ line).trans ?_
    · exact fun _ => rfl
    · rw [putChunks_mem rfl, hmem _ hu, hv]; simp
  | whole u bs hn hp hv hr hu =>
    refine (isPoisoned_updLine ?_ line).trans ((isPoisoned_updLine ?_ line).trans ?_)
    · exact fun _ => rfl
    · exact fun _ => rfl
    · rw [fillBytes_mem, hmem _ hu, hv]; simp

/-- What a fill changes was not valid in L2 (R74). -/
theorem fillMem_kept {s : State} {line : Nat} {ch : BitVec 8} {a : Nat} (h : ¬ Unfilled s line a) : cellGet (fillMem s line ch) a = cellGet s.mem a := by
  have hnot : ∀ {l : Nat} {c : BitVec 8}, billetOfLine l = billetOfLine line → (∀ j, bit c j = true → bit (s.line l).valid j = false) →
      ¬ (lineOf a = l ∧ bit c (chunkOf (a % 128)) = true) := by
    rintro l c hl hc ⟨ha, hb⟩
    refine h ⟨?_, by rw [ha]; exact hc _ hb⟩
    rw [← hl, ← ha, billetOfLine, billetOf, lineOf, Nat.div_div_eq_div_mul]
  unfold fillMem
  split
  · rfl
  split
  · rfl
  split
  · refine putChunks_other (hnot rfl fun j hj => ?_) _
    simp only [bit, BitVec.getLsbD_and, BitVec.getLsbD_not, Bool.and_eq_true, Bool.not_eq_true'] at hj ⊢
    exact hj.2.2
  · unfold fillBytes
    have hc : ∀ (l j : Nat), bit (~~~(s.line l).valid) j = true → bit (s.line l).valid j = false := fun l j hj => by
      simp only [bit, BitVec.getLsbD_not, Bool.and_eq_true, Bool.not_eq_true'] at hj ⊢
      exact hj.2
    rw [putChunks_other (hnot (by unfold billetOfLine; omega) (hc _)), putChunks_other (hnot (by unfold billetOfLine; omega) (hc _))]

/-! ## Fills that start alike -/

/-- Two states in which the arrays that a fill reads hold the same, but for errors waiting in them. -/
structure FillSame (s t : State) : Prop where
  rest : t = { s with lines := t.lines, teams := t.teams, cores := t.cores }
  valid : ∀ l, (t.line l).valid = (s.line l).valid
  psn : ∀ l, (t.line l).psn = (s.line l).psn

namespace FillSame

theorem refl (s : State) : FillSame s s := ⟨rfl, fun _ => rfl, fun _ => rfl⟩
theorem trans {a b c : State} (h : FillSame a b) (k : FillSame b c) : FillSame a c :=
  ⟨by rw [k.rest, h.rest], fun l => (k.valid l).trans (h.valid l), fun l => (k.psn l).trans (h.psn l)⟩
theorem of_onlyTeams {s t : State} (h : OnlyTeams s t) : FillSame s t := ⟨by rw [h], fun l => by rw [h]; rfl, fun l => by rw [h]; rfl⟩
theorem updLine {s : State} {l : Nat} {f : Line → Line} (hv : ∀ x, (f x).valid = x.valid) (hp : ∀ x, (f x).psn = x.psn) : FillSame s (s.updLine l f) := by
  refine ⟨rfl, fun m => ?_, fun m => ?_⟩
  · rw [line_updLine]
    split
    · next h => rw [hv, h]
    · rfl
  · rw [line_updLine]
    split
    · next h => rw [hp, h]
    · rfl
theorem updCore (s : State) (c : Nat) (f : Core → Core) : FillSame s (s.updCore c f) := ⟨rfl, fun _ => rfl, fun _ => rfl⟩

variable {s t : State} (h : FillSame s t)
include h

theorem errors : t.errors = s.errors := by rw [h.rest]
theorem mem : t.mem = s.mem := by rw [h.rest]
theorem slovi : t.slovi = s.slovi := by rw [h.rest]
theorem billet (b : Nat) : t.billet b = s.billet b := by rw [h.rest]; rfl
theorem slice (a : Nat) : t.slice a = s.slice a := by rw [h.rest]; rfl
theorem fillValue (b : Nat) : fillValue t b = Machine.fillValue s b := by rw [h.rest]; rfl
theorem rawRun (b : Nat) : rawRun t b = Machine.rawRun s b := by rw [h.rest]; rfl
theorem isPoisoned (l : Nat) : t.isPoisoned l = s.isPoisoned l := by rw [State.isPoisoned, h.psn, h.billet]; rfl

theorem fillMem (line : Nat) (ch : BitVec 8) : fillMem t line ch = Machine.fillMem s line ch := by
  unfold Machine.fillMem
  rw [h.valid, h.fillValue, h.mem, h.rawRun]
  congr 1
  cases Machine.fillValue s (billetOfLine line) with
  | none => rfl
  | some bs =>
    dsimp only
    rw [putChunks_congr h.mem, fillBytes_congr h.mem h.valid]

theorem fillPoisons (line : Nat) (ch : BitVec 8) : fillPoisons t line ch = Machine.fillPoisons s line ch := by
  rw [Machine.fillPoisons, Machine.fillPoisons, h.valid, h.fillValue]

end FillSame

/-! ## Performs (R57, R75, R90, R125, R426) -/

/-- Chunks of a write that it does not cover. -/
def partChunks (ea : Nat) (bs : List Byte) : BitVec 8 :=
  maskOf ((bitsOf (chunksOf (ea % 128) bs.length)).filter fun i => !(decide (ea % 128 ≤ i * 16) && decide ((i + 1) * 16 ≤ ea % 128 + bs.length)))

theorem mem_performWrite (s : State) (ea : Nat) (bs : List Byte) :
    (performWrite s ea bs).mem = cellsSet (l2Fill s (lineOf ea) (partChunks ea bs)).mem ea bs := by
  have h : ∀ u : State, (markWritten ((u.writeMem ea bs).updLine (lineOf ea) fun l =>
      { l with present := true, valid := l.valid ||| chunksOf (ea % 128) bs.length, dirty := true }) (lineOf ea) (ea % 128) bs.length).mem = cellsSet u.mem ea bs :=
    fun u => mem_markWritten ..
  unfold performWrite
  dsimp only
  split
  · rw [h, (cachesOnly_mscRemove ..).mem]; rfl
  · rw [mem_touchPage]
    refine (mem_pageWritten ..).trans ?_
    rw [h, (cachesOnly_mscRemove ..).mem]; rfl

theorem homeKept_performWrite {s : State} (he : s.errors = []) (ea : Nat) (bs : List Byte) : HomeKept s (performWrite s ea bs) := by
  have h : ∀ u : State, HomeKept u (markWritten ((u.writeMem ea bs).updLine (lineOf ea) fun l =>
      { l with present := true, valid := l.valid ||| chunksOf (ea % 128) bs.length, dirty := true }) (lineOf ea) (ea % 128) bs.length) := fun u => by
    refine ((homeKept_writeMem u ea bs).trans (.updLine ?_)).trans (homeKept_markWritten ..)
    exact fun _ => rfl
  have h0 := ((homeKept_l2Fill he (lineOf ea) (partChunks ea bs)).trans (homeKept_mscRemove _ (billetOf ea))).trans (h _)
  unfold performWrite
  dsimp only
  split
  · exact h0
  · exact (h0.trans (homeKept_pageWritten ..)).trans (homeKept_touchPage ..)

/-- The bytes written are read. -/
theorem readMem_cellsSet {s : State} {m : Cells 8} {a : Nat} {bs : List Byte} (h : s.mem = cellsSet m a bs) : s.readMem a bs.length = bs := by
  refine List.ext_getElem (by simp [State.readMem, cellsGet]) fun i hi _ => ?_
  have hi' : i < bs.length := by simpa [State.readMem, cellsGet] using hi
  simp [State.readMem, cellsGet, h, cellGet_sets, hi']

/-- Written words put in memory one byte after the other. -/
def mergeMem (s : State) (line : Nat) (w : BitVec 32) (d : Cells 8) : State := (dataOfWords d w).foldl (fun s (i, b) => s.writeMem (line * 128 + i) [b]) s

theorem mergeMem_foldl (ps : List (Nat × Byte)) (s : State) (line a : Nat) (hnd : (ps.map Prod.fst).Nodup) :
    cellGet (ps.foldl (fun s (i, b) => State.writeMem s (line * 128 + i) [b]) s).mem a =
      ((ps.find? fun p => line * 128 + p.1 == a).map Prod.snd).getD (cellGet s.mem a) := by
  induction ps generalizing s with
  | nil => rfl
  | cons p ps ih =>
    rw [List.map_cons, List.nodup_cons] at hnd
    rw [List.foldl_cons, ih _ hnd.2, readMem_write]
    by_cases h : line * 128 + p.1 = a
    · have hn : ps.find? (fun q => line * 128 + q.1 == a) = none := by
        rw [List.find?_eq_none]
        intro q hq he
        have : q.1 = p.1 := by have := beq_iff_eq.mp he; omega
        exact hnd.1 (this ▸ List.mem_map_of_mem hq)
      rw [List.find?_cons_of_pos (by simpa using h), hn, if_pos (by simp; omega)]
      simp [show a - (line * 128 + p.1) = 0 by omega]
    · rw [List.find?_cons_of_neg (by simpa using h), if_neg (by simp; omega)]

theorem mem_dataOfWords {d : Cells 8} {w : BitVec 32} {p : Nat × Byte} : p ∈ dataOfWords d w ↔ p.1 < 128 ∧ bit w (p.1 / 4) = true ∧ p.2 = cellGet d p.1 := by
  obtain ⟨i, b⟩ := p
  simp only [dataOfWords, List.mem_filterMap, List.mem_range]
  constructor
  · rintro ⟨j, hj, h⟩
    split at h
    · next hb => cases h; exact ⟨hj, hb, rfl⟩
    · cases h
  · rintro ⟨hi, hb, rfl⟩
    exact ⟨i, hi, by rw [if_pos hb]⟩

theorem nodup_dataOfWords (d : Cells 8) (w : BitVec 32) : ((dataOfWords d w).map Prod.fst).Nodup := by
  have h : (dataOfWords d w).map Prod.fst = (List.range 128).filter fun i => bit w (i / 4) := by
    rw [dataOfWords, List.map_filterMap, ← List.filterMap_eq_filter]
    refine List.filterMap_congr fun i _ => ?_
    by_cases hb : bit w (i / 4) = true <;> simp [hb, Option.guard]
  rw [h]
  exact List.nodup_range.filter _

theorem cellGet_mergeMem (s : State) (line : Nat) (w : BitVec 32) (d : Cells 8) (a : Nat) : cellGet (mergeMem s line w d).mem a =
    if lineOf a = line ∧ bit w (a % 128 / 4) = true then cellGet d (a % 128) else cellGet s.mem a := by
  rw [mergeMem, mergeMem_foldl _ _ _ _ (nodup_dataOfWords d w)]
  split
  · next h =>
    obtain ⟨hl, hb⟩ := h
    have ha : line * 128 + a % 128 = a := by unfold lineOf at hl; omega
    cases hf : (dataOfWords d w).find? (fun p => line * 128 + p.1 == a) with
    | none =>
      have := List.find?_eq_none.mp hf (a % 128, cellGet d (a % 128)) (mem_dataOfWords.mpr ⟨by omega, hb, rfl⟩)
      exact absurd (beq_iff_eq.mpr ha) this
    | some p =>
      obtain ⟨-, -, hp⟩ := mem_dataOfWords.mp (List.mem_of_find?_eq_some hf)
      have h2 : line * 128 + p.1 = a := by simpa using List.find?_some hf
      rw [Option.map_some, Option.getD_some, hp, show p.1 = a % 128 by omega]
  · next h =>
    cases hf : (dataOfWords d w).find? (fun p => line * 128 + p.1 == a) with
    | none => rfl
    | some p =>
      obtain ⟨h1, hb, -⟩ := mem_dataOfWords.mp (List.mem_of_find?_eq_some hf)
      have h2 : line * 128 + p.1 = a := by simpa using List.find?_some hf
      exact absurd ⟨by unfold lineOf; omega, by rw [show a % 128 = p.1 by omega]; exact hb⟩ h

theorem homeKept_mergeMem (s : State) (line : Nat) (w : BitVec 32) (d : Cells 8) : HomeKept s (mergeMem s line w d) :=
  .foldl _ _ (fun _ _ => homeKept_writeMem ..) s

/-- The marks of written words, chunk by chunk. -/
theorem markWords_spec (s : State) (line : Nat) (w : BitVec 32) : let t := (bitsOf w).foldl (fun s i => markWritten s line (4 * i) 4) s
    HomeKept s t ∧ t.mem = s.mem := by
  refine ⟨.foldl _ _ (fun _ _ => homeKept_markWritten ..) s, ?_⟩
  generalize bitsOf w = is
  induction is generalizing s with
  | nil => rfl
  | cons i is ih => exact (ih _).trans (mem_markWritten ..)

/-- Written words merged at a home: its records are kept, and memory holds the words over what the fill left (R72, R125). -/
theorem mergeAtHome_spec {s : State} (he : s.errors = []) (line : Nat) (w : BitVec 32) (d : Cells 8) : HomeKept s (mergeAtHome s line w d) ∧
    (∀ a, lineOf a = line → bit w (a % 128 / 4) = true → cellGet (mergeAtHome s line w d).mem a = cellGet d (a % 128)) ∧
    ∀ a, ¬ (lineOf a = line ∧ bit w (a % 128 / 4) = true) → ¬ Unfilled s line a → cellGet (mergeAtHome s line w d).mem a = cellGet s.mem a := by
  obtain ⟨cs, hcs⟩ : ∃ cs : BitVec 8, cs = maskOf ((bitsOf w).map (· / 4)) := ⟨_, rfl⟩
  obtain ⟨u, hu⟩ : ∃ u, u = (mergeMem (l2Fill s line cs) line w d).updLine line fun l => { l with present := true, valid := l.valid ||| cs, dirty := true } := ⟨_, rfl⟩
  have hku : HomeKept s u := by
    rw [hu]
    refine ((homeKept_l2Fill he line cs).trans (homeKept_mergeMem ..)).trans (.updLine ?_)
    exact fun _ => rfl
  obtain ⟨hkm, hmm⟩ := markWords_spec u line w
  have hcell : ∀ a, cellGet u.mem a = if lineOf a = line ∧ bit w (a % 128 / 4) = true then cellGet d (a % 128) else cellGet (fillMem s line cs) a := fun a => by
    rw [hu, updLine_mem, cellGet_mergeMem, mem_l2Fill he]
  by_cases hw : w = 0
  · have h0 : mergeAtHome s line w d = s := by rw [mergeAtHome, if_pos hw]
    rw [h0]
    exact ⟨.refl s, fun a _ hb => by simp [hw, bit] at hb, fun _ _ _ => rfl⟩
  · have hm : ∃ t, mergeAtHome s line w d = t ∧ HomeKept s t ∧ t.mem = u.mem := by
      refine ⟨_, rfl, ?_⟩
      rw [mergeAtHome, if_neg hw]
      dsimp only
      rw [← hcs]
      split
      · exact hu ▸ ⟨(hku.trans hkm), hmm⟩
      · exact hu ▸ ⟨(hku.trans hkm).trans (homeKept_pageWritten ..), (mem_pageWritten ..).trans hmm⟩
    obtain ⟨t, ht, hk, hmem⟩ := hm
    rw [ht, hmem]
    refine ⟨hk, fun a hl hb => ?_, fun a hn hf => ?_⟩
    · rw [hcell, if_pos ⟨hl, hb⟩]
    · rw [hcell, if_neg hn, fillMem_kept hf]

end Sys2Proof.Machine
end

section
/-! PROOFS. Host accesses through an aperture and AtomicOps (R370, R411, R438); O57 is put together here. -/

namespace Sys2Proof

open Machine

/-! ## The access's turn at its lines (R411) -/

theorem nodup_hostSpan (a n : Nat) : (hostSpan a n).Nodup := by
  refine List.Nodup.map (fun x y h => ?_) List.nodup_range
  omega

theorem line_hostPlace (k : ReqKind) (s : State) (l m : Nat) (h : m ≠ l) : (hostPlace k s l).line m = s.line m := by
  unfold hostPlace
  split
  · rfl
  · rw [line_updLine, if_neg h]

/-- What the host's places at lines leave alone. -/
theorem hostPlace_rest (k : ReqKind) (ls : List Nat) (s : State) : let u := ls.foldl (hostPlace k) s
    u.mem = s.mem ∧ u.teams = s.teams ∧ u.agenda = s.agenda := by
  induction ls generalizing s with
  | nil => exact ⟨rfl, rfl, rfl⟩
  | cons l ls ih =>
    have h : (hostPlace k s l).mem = s.mem ∧ (hostPlace k s l).teams = s.teams ∧ (hostPlace k s l).agenda = s.agenda := by
      unfold hostPlace
      split
      · exact ⟨rfl, rfl, rfl⟩
      · exact ⟨rfl, rfl, rfl⟩
    obtain ⟨hm, ht, ha⟩ := ih (hostPlace k s l)
    exact ⟨hm.trans h.1, ht.trans h.2.1, ha.trans h.2.2⟩

/-- At each line where it has none the access takes the last place of the queue. -/
theorem hostPlace_queue (k : ReqKind) (ls : List Nat) (s : State) (hnd : ls.Nodup) {l : Nat} (hl : l ∈ ls) (hp : hostPlaced s l = false) :
    ∃ r : HomeReq, r.isHost = true ∧ ((ls.foldl (hostPlace k) s).line l).queue = (s.line l).queue ++ [r] := by
  induction ls generalizing s with
  | nil => cases hl
  | cons m ls ih =>
    rw [List.nodup_cons] at hnd
    rw [List.foldl_cons]
    by_cases hm : l = m
    · subst hm
      have hstay : ∀ (ms : List Nat) (u : State), l ∉ ms → (ms.foldl (hostPlace k) u).line l = u.line l := by
        intro ms
        induction ms with
        | nil => exact fun _ _ => rfl
        | cons x xs ihx =>
          intro u hu
          rw [List.mem_cons, not_or] at hu
          exact (ihx _ hu.2).trans (line_hostPlace k u x l hu.1)
      refine ⟨{ core := 640, line := l, kind := k, team := 0, iss := 0, lane := 0, ea := l * 128, n := 0, mark := true }, rfl, ?_⟩
      rw [hstay _ _ hnd.1, hostPlace, hp, if_neg Bool.false_ne_true, line_updLine, if_pos rfl]
    · have hline := line_hostPlace k s m l hm
      obtain ⟨r, hr, hq⟩ := ih (hostPlace k s m) hnd.2 ((List.mem_cons.mp hl).resolve_left hm) (by rw [hostPlaced, hline]; exact hp)
      exact ⟨r, hr, by rw [hq, hline]⟩

/-- An access whose turn has not come takes its places, and stays the agenda's head. -/
theorem hostAccess_behind {s : State} {again : Instr} {k : ReqKind} {a n : Nat} {act : State → HostTry} (hturn : ∃ l ∈ hostSpan a n, hostTurn s l = false)
    (hplace : ∃ l ∈ hostSpan a n, hostPlaced s l = false) : ∃ u, hostAccess s again k a n act = .next u ∧ u.mem = s.mem ∧ u.teams = s.teams ∧
      u.agenda = again :: s.agenda ∧ ∀ l ∈ hostSpan a n, hostPlaced s l = false → ∃ r : HomeReq, r.isHost = true ∧ (u.line l).queue = (s.line l).queue ++ [r] := by
  have ht : (hostSpan a n).all (hostTurn s) = false := by simpa using hturn
  have hp : (hostSpan a n).all (hostPlaced s) = false := by simpa using hplace
  obtain ⟨hm, hteams, ha⟩ := hostPlace_rest k (hostSpan a n) s
  refine ⟨{ (hostSpan a n).foldl (hostPlace k) s with agenda := again :: ((hostSpan a n).foldl (hostPlace k) s).agenda }, ?_, hm, hteams, by rw [ha],
    fun l hl hf => hostPlace_queue k _ s (nodup_hostSpan a n) hl hf⟩
  simp [hostAccess, ht, hp, ha]

section
variable {s : State} {ls : List Nat} (hq : ∀ l ∈ ls, (s.line l).queue = [])
include hq

theorem all_hostTurn : ls.all (hostTurn s) = true := by
  refine List.all_eq_true.mpr fun l hl => ?_
  simp [hostTurn, nextReq, hq l hl]

theorem foldl_hostAside : ls.foldl hostAside s = s := by
  induction ls with
  | nil => rfl
  | cons l ls ih =>
    rw [List.foldl_cons, show hostAside s l = s by simp [hostAside, hq l (.head _)]]
    exact ih fun m hm => hq m (.tail _ hm)

theorem foldl_hostBack (u : State) : ls.foldl (hostBack s) u = u := by
  induction ls with
  | nil => rfl
  | cons l ls ih =>
    rw [List.foldl_cons, show hostBack s u l = u by simp [hostBack, hq l (.head _)]]
    exact ih fun m hm => hq m (.tail _ hm)

end

/-- Where nothing waits at its lines the access is made at once. -/
theorem hostAccess_clear {s u : State} {again : Instr} {k : ReqKind} {a n : Nat} {act : State → HostTry} (hq : ∀ l ∈ hostSpan a n, (s.line l).queue = [])
    (hact : act s = .done u) : hostAccess s again k a n act = .next u := by
  simp only [hostAccess, all_hostTurn hq, foldl_hostAside hq, hact, foldl_hostBack hq]
  rfl

/-! ## The three accesses -/

theorem exec_hostApertureRead_backed {s : State} {a n : Nat} (hn : n ≠ 0) (hb : rangeBacked s a n = true) :
    exec (.hostApertureRead a n) s = hostAccess s (.hostApertureRead a n) .wtLoad a n fun s => hostReadAt s a n := by
  simp [execHostApertureRead, hn, hb]

theorem exec_hostApertureWrite_backed {s : State} {a : Nat} {bs : List Byte} (hn : bs ≠ []) (hb : rangeBacked s a bs.length = true) :
    exec (.hostApertureWrite a bs) s = hostAccess s (.hostApertureWrite a bs) .write a bs.length fun s => hostLines s (splitLines a bs (bs.length / 128 + 2)) := by
  simp [execHostApertureWrite, hn, hb]

theorem exec_hostAtomicop_backed {s : State} {op : HostOp} {a n : Nat} {wide : Bool} {x y : BitVec 64} (hw : (if wide then 8 else 4) = n)
    (hb : rangeBacked s a n = true) (ha : a % n = 0) :
    exec (.hostAtomicop op a wide x y) s = hostAccess s (.hostAtomicop op a wide x y) .write a n fun s => hostAtomic s op a n x.toNat y.toNat := by
  subst hw
  simp [execHostAtomicop, hb, ha]

/-- Bytes that end before their line does are one part. -/
theorem splitLines_within {a : Nat} {bs : List Byte} (hn : bs ≠ []) (h : a % 128 + bs.length ≤ 128) (k : Nat) : splitLines a bs (k + 2) = [(a, bs)] := by
  have ht : bs.take (128 - a % 128) = bs := List.take_of_length_le (by omega)
  have hd : bs.drop (128 - a % 128) = [] := List.drop_eq_nil_of_le (by omega)
  simp [splitLines, hn, ht, hd]

/-! ## The read-modify-write of an AtomicOp (R92, R298) -/

theorem storeAtHome_ok {α : Type} {s w : State} {ctx ea n : Nat} {core : Option Nat} {act : State → Home α} {x : α} (h : storeAtHome s ctx ea n core act = .ok x w) :
    ∃ v, act v = .ok x w := by
  unfold storeAtHome at h
  dsimp only at h
  split at h
  · cases h
  split_ifs at h
  · exact ⟨_, h⟩
  · split at h
    · exact ⟨_, h⟩
    · cases h
    · cases h

/-- A read-modify-write that is done has written what the operation makes of the old bytes. -/
theorem rmwLine_ok {s w : State} {ctx a n : Nat} {f : List Byte → List Byte} {old : List Byte} (hp : isPeer a = false)
    (h : rmwLine s ctx a n f = .ok old w) : ∃ v, w = performWrite v a (f old) := by
  have hpa : peerAccess s none a n none = none := by simp [peerAccess, hp]
  simp only [rmwLine, hpa] at h
  split_ifs at h
  obtain ⟨v, hv⟩ := storeAtHome_ok h
  split_ifs at hv
  cases hv
  exact ⟨_, rfl⟩

theorem hostAtomic_done {s w : State} {op : HostOp} {a n x y : Nat} {old : List Byte} (hp : isPeer a = false)
    (h : rmwLine s (s.ownerOf a) a n (fun old => leBytes n (hostNew op n (leNat old) x y)) = .ok old w) :
    hostAtomic s op a n x y = .done { w with hostRd := BitVec.ofNat 64 (leNat old), hostBytes := old } ∧
      w.readMem a n = leBytes n (hostNew op n (leNat old) x y) := by
  refine ⟨by rw [hostAtomic, h], ?_⟩
  obtain ⟨v, hv⟩ := rmwLine_ok hp h
  have hm := readMem_cellsSet (hv ▸ mem_performWrite v a (leBytes n (hostNew op n (leNat old) x y)))
  rwa [length_leBytes] at hm

/-- Settles O57: an access takes its places, or is made at once by the home's read, write or read-modify-write. -/
theorem hostAccesses : Obligations.HostAccesses := by
  intro s w a
  refine ⟨fun n hn hb hturn hplace => ?_, fun bs hn hb hturn hplace => ?_, fun n bs hn hb hq hr => ?_, fun n hn hb => ?_, fun bs hn hb hq hin hwr => ?_,
    fun bs hn hb => ?_, fun wide x y old => ?_⟩
  · rw [Happens, exec_hostApertureRead_backed hn hb]
    exact hostAccess_behind hturn hplace
  · rw [Happens, exec_hostApertureWrite_backed hn hb]
    exact hostAccess_behind hturn hplace
  · exact ⟨{ w with hostBytes := bs }, by rw [exec_hostApertureRead_backed hn hb]; exact hostAccess_clear hq (by rw [hostReadAt, hr]), rfl, rfl, rfl⟩
  · simp [execHostApertureRead, hn, hb]
  · rw [exec_hostApertureWrite_backed hn hb]
    exact hostAccess_clear hq (by rw [splitLines_within hn hin]; simp only [hostLines, hostLine, hwr])
  · simp [execHostApertureWrite, hn, hb]
  · intro n m done hb hp ha hq
    have hop : ∀ op, rmwLine s (s.ownerOf a) a n (fun old => leBytes n (hostNew op n (leNat old) x.toNat y.toNat)) = .ok old w →
        done op (hostNew op n (leNat old) x.toNat y.toNat) := fun op h => by
      obtain ⟨hd, hm⟩ := hostAtomic_done hp h
      exact ⟨{ w with hostRd := BitVec.ofNat 64 (leNat old), hostBytes := old }, by rw [exec_hostAtomicop_backed rfl hb ha]; exact hostAccess_clear hq hd, rfl, hm, rfl, rfl⟩
    exact ⟨hop .fetchAdd, hop .swap, hop .cas⟩

end Sys2Proof
end

section
/-! PROOFS. What an instruction that does not pass its gate comes to (R51, R93, R153, R174, R232, R290, R365, R392); O42 is put together here. -/

namespace Sys2Proof

open Machine

/-! ## Every instruction stands behind its gate -/

/-- An outcome of an instruction that is its gate's where the gate does not let it go. -/
structure Gated (s : State) (i : Instr) (o : Out) : Prop where
  wait : ∀ u, gate s i = .wait u → o = .next u
  poison : ∀ u, gate s i = .poison u → o = .next u
  illegal : ∀ e, gate s i = .illegal e → o = .next (faultBundle s e (insnFault e .illinsn))
  nested : ∀ e, gate s i = .nested e → o = .next (faultBundle s e (insnFault e .nested))

section
variable (s : State) (i : Instr)

theorem gated_withGate (k : Env → State → Out) : Gated s i (withGate s i k) := by
  constructor <;> intro x h <;> rw [withGate, h]
theorem gated_simple (k : Env → State → State) : Gated s i (simple s i k) := gated_withGate ..
theorem gated_vector (f : VF) (k : Nat) (val : Env → Nat → Nat → Nat) : Gated s i (vector s i f k val) := gated_simple ..
theorem gated_vectorBool (f : VF) (val : Env → Nat → Nat → Bool) : Gated s i (vectorBool s i f val) := gated_simple ..
theorem gated_uniform (d : BitVec 11) (k : Nat) (val : Env → Nat) : Gated s i (uniform s i d k val) := gated_simple ..
theorem gated_branch (f : BF) (taken : Env → State → Nat → Bool) : Gated s i (branch s i f taken) := gated_simple ..
theorem gated_stackInsn (sel : Env → List (Nat × Nat)) (k : State → Env → Ctx → Nat → Nat → Stack State) : Gated s i (stackInsn s i sel k) := gated_withGate ..
theorem gated_loadIssue (f : MF) (addrs : Env → List (Nat × Nat × Nat)) : Gated s i (loadIssue s i f addrs) := gated_withGate ..
theorem gated_storeIssue (f : MF) (addrs : Env → List (Nat × Nat × Nat)) : Gated s i (storeIssue s i f addrs) := gated_withGate ..
theorem gated_atomIssue (f : MAF) (ret : Bool) : Gated s i (atomIssue s i f ret) := gated_withGate ..
theorem gated_rangeInsn (f : OF) (act : State → Env → Alloc → Nat → Nat → Nat × State) : Gated s i (rangeInsn s i f act) := gated_withGate ..
theorem gated_queueTake (f : OF) (token : Bool) : Gated s i (queueTake s i f token) := gated_withGate ..
theorem gated_queueGive (f : OF) (token : Bool) : Gated s i (queueGive s i f token) := gated_withGate ..
theorem gated_copyIssue (f : CF) (counts : Bool) (build : Env → CopyCmd) : Gated s i (copyIssue s i f counts build) := gated_withGate ..
theorem gated_matIssue (check : Env → State → Option FaultInfo × State) (cmd : Env → MatCmd) : Gated s i (matIssue s i check cmd) := gated_withGate ..
theorem gated_tret (skip : Bool) : Gated s i (tret s i skip) := gated_withGate ..

end

theorem gated_exec (s : State) (i : Instr) (h : i.opcode.isSome = true) : Gated s i (exec i s) := by
  delta exec
  cases i
  case iadd | isub | imul | imulh | imad | imin | imax | iabs | ineg | and | or | xor | not | shl | shr | rot | bfx | bfi | popc | clz | brev | prmt | sel | iadd64 |
      isub64 | imad64 | lea | mov | idot4 | isat | fadd | fsub | fmul | ffma | fdiv | fsqrt | frcp | fmin | fmax | frsq | fex2 | flg2 | fsin | fcos | ftanh | fclass |
      frnd | hadd2 | hmul2 | hfma2 | hmin2 | hmax2 | fcvt | fcvti | icvtf | icvt | mpop | mfirst | vote | shfl | bcast | lred | lscan => exact gated_vector ..
  case icmp | fcmp | mand | mor | mxor | mnot | mmov => exact gated_vectorBool ..
  case gadd | gsub | gmul | gand | gor | gxor | gshl | gshr | gcmp | gmov | gsel | gadd64 | gmin | gmax | gfop => exact gated_uniform ..
  case jmpi | mbegin | mleave | prio | yield | salloc | cpwp | cpcancel | nop | csrr | trap | brk | clock => exact gated_simple ..
  case bra | brm | brg => exact gated_branch ..
  case gldk | mwait | exit | regroup | ldk | pref | fence | pfence | wback | binfo | rsvq | pgyield | mark | resid | sld | sst | satom | sfree | bar | qinit | qstat |
      csrw | launch | sleep | waitf => exact gated_withGate ..
  case call | calli | ret | pushm | popm => exact gated_stackInsn ..
  case ld | ldp => exact gated_loadIssue ..
  case st | stp => exact gated_storeIssue ..
  case atom | red => exact gated_atomIssue ..
  case srenew | sage => exact gated_rangeInsn ..
  case qperm | qtake => exact gated_queueTake ..
  case qpost | qfree => exact gated_queueGive ..
  case cpy | tsr | cpfill => exact gated_copyIssue ..
  case xmma | xzero | xfill | xrd | xwr | xscale | xdrain | xquant => exact gated_matIssue ..
  case tretReplay | tretSkip => exact gated_tret ..
  all_goals exact absurd h Bool.false_ne_true

/-! ## What the gate decides -/

section
variable {s u : State} {i : Instr} {e : Env}

theorem gate_illegal (h : gate s i = .illegal e) : envOf s = some e := by
  unfold gate at h
  split at h
  · cases h
  · dsimp only at h
    split_ifs at h
    · cases h; assumption
    all_goals (split at h <;> cases h)

theorem gate_nested (h : gate s i = .nested e) : envOf s = some e := by
  unfold gate at h
  split at h
  · cases h
  · dsimp only at h
    split_ifs at h
    · cases h; assumption
    all_goals (split at h <;> cases h)

/-- An issue put off leaves its group's mark, or corrects a register that it reads (R93). -/
theorem gate_wait (he : envOf s = some e) (h : gate s i = .wait u) :
    u = stallAt s e ∨ ∃ p ls, regError s e i = some (true, p, ls) ∧ u = (s.takeError 10 p).2 := by
  unfold gate at h
  rw [he] at h
  dsimp only at h
  split_ifs at h
  iterate 5 exact .inl (by cases h; rfl)
  split at h
  · next p ls hr => exact .inr ⟨p, ls, hr, by cases h; rfl⟩
  · cases h
  · cases h

theorem gate_poison {p : Nat} {ls : List (Nat × Nat)} (he : envOf s = some e) (hr : regError s e i = some (false, p, ls)) (h : gate s i = .poison u) :
    u = parkAll (s.takeError 10 p).2 e ls (insnFault e .rpoison) := by
  unfold gate at h
  rw [he] at h
  dsimp only at h
  split_ifs at h
  rw [hr] at h
  cases h
  rfl

theorem consumers_sublist (e : Env) (i : Instr) (p : Nat) : (consumers e i p).Sublist e.lanes := by
  have hc : (chosen e i).Sublist e.lanes := by
    unfold chosen
    split
    · exact .refl _
    · exact .refl _
    · exact .refl _
    · exact sel_sublist ..
  unfold consumers
  dsimp only
  split
  · exact .refl _
  · exact List.filter_sublist.trans hc

/-- The threads that consume an error are of the bundle. -/
theorem regError_sublist {c : Bool} {p : Nat} {ls : List (Nat × Nat)} (h : regError s e i = some (c, p, ls)) : ls.Sublist e.lanes := by
  obtain ⟨⟨a, q⟩, hx⟩ := firstSome_some h
  dsimp only at hx
  split_ifs at hx
  cases hx
  exact consumers_sublist ..

end

/-! ## A handler that issues what it may not (R392) -/

section
variable {s : State} {k : Nat} {t : Team}

/-- A thread taken out of its bundle and changed leaves its team's kill as it was. -/
theorem kill_leaveBundle_updThread (ht : s.team k = some t) (g : Nat) (m : LaneMask) (tid : Nat) (f : Thread → Thread) :
    ∃ t', ((leaveBundle s k g m).updThread k tid f).team k = some t' ∧ t'.kill = t.kill := by
  refine ⟨{ t with groups := listUpd t.groups g (withoutLanes m), threads := listUpd t.threads tid f }, ?_, rfl⟩
  rw [team_updThread, if_pos rfl, leaveBundle_eq, team_updGroup, if_pos rfl, ht]
  rfl

/-- A team that is to be killed keeps its first cause while threads park. -/
theorem kill_parkThread {x : FaultInfo} (ht : s.team k = some t) (hk : t.kill = some x) (tid : Nat) (f : FaultInfo) :
    ∃ t', (parkThread s k tid f).team k = some t' ∧ t'.kill = some x := by
  have hkept : ∀ (h : Thread → Thread) (m : LaneMask) (n : Nat) (g : FaultInfo),
      ∃ t', (killTeam ((leaveBundle s k n m).updThread k tid h) k g (some tid)).team k = some t' ∧ t'.kill = some x := fun h m n g => by
    obtain ⟨y, hy, hyk⟩ := kill_leaveBundle_updThread ht n m tid h
    obtain ⟨t', h1, h2, -⟩ := team_killTeam hy k g (some tid)
    have hx := hyk.trans hk
    exact ⟨t', h1, (h2 (by rw [hx]; rfl)).trans hx⟩
  simp only [parkThread, ht, killHandler]
  split
  · exact hkept ..
  · split
    · exact hkept ..
    · obtain ⟨y, hy, hyk⟩ := kill_leaveBundle_updThread ht _ _ tid _
      exact ⟨y, hy, hyk.trans hk⟩

theorem kill_parkAll {x : FaultInfo} (e : Env) (ls : List (Nat × Nat)) (f : FaultInfo) (ht : s.team e.tk = some t) (hk : t.kill = some x) :
    ∃ t', (parkAll s e ls f).team e.tk = some t' ∧ t'.kill = some x := by
  induction ls generalizing s t with
  | nil => exact ⟨t, ht, hk⟩
  | cons p ps ih =>
    obtain ⟨t1, h1, h2⟩ := kill_parkThread ht hk p.2 f
    exact ih h1 h2

/-- A thread in handler mode stays at the instruction that ends its team. -/
def handlerKilled (f : FaultInfo) (th : Thread) : Thread :=
  { th with st := .parked, fault := some f, rp := { prio := f.prio, clause := f.clause, index := f.index }, safe := none }

/-- A thread in handler mode that takes a fault ends its team with NESTED. -/
theorem kill_parkThread_handler {tid : Nat} (f : FaultInfo) (ht : s.team k = some t) (hh : ((t.threads[tid]?).getD {}).handler = true) (hk : t.kill = none) :
    ∃ t' x, (parkThread s k tid f).team k = some t' ∧ t'.kill = some x ∧ x.cause = .nested := by
  simp only [parkThread, ht, hh, if_true, killHandler]
  obtain ⟨y, hy, hyk⟩ := kill_leaveBundle_updThread ht ((t.threads[tid]?).getD {}).grp (maskOf [((t.threads[tid]?).getD {}).lane]) tid (handlerKilled ((faultNow s t tid f).killedBy .nested))
  obtain ⟨t', h1, -, -, h2⟩ := team_killTeam hy k ((faultNow s t tid f).killedBy .nested) (some tid)
  exact ⟨t', _, h1, h2 (hyk.trans hk) rfl, rfl⟩

end

/-- Settles O42, from what the gate answers: `gated_exec` says that each instruction's outcome is the gate's. -/
theorem illegalUse : Obligations.IllegalUse := by
  intro i s e hi
  have hg := gated_exec s i hi
  refine ⟨fun h hout => ⟨_, hg.illegal e h, ?_⟩, fun u he h => ⟨hg.wait u h, fun hr => ?_, fun p ls hr => ?_⟩, fun p ls v he hr h hout => ⟨v, hg.poison v h, rfl, ?_⟩,
    fun h hne hall hk => ⟨_, hg.nested e h, ?_⟩⟩
  · exact parks_parkAll (gate_illegal h) (fun _ => rfl) (List.Sublist.refl _) hout rfl rfl rfl
  · rcases gate_wait he h with hu | ⟨p, ls, hr', -⟩
    · exact hu
    · exact absurd hr' (hr p ls)
  · rcases gate_wait he h with hu | ⟨p', ls', hr', hu⟩
    · exact .inl hu
    · rw [hr] at hr'
      cases hr'
      exact .inr hu
  · rw [gate_poison he hr h]
    exact parks_parkAll he (fun j => by rw [State.thread, State.team, teams_takeError]; rfl) (regError_sublist hr) hout rfl rfl rfl
  · obtain ⟨ht, -, -⟩ := envOf_spec (gate_nested h)
    cases hl : e.lanes with
    | nil => exact absurd hl hne
    | cons p ps =>
      obtain ⟨t1, x, h1, hx, hc⟩ := kill_parkThread_handler (tid := p.2) (insnFault e .nested) ht (hall p (by rw [hl]; exact .head _)) hk
      obtain ⟨t2, h2, hk2⟩ := kill_parkAll e ps (insnFault e .nested) h1 hx
      exact ⟨t2, x, by rw [faultBundle, hl]; exact h2, hk2, hc⟩

end Sys2Proof
end

section
/-! PROOFS. Replies from the homes at the core (R48 to R50, R123, R150, R152, R289); O23 is put together here. -/

namespace Sys2Proof

open Machine

/-! ## The head of a channel -/

/-- A message taken from a channel to a core leaves all but the core's channels. -/
theorem takeDown_spec {s u : State} {c h : Nat} {m : DownMsg} (ht : takeDown s c h = some (m, u)) :
    u = s.updCore c (fun k => { k with down := (u.core c).down }) := by
  unfold takeDown at ht
  split at ht
  · cases ht
  · cases ht
    rw [core_updCore, if_pos rfl]
    rfl

theorem takeDown_mem {s u : State} {c h : Nat} {m : DownMsg} (ht : takeDown s c h = some (m, u)) : u.mem = s.mem := by rw [takeDown_spec ht]; rfl
theorem takeDown_errors {s u : State} {c h : Nat} {m : DownMsg} (ht : takeDown s c h = some (m, u)) : u.errors = s.errors := by rw [takeDown_spec ht]; rfl

/-! ## Lanes that a reply ends -/

/-- Lanes of an issue answered one after the other: each of them is as the answer leaves it, the others are as before. -/
theorem laneOf_answers {k iss n : Nat} {f : LaneOp → LaneOp} (hlane : ∀ l, (f l).lane = l.lane) (hidem : ∀ l, f (f l) = f l) (ls : List LaneOp) {s : State}
    {t : Team} {i : Inflight} {l : LaneOp} (h : laneOf s k iss n = some (t, i, l)) :
    ∃ t' i', laneOf (ls.foldl (fun s o => s.updLane k iss o.lane f) s) k iss n = some (t', i', if n ∈ ls.map LaneOp.lane then f l else l) := by
  induction ls generalizing s t i l with
  | nil => exact ⟨t, i, by rw [List.foldl_nil, h, List.map_nil, if_neg List.not_mem_nil]⟩
  | cons o os ih =>
    obtain ⟨t1, h1⟩ := laneOf_updLane h o.lane f hlane
    obtain ⟨t2, i2, h2⟩ := ih h1
    refine ⟨t2, i2, ?_⟩
    rw [List.foldl_cons, h2]
    by_cases ho : n = o.lane
    · simp [ho, hidem]
    · simp [ho]

theorem onlyTeams_answerLanes (s : State) (k iss lead : Nat) (f : LaneOp → LaneOp) : OnlyTeams s (answerLanes s k iss lead f) := by
  unfold answerLanes
  split
  · rfl
  · exact onlyTeams_foldl _ _ (fun s (l : LaneOp) => onlyTeams_updLane s k iss l.lane f) s

theorem laneOf_answerLanes {s : State} {k iss lead : Nat} {f : LaneOp → LaneOp} (hlane : ∀ l, (f l).lane = l.lane) (hidem : ∀ l, f (f l) = f l)
    {t : Team} {i : Inflight} {l : LaneOp} (h : laneOf s k iss l.lane = some (t, i, l)) (hl : l ∈ answered i lead) :
    ∃ t' i', laneOf (answerLanes s k iss lead f) k iss l.lane = some (t', i', f l) := by
  obtain ⟨ht, hi, -⟩ := laneOf_some.mp h
  obtain ⟨t', i', h'⟩ := laneOf_answers hlane hidem (answered i lead) h
  refine ⟨t', i', ?_⟩
  rw [if_pos (List.mem_map_of_mem hl)] at h'
  simpa [answerLanes, ht, hi] using h'

/-- An entry's lane has performed with its result, and is admitted (R49, R150). -/
theorem laneOf_laneDone {s : State} {e : SbEntry} {t : Team} {i : Inflight} {l : LaneOp} (h : laneOf s e.team e.iss e.lane = some (t, i, l)) (c : Nat)
    (bs : List Byte) : ∃ t' i' l', laneOf (laneDone s c e bs) e.team e.iss e.lane = some (t', i', l') ∧ l'.stage = .performed ∧ l'.result = bs ∧
      l'.unadmitted = false := by
  have hmates : ∃ t1 i1 l1, laneOf (admitMates s c e) e.team e.iss e.lane = some (t1, i1, l1) := by
    unfold admitMates
    split
    · exact ⟨t, i, l, h⟩
    · obtain ⟨-, -, hl⟩ := laneOf_some.mp h
      obtain ⟨t1, h1⟩ := laneOf_updIss h (f := fun i => { i with lanes := i.lanes.map fun l => if sharesBillet l e then { l with unadmitted := false } else l })
        (fun _ => rfl) (by rw [findLane_map i e.lane _ fun (l : LaneOp) => by split <;> rfl, hl]; rfl)
      exact ⟨t1, _, _, (laneOf_of_teams (updCore_teams ..) ..).trans h1⟩
  obtain ⟨t1, i1, l1, h1⟩ := hmates
  obtain ⟨t2, h2⟩ := laneOf_updLane h1 e.lane (fun l => { l with stage := .performed, result := bs, unadmitted := false }) fun _ => rfl
  obtain ⟨t3, h3⟩ := laneOf_progress h2 e.team
  rw [if_pos rfl] at h3
  exact ⟨t3, _, _, by rw [laneDone_eq]; exact h3, rfl, rfl, rfl⟩

/-! ## The filter and the store buffer -/

theorem mem_filterAdd (k : Core) (b : Nat) : b ∈ (filterAdd k b).filter := by
  unfold filterAdd
  split
  · next h => simpa using h
  · simp

/-- The reply's filter entry: in the filter where the reply says that the billet is open, else the filter is as before. -/
theorem installFilter_spec (s : State) (c ea : Nat) (opens : Bool) : let t := installFilter s c ea opens
    t.teams = s.teams ∧ t.mem = s.mem ∧ (t.core c).sb = (s.core c).sb ∧ (t.core c).l1 = (s.core c).l1 ∧
      (opens = true → billetOf ea ∈ (t.core c).filter) ∧ (opens = false → (t.core c).filter = (s.core c).filter) := by
  unfold installFilter
  cases opens with
  | false => exact ⟨rfl, rfl, rfl, rfl, fun h => absurd h Bool.false_ne_true, fun _ => rfl⟩
  | true =>
    simp only [if_true, core_updCore, updCore_teams, updCore_mem, true_and]
    have hk : ∀ k : Core, (filterAdd k (billetOf ea)).sb = k.sb ∧ (filterAdd k (billetOf ea)).l1 = k.l1 := fun k => by unfold filterAdd; split <;> exact ⟨rfl, rfl⟩
    exact ⟨(hk _).1, (hk _).2, fun _ => mem_filterAdd .., fun h => absurd h.symm Bool.false_ne_true⟩

theorem dropEntry_ids (s : State) (c id : Nat) : ∀ x ∈ ((dropEntry s c id).core c).sb, x.id ≠ id := by
  intro x hx
  rw [dropEntry, core_updCore, if_pos rfl] at hx
  simpa using (List.mem_filter.mp hx).2

theorem updateCopies_spec (k : Core) (ea : Nat) (bs : List Byte) : (updateCopies k ea bs).sb = k.sb ∧ (updateCopies k ea bs).filter = k.filter := by
  unfold updateCopies
  dsimp only
  split <;> exact ⟨rfl, rfl⟩

/-- Ids that a performed entry's core holds are those it held. -/
theorem SameButSb.no_id {x y : Core} (h : SameButSb x y) {id : Nat} (hx : ∀ e ∈ x.sb, e.id ≠ id) : ∀ e ∈ y.sb, e.id ≠ id := by
  intro e he hid
  have : id ∈ x.sb.map SbEntry.id := h.2 ▸ hid ▸ List.mem_map_of_mem he
  obtain ⟨e', h', hid'⟩ := List.mem_map.mp this
  exact hx e' h' hid'
theorem SameButSb.filter {x y : Core} (h : SameButSb x y) : y.filter = x.filter := by rw [h.1]
theorem SameButSb.l1Line {x y : Core} (h : SameButSb x y) (l : Nat) : y.l1Line l = x.l1Line l := by rw [Core.l1Line, h.1]; rfl

/-! ## Replies for store-buffer entries -/

section
variable {s u : State} {c h : Nat} {e : SbEntry} (hfind : (u.core c).sb.find? (fun x => x.id == e.id) = some e)
include hfind

theorem storeAck_spec {old : List Byte} {opens : Bool} (ht : takeDown s c h = some (.ack e.id old opens, u)) :
    ∃ t, exec (.storeAck c h) s = .next t ∧ t.mem = s.mem ∧ (∀ x ∈ (t.core c).sb, x.id ≠ e.id) ∧ (opens = true → billetOf e.ea ∈ (t.core c).filter) ∧
      (opens = false → (t.core c).filter = (u.core c).filter) ∧
      (∀ tm i l, laneOf u e.team e.iss e.lane = some (tm, i, l) → ∃ tm' i' l', laneOf t e.team e.iss e.lane = some (tm', i', l') ∧
        l'.stage = .performed ∧ l'.result = old ∧ l'.unadmitted = false) := by
  obtain ⟨hteams, hm, hsb, -, hin, hout⟩ := installFilter_spec (dropEntry u c e.id) c e.ea opens
  obtain ⟨v, hv⟩ : ∃ v, v = (installFilter (dropEntry u c e.id) c e.ea opens).updCore c fun k => updateCopies k e.ea (e.newBytes old) := ⟨_, rfl⟩
  have hcore : v.core c = updateCopies ((installFilter (dropEntry u c e.id) c e.ea opens).core c) e.ea (e.newBytes old) := by rw [hv, core_updCore, if_pos rfl]
  obtain ⟨hcs, hcf⟩ := updateCopies_spec ((installFilter (dropEntry u c e.id) c e.ea opens).core c) e.ea (e.newBytes old)
  have hid : ∀ x ∈ (v.core c).sb, x.id ≠ e.id := by rw [hcore, hcs, hsb]; exact dropEntry_ids u c e.id
  obtain ⟨hlm, -, -, hlc⟩ := laneDone_spec v c e old
  refine ⟨laneDone v c e old, ?_, ?_, (hlc c).no_id hid, fun ho => ?_, fun ho => ?_, fun tm i l hl => ?_⟩
  · simp only [exec_storeAck, execStoreAck, ht, hfind, hv]
  · rw [hlm, hv, updCore_mem, hm]
    show u.mem = s.mem
    exact takeDown_mem ht
  · rw [(hlc c).filter, hcore, hcf]; exact hin ho
  · rw [(hlc c).filter, hcore, hcf, hout ho, dropEntry, core_updCore, if_pos rfl]
  · exact laneOf_laneDone ((laneOf_of_teams (by rw [hv, updCore_teams, hteams]; rfl) ..).trans hl) c old

theorem refusal_spec {billet reserve : Nat} {cause : Cause} (ht : takeDown s c h = some (.refuse e.id billet reserve cause, u)) :
    ∃ t, exec (.admissionRefused c h) s = .next t ∧ t.mem = s.mem ∧ (∀ x ∈ (t.core c).sb, x.id ≠ e.id) ∧
      (∀ tm i l, laneOf u e.team e.iss e.lane = some (tm, i, l) → ∃ tm' i' l', laneOf t e.team e.iss e.lane = some (tm', i', l') ∧
        l'.stage = .refused ∧ l'.cause = cause ∧ l'.billet = billet ∧ l'.reserve = reserve) := by
  refine ⟨dropEntry (refuseLane u c e cause billet reserve) c e.id, ?_, ?_, dropEntry_ids _ _ _, fun tm i l hl => ?_⟩
  · simp only [exec_admissionRefused, execAdmissionRefused, ht, hfind]
  · rw [dropEntry, updCore_mem, refuseLane, updCore_mem, (onlyTeams_updIss ..).mem]; exact takeDown_mem ht
  · obtain ⟨-, -, hf⟩ := laneOf_some.mp hl
    have hn := findLane_lane hf
    let unsent := fun (l : LaneOp) => l.stage == .ready || (l.stage == .entered && (u.core c).sb.any fun x => x.id == l.sb && !x.sent)
    obtain ⟨t1, h1⟩ := laneOf_updIss hl (f := fun i => { i with lanes := i.lanes.map fun l =>
        if l.lane == e.lane || (sharesBillet l e && l.unadmitted && unsent l) then { l with stage := .refused, cause := cause, billet := billet, reserve := reserve } else l })
      (fun _ => rfl) (by rw [findLane_map i e.lane _ fun (l : LaneOp) => by split <;> rfl, hf]; rfl)
    refine ⟨t1, _, _, (laneOf_of_teams rfl ..).trans h1, ?_⟩
    simp [hn]

end

/-! ## A grant (R138, R152) -/

/-- The line as a grant leaves it. -/
def grantedLine (x : L1Line) (words : BitVec 32) (chunks : BitVec 8) (data : Cells 8) : L1Line :=
  let y := installChunks x chunks data .tracked
  { y with chunks := y.chunks.mapIdx fun i h => if words &&& chunkWords (setBit 0 i true) = 0 then h else .tracked,
           owned := y.owned ||| words, written := y.written &&& ~~~(words &&& ~~~y.owned) }

theorem grantedLine_owned (x : L1Line) (words : BitVec 32) (chunks : BitVec 8) (data : Cells 8) : (grantedLine x words chunks data).owned = x.owned ||| words := rfl
theorem grantedLine_chunk (x : L1Line) {words : BitVec 32} (chunks : BitVec 8) (data : Cells 8) {j : Nat} (hj : j < x.chunks.length)
    (hw : words &&& chunkWords (setBit 0 j true) ≠ 0) : (grantedLine x words chunks data).chunks[j]? = some .tracked := by
  simp [grantedLine, installChunks, hj]
  exact fun h0 _ => absurd h0 hw

theorem or_ne_zero {w : Nat} {x y : BitVec w} (h : y ≠ 0) : x ||| y ≠ 0 := fun h0 => h (BitVec.or_eq_zero_iff.mp h0).2

theorem l1Line_setL1_owned {k : Core} {line : Nat} {x : L1Line} (h : x.owned ≠ 0) : (k.setL1 line x).l1Line line = x := by
  rw [l1Line_setL1, if_pos rfl, if_neg]
  simp only [L1Line.isEmpty, Bool.and_eq_true, beq_iff_eq]
  exact fun hx => h hx.1

theorem cellsGet_cellsSet {w : Nat} (c : Cells w) (a : Nat) (xs : List (BitVec w)) : cellsGet (cellsSet c a xs) a xs.length = xs := by
  refine List.ext_getElem (by simp [cellsGet]) fun i hi hi' => ?_
  simp [cellsGet, cellGet_sets, hi']

theorem grant_spec {s u : State} {c h : Nat} {e : SbEntry} (hfind : (u.core c).sb.find? (fun x => x.id == e.id) = some e) {line : Nat} {words : BitVec 32}
    {chunks : BitVec 8} {data : Cells 8} {opens : Bool} (hline : line = lineOf e.ea) (hw : words ≠ 0)
    (ht : takeDown s c h = some (.grant e.id line words chunks data opens, u)) :
    ∃ t, exec (.ownershipGrant c h) s = .next t ∧ t.mem = s.mem ∧ (∀ x ∈ (t.core c).sb, x.id ≠ e.id) ∧
      (opens = true → billetOf e.ea ∈ (t.core c).filter) ∧ (opens = false → (t.core c).filter = (u.core c).filter) ∧
      ((t.core c).l1Line line).owned = ((u.core c).l1Line line).owned ||| words ∧
      (∀ j < ((u.core c).l1Line line).chunks.length, words &&& chunkWords (setBit 0 j true) ≠ 0 → ((t.core c).l1Line line).chunks[j]? = some .tracked) ∧
      (e.data ≠ [] → e.ea % 128 + e.data.length ≤ 128 → cellsGet ((t.core c).l1Line line).data (e.ea % 128) e.data.length = e.data) := by
  obtain ⟨x, hx⟩ : ∃ x, x = grantedLine ((u.core c).l1Line line) words chunks data := ⟨_, rfl⟩
  have hxo : x.owned = ((u.core c).l1Line line).owned ||| words := by rw [hx, grantedLine_owned]
  have hne : x.owned ≠ 0 := hxo ▸ or_ne_zero hw
  obtain ⟨v, hv⟩ : ∃ v, v = u.updCore c fun k => k.setL1 line (grantedLine (k.l1Line line) words chunks data) := ⟨_, rfl⟩
  have hvc : v.core c = (u.core c).setL1 line x := by rw [hv, core_updCore, if_pos rfl, hx]
  have hdrop : (dropEntry v c e.id).core c = { v.core c with sb := (v.core c).sb.filter fun x => x.id != e.id } := by rw [dropEntry, core_updCore, if_pos rfl]
  obtain ⟨-, hm, hsb, hl1, hin, hout⟩ := installFilter_spec (dropEntry v c e.id) c e.ea opens
  obtain ⟨w, hwd⟩ : ∃ w, w = installFilter (dropEntry v c e.id) c e.ea opens := ⟨_, rfl⟩
  rw [← hwd] at hm hsb hl1 hin hout
  have hwl : (w.core c).l1Line line = x := by
    rw [Core.l1Line, hl1, hdrop, hvc]
    exact l1Line_setL1_owned hne
  have hwo : (writeOwned w c e).core c = (w.core c).setL1 (lineOf e.ea) { x with data := cellsSet x.data (e.ea % 128) e.data, written := x.written ||| wordsMask (e.ea % 128) e.n } := by
    rw [writeOwned, core_updCore, if_pos rfl, ← hline, hwl]
  obtain ⟨hlm, -, -, hlc⟩ := laneDone_spec (writeOwned w c e) c e []
  have hline' : ((laneDone (writeOwned w c e) c e []).core c).l1Line line =
      { x with data := cellsSet x.data (e.ea % 128) e.data, written := x.written ||| wordsMask (e.ea % 128) e.n } := by
    rw [(hlc c).l1Line, hwo, ← hline]
    exact l1Line_setL1_owned hne
  have hfilter : ((laneDone (writeOwned w c e) c e []).core c).filter = (w.core c).filter := by rw [(hlc c).filter, hwo]; rfl
  refine ⟨laneDone (writeOwned w c e) c e [], ?_, ?_, (hlc c).no_id ?_, fun ho => ?_, fun ho => ?_, ?_, fun j hj hjw => ?_, fun _ _ => ?_⟩
  · have hfv : (v.core c).sb.find? (fun x => x.id == e.id) = some e := by rw [hvc]; exact hfind
    rw [hwd]
    subst hv
    simp only [exec_ownershipGrant, execOwnershipGrant, ht]
    split
    · next hn => exact absurd (hfv.symm.trans hn) (by simp)
    · next e' he =>
      cases Option.some.inj (hfv.symm.trans he)
      rfl
  · rw [hlm, writeOwned, updCore_mem, hm, dropEntry, updCore_mem, hv, updCore_mem]; exact takeDown_mem ht
  · rw [hwo]
    exact hsb ▸ dropEntry_ids v c e.id
  · rw [hfilter]; exact hin ho
  · rw [hfilter, hout ho, hdrop, hvc]; rfl
  · rw [hline', hxo]
  · rw [hline']
    exact hx ▸ grantedLine_chunk _ chunks data hj hjw
  · rw [hline']
    exact cellsGet_cellsSet ..

theorem storeReplies : Part.StoreReplies := fun _ _ _ _ _ hfind =>
  ⟨fun _ _ ht => storeAck_spec hfind ht, fun _ _ _ _ _ hline hw ht => grant_spec hfind hline hw ht, fun _ _ _ ht => refusal_spec hfind ht⟩

/-! ## Load replies (R123, R289) -/

/-- What a fill makes of a chunk it brings: a tracked copy stays tracked, else it is held as the fill says. -/
theorem installChunks_chunk (x : L1Line) {chunks : BitVec 8} (data : Cells 8) (h : Holding) {j : Nat} (hb : bit chunks j = true) (hj : j < x.chunks.length) :
    (installChunks x chunks data h).chunks[j]? = some (if (x.chunks.getD j .empty).isTracked then .tracked else h) := by
  simp [installChunks, hj, hb]

/-- A line with a chunk that is held is kept. -/
theorem l1Line_setL1_held {k : Core} {line j : Nat} {x : L1Line} {h : Holding} (hx : x.chunks[j]? = some h) (hh : h ≠ .empty) : (k.setL1 line x).l1Line line = x := by
  rw [l1Line_setL1, if_pos rfl, if_neg]
  simp only [L1Line.isEmpty, Bool.and_eq_true, List.all_eq_true, beq_iff_eq]
  exact fun hall => hh (hall.2 h (List.mem_of_getElem? hx))

/-- How the chunks of a fill are held: leased until its expiry, or tracked. -/
def heldAs (lease : Option (BitVec 16)) : Holding := match lease with | some x => .leased x | none => .tracked
theorem held_ne (lease : Option (BitVec 16)) {p : Bool} : (if p then .tracked else heldAs lease) ≠ Holding.empty := by
  cases p <;> cases lease <;> simp [heldAs]

theorem fill_spec {s u : State} {c h k iss lane line : Nat} {chunks : BitVec 8} {data : Cells 8} {lease : Option (BitVec 16)}
    (ht : takeDown s c h = some (.fill k iss lane line chunks data lease, u)) : ∃ t, exec (.loadReply c h) s = .next t ∧ t.mem = s.mem ∧
      (∀ j, bit chunks j = true → j < ((u.core c).l1Line line).chunks.length →
        ((t.core c).l1Line line).chunks[j]? = some (if (((u.core c).l1Line line).chunks.getD j .empty).isTracked then .tracked else heldAs lease)) ∧
      (∀ tm i l, laneOf u k iss l.lane = some (tm, i, l) → l ∈ answered i lane → ∃ tm' i' l', laneOf t k iss l.lane = some (tm', i', l') ∧
        l'.stage = .returned ∧ l'.result = l1Bytes (installChunks ((u.core c).l1Line line) chunks data (heldAs lease)) l.ea l.n) := by
  obtain ⟨x, hx⟩ : ∃ x, x = installChunks ((u.core c).l1Line line) chunks data (heldAs lease) := ⟨_, rfl⟩
  have ho := onlyTeams_answerLanes (u.updCore c fun k => k.setL1 line x) k iss lane fun l => { l with stage := .returned, result := l1Bytes x l.ea l.n }
  refine ⟨answerLanes (u.updCore c fun k => k.setL1 line x) k iss lane fun l => { l with stage := .returned, result := l1Bytes x l.ea l.n }, ?_, ?_,
    fun j hb hj => ?_, fun tm i l hl hm => ?_⟩
  · simp only [exec_loadReply, execLoadReply, ht, hx]
    rfl
  · rw [ho.mem, updCore_mem]; exact takeDown_mem ht
  · have hc := installChunks_chunk ((u.core c).l1Line line) data (heldAs lease) hb hj
    rw [ho.core, core_updCore, if_pos rfl, l1Line_setL1_held (hx ▸ hc) (held_ne lease), hx, hc]
  · obtain ⟨t', i', h'⟩ := laneOf_answerLanes (s := u.updCore c fun k => k.setL1 line x) (f := fun l => { l with stage := .returned, result := l1Bytes x l.ea l.n })
      (fun _ => rfl) (fun _ => rfl) hl hm
    exact ⟨t', i', _, h', rfl, by rw [hx]⟩

theorem bytes_spec {s u : State} {c h k iss lane base : Nat} {bs : List Byte} (ht : takeDown s c h = some (.bytes k iss lane base bs, u)) :
    ∃ t, exec (.loadReply c h) s = .next t ∧ t.mem = s.mem ∧ (t.core c).l1 = (u.core c).l1 ∧
      ∀ tm i l, laneOf u k iss l.lane = some (tm, i, l) → l ∈ answered i lane → ∃ tm' i' l', laneOf t k iss l.lane = some (tm', i', l') ∧
        l'.stage = .returned ∧ l'.result = (bs.drop (l.ea - base)).take l.n := by
  have ho := onlyTeams_answerLanes u k iss lane fun l => { l with stage := .returned, result := (bs.drop (l.ea - base)).take l.n }
  refine ⟨answerLanes u k iss lane fun l => { l with stage := .returned, result := (bs.drop (l.ea - base)).take l.n }, ?_, ?_, by rw [ho.core], fun tm i l hl hm => ?_⟩
  · simp only [exec_loadReply, execLoadReply, ht]
  · rw [ho.mem]; exact takeDown_mem ht
  · obtain ⟨t', i', h'⟩ := laneOf_answerLanes (f := fun l => { l with stage := .returned, result := (bs.drop (l.ea - base)).take l.n }) (fun _ => rfl) (fun _ => rfl) hl hm
    exact ⟨t', i', _, h', rfl, rfl⟩

theorem loadReplies : Part.LoadReplies := fun _ _ _ _ _ _ _ => ⟨fun _ _ _ _ ht => fill_spec ht, fun _ _ ht => bytes_spec ht⟩

/-- Settles O23: the replies for store-buffer entries, and those for loads. -/
theorem repliesToCores : Obligations.RepliesToCores := ⟨storeReplies, loadReplies⟩

end Sys2Proof
end

section
/-! PROOFS. Messages between cores and homes (R50, R123 to R125, R134, R137 to R140); O33 is put together here. -/

namespace Sys2Proof

open Machine

/-! ## Messages of a core at a home -/

/-- A message taken from a channel to a home leaves all but the core's channels. -/
theorem takeUp_spec {s u : State} {c ea : Nat} {m : UpMsg} (ht : takeUp s c ea = some (m, u)) : ∃ f : Core → Core, u = s.updCore c f := by
  unfold takeUp at ht
  dsimp only at ht
  split at ht
  · cases ht
  · cases ht
    exact ⟨_, rfl⟩

/-- Words given up: of the words that are left, none is among them. -/
theorem and_andNot_self {w : Nat} (own words : BitVec w) : own &&& ~~~(words &&& own) = own &&& ~~~words := by
  ext j hj
  simp only [BitVec.getElem_and, BitVec.getElem_not]
  cases own[j] <;> cases words[j] <;> rfl

/-- The words that a merge is to write are read at the home afterwards. -/
theorem readMem_mergeAtHome {u : State} (he : u.errors = []) (line : Nat) (w : BitVec 32) (d : Cells 8) {i : Nat} (hi : i < 128) (hb : bit w (i / 4) = true) :
    (mergeAtHome u line w d).readMem (line * 128 + i) 1 = [cellGet d i] := by
  obtain ⟨-, hw, -⟩ := mergeAtHome_spec he line w d
  rw [readMem_one, hw _ (by unfold lineOf; omega) (by rw [show (line * 128 + i) % 128 = i by omega]; exact hb)]
  rw [show (line * 128 + i) % 128 = i by omega]

section
variable {s u : State} {c line : Nat} {words written : BitVec 32} {data : Cells 8} (he : s.errors = [])
include he

theorem release_spec (ht : takeUp s c (line * 128) = some (.release line words written data, u)) (ho : (u.line line).owner = c) :
    ∃ t, exec (.release c line) s = .next t ∧ (t.line line).wmask = (u.line line).wmask &&& ~~~words ∧
      MemoryKept s t (fun a => (lineOf a = line ∧ bit (written &&& (u.line line).wmask) (a % 128 / 4) = true) ∨ Unfilled s line a) ∧
      ∀ i < 128, bit (written &&& (u.line line).wmask) (i / 4) = true → t.readMem (line * 128 + i) 1 = [cellGet data i] := by
  obtain ⟨f, hu⟩ := takeUp_spec ht
  have hue : u.errors = [] := by rw [hu]; exact he
  obtain ⟨hk, -, hkept⟩ := mergeAtHome_spec hue line (written &&& (u.line line).wmask) data
  refine ⟨_, by rw [exec_release]; simp only [execRelease, ht, ne_eq, not_true_eq_false, if_false, ho, if_true]; rfl, ?_, fun a ha => ?_, fun i hi hb => ?_⟩
  · rw [line_updLine, if_pos rfl]
    dsimp only
    rw [hk.wmask, and_andNot_self]
  · rw [not_or] at ha
    rw [readMem_one, readMem_one, updLine_mem, hkept a ha.1 (by rw [hu]; exact ha.2), hu, updCore_mem]
  · exact readMem_mergeAtHome hue line _ data hi hb

theorem recallReply_spec (ht : takeUp s c (line * 128) = some (.recallReply line words written data, u)) (ho : (u.line line).owner = c) :
    ∃ t, exec (.recallReply c line) s = .next t ∧ (t.line line).wmask = (u.line line).wmask &&& ~~~words ∧ c ∉ (t.line line).recallPend ∧
      ∀ i < 128, bit (written &&& (u.line line).wmask) (i / 4) = true → t.readMem (line * 128 + i) 1 = [cellGet data i] := by
  obtain ⟨f, hu⟩ := takeUp_spec ht
  have hue : u.errors = [] := by rw [hu]; exact he
  obtain ⟨hk, -, -⟩ := mergeAtHome_spec hue line (written &&& (u.line line).wmask) data
  have hshare : ∀ l : Line, (if l.recallForWrite then l else l.share c).recallPend = l.recallPend := fun l => by split <;> rfl
  refine ⟨_, by rw [exec_recallReply]; simp only [execRecallReply, ht, ne_eq, not_true_eq_false, if_false, ho, if_true]; rfl, ?_, ?_, fun i hi hb => ?_⟩
  · rw [line_updLine, if_pos rfl]
    dsimp only
    rw [hk.wmask, and_andNot_self]
  · rw [line_updLine, if_pos rfl]
    dsimp only
    rw [hshare]
    simp
  · exact readMem_mergeAtHome hue line _ data hi hb

end

theorem evict_spec {s u : State} {c line : Nat} (ht : takeUp s c (line * 128) = some (.evict line, u)) :
    ∃ t, exec (.evictionNotice c line) s = .next t ∧ t.mem = s.mem ∧ (t.line line).sharers.names c = false := by
  obtain ⟨f, hu⟩ := takeUp_spec ht
  refine ⟨u.updLine line fun l => { l with sharers := l.sharers.remove c }, by simp [execEvictionNotice, ht], by rw [hu]; rfl, ?_⟩
  rw [line_updLine, if_pos rfl]
  cases h : (u.line line).sharers with
  | ptrs l => simp [Sharers.remove, Sharers.names]
  | coarse b => simp [Sharers.remove, Sharers.names]

theorem invAck_spec {s u : State} {c line : Nat} (ht : takeUp s c (line * 128) = some (.invAck line, u)) :
    ∃ t, exec (.invalidationAck c line) s = .next t ∧ t.mem = s.mem ∧ (t.line line).invPend = (u.line line).invPend.filter (· != c) := by
  obtain ⟨f, hu⟩ := takeUp_spec ht
  exact ⟨u.updLine line fun l => { l with invPend := l.invPend.filter (· != c) }, by simp [execInvalidationAck, ht], by rw [hu]; rfl, by rw [line_updLine, if_pos rfl]⟩

theorem killAck_spec {s u : State} {c p : Nat} (ht : takeUp s c (p * 65536) = some (.killAck p, u)) :
    ∃ t, exec (.leaseKillAck c p) s = .next t ∧ t.mem = s.mem ∧ ∀ cs, mapGet? u.kills p = some cs → mapGet? t.kills p = some (cs.filter (· != c)) := by
  obtain ⟨f, hu⟩ := takeUp_spec ht
  refine ⟨_, by rw [exec_leaseKillAck]; simp only [execLeaseKillAck, ht, ne_eq, not_true_eq_false, if_false]; rfl, by rw [hu]; rfl, fun cs hcs => ?_⟩
  simp only [hcs, mapGet_set, if_true]

theorem closeAck_spec {s u : State} {c b : Nat} (ht : takeUp s c (b * 256) = some (.closeAck b, u)) :
    ∃ t, exec (.closeAck c b) s = .next t ∧ t.mem = s.mem ∧ (t.billet b).closePend = (u.billet b).closePend.filter (· != c) := by
  obtain ⟨f, hu⟩ := takeUp_spec ht
  exact ⟨u.updBillet b fun d => { d with closePend := d.closePend.filter (· != c) }, by simp [execCloseAck, ht], by rw [hu]; rfl, by rw [billet_updBillet, if_pos rfl]⟩

theorem homeMessages : Part.HomeMessages := fun _ _ _ _ he =>
  ⟨fun _ _ _ ht ho => release_spec he ht ho, fun _ _ _ ht ho => recallReply_spec he ht ho, evict_spec, invAck_spec, fun _ ht => killAck_spec ht, fun _ ht => closeAck_spec ht⟩

/-! ## Messages of a home at a core -/

/-- What a core owes the homes once more. -/
theorem mem_owed (xs : List Nat) (x : Nat) : x ∈ (if xs.contains x then xs else xs ++ [x]) := by
  split
  · next h => simpa using h
  · simp

theorem held_dropTracked (x : L1Line) : x.dropTracked.held = false := by
  simp only [L1Line.held, L1Line.dropTracked, List.any_map, List.any_eq_false, Function.comp_apply, Bool.not_eq_true]
  intro h _
  cases h <;> rfl

theorem held_setL1 (k : Core) (line : Nat) {x : L1Line} (h : x.held = false) : ((k.setL1 line x).l1Line line).held = false := by
  rw [l1Line_setL1, if_pos rfl]
  split
  · decide
  · exact h

theorem invalidation_spec {s u : State} {c h line : Nat} (ht : takeDown s c h = some (.inv line, u)) : ∃ t, exec (.invalidation c h) s = .next t ∧ t.mem = s.mem ∧
    ((t.core c).l1Line line).held = false ∧ line ∈ (t.core c).owedInv ∧ ∀ e ∈ (t.core c).tlb, line ∉ e.lines := by
  refine ⟨u.updCore c fun k => { k.invalidate line with owedInv := if k.owedInv.contains line then k.owedInv else k.owedInv ++ [line] },
    by simp only [exec_invalidation, execInvalidation, ht], (updCore_mem ..).trans (takeDown_mem ht), ?_, ?_, fun e he => ?_⟩
  · rw [core_updCore, if_pos rfl]
    exact held_setL1 (u.core c) line (held_dropTracked _)
  · rw [core_updCore, if_pos rfl]
    exact mem_owed ..
  · rw [core_updCore, if_pos rfl] at he
    simpa using (List.mem_filter.mp he).2

theorem owned_recalled (x : L1Line) (w : BitVec 32) (forWrite : Bool) : (x.recalled w forWrite).owned = x.owned &&& ~~~w := by
  unfold L1Line.recalled
  dsimp only
  split <;> rfl

theorem recall_spec {s u : State} {c h line : Nat} {words : BitVec 32} {forWrite : Bool} (he : s.errors = [])
    (ht : takeDown s c h = some (.recall line words forWrite, u)) : ∃ t, exec (.recall c h) s = .next t ∧ t.mem = s.mem ∧
      ((t.core c).l1Line line).owned &&& words = 0 ∧ let x := (u.core c).l1Line line
        Sends t c (line * 128) (.recallReply line (x.owned &&& words) (x.written &&& (x.owned &&& words)) x.data) := by
  have hr : l1ReadOwned u c line words = u := l1ReadOwned_none ((takeDown_errors ht).trans he) ..
  obtain ⟨x, hx⟩ : ∃ x, x = (u.core c).l1Line line := ⟨_, rfl⟩
  obtain ⟨v, hv⟩ : ∃ v, v = sendUp u c (line * 128) (.recallReply line (x.owned &&& words) (x.written &&& (x.owned &&& words)) x.data) := ⟨_, rfl⟩
  refine ⟨v.updCore c fun k => k.setL1 line (x.recalled (x.owned &&& words) forWrite), ?_, ?_, ?_, ?_⟩
  · simp only [exec_recall, execRecall, ht, hr, ← hx, ← hv]
  · rw [hv]; exact Eq.trans (b := u.mem) rfl (takeDown_mem ht)
  · rw [core_updCore, if_pos rfl, l1Line_setL1, if_pos rfl]
    split
    · exact BitVec.zero_and
    · rw [owned_recalled]; exact and_andNot_and ..
  · rw [← hx]
    refine ⟨((mapGet? (u.core c).up (u.slice (line * 128))).getD []), ?_⟩
    rw [core_updCore, if_pos rfl, hv]
    exact sendUp_up ..

/-- A core's leased chunks in a page end. -/
def endLeases (p : Nat) (c : Core) : Core := { c with l1 := (c.l1.map fun (k, x) => (k, if pageOfLine k == p then x.dropLeased else x)).filter fun (_, x) => !x.isEmpty }

theorem endLeases_none (p : Nat) (k : Core) : ∀ q ∈ (endLeases p k).l1, pageOfLine q.1 = p → ∀ x ∈ q.2.chunks, x.isLeased = false := by
  intro q hq hp x hx
  obtain ⟨q', -, rfl⟩ := List.mem_map.mp (List.mem_filter.mp hq).1
  have hp' : (pageOfLine q'.1 == p) = true := beq_iff_eq.mpr hp
  simp only [hp', if_true, L1Line.dropLeased] at hx
  obtain ⟨y, -, rfl⟩ := List.mem_map.mp hx
  cases y <;> rfl

theorem kill_spec {s u : State} {c p : Nat} (ht : takeDown s c (s.slice (p * 65536)) = some (.kill p, u)) : ∃ t, exec (.leaseKill c p) s = .next t ∧ t.mem = s.mem ∧
    (∀ q ∈ (t.core c).l1, pageOfLine q.1 = p → ∀ x ∈ q.2.chunks, x.isLeased = false) ∧ Sends t c (p * 65536) (.killAck p) := by
  obtain ⟨v, hv⟩ : ∃ v, v = u.updCore c (endLeases p) := ⟨_, rfl⟩
  have hl1 : ((sendUp v c (p * 65536) (.killAck p)).core c).l1 = (endLeases p (u.core c)).l1 := by rw [sendUp, core_updCore, if_pos rfl, hv, core_updCore, if_pos rfl]
  refine ⟨sendUp v c (p * 65536) (.killAck p), ?_, ?_, ?_, ⟨_, sendUp_up v c (p * 65536) (.killAck p)⟩⟩
  · simp only [exec_leaseKill, execLeaseKill, ht, ne_eq, not_true_eq_false, if_false, hv]
    rfl
  · rw [hv]; exact Eq.trans (b := u.mem) rfl (takeDown_mem ht)
  · rw [hl1]; exact endLeases_none p (u.core c)

theorem close_spec {s u : State} {c h b : Nat} (ht : takeDown s c h = some (.close b, u)) : ∃ t, exec (.closeMessage c h) s = .next t ∧ t.mem = s.mem ∧
    b ∉ (t.core c).filter ∧ b ∈ (t.core c).owedClose := by
  refine ⟨u.updCore c fun k => { k with filter := k.filter.filter (· != b), owedClose := if k.owedClose.contains b then k.owedClose else k.owedClose ++ [b] },
    by simp only [exec_closeMessage, execCloseMessage, ht], (updCore_mem ..).trans (takeDown_mem ht), ?_, ?_⟩
  · rw [core_updCore, if_pos rfl]
    simp
  · rw [core_updCore, if_pos rfl]
    exact mem_owed ..

theorem coreMessages : Part.CoreMessages := fun _ _ _ _ he =>
  ⟨fun _ ht => invalidation_spec ht, fun _ _ _ ht => recall_spec he ht, fun _ ht => kill_spec ht, fun _ ht => close_spec ht⟩

/-- Settles O33: each message is the head of its channel, and what it does follows from the merge at the home or from the core's L1. -/
theorem messages : Obligations.Messages := ⟨homeMessages, coreMessages⟩

end Sys2Proof
end

section
/-! PROOFS. Writes, atomics and ownership at a home, and what atomics compute (R50, R124, R150, R298); O31 is put together here. -/

namespace Sys2Proof

open Machine

/-! ## A store-class request that nothing keeps from performing -/

/-- The request has begun and left its queue. -/
def begun (s : State) (r : HomeReq) : State := dropReq (startReq (shareGrant s r) r) r

/-- A line that is owned and shared by none: a store begins without messages (R124, R137). -/
theorem startReq_quiet {u : State} {r : HomeReq} (hw : (u.line r.line).wmask = 0) (hs : (u.line r.line).sharers = .ptrs []) (hk : r.kind.isStore = true) :
    startReq u r = u.updLine r.line fun l => { l with started := true, invPend := [], sharers := .ptrs [] } := by
  have hrecall : (recallFor r (u.line r.line)).1 = 0 := by
    unfold recallFor
    split
    · rfl
    · split <;> simp [hw]
  obtain ⟨⟨words, forWrite⟩, hr⟩ : ∃ p, recallFor r (u.line r.line) = p := ⟨_, rfl⟩
  rw [hr] at hrecall
  obtain rfl : words = 0 := hrecall
  simp [startReq, hr, hk, hs, State.sharerCores, Sharers.names, Sharers.records]

section
variable {s : State} {r : HomeReq} (h : AtHome s r) (hk : r.kind.isStore = true)
include h hk

theorem startReq_atHome : startReq (shareGrant s r) r =
    (shareGrant s r).updLine r.line fun l => { l with started := true, invPend := [], sharers := .ptrs [] } := by
  have ho := onlyTeams_shareOutcome s r fun l => { l with granted := true }
  exact startReq_quiet ((congrArg Line.wmask (ho.line _)).trans h.unowned) ((congrArg Line.sharers (ho.line _)).trans h.unshared) hk

theorem serve_atHome : serve s r = some (performReq (startReq (shareGrant s r) r) r) := by
  have ho := onlyTeams_shareOutcome s r fun l => { l with granted := true }
  obtain ⟨hinv, hrec, hst⟩ := h.calm
  have hbusy : (s.line r.line).busy = false := by simp [Line.busy, hinv, hrec]
  have hbusy' : ((startReq (shareGrant s r) r).line r.line).busy = false := by
    rw [startReq_atHome h hk, line_updLine, if_pos rfl, Line.busy, shareGrant, ho.line]
    simp [hrec]
  have hgrant : grantHeld s r.ea true = true := hk ▸ h.granted
  have hpoison : poisonedAtom s r = false := by unfold poisonedAtom; split <;> simp [h.sound]
  simp [serve, hst, h.still, hbusy, hbusy', leaseBarred, h.unkilled, h.room, h.errors, h.undoomed, grantRefused, h.own, hk, hpoison, h.admitted, hgrant]

theorem homeStep_atHome {p : ReqKind → Bool} (hp : p r.kind = true) : homeStep s r.core r.line p = .next (performReq (startReq (shareGrant s r) r) r) := by
  have hnext : nextReq s r.line = some r := by simp [nextReq, h.queue, h.billet]
  simp [homeStep, hnext, h.core, hp, serve_atHome h hk]

/-- What the home holds of the line once the request has begun: it waits no more, and all that a fill looks at is as before. -/
theorem begun_spec : FillSame s (begun s r) ∧ ((begun s r).line r.line).queue = [] ∧ ((begun s r).line r.line).wmask = 0 ∧
    ((begun s r).line r.line).sharers = .ptrs [] := by
  have ho := onlyTeams_shareOutcome s r fun l => { l with granted := true }
  have hl : (shareGrant s r).line r.line = s.line r.line := ho.line _
  have hline : (begun s r).line r.line =
      { s.line r.line with queue := removeFirst (· == r) (s.line r.line).queue, started := false, admitted := false, invPend := [], sharers := .ptrs [] } := by
    rw [begun, dropReq, startReq_atHome h hk, line_updLine, if_pos rfl, line_updLine, if_pos rfl, hl]
  refine ⟨?_, by rw [hline, h.queue]; simp [removeFirst], by rw [hline]; exact h.unowned, by rw [hline]⟩
  rw [begun, dropReq, startReq_atHome h hk]
  refine ((FillSame.of_onlyTeams ho).trans (.updLine ?_ ?_)).trans (.updLine ?_ ?_)
  all_goals exact fun _ => rfl

end

/-! ## A fill that finds no poison -/

/-- Without errors waiting and without poison, a fill brings chunks alone. -/
theorem l2Fill_sound {s : State} (he : s.errors = []) {line : Nat} {ch : BitVec 8} (hp : (l2Fill s line ch).isPoisoned line = false) :
    (l2Fill s line ch).errors = [] ∧ ∀ l j, bit (s.line l).valid j = true → bit ((l2Fill s line ch).line l).valid j = true := by
  have hf := fillsTo_l2Fill he line ch
  generalize l2Fill s line ch = t at hf hp
  have hff : ∀ {x : BitVec 8} {j : Nat}, bit x j = true → bit (0xFF : BitVec 8) j = true := fun {x j} hb => by
    have hj : j < 8 := BitVec.lt_of_getLsbD hb
    interval_cases j <;> rfl
  have hupd : ∀ {u : State} {k : Nat} {f : Line → Line}, (∀ l, u.line l = s.line l) → (∀ x j, bit x.valid j = true → bit (f x).valid j = true) →
      ∀ l j, bit (s.line l).valid j = true → bit ((u.updLine k f).line l).valid j = true := fun hu hf l j hb => by
    rw [line_updLine]
    split
    · next hl => exact hf _ _ (by rw [hu, ← hl]; exact hb)
    · rw [hu]; exact hb
  cases hf with
  | valid => exact ⟨he, hupd (fun _ => rfl) fun _ _ hb => hb⟩
  | peer => exact ⟨he, hupd (fun _ => rfl) fun _ _ hb => hff hb⟩
  | poison u v => rw [isPoisoned_installPoisoned] at hp; cases hp
  | raw u bs _ _ _ _ hu =>
    have hput : ∀ c, putChunks u line c bs = { u with mem := (putChunks u line c bs).mem } := fun c => putChunks_mem (s := u) rfl line c bs
    refine ⟨?_, hupd (fun l => ?_) fun x j hb => ?_⟩
    · rw [updLine_errors, hput, hu]; exact he
    · rw [hput, hu]; rfl
    · simp only [bit, BitVec.getLsbD_or, Bool.or_eq_true] at hb ⊢
      exact .inl hb
  | whole u bs _ _ _ _ hu =>
    have hfill : fillBytes u (billetOfLine line) bs = { u with mem := (fillBytes u (billetOfLine line) bs).mem } := fillBytes_mem ..
    refine ⟨?_, fun l j hb => ?_⟩
    · rw [installBoth, updLine_errors, updLine_errors, hfill, hu]; exact he
    · have h1 := hupd (u := fillBytes u (billetOfLine line) bs) (k := 2 * billetOfLine line) (f := fun l => { l with present := true, valid := 0xFF })
        (fun l => by rw [hfill, hu]; rfl) (fun _ _ hb => hff hb) l j hb
      rw [installBoth, line_updLine]
      split
      · exact hff hb
      · exact h1

/-! ## The reply (R50) -/

/-- A reply that may fill the core's filter goes: the billet's holders, and the channel, alone are changed. -/
theorem replied_spec (v : State) (r : HomeReq) (m : DownMsg) : let t := sendDown (addHolder v r) r.core r.ea m
    t.mem = v.mem ∧ (∀ l, t.line l = v.line l) ∧ Replies t r.core r.ea m := by
  refine ⟨?_, fun l => ?_, replies_sendDown ..⟩ <;>
  · unfold addHolder
    split <;> rfl

theorem opensFilter_kept {s v : State} {r : HomeReq} (h : AtHome s r) (ho : (v.billet (billetOfLine r.line)).opened = (s.billet (billetOfLine r.line)).opened)
    (hc : (v.billet (billetOfLine r.line)).closing = (s.billet (billetOfLine r.line)).closing) :
    opensFilter v r = (s.billet (billetOfLine r.line)).opened := by
  simp [opensFilter, h.own, ho, hc, h.billet]

/-- Bytes written over what a fill has left. -/
theorem memoryKept_write {s t v : State} {line ea n : Nat} {bs : List Byte} (hm : t.mem = cellsSet v.mem ea bs) (hn : bs.length = n)
    (hv : ∀ a, ¬ Unfilled s line a → cellGet v.mem a = cellGet s.mem a) : MemoryKept s t (fun a => (ea ≤ a ∧ a < ea + n) ∨ Unfilled s line a) := by
  intro a ha
  rw [not_or] at ha
  rw [readMem_one, readMem_one, hm, cellGet_sets, if_neg (by rw [hn]; exact ha.1), hv a ha.2]

theorem length_atomResult (op ty : Nat) (old data : List Byte) : (atomResult op ty old data).length = old.length := by simp [atomResult, leBytes]

theorem length_readMem (s : State) (a n : Nat) : (s.readMem a n).length = n := by simp [State.readMem, cellsGet]

theorem oldAt_sound {s : State} {ea : Nat} (n : Nat) (h : s.isPoisoned (lineOf ea) = false) : oldAt s ea n = (s.readMem ea n, s) := by simp [oldAt, h]

/-! ## The three kinds -/

section
variable {s : State} {r : HomeReq} (h : AtHome s r)
include h

theorem write_spec (hk : r.kind = .write) : ∃ t, exec (.homeWrite r.core r.line) s = .next t ∧ t.readMem r.ea r.data.length = r.data ∧
    MemoryKept s t (fun a => (r.ea ≤ a ∧ a < r.ea + r.data.length) ∨ Unfilled s r.line a) ∧ (t.line r.line).queue = [] ∧
    Replies t r.core r.ea (.ack r.sb [] (s.billet (billetOfLine r.line)).opened) := by
  have hs : r.kind.isStore = true := by rw [hk]; rfl
  obtain ⟨hb, hq, -, -⟩ := begun_spec h hs
  have he : (begun s r).errors = [] := hb.errors.trans h.errors
  have hm := mem_performWrite (begun s r) r.ea r.data
  rw [h.line, mem_l2Fill he, hb.fillMem] at hm
  obtain ⟨htm, htl, htr⟩ := replied_spec (performWrite (begun s r) r.ea r.data) r (.ack r.sb [] (opensFilter (begun s r) r))
  rw [opensFilter_kept h (by rw [hb.billet]) (by rw [hb.billet])] at htm htl htr
  refine ⟨sendDown (addHolder (performWrite (begun s r) r.ea r.data) r) r.core r.ea (.ack r.sb [] (s.billet (billetOfLine r.line)).opened), ?_, ?_, ?_, ?_, htr⟩
  · rw [exec_homeWrite, execHomeWrite, homeStep_atHome h hs (by rw [hk]; rfl), performReq, hk]
    simp only
    rw [← begun, opensFilter_kept h (by rw [hb.billet]) (by rw [hb.billet])]
  · exact readMem_cellsSet (htm.trans hm)
  · exact memoryKept_write (v := { s with mem := fillMem s r.line (partChunks r.ea r.data) }) (htm.trans hm) rfl fun a ha => fillMem_kept ha
  · rw [htl, (homeKept_performWrite he r.ea r.data).queue, hq]

/-- What the fill for a request that has begun leaves. -/
theorem filled_spec (hs : r.kind.isStore = true) (ch : BitVec 8) : let v := l2Fill (begun s r) r.line ch
    v.mem = (l2Fill s r.line ch).mem ∧ v.isPoisoned r.line = false ∧ v.errors = [] ∧ HomeKept (begun s r) v ∧
      ∀ a, ¬ Unfilled s r.line a → ¬ Unfilled v r.line a := by
  obtain ⟨hb, -⟩ := begun_spec h hs
  have he : (begun s r).errors = [] := hb.errors.trans h.errors
  have hp : (l2Fill (begun s r) r.line ch).isPoisoned r.line = false := by
    rw [isPoisoned_l2Fill he, hb.isPoisoned, hb.fillPoisons, ← isPoisoned_l2Fill h.errors]
    exact h.fills ch
  obtain ⟨hve, hvv⟩ := l2Fill_sound he hp
  refine ⟨by rw [mem_l2Fill he, hb.fillMem, mem_l2Fill h.errors], hp, hve, homeKept_l2Fill he .., fun a hn hu => hn ⟨hu.1, ?_⟩⟩
  rw [← hb.valid]
  exact Bool.eq_false_iff.mpr fun ht => Bool.false_ne_true (hu.2.symm.trans (hvv _ _ ht))

theorem atomic_spec {op ty : Nat} {ret : Bool} (hk : r.kind = .atom op ty ret) : let old := (l2Fill s r.line (chunksOf (r.ea % 128) r.n)).readMem r.ea r.n
    ∃ t, exec (.homeAtomic r.core r.line) s = .next t ∧ t.readMem r.ea r.n = atomResult op ty old r.data ∧
      MemoryKept s t (fun a => (r.ea ≤ a ∧ a < r.ea + r.n) ∨ Unfilled s r.line a) ∧ (t.line r.line).queue = [] ∧
      Replies t r.core r.ea (.ack r.sb old (s.billet (billetOfLine r.line)).opened) := by
  intro old
  have hs : r.kind.isStore = true := by rw [hk]; rfl
  obtain ⟨hb, hq, -, -⟩ := begun_spec h hs
  obtain ⟨hvm, hvp, hve, hvk, hvu⟩ := filled_spec h hs (chunksOf (r.ea % 128) r.n)
  obtain ⟨v, hv⟩ : ∃ v, v = l2Fill (begun s r) r.line (chunksOf (r.ea % 128) r.n) := ⟨_, rfl⟩
  rw [← hv] at hvm hvp hve hvk hvu
  have hold : oldAt v r.ea r.n = (old, v) := by rw [oldAt_sound _ (h.line ▸ hvp), State.readMem, hvm]; rfl
  have hlen : (atomResult op ty old r.data).length = r.n := (length_atomResult ..).trans (length_readMem ..)
  have hopen : opensFilter v r = (s.billet (billetOfLine r.line)).opened :=
    opensFilter_kept h ((hvk.opened _).trans (by rw [hb.billet])) ((hvk.closing _).trans (by rw [hb.billet]))
  have hm := mem_performWrite v r.ea (atomResult op ty old r.data)
  rw [h.line, mem_l2Fill hve] at hm
  obtain ⟨htm, htl, htr⟩ := replied_spec (performWrite v r.ea (atomResult op ty old r.data)) r (.ack r.sb old (s.billet (billetOfLine r.line)).opened)
  refine ⟨_, ?_, ?_, memoryKept_write (v := { v with mem := fillMem v r.line (partChunks r.ea (atomResult op ty old r.data)) }) (htm.trans hm) hlen fun a ha => ?_, ?_, htr⟩
  · rw [exec_homeAtomic, execHomeAtomic, homeStep_atHome h hs (by rw [hk]; rfl), performReq, hk]
    rw [← begun]
    simp only [← hv]
    rw [hvp, hold, Bool.and_false, if_neg Bool.false_ne_true]
    simp only
    rw [hopen]
  · rw [← hlen]
    exact readMem_cellsSet (htm.trans hm)
  · exact (fillMem_kept (hvu a ha)).trans (by rw [hvm, mem_l2Fill h.errors, fillMem_kept ha])
  · rw [htl, (homeKept_performWrite hve ..).queue, hvk.queue, hq]

/-- The words are granted: the core owns them and is the line's one sharer (R124). -/
def ownedBy (c : Nat) (words : BitVec 32) (l : Line) : Line := { l with wmask := words ||| (if l.owner = c then l.wmask else 0), owner := c, sharers := .ptrs [c] }

theorem ownership_spec {words : BitVec 32} (hk : r.kind = .own words) : let chunks : BitVec 8 := maskOf ((bitsOf words).map (· / 4))
    let v := l2Fill s r.line chunks
    ∃ t, exec (.ownershipRequest r.core r.line) s = .next t ∧ t.mem = v.mem ∧ (t.line r.line).queue = [] ∧
      (t.line r.line).wmask = words ∧ (t.line r.line).owner = r.core ∧ (t.line r.line).sharers = .ptrs [r.core] ∧
      Replies t r.core r.ea (.grant r.sb r.line words chunks (cellsSet ([] : Cells 8) 0 (v.readMem (r.line * 128) 128)) (s.billet (billetOfLine r.line)).opened) := by
  intro chunks v0
  have hs : r.kind.isStore = true := by rw [hk]; rfl
  obtain ⟨hb, hq, hw, hsh⟩ := begun_spec h hs
  obtain ⟨hvm, hvp, hve, hvk, -⟩ := filled_spec h hs chunks
  obtain ⟨v, hv⟩ : ∃ v, v = l2Fill (begun s r) r.line chunks := ⟨_, rfl⟩
  rw [← hv] at hvm hvp hve hvk
  have hline : lineOf (r.line * 128) = r.line := by unfold lineOf; omega
  have hold : oldAt v (r.line * 128) 128 = (v0.readMem (r.line * 128) 128, v) := by rw [oldAt_sound _ (hline.symm ▸ hvp), State.readMem, hvm]; rfl
  obtain ⟨w, hwd⟩ : ∃ w, w = touchPage (pageWritten (v.updLine r.line (ownedBy r.core words)) (pageOf r.ea)) (pageOf r.ea) := ⟨_, rfl⟩
  have hkw : HomeKept (v.updLine r.line (ownedBy r.core words)) w := by rw [hwd]; exact (homeKept_pageWritten ..).trans (homeKept_touchPage ..)
  have hwm : w.mem = v.mem := by rw [hwd, mem_touchPage, mem_pageWritten, updLine_mem]
  have hopen : opensFilter w r = (s.billet (billetOfLine r.line)).opened :=
    opensFilter_kept h ((hkw.opened _).trans ((hvk.opened _).trans (by rw [hb.billet]))) ((hkw.closing _).trans ((hvk.closing _).trans (by rw [hb.billet])))
  obtain ⟨htm, htl, htr⟩ := replied_spec w r (.grant r.sb r.line words chunks (cellsSet ([] : Cells 8) 0 (v0.readMem (r.line * 128) 128)) (s.billet (billetOfLine r.line)).opened)
  refine ⟨_, ?_, htm.trans (hwm.trans hvm), ?_, ?_, ?_, ?_, htr⟩
  · rw [exec_ownershipRequest, execOwnershipRequest, homeStep_atHome h hs (by rw [hk]; rfl), performReq, hk]
    simp only
    rw [← begun, hsh, ← hv, hold]
    simp only [Sharers.names, List.contains_nil, Bool.false_eq_true, if_false, h.own]
    rw [← hopen, hwd]
    rfl
  · rw [htl, hkw.queue, line_updLine, if_pos rfl]
    exact (hvk.queue _).trans hq
  · rw [htl, hkw.wmask, line_updLine, if_pos rfl, ownedBy]
    simp [(hvk.wmask _).trans hw]
  · rw [htl, hkw.owner, line_updLine, if_pos rfl, ownedBy]
  · rw [htl, hkw.sharers, line_updLine, if_pos rfl, ownedBy]

end

theorem homeStores : Part.HomeStores := fun _ _ h => ⟨write_spec h, fun _ _ _ hk => atomic_spec h hk, fun _ hk _ => ownership_spec h hk⟩

/-! ## What atomics compute (R298) -/

theorem leNat_word (w : Word) : leNat (leBytes 4 w.toNat) = w.toNat := by rw [leNat_leBytes, Nat.mod_eq_of_lt w.isLt]

theorem ofNat_leBytes (v : Nat) : BitVec.ofNat 32 (leNat (leBytes 4 v)) = BitVec.ofNat 32 v := by
  rw [leNat_leBytes]
  exact BitVec.eq_of_toNat_eq (by simp)

theorem ofNat_word (w : Word) : BitVec.ofNat 32 w.toNat = w := by rw [BitVec.ofNat_toNat, BitVec.setWidth_eq]

/-- A 32-bit operand read as signed. -/
theorem sext_word (w : Word) : sext 32 w.toNat = w.toInt := by
  have h := w.isLt
  rw [sext, BitVec.toInt_eq_toNat_cond, Nat.mod_eq_of_lt h]
  split <;> split <;> omega

/-- One of two words is chosen. -/
theorem ofNat_choice {p q : Prop} [Decidable p] [Decidable q] (h : p ↔ q) (y z : Word) : BitVec.ofNat 32 (if p then y.toNat else z.toNat) = if q then y else z := by
  by_cases hp : p
  · rw [if_pos hp, if_pos (h.mp hp), ofNat_word]
  · rw [if_neg hp, if_neg fun hq => hp (h.mpr hq), ofNat_word]

theorem atomicResults : Part.AtomicResults := by
  intro old a x
  have ht : (leBytes 4 a.toNat ++ leBytes 4 x.toNat).take 4 = leBytes 4 a.toNat := List.take_left' (length_leBytes ..)
  have hd : (leBytes 4 a.toNat ++ leBytes 4 x.toNat).drop 4 = leBytes 4 x.toNat := List.drop_left' (length_leBytes ..)
  have hsigned : tySigned 0 = true ∧ tySigned 1 = false := ⟨rfl, rfl⟩
  have hslt : ∀ y z : Word, sext (8 * 4) y.toNat < sext (8 * 4) z.toNat ↔ y.slt z = true := fun y z => by
    rw [sext_word, sext_word, BitVec.slt_iff_toInt_lt]
  have hult : ∀ y z : Word, y.toNat < z.toNat ↔ y.ult z = true := fun y z => by rw [BitVec.ult_iff_lt, BitVec.lt_def]
  simp only [atomResult, length_leBytes, ht, hd, leNat_word, ofNat_leBytes, hsigned, if_true, Nat.reduceBEq, Bool.false_eq_true, if_false, Int.ofNat_lt]
  refine ⟨?_, ofNat_choice (hslt a old) a old, ofNat_choice (hult a old) a old, ofNat_choice (hslt old a) a old, ofNat_choice (hult old a) a old, ?_, ?_, ?_,
    ofNat_word a, ofNat_choice BitVec.toNat_inj x old, ?_, ?_⟩
  · exact BitVec.eq_of_toNat_eq (by simp)
  · exact BitVec.eq_of_toNat_eq (by rw [BitVec.toNat_ofNat, ← BitVec.toNat_and, Nat.mod_eq_of_lt (BitVec.isLt _)])
  · exact BitVec.eq_of_toNat_eq (by rw [BitVec.toNat_ofNat, ← BitVec.toNat_or, Nat.mod_eq_of_lt (BitVec.isLt _)])
  · exact BitVec.eq_of_toNat_eq (by rw [BitVec.toNat_ofNat, ← BitVec.toNat_xor, Nat.mod_eq_of_lt (BitVec.isLt _)])
  · by_cases h : a.toNat ≤ old.toNat
    · rw [if_pos h, if_pos (by rw [BitVec.ule_iff_le, BitVec.le_def]; exact h)]
      rfl
    · rw [if_neg h, if_neg (by rw [BitVec.ule_iff_le, BitVec.le_def]; exact h)]
      exact BitVec.eq_of_toNat_eq (by simp)
  · have hc : (decide (old.toNat = 0) || decide (a.toNat < old.toNat)) = true ↔ old = 0 ∨ a.ult old = true := by
      rw [Bool.or_eq_true, decide_eq_true_iff, decide_eq_true_iff, hult, ← BitVec.toNat_inj]
      rfl
    by_cases h : old = 0 ∨ a.ult old = true
    · rw [if_pos (hc.mpr h), if_pos h, ofNat_word]
    · rw [if_neg (hc.not.mpr h), if_neg h]
      have h0 : old ≠ 0 := fun h0 => h (.inl h0)
      have h1 : 1 ≤ old.toNat := Nat.one_le_iff_ne_zero.mpr fun hz => h0 (BitVec.eq_of_toNat_eq hz)
      bv_omega

/-- Settles O31: the store at its home by what a fill and a perform leave, the atomics by their operands' numbers. -/
theorem homeWrites : Obligations.HomeWrites := ⟨homeStores, atomicResults⟩

end Sys2Proof
end

section
/-! PROOFS. Issues complete, are refused for capacity, or end with the host's answer (R53, R88, R150, R167, R290, R412); O24 is put together here. -/

namespace Sys2Proof

open Machine

/-! ## The host's answers (R167, R412) -/

theorem postHostError_teams (s : State) (x ea : Nat) : (postHostError s x ea).teams = s.teams := by
  unfold postHostError
  cases s.ctx x with
  | none => rfl
  | some c =>
    simp only [apply_ite State.teams, State.postCtx, State.post, updCtx_teams, ite_self]

theorem laneOf_answered {s : State} {k iss lane : Nat} {tm : Team} {i : Inflight} {l : LaneOp} (h : laneOf s k iss lane = some (tm, i, l)) (bs : List Byte) :
    ∃ tm' i', laneOf (s.updLane k iss lane fun o => { o with stage := .returned, result := bs }) k iss lane =
    some (tm', i', { l with stage := .returned, result := bs }) := by
  obtain ⟨t, ht⟩ := laneOf_updLane h lane (fun o => { o with stage := .returned, result := bs }) fun _ => rfl
  rw [if_pos rfl] at ht
  exact ⟨t, _, ht⟩

section
variable {s : State} {k iss lane : Nat} {tm : Team} {i : Inflight} {l : LaneOp} (h : laneOf s k iss lane = some (tm, i, l)) (htgt : l.tgt = 1)
  (hk : l.kind = .load) (hst : l.stage = .sent)
include h htgt hk hst

/-- A load lane that waits for the host takes its answer. -/
theorem hostAnswer_load {bs : Option (List Byte)} (hlen : ∀ b, bs = some b → l.n ≤ b.length) : hostAnswer s k iss lane bs =
    some (s.updLane k iss lane fun o => { o with stage := .returned, result := (bs.getD (List.replicate l.n (BitVec.allOnes 8))).take l.n }) := by
  cases bs with
  | none => simp [hostAnswer, h, htgt, hk, hst]
  | some b => simp [hostAnswer, h, htgt, hk, hst, Nat.not_lt.mpr (hlen b rfl)]

/-- An error or a timeout gives ones (R412). -/
theorem hostFailed_load : ∃ t tm' i', hostFailed s k iss lane = .next t ∧
    laneOf t k iss lane = some (tm', i', { l with stage := .returned, result := List.replicate l.n (BitVec.allOnes 8) }) := by
  obtain ⟨tm', i', h'⟩ := laneOf_answered h (List.replicate l.n (BitVec.allOnes 8))
  have ha := hostAnswer_load h htgt hk hst (bs := none) fun _ hb => nomatch hb
  rw [Option.getD_none, List.take_of_length_le (by simp)] at ha
  exact ⟨_, tm', i', by rw [hostFailed, ha], (laneOf_of_teams (postHostError_teams ..) ..).trans h'⟩

end

theorem hostCompletions : Part.HostCompletions := by
  intro s k iss lane tm i l h htgt hk hst
  have hsince : hostSince s k iss lane = l.since := by simp [hostSince, h, hk]
  refine ⟨fun bs hlen => ?_, hostFailed_load h htgt hk hst, fun hlate => ?_, fun hearly => ?_⟩
  · obtain ⟨tm', i', h'⟩ := laneOf_answered h (bs.take l.n)
    exact ⟨_, tm', i', by rw [exec_hostCompletion, execHostCompletion, hostAnswer_load h htgt hk hst fun b hb => Option.some.inj hb ▸ hlen]; rfl, h'⟩
  · rw [exec_hostCompletionTimeout, execHostCompletionTimeout, hsince, if_neg (Nat.not_lt.mpr hlate)]
    exact hostFailed_load h htgt hk hst
  · exact ⟨_, by rw [exec_hostCompletionTimeout, execHostCompletionTimeout, hsince, if_pos hearly]; rfl⟩

/-! ## Results are written (R150, R282) -/

/-- A lane's result in its thread's destination; an exited thread stays as it is. -/
def resultWritten (n ty : Nat) (l : LaneOp) (th : Thread) : Thread := if th.live then th.setV n (tySpan ty) (extendTo ty (leNat l.result)) else th

theorem writeResult_v {s : State} {k n ty : Nat} {i : Inflight} {d : BitVec 11} (hr : resultOf i.insn = some (d, ty, false)) (hd : opKind d = .v n) (l : LaneOp) :
    writeResult s k i l = s.updThread k l.tid (resultWritten n ty l) := by
  simp only [writeResult, hr, hd]
  rfl

section
variable {k : Nat} {f : LaneOp → Thread → Thread}

/-- One thread after the other is updated: the others stay. -/
theorem thread_updThreads_other (ls : List LaneOp) (s : State) {tid : Nat} (h : tid ∉ ls.map LaneOp.tid) :
    (ls.foldl (fun s l => s.updThread k l.tid (f l)) s).thread k tid = s.thread k tid := by
  induction ls generalizing s with
  | nil => rfl
  | cons o os ih =>
    rw [List.map_cons, List.mem_cons, not_or] at h
    rw [List.foldl_cons, ih _ h.2, thread_updThread, if_neg fun hx => h.1 hx.2]

theorem thread_updThreads (ls : List LaneOp) (s : State) (hnd : (ls.map LaneOp.tid).Nodup) {l : LaneOp} (hl : l ∈ ls) :
    (ls.foldl (fun s l => s.updThread k l.tid (f l)) s).thread k l.tid = (s.thread k l.tid).map (f l) := by
  induction ls generalizing s with
  | nil => cases hl
  | cons o os ih =>
    rw [List.map_cons, List.nodup_cons] at hnd
    rw [List.foldl_cons]
    rcases List.mem_cons.mp hl with rfl | hl
    · rw [thread_updThreads_other os _ hnd.1, thread_updThread, if_pos ⟨rfl, rfl⟩]
    · have hne : l.tid ≠ o.tid := fun he => hnd.1 (he ▸ List.mem_map_of_mem hl)
      rw [ih _ hnd.2 hl, thread_updThread, if_neg fun hx => hne hx.2]

theorem group_updThreads (ls : List LaneOp) (s : State) (g : Nat) : (ls.foldl (fun s l => s.updThread k l.tid (f l)) s).group k g = s.group k g := by
  induction ls generalizing s with
  | nil => rfl
  | cons o os ih => rw [List.foldl_cons, ih, group_updThread]

theorem updThreads_kept (ls : List LaneOp) (s : State) : let u := ls.foldl (fun s l => s.updThread k l.tid (f l)) s
    OnlyTeams s u ∧ WindowSame s u :=
  ⟨onlyTeams_foldl _ _ (fun s l => onlyTeams_updThread s k l.tid (f l)) s, windowSame_foldl _ _ (fun s (l : LaneOp) => windowSame_updThread s k l.tid (f l)) s⟩

end

/-! ## An issue leaves the window -/

theorem leaveWindow_spec {s : State} {k : Nat} {tm : Team} {gr : Group} {i : Inflight} (ht : s.team k = some tm) (hg : s.group k i.grp = some gr) :
    let t := leaveWindow s k i
    (∃ tm', t.team k = some tm' ∧ findIss tm' i.id = none) ∧ t.mem = s.mem ∧ t.group k i.grp = some (gr.decFlag i.flag) ∧ ∀ tid, t.thread k tid = s.thread k tid := by
  refine ⟨?_, (updGroup_mem ..).trans (updTeam_mem ..), ?_, fun tid => ?_⟩
  · rw [leaveWindow, team_updGroup, if_pos rfl, team_updTeam, if_pos rfl, ht]
    exact ⟨_, rfl, List.find?_eq_none.mpr fun x hx => by simpa using (List.mem_filter.mp hx).2⟩
  · rw [leaveWindow, group_updGroup, if_pos ⟨rfl, rfl⟩, group_updTeam, hg, Option.map_some]
    exact fun _ => rfl
  · rw [leaveWindow, thread_updGroup, thread_updTeam]
    exact fun _ => rfl

/-- A step of the completion of an issue that is no fence and has no lane to refuse or report. -/
theorem complete_final {s : State} {k iss : Nat} {tm : Team} {i : Inflight} (ht : s.team k = some tm) (hf : findIss tm iss = some i)
    (ha : (s.core tm.core).asleep = false) (he : i.engine = false) (hfe : i.fence = none) (hfin : ∀ l ∈ i.lanes, l.final = true)
    (hno : ∀ l ∈ i.lanes, l.stage ≠ .poisoned) (ho : heldByOlder tm i = false)
    (holder : ((i.lanes.filter fun l => l.stage == .refused).map LaneOp.tid).isEmpty = true ∨
      olderComplete tm i ((i.lanes.filter fun l => l.stage == .refused).map LaneOp.tid) = true) :
    exec (.complete k iss) s = .next (takeRefusal (leaveWindow (i.lanes.foldl (fun s l => if l.stage == .returned || l.stage == .performed then writeResult s k i l else s)
      (match i.acq with | some sc => acquire s tm.core sc | none => s)) k i) k i) := by
  have hall : i.lanes.all LaneOp.final = true := List.all_eq_true.mpr hfin
  have hpo : (i.lanes.any fun l => l.stage == .poisoned) = false := List.any_eq_false.mpr fun l hl => by simpa using hno l hl
  have hbad : (i.lanes.filter fun l => l.stage == .refused || l.stage == .poisoned) = i.lanes.filter fun l => l.stage == .refused :=
    List.filter_congr fun l hl => by simp [hno l hl]
  simp only [exec_complete, execComplete, ht, hf, ha, hfe, he, hall, ho, hpo, hbad, Option.bind_some, Option.map_some, Bool.not_true, Bool.or_self,
    Bool.false_eq_true, if_false]
  refine (if_neg ?_).trans rfl
  rcases holder with h | h <;> simp [h]

theorem completion : Part.Completion := by
  intro s k iss tm i gr d ty n ht hf hg ha he hfe hls ho hnd hr hd
  obtain ⟨v, hv⟩ : ∃ v, v = match i.acq with | some sc => acquire s tm.core sc | none => s := ⟨_, rfl⟩
  have hvt : v.teams = s.teams := by rw [hv]; split <;> [exact acquire_teams ..; rfl]
  have hvm : v.mem = s.mem := by
    rw [hv]
    split
    · unfold acquire
      split <;> rfl
    · rfl
  obtain ⟨u, hu⟩ : ∃ u, u = i.lanes.foldl (fun s l => s.updThread k l.tid (resultWritten n ty l)) v := ⟨_, rfl⟩
  have hfold : i.lanes.foldl (fun s l => if l.stage == .returned || l.stage == .performed then writeResult s k i l else s) v = u := by
    rw [hu]
    exact List.foldl_ext _ _ _ fun s l hl => by rw [if_pos (by rcases hls l hl with h | h <;> simp [h]), writeResult_v hr hd]
  have hvteam : v.team k = some tm := by rw [State.team, hvt]; exact ht
  obtain ⟨hou, hwu⟩ := updThreads_kept (k := k) (f := resultWritten n ty) i.lanes v
  rw [← hu] at hou hwu
  obtain ⟨tu, htu, -⟩ := Option.map_eq_some_iff.mp ((hwu.1 k).trans (by rw [hvteam]; rfl))
  have hgu : u.group k i.grp = some gr := by
    rw [hu, group_updThreads, State.group, hvteam]
    rw [State.group, ht] at hg
    exact hg
  obtain ⟨⟨tm', htm, hfi⟩, hm, hgr, hth⟩ := leaveWindow_spec htu hgu
  have hthv : ∀ tid, v.thread k tid = tm.threads[tid]? := fun tid => by rw [State.thread, hvteam]; rfl
  have hre : (i.lanes.filter fun l => l.stage == .refused) = [] := List.filter_eq_nil_iff.mpr fun l hl => by rcases hls l hl with h | h <;> simp [h]
  refine ⟨leaveWindow u k i, tm', gr.decFlag i.flag, ?_, htm, findIss_id hf ▸ hfi, hm.trans (hou.mem.trans hvm), hgr, ?_, ?_, fun f hfl => ?_, fun f hfl => ?_,
    fun l hl th hlth => ⟨fun hlive => ?_, fun hlive => ?_⟩⟩
  · rw [complete_final ht hf ha he hfe (fun l hl => by rcases hls l hl with h | h <;> simp [LaneOp.final, h]) (fun l hl => by rcases hls l hl with h | h <;> simp [h])
      ho (.inl (by rw [hre]; rfl)), ← hv, hfold, takeRefusal]
    simp [hre]
  · cases i.flag <;> rfl
  · cases i.flag <;> rfl
  · rw [flag_decFlag, if_pos hfl]
  · rw [flag_decFlag, if_neg hfl]
  · refine ⟨resultWritten n ty l th, by rw [hth, hu, thread_updThreads _ _ hnd hl, hthv, hlth]; rfl, ?_⟩
    rw [resultWritten, if_pos hlive]
    exact holds_setV _ _ _ _
  · rw [hth, hu, thread_updThreads _ _ hnd hl, hthv, hlth, Option.map_some, resultWritten, hlive, if_neg Bool.false_ne_true]

/-! ## Lanes refused for capacity (R53, R88) -/

/-- The thread has parked with a capacity fault, outside any handler. -/
def RefusedFor (f : FaultInfo) (th : Thread) : Prop :=
  th.handler = false ∧ th.st = .parked ∧ ∃ g, th.fault = some g ∧ g.cause = f.cause ∧ g.done = f.done ∧ g.refused = f.refused ∧ g.reserve = f.reserve

theorem parkThread_other (s : State) (k tid : Nat) (f : FaultInfo) {x : Nat} (hx : x ≠ tid) : (parkThread s k tid f).thread k x = s.thread k x := by
  unfold parkThread
  split
  · rfl
  · dsimp only
    split_ifs <;> simp only [killHandler, killTeam_thread, leaveBundle_eq, thread_updThread, thread_updGroup, hx, and_false, if_false]

theorem parkThread_refused {s : State} {k tid : Nat} {th : Thread} (f : FaultInfo) (ht : s.thread k tid = some th) (hh : th.handler = false) :
    ∃ th', (parkThread s k tid f).thread k tid = some th' ∧ RefusedFor f th' := by
  obtain ⟨tm, hk, hth⟩ := Option.bind_eq_some_iff.mp ht
  have hg : tm.threads[tid]?.getD {} = th := by simp [hth]
  simp only [parkThread, hk, hg, hh, Bool.false_eq_true, if_false]
  split <;> simp only [killTeam_thread, leaveBundle_eq, thread_updThread, thread_updGroup, ht, and_self, if_true, Option.map_some]
  all_goals exact ⟨_, rfl, hh, rfl, _, rfl, rfl, rfl, rfl, rfl⟩

theorem thread_discardYounger (s : State) (k iss tid x : Nat) : (discardYounger s k iss tid).thread k x = s.thread k x := by
  rw [discardYounger, thread_updTeam]
  exact fun _ => rfl

/-- A thread with a refused lane parks, and its younger loads' held results go (R51, R53). -/
def refuseThread (k : Nat) (i : Inflight) (f : FaultInfo) (s : State) (l : LaneOp) : State :=
  (parkThread (discardYounger s k i.id l.tid) k l.tid f).updThread k l.tid fun th => { th with origin := mapGet? i.replays l.tid }

section
variable {k : Nat} {i : Inflight} {f : FaultInfo}

theorem refuseThread_other (s : State) (l : LaneOp) {x : Nat} (hx : x ≠ l.tid) : (refuseThread k i f s l).thread k x = s.thread k x := by
  rw [refuseThread, thread_updThread, if_neg fun h => hx h.2, parkThread_other _ _ _ _ hx, thread_discardYounger]

theorem refuseThread_same {s : State} {l : LaneOp} {th : Thread} (ht : s.thread k l.tid = some th) (hh : th.handler = false) :
    ∃ th', (refuseThread k i f s l).thread k l.tid = some th' ∧ RefusedFor f th' := by
  have hd : (discardYounger s k i.id l.tid).thread k l.tid = some th := (thread_discardYounger ..).trans ht
  obtain ⟨th', h', hp⟩ := parkThread_refused f hd hh
  exact ⟨{ th' with origin := mapGet? i.replays l.tid }, by rw [refuseThread, thread_updThread, if_pos ⟨rfl, rfl⟩, h', Option.map_some], hp⟩

/-- A thread that has parked stays so as the others do. -/
theorem refuseThreads_parked (ls : List LaneOp) {s : State} {tid : Nat} {th : Thread} (ht : s.thread k tid = some th) (hp : RefusedFor f th) :
    ∃ th', (ls.foldl (refuseThread k i f) s).thread k tid = some th' ∧ RefusedFor f th' := by
  induction ls generalizing s th with
  | nil => exact ⟨th, ht, hp⟩
  | cons o os ih =>
    rw [List.foldl_cons]
    by_cases ho : tid = o.tid
    · obtain ⟨th', h', hp'⟩ := refuseThread_same (i := i) (f := f) (ho ▸ ht) hp.1
      exact ih (ho ▸ h') hp'
    · exact ih ((refuseThread_other s o ho).trans ht) hp

theorem refuseThreads (ls : List LaneOp) {s : State} {l : LaneOp} {th : Thread} (hl : l ∈ ls) (ht : s.thread k l.tid = some th) (hh : th.handler = false) :
    ∃ th', (ls.foldl (refuseThread k i f) s).thread k l.tid = some th' ∧ RefusedFor f th' := by
  induction ls generalizing s with
  | nil => cases hl
  | cons o os ih =>
    rw [List.foldl_cons]
    by_cases ho : l.tid = o.tid
    · obtain ⟨th', h', hp'⟩ := refuseThread_same (i := i) (f := f) (ho ▸ ht) hh
      exact refuseThreads_parked os (ho ▸ h') hp'
    · have hl' : l ∈ os := (List.mem_cons.mp hl).resolve_left fun h => ho (by rw [h])
      exact ih hl' ((refuseThread_other s o ho).trans ht)

end

theorem capacityRefusal : Part.CapacityRefusal := by
  intro s k iss tm i ht hf hg ha he hfe hacq hr hcause _ hls ho holder
  have hno : ∀ l ∈ i.lanes, l.stage ≠ .poisoned := fun l hl => by rcases hls l hl with h | h <;> simp [h]
  have hfin : ∀ l ∈ i.lanes, l.final = true := fun l hl => by rcases hls l hl with h | h <;> simp [LaneOp.final, h]
  obtain ⟨gr, hg⟩ := Option.isSome_iff_exists.mp hg
  have hfold : i.lanes.foldl (fun s l => if l.stage == .returned || l.stage == .performed then writeResult s k i l else s) s = s :=
    List.foldl_fixed' (fun l => by simp [writeResult, hr]) _
  obtain ⟨-, -, -, hth⟩ := leaveWindow_spec (i := i) ht hg
  refine ⟨_, by rw [complete_final ht hf ha he hfe hfin hno ho (.inr holder), hacq, hfold], fun l hl hst th hlth hh => ?_⟩
  have hmem : l ∈ i.lanes.filter fun l => l.stage == .refused := List.mem_filter.mpr ⟨hl, by simp [hst]⟩
  have hne : (i.lanes.filter fun l => l.stage == .refused).isEmpty = false := List.isEmpty_eq_false_iff.mpr (List.ne_nil_of_mem hmem)
  have hany : ((i.lanes.filter fun l => l.stage == .refused).any fun l => l.cause == .caprefuse) = i.lanes.any fun l => l.stage == .refused && l.cause == .caprefuse :=
    List.any_filter
  simp only [takeRefusal, hne, Bool.false_eq_true, if_false, hany]
  obtain ⟨th', h', -, hp, g, hfault, hc, hd, hrf, hrs⟩ := refuseThreads (i := i)
    (f := { issFault i (if (i.lanes.any fun l => l.stage == .refused && l.cause == .caprefuse) then Cause.caprefuse else .tiershort) with
      done := stageMask i (fun l => l.stage == .performed), refused := stageMask i (fun l => l.stage == .refused),
      addrs := ((dedup ((i.lanes.filter fun l => l.stage == .refused).map LaneOp.billet)).take 4).map (· * 256), reserve := i.lastReserve })
    (i.lanes.filter fun l => l.stage == .refused) hmem ((hth l.tid).trans (by rw [State.thread, ht]; exact hlth)) hh
  exact ⟨th', g, h', hp, hfault, hc, hd, hrf, hrs⟩

/-- Settles O24: a completion, a refusal, and the host's answer, each from the step it ends with. -/
theorem completions : Obligations.Completions := ⟨completion, capacityRefusal, hostCompletions⟩

end Sys2Proof
end

section
/-! PROOFS. The capacity instructions (R51, R58, R63 to R67, R304, R305, R307, R308); O28 is put together here. -/

namespace Sys2Proof

open Machine

/-! ## wback and binfo (R66, R67, R304, R305) -/

/-- A memory instruction that enters from a state whose memory and teams are as before enters from before. -/
theorem enters_from {s u : State} {e : Env} {i : Instr} {lanes : List LaneOp} {acq : Option Nat} (he : envOf s = some e) (ht : u.teams = s.teams) (hm : u.mem = s.mem) :
    ∃ t, memIssue u e i lanes acq = .next t ∧ Enters s t e i lanes acq := by
  obtain ⟨t, hx, ⟨hmem, -, hw⟩, hr⟩ := enters_memIssue (u := u) (i := i) (lanes := lanes) (acq := acq) he ht
  exact ⟨t, hx, hmem.trans hm, hr, hw⟩

theorem wback_spec {f : MF} {s : State} {e : Env} {ts : List Target} (hi : Issues s (.wback f) e) (hc : checkLanes s e (mAddrs e f) 1 kWrite false = .ok ts)
    (hne : ts.filter (fun g => g.tgt == 0) ≠ []) (hh : engineHolds (dropEnded s e.core e.team.ctx) e 256 (wholeBillets (ts.filter fun g => g.tgt == 0)) = false) :
    ∃ t, exec (.wback f) s = .next t ∧ Enters s t e (.wback f) ((ts.filter fun g => g.tgt == 0).map fun g =>
      ({ lane := g.lane, tid := g.tid, va := g.va, ea := g.ea / 256 * 256, n := 0, kind := .store, pol := 1, ptes := g.lines } : LaneOp)) none := by
  obtain ⟨t, hx, hen⟩ := enters_from (u := dropEnded s e.core e.team.ctx) (i := .wback f) (acq := none) hi.bundle (dropEnded_teams ..) (dropEnded_mem ..)
  refine ⟨t, ?_, hen⟩
  rw [exec_wback, execWback, hi.withGate]
  simp only [hc, hh, List.isEmpty_eq_false_iff.mpr hne, Bool.false_eq_true, if_false, hx]

/-- Without errors waiting, descriptors that are read come to their cache, and nothing else differs (R42, R68). -/
theorem touchDescs_noError {s : State} (he : s.errors = []) (ts : List Target) :
    ∃ ds, ts.foldl (fun s t => if t.tgt == 0 then touchDesc s (billetOf t.ea) else s) s = { s with descs := ds } := by
  induction ts generalizing s with
  | nil => exact ⟨_, rfl⟩
  | cons g ts ih =>
    rw [List.foldl_cons]
    split
    · obtain ⟨ds, hd⟩ := ih (s := touchDesc s (billetOf g.ea)) (by rw [touchDesc_noError he]; exact he)
      exact ⟨ds, hd.trans (by rw [touchDesc_noError he])⟩
    · exact ih he

/-- What binfo gives for a target: its billet's word, or 7 where there is none (R66, R305). -/
def infoOf (s : State) (g : Target) : Nat := if g.tgt = 0 then (billetWord (s.billet (billetOf g.ea))).toNat else 7

theorem infoWord_toNat {s u : State} (h : u.billets = s.billets) (g : Target) : (infoWord u g).toNat = infoOf s g := by
  have hb : ∀ b, u.billet b = s.billet b := fun b => by rw [State.billet, h]; rfl
  by_cases hg : g.tgt = 0
  · simp [infoWord, infoOf, hg, hb]
  · simp [infoWord, infoOf, hg]

theorem binfo_spec {f : MF} {s : State} {e : Env} {ts : List Target} (hi : Issues s (.binfo f) e) (hc : checkLanes s e (mAddrs e f) 1 kRead false = .ok ts)
    (hne : ts ≠ []) (he : s.errors = [])
    (hold : ∀ g ∈ ts, ∀ i ∈ e.team.iw, ∀ l ∈ i.lanes, l.tid = g.tid → l.tgt = 0 → billetOf l.ea = billetOf g.ea → l.openStore = false ∧ l.openLoad = false)
    (hh : engineHolds (dropEnded s e.core e.team.ctx) e 256 (wholeBillets (ts.filter fun g => g.tgt == 0)) = false) :
    ∃ t, exec (.binfo f) s = .next t ∧ Enters s t e (.binfo f) (ts.map fun g =>
      ({ lane := g.lane, tid := g.tid, va := g.va, ea := g.ea, tgt := g.tgt, n := 4, kind := .load, pol := 1, ptes := g.lines, stage := .returned,
         result := leBytes 4 (infoOf s g) } : LaneOp)) none := by
  obtain ⟨ds, hd⟩ := touchDescs_noError (s := dropEnded s e.core e.team.ctx) he ts
  have hbusy : (ts.any fun t => e.team.iw.any fun i => i.lanes.any fun l => l.tid == t.tid && (l.openStore || l.openLoad) && !i.scratch && l.tgt == 0 &&
      billetOf l.ea == billetOf t.ea) = false := by
    refine List.any_eq_false.mpr fun g hg => Bool.not_eq_true _ ▸ List.any_eq_false.mpr fun i hiw => Bool.not_eq_true _ ▸ List.any_eq_false.mpr fun l hl hp => ?_
    simp only [Bool.and_eq_true, beq_iff_eq, Bool.or_eq_true] at hp
    obtain ⟨⟨⟨⟨htid, hopen⟩, -⟩, htgt⟩, hb⟩ := hp
    obtain ⟨h1, h2⟩ := hold g hg i hiw l hl htid htgt hb
    rw [h1, h2] at hopen
    rcases hopen with h | h <;> cases h
  obtain ⟨t, hx, hen⟩ := enters_from (u := { dropEnded s e.core e.team.ctx with descs := ds }) (i := .binfo f) (acq := none) (lanes := ts.map fun g =>
      ({ lane := g.lane, tid := g.tid, va := g.va, ea := g.ea, tgt := g.tgt, n := 4, kind := .load, pol := 1, ptes := g.lines, stage := .returned,
         result := leBytes 4 (infoOf s g) } : LaneOp)) hi.bundle rfl rfl
  refine ⟨t, ?_, hen⟩
  have hw : ∀ g, (infoWord { dropEnded s e.core e.team.ctx with descs := ds } g).toNat = infoOf s g := infoWord_toNat rfl
  rw [exec_binfo, execBinfo, hi.withGate]
  simp only [hc, hh, hbusy, hd, hw, List.isEmpty_eq_false_iff.mpr hne, Bool.or_self, Bool.false_eq_true, if_false]
  exact hx

/-! ## rsvq (R58, R65) -/

theorem rsvq_spec {f : MF} {s : State} {e : Env} {c : Ctx} (hi : Issues s (.rsvq f) e) (hc : s.ctx e.team.ctx = some c) : ∃ t, exec (.rsvq f) s = .next t ∧
    (∀ l tid n, (l, tid) ∈ e.sel f.pm f.pn → opKind f.d = .v n → vHolds t e.tk tid n 2 c.reserve) ∧
    (∀ n, opKind f.d = .g n → gHolds t e.tk e.g n 2 c.reserve) ∧
    Kept s t e (fun tid r => (∃ l, (l, tid) ∈ e.sel f.pm f.pn) ∧ inDest f.d 2 r) (inGDest f.d 2) (fun _ => False) := by
  have hr : reserveOf s e.team.ctx = c.reserve := by rw [reserveOf, hc]; rfl
  by_cases hd : ∃ n, opKind f.d = .g n
  · obtain ⟨n, hd⟩ := hd
    refine ⟨Machine.advance (writeG s e f.d 2 c.reserve) e, ?_, fun l tid n' _ hv => ?_, fun n' hg => ?_, Kept.advance ?_⟩
    · rw [exec_rsvq, execRsvq, hi.withGate]
      simp only [hd, hr]
    · rw [hd] at hv; cases hv
    · refine gHolds_of_group (advance_group _ e e.tk e.g) ?_
      simp only [writeG, hg, group_updGroup, and_self, if_true, group_of_env hi.bundle]
      exact ⟨_, rfl, holds_setG e.grp n' 2 c.reserve⟩
    · simp only [writeG, hd]
      exact (Kept.refl hi.bundle _ _ _).updGroup _ fun gr => ⟨rfl, fun r hr => setG_other gr n 2 c.reserve r fun hx => hr ⟨n, hd, hx.1, hx.2⟩, fun _ _ => rfl⟩
  · refine ⟨Machine.advance ((e.sel f.pm f.pn).foldl (fun s p => writeV s e p.2 f.d 2 c.reserve) s) e, ?_, fun l tid n hm hv => ?_, fun n hg => absurd ⟨n, hg⟩ hd, Kept.advance ?_⟩
    · rw [exec_rsvq, execRsvq, hi.withGate]
      simp only [hr]
      split
      · next n hg => exact absurd ⟨n, hg⟩ hd
      · rfl
    · refine holds_of_regs (advance_regs _ e e.tk tid) ?_
      have := foldWriteV (k := 2) hv _ (sel_nodup e f.pm f.pn fun _ => c.reserve) s tid c.reserve (List.mem_map.mpr ⟨(l, tid), hm, rfl⟩) (thread_of_env hi.bundle (sel_sub hm))
      simpa only [List.foldl_map] using this
    · refine Kept.foldl _ _ ?_ _ (Kept.refl hi.bundle _ _ _)
      rintro u ⟨l, tid⟩ hl hu
      exact kept_writeV hu tid f.d 2 c.reserve fun r hr => ⟨⟨l, hl⟩, hr⟩

/-! ## mark (R308) -/

/-- Every team's progress mark and lookout are the same in two states. -/
def MarkSame (s t : State) : Prop := ∀ k, (t.team k).map (fun t => (t.pmark, t.lookout)) = (s.team k).map fun t => (t.pmark, t.lookout)

theorem MarkSame.trans {a b c : State} (h : MarkSame a b) (k : MarkSame b c) : MarkSame a c := fun x => (k x).trans (h x)

theorem markSame_updTeam (s : State) (k : Nat) (f : Team → Team) (hf : ∀ t, (f t).pmark = t.pmark ∧ (f t).lookout = t.lookout) : MarkSame s (s.updTeam k f) := by
  intro j
  rw [team_updTeam]
  split
  · next h =>
    rw [h, Option.map_map]
    exact congrArg (Option.map · (s.team k)) (funext fun t => Prod.ext (hf t).1 (hf t).2)
  · rfl

theorem markSame_updThread (s : State) (k i : Nat) (f : Thread → Thread) : MarkSame s (s.updThread k i f) := markSame_updTeam s k _ fun _ => ⟨rfl, rfl⟩
theorem markSame_updGroup (s : State) (k g : Nat) (f : Group → Group) : MarkSame s (s.updGroup k g f) := markSame_updTeam s k _ fun _ => ⟨rfl, rfl⟩

theorem markSame_foldl {α : Type} (l : List α) (f : State → α → State) (hf : ∀ s x, MarkSame s (f s x)) (s : State) : MarkSame s (l.foldl f s) := by
  induction l generalizing s with
  | nil => exact fun _ => rfl
  | cons x xs ih => exact (hf s x).trans (ih _)

theorem markSame_endClause (s : State) (e : Env) : MarkSame s (Machine.endClause s e) := by
  unfold Machine.endClause
  split
  · exact fun _ => rfl
  split
  · exact fun _ => rfl
  · exact (markSame_foldl _ _ (fun s (x : Nat × Nat) => markSame_updThread s e.tk x.2 _) s).trans (markSame_updGroup _ _ _ _)

theorem markSame_advance (s : State) (e : Env) : MarkSame s (Machine.advance s e) := by
  have hr : MarkSame s (endReplay s e.tk e.g) := markSame_updTeam s e.tk _ fun t => by split <;> exact ⟨rfl, rfl⟩
  unfold Machine.advance
  dsimp only
  split
  · exact hr
  split
  · exact hr
  split
  · exact hr.trans (markSame_updGroup _ _ _ _)
  · exact hr.trans (MarkSame.trans (markSame_updGroup _ _ _ _) (markSame_endClause _ _))

theorem mark_spec {f : MF} {s : State} {e : Env} (hi : Issues s (.mark f) e) (ho : storesOpen e.team.iw (e.lanes.map Prod.snd) = false) :
    ∃ t tm, exec (.mark f) s = .next t ∧ OnlyTeams s t ∧ RegsSame s t ∧ t.team e.tk = some tm ∧ tm.pmark = uni32 s e f.d ∧ tm.lookout = 0 := by
  obtain ⟨u, hu⟩ : ∃ u, u = progress (s.updTeam e.tk fun t => { t with pmark := uni32 s e f.d }) e.tk := ⟨_, rfl⟩
  have hteam : u.team e.tk = some { e.team with pmark := uni32 s e f.d, lookout := 0 } := by
    rw [hu, progress, team_updTeam, if_pos rfl, team_updTeam, if_pos rfl, (envOf_spec hi.bundle).1]
    rfl
  have hregs : RegsSame s u := by
    rw [hu]
    refine RegsSame.trans (b := s.updTeam e.tk fun t => { t with pmark := uni32 s e f.d }) ?_ ?_
    · exact regsSame_updTeam _ _ _ (fun _ => rfl) fun _ => rfl
    · exact regsSame_updTeam _ _ _ (fun _ => rfl) fun _ => rfl
  have honly : OnlyTeams s u := by rw [hu]; exact (onlyTeams_updTeam (.refl s) _ _).trans (onlyTeams_progress ..)
  obtain ⟨tm, htm, hp⟩ := Option.map_eq_some_iff.mp ((markSame_advance u e e.tk).trans (by rw [hteam]; rfl))
  obtain ⟨h1, h2⟩ := Prod.mk.inj hp
  refine ⟨Machine.advance u e, tm, ?_, honly.trans (onlyTeams_advance ..), hregs.trans (regsSame_advance ..), htm, h1, h2⟩
  rw [exec_mark, execMark, hi.withGate, ho, hu]
  rfl

theorem capacityIssue : Part.CapacityIssue := fun _ _ _ _ =>
  ⟨wback_spec, fun hi hc hne he hold hh => binfo_spec hi hc hne he hold hh, fun _ => rsvq_spec, mark_spec⟩

/-! ## pgyield (R63, R64, R307) -/

/-- Lanes that have all come to their ends, and whose words to the driver are to be seen, complete. -/
theorem yieldOn_done {f : MF} {u v : State} {e : Env} {ys zs : List YieldLane} (hrun : yieldRun (4 * ys.length + 4) (setYields u e []) e [] ys = (zs, v, true))
    (hz : ∀ y ∈ zs, y.stage = 2) (hp : v.posted e.team.ctx = true) :
    yieldOn u e f ys = .next (Machine.advance (zs.foldl (fun s y => writeV s e y.tid f.d 1 y.status) (setYields v e [])) e) := by
  have h2 : (zs.filter fun y => y.stage == 2) = zs := List.filter_eq_self.mpr fun y hy => by simp [hz y hy]
  have h3 : (zs.filter fun y => y.stage == 3) = [] := List.filter_eq_nil_iff.mpr fun y hy => by simp [hz y hy]
  simp only [yieldOn, hrun, hp, h2, h3, Bool.not_true, Bool.or_self, Bool.false_eq_true, if_false, List.map_nil, List.isEmpty_nil, if_true]

/-- Every lane's status stands in its thread's destination. -/
theorem yielded_status {f : MF} {v : State} {e : Env} {zs : List YieldLane} {n : Nat} (hd : opKind f.d = .v n) (hnd : (zs.map YieldLane.tid).Nodup) {y : YieldLane}
    (hy : y ∈ zs) (ht : (v.thread e.tk y.tid).isSome = true) :
    vHolds (Machine.advance (zs.foldl (fun s y => writeV s e y.tid f.d 1 y.status) (setYields v e [])) e) e.tk y.tid n 1 y.status := by
  refine holds_of_regs (advance_regs _ e e.tk y.tid) ?_
  have hthread : ((setYields v e []).thread e.tk y.tid).isSome = true := by rw [setYields, thread_updGroup]; exact ht
  have := foldWriteV (k := 1) hd (zs.map fun y => (y.tid, y.status)) (by rw [List.map_map]; exact hnd) (setYields v e []) y.tid y.status
    (List.mem_map_of_mem hy) hthread
  simpa only [List.foldl_map] using this

theorem surrender_mem (s : State) (p x : Nat) : (surrender s p x).mem = (zeroPage s p).mem := by
  have he := (stands_emptyPage s p).mem
  have hmail : ∀ (v : State) (m : DWord), (setMailbox v x m).mem = v.mem := fun v m => by
    unfold setMailbox
    split
    · rfl
    · exact (stands_updCtx ..).mem
  have hnote : ∀ (v : State) (m : DWord), (notifyThinned v x m).mem = v.mem := fun _ _ => rfl
  unfold surrender
  split
  · exact (stands_clearFixed s p).mem
  · dsimp only
    split
    · exact (stands_poolGive ..).mem.trans he
    · refine (stands_poolGive ..).mem.trans ((stands_updCtx ..).mem.trans ?_)
      split_ifs
      · rw [hnote, hmail, he]
      · rw [hnote, he]
      · rw [hmail, he]
      · exact he

theorem pageYield : Part.PageYield := by
  refine ⟨fun f s u v e ts ys zs n hi hbegin hrun hz hp hd hnd => ?_, fun s p x hwf => ?_⟩
  · refine ⟨_, ?_, fun y hy ht => yielded_status hd hnd hy ht⟩
    rw [exec_pgyield, execPgyield, hi.withGate, ← yieldOn_done hrun hz hp]
    rcases hbegin with ⟨hb, hts, ⟨w, hr, hc, rfl⟩, hall, rfl⟩ | ⟨hb, rfl, rfl⟩
    · simp [hb, hr, hall, hc, hts]
    · simp [hb]
  · obtain ⟨hkept, hzero⟩ := pageZeroed_of_mem (surrender_mem s p x)
    refine ⟨hzero, hkept, ?_⟩
    rw [State.memWf, surrender_mem]
    exact filter_wfFrom _ hwf

/-- Settles O28: each instruction's step from its issue, and the yield from its run's end. -/
theorem capacityInstructions : Obligations.CapacityInstructions := ⟨capacityIssue, pageYield⟩

end Sys2Proof
end

section
/-! PROOFS. A page's image in the tier and a billet's run, and the way back from them (R34, R35, R85, R86). -/

namespace Sys2Proof.Machine

/-! ## Runs (R34, R35) -/

theorem payload_sectors {ws : List Word} (hl : ws.length = 64) {c : Nat × Nat} (h : c ∈ candidates ws) (h2 : 2 ≤ c.1) :
    c.1 ≤ 5 ∧ ((payload c.1 ws).length + 31) / 32 = c.2 := by
  rcases mem_candidates h with ⟨rfl, -⟩ | ⟨rfl, -⟩ | ⟨rfl, -⟩ | ⟨rfl, -⟩ | ⟨rfl, -⟩ | rfl
  · exact absurd h2 (by decide)
  · exact absurd h2 (by decide)
  · exact ⟨by decide, by simp [payload, length_wordBytes, hl]⟩
  · exact ⟨show 3 ≤ 5 by decide, by rw [length_payload_sparse]; rfl⟩
  · refine ⟨by decide, ?_⟩
    rw [payload, List.length_append, length_wordBytes, length_flatMap_const fun w => length_leBytes 2 _, hl]
  · refine ⟨by decide, ?_⟩
    rw [payload, length_flatMap_const length_wordBytes, hl]

theorem decodeRun_runBytes {ws : List Word} (hl : ws.length = 64) (h2 : 2 ≤ (encodeClass ws).1) :
    decodeRun (encodeClass ws).1 (encodeClass ws).2 (runBytes (encodeClass ws).1 (encodeClass ws).2 ws) = some (ws.flatMap wordBytes) := by
  obtain ⟨hmem, -, h8⟩ := encodeClass_spec ws
  obtain ⟨h5, hsec⟩ := payload_sectors hl hmem h2
  generalize encodeClass ws = c at *
  obtain ⟨hlen, hdec⟩ := candidate_spec (List.replicate (32 * c.2 - (payload c.1 ws).length) 0) hl hmem
  have hlen := hlen h2
  have htake : (runBytes c.1 c.2 ws).take (32 * c.2) = payload c.1 ws ++ List.replicate (32 * c.2 - (payload c.1 ws).length) 0 :=
    List.take_of_length_le (by simp [runBytes]; omega)
  have hrange : (decide (c.1 < 2) || decide (5 < c.1) || decide (8 < c.2)) = false := by simp; omega
  have hused : 32 * c.2 - (List.replicate (32 * c.2 - (payload c.1 ws).length) (0 : Byte)).length = (payload c.1 ws).length := by
    rw [List.length_replicate]; omega
  rw [decodeRun, hrange, if_neg Bool.false_ne_true, htake, hdec]
  simp only [Option.bind_some, hused, hsec, decide_true, Bool.true_and]
  exact if_pos (List.all_eq_true.mpr fun x hx => beq_iff_eq.mpr (List.eq_of_mem_replicate hx))

/-! ## A page's image (R85) -/

/-- A billet's class in the image. -/
def imageClass (bs : List (List Word)) (i : Nat) : Nat := (encodeClass (bs.getD i [])).1
/-- The first billet of the page with the same words, unless they are zero. -/
def sameAs (bs : List (List Word)) (i : Nat) : Option Nat := if imageClass bs i = 0 then none else (bs.take i).findIdx? (· == bs.getD i [])
/-- A billet's entry in the image's header. -/
def imageEntry (bs : List (List Word)) (i : Nat) : Nat := match sameAs bs i with | some j => 6 * 8192 + j | none => imageClass bs i * 8192
/-- A billet's payload in the image's body. -/
def imageBody (bs : List (List Word)) (i : Nat) : List Byte := match sameAs bs i with | some _ => [] | none => payload (imageClass bs i) (bs.getD i [])

/-- One billet of the image. -/
def encodeStep (bs : List (List Word)) (acc : List Byte × List Byte) (i : Nat) : List Byte × List Byte :=
  let ws := bs.getD i []
  let cls := (encodeClass ws).1
  match (if cls = 0 then none else (bs.take i).findIdx? (· == ws)) with
  | some j => (acc.1 ++ leBytes 2 (6 * 8192 + j), acc.2)
  | none => (acc.1 ++ leBytes 2 (cls * 8192), acc.2 ++ (if cls = 0 then [] else payload cls ws))

/-- The zero bytes up to a 4 KiB boundary. -/
def padding (n : Nat) : List Byte := List.replicate ((4096 - n % 4096) % 4096) 0
/-- The image of some billets of a page. -/
def pageImage (bs : List (List Word)) (is : List Nat) : List Byte :=
  let r := is.foldl (encodeStep bs) ([], [])
  r.1 ++ r.2 ++ padding (r.1 ++ r.2).length

theorem tierImage_steps (bs : List (List Word)) : tierImage bs = pageImage bs (List.range 256) := rfl

theorem encodeStep_eq (bs : List (List Word)) (acc : List Byte × List Byte) (i : Nat) :
    encodeStep bs acc i = (acc.1 ++ leBytes 2 (imageEntry bs i), acc.2 ++ imageBody bs i) := by
  have hs : encodeStep bs acc i = match sameAs bs i with
      | some j => (acc.1 ++ leBytes 2 (6 * 8192 + j), acc.2)
      | none => (acc.1 ++ leBytes 2 (imageClass bs i * 8192), acc.2 ++ (if imageClass bs i = 0 then [] else payload (imageClass bs i) (bs.getD i []))) := rfl
  rw [hs, imageEntry, imageBody]
  cases sameAs bs i with
  | some j => rw [List.append_nil]
  | none =>
    dsimp only
    split
    · next h => rw [h]; rfl
    · rfl

theorem encodeSteps_eq (bs : List (List Word)) (is : List Nat) (acc : List Byte × List Byte) : is.foldl (encodeStep bs) acc =
    (acc.1 ++ is.flatMap (fun i => leBytes 2 (imageEntry bs i)), acc.2 ++ is.flatMap (imageBody bs)) := by
  induction is generalizing acc with
  | nil => simp
  | cons i is ih => rw [List.foldl_cons, ih, encodeStep_eq, List.flatMap_cons, List.flatMap_cons, List.append_assoc, List.append_assoc]

theorem pageImage_eq (bs : List (List Word)) (is : List Nat) : pageImage bs is = is.flatMap (fun i => leBytes 2 (imageEntry bs i)) ++ (is.flatMap (imageBody bs) ++
    padding (is.flatMap (fun i => leBytes 2 (imageEntry bs i)) ++ is.flatMap (imageBody bs)).length) := by
  rw [pageImage, encodeSteps_eq]
  simp only [List.nil_append, List.append_assoc]

/-- The zero bytes at the end of a page's image. -/
def imagePad (bs : List (List Word)) : List Byte :=
  padding ((List.range 256).flatMap (fun i => leBytes 2 (imageEntry bs i)) ++ (List.range 256).flatMap (imageBody bs)).length

theorem tierImage_eq (bs : List (List Word)) :
    tierImage bs = (List.range 256).flatMap (fun i => leBytes 2 (imageEntry bs i)) ++ ((List.range 256).flatMap (imageBody bs) ++ imagePad bs) :=
  (tierImage_steps bs).trans (pageImage_eq bs _)

theorem length_tierImage (bs : List (List Word)) : (tierImage bs).length % 4096 = 0 := by
  rw [tierImage_eq, ← List.append_assoc, List.length_append, imagePad, padding, List.length_replicate]
  omega

/-! ## The way back (R86) -/

section
variable {bs : List (List Word)} (hl : bs.length = 256) (hw : ∀ x ∈ bs, x.length = 64)
include hl

theorem getD_billet {i : Nat} (hi : i < 256) : bs.getD i [] = bs[i]'(hl ▸ hi) := by simp [hl, hi]

/-- The billet that another repeats comes before it, has the same words, and repeats none itself. -/
theorem sameAs_some {i j : Nat} (hi : i < 256) (h : sameAs bs i = some j) : j < i ∧ bs.getD j [] = bs.getD i [] ∧ sameAs bs j = none ∧ imageClass bs j ≠ 0 := by
  unfold sameAs at h
  split at h
  · cases h
  · next hc =>
    obtain ⟨hj, heq, hfirst⟩ := List.findIdx?_eq_some_iff_getElem.mp h
    have hji : j < i := by rw [List.length_take] at hj; omega
    have hsame : bs.getD j [] = bs.getD i [] := by
      rw [getD_billet hl (by omega), ← beq_iff_eq.mp heq, List.getElem_take]
    refine ⟨hji, hsame, ?_, by rw [imageClass, hsame]; exact hc⟩
    have hcj : imageClass bs j ≠ 0 := by rw [imageClass, hsame]; exact hc
    rw [sameAs, if_neg hcj, hsame, List.findIdx?_eq_none_iff]
    intro x hx
    obtain ⟨k, hk, rfl⟩ := List.mem_iff_getElem.mp hx
    have hkj : k < j := by rw [List.length_take] at hk; omega
    simpa [List.getElem_take] using hfirst k hkj

omit hl in
theorem imageClass_le (i : Nat) : imageClass bs i ≤ 5 := by
  rcases mem_candidates (encodeClass_spec (bs.getD i [])).1 with ⟨h, -⟩ | ⟨h, -⟩ | ⟨h, -⟩ | ⟨h, -⟩ | ⟨h, -⟩ | h <;> rw [imageClass, h] <;> simp

theorem imageEntry_lt {i : Nat} (hi : i < 256) : imageEntry bs i < 65536 := by
  unfold imageEntry
  cases h : sameAs bs i with
  | some j =>
    have := (sameAs_some hl hi h).1
    dsimp only
    omega
  | none =>
    have := imageClass_le (bs := bs) i
    dsimp only
    omega

/-- The entries as the header holds them. -/
theorem entry_read {i : Nat} (hi : i < 256) : leNat (((tierImage bs).drop (2 * i)).take 2) = imageEntry bs i := by
  have h := map_take_drop_flatMap (fun i => length_leBytes 2 (imageEntry bs i)) (List.range 256) ((List.range 256).flatMap (imageBody bs) ++ imagePad bs)
  rw [List.length_range, ← tierImage_eq] at h
  have hi' := List.map_inj_left.mp h i (List.mem_range.mpr hi)
  rw [hi', leNat_leBytes]
  exact Nat.mod_eq_of_lt (imageEntry_lt hl hi)

/-- The payloads from a billet on, and the padding. -/
def imageFrom (bs : List (List Word)) (n : Nat) : List Byte := ((List.range 256).drop n).flatMap (imageBody bs) ++ imagePad bs

omit hl in
theorem imageFrom_step {n : Nat} (hn : n < 256) : imageFrom bs n = imageBody bs n ++ imageFrom bs (n + 1) := by
  rw [imageFrom, List.drop_eq_getElem_cons (by simpa using hn), List.flatMap_cons, List.getElem_range, List.append_assoc]
  rfl

omit hl in
theorem drop_header : (tierImage bs).drop 512 = imageFrom bs 0 := by
  rw [tierImage_eq, List.drop_left' (by rw [length_flatMap_const fun i => length_leBytes 2 _, List.length_range])]
  rw [imageFrom, List.drop_zero]

/-- One billet of the way back. -/
def decodeStep (img : List Byte) (acc : Option (List (List Word) × List Byte)) (i : Nat) : Option (List (List Word) × List Byte) :=
  let entry := fun i => leNat ((img.drop (2 * i)).take 2)
  acc.bind fun (ws, body) =>
    let code := entry i / 8192
    if nfld (entry i) 12 8 ≠ 0 || code = 7 then none
    else if code = 6 then
      let j := entry i % 256
      if i ≤ j || entry j / 8192 = 0 || entry j / 8192 = 6 then none else some (ws ++ [ws.getD j []], body)
    else (decodePayload code body).map fun (x, rest) => (ws ++ [x], rest)

omit hl in
theorem tierDecode_eq (img : List Byte) : tierDecode img = ((List.range 256).foldl (decodeStep img) (some ([], img.drop 512))).bind fun (ws, rest) =>
    if rest.all (· == 0) then some ws else none := rfl

include hw

theorem decodeStep_image {n : Nat} (hn : n < 256) :
    decodeStep (tierImage bs) (some (bs.take n, imageFrom bs n)) n = some (bs.take (n + 1), imageFrom bs (n + 1)) := by
  have htake : bs.take (n + 1) = bs.take n ++ [bs.getD n []] := by rw [getD_billet hl hn, List.take_concat_get']
  have hcode : ∀ c j, j < 256 → (c * 8192 + j) / 8192 = c ∧ nfld (c * 8192 + j) 12 8 = 0 ∧ (c * 8192 + j) % 256 = j := fun c j hj => by
    refine ⟨by omega, ?_, by omega⟩
    unfold nfld
    omega
  simp only [decodeStep, entry_read hl hn, Option.bind_some]
  cases h : sameAs bs n with
  | some j =>
    obtain ⟨hj, hsame, hnone, hc⟩ := sameAs_some hl hn h
    have hjl : j < 256 := by omega
    have he : imageEntry bs n = 6 * 8192 + j := by rw [imageEntry, h]
    have hej : imageEntry bs j / 8192 = imageClass bs j := by rw [imageEntry, hnone]; exact Nat.mul_div_cancel _ (by decide)
    have hle := imageClass_le (bs := bs) j
    obtain ⟨h1, h2, h3⟩ := hcode 6 j hjl
    have hget : (bs.take n).getD j [] = bs.getD n [] := by
      rw [← hsame, getD_billet hl hjl]
      simp [hl, hj, hjl]
    have hbody : imageBody bs n = [] := by rw [imageBody, h]
    rw [he, h1, h2, h3, entry_read hl hjl, hej, hget, imageFrom_step hn, hbody, htake]
    have hno : (decide (n ≤ j) || decide (imageClass bs j = 0) || decide (imageClass bs j = 6)) = false := by simp; omega
    simp [hno]
  | none =>
    have he : imageEntry bs n = imageClass bs n * 8192 := by simp only [imageEntry, h]
    obtain ⟨h1, h2, -⟩ := hcode (imageClass bs n) 0 (by decide)
    rw [Nat.add_zero] at h1 h2
    have hle := imageClass_le (bs := bs) n
    have hbody : imageBody bs n = payload (imageClass bs n) (bs.getD n []) := by rw [imageBody, h]
    have hlen : (bs.getD n []).length = 64 := by rw [getD_billet hl hn]; exact hw _ (List.getElem_mem _)
    obtain ⟨-, hdec⟩ := candidate_spec (imageFrom bs (n + 1)) hlen (encodeClass_spec (bs.getD n [])).1
    have hno : (decide ((0 : Nat) ≠ 0) || decide (imageClass bs n = 7)) = false := by simp; omega
    rw [he, h1, h2, hno, if_neg Bool.false_ne_true, if_neg (by omega), imageFrom_step hn, hbody, htake, imageClass, hdec, Option.map_some]

/-- A page's image gives the words of its billets back. -/
theorem tierDecode_tierImage : tierDecode (tierImage bs) = some bs := by
  have hfold : ∀ n ≤ 256, (List.range n).foldl (decodeStep (tierImage bs)) (some ([], imageFrom bs 0)) = some (bs.take n, imageFrom bs n) := by
    intro n hn
    induction n with
    | zero => rfl
    | succ n ih => rw [List.range_succ, List.foldl_append, ih (by omega), List.foldl_cons, List.foldl_nil, decodeStep_image hl hw (by omega)]
  rw [tierDecode_eq, drop_header, hfold 256 (Nat.le_refl _), List.take_of_length_le (by omega)]
  rw [Option.bind_some]
  dsimp only
  rw [if_pos]
  refine List.all_eq_true.mpr fun x hx => beq_iff_eq.mpr ?_
  rw [imageFrom, List.drop_eq_nil_of_le (by simp), List.flatMap_nil, List.nil_append] at hx
  exact List.eq_of_mem_replicate hx

end

theorem images : Part.Images := ⟨fun ws hl hw => ⟨tierDecode_tierImage hl hw, length_tierImage ws⟩, fun _ hl h2 => decodeRun_runBytes hl h2⟩

end Sys2Proof.Machine
end

section
/-! PROOFS. The layer on stored forms: what a billet's stored form and a page's image depend on, and the operations of Chipper that keep them
(R79, R85, R87, R90, R91). -/

namespace Sys2Proof.Machine

/-! ## What a stored form depends on -/

/-- The run that a billet's stored form is read from: that of the memory-side cache, else that in HBM4. -/
def runOf (s : State) (b : Nat) : Option Sealed := match mapGet? s.msc b with | some e => some e.run | none => mapGet? s.hbm (placeOf s b)

theorem storedValue_eq (s : State) (b : Nat) : storedValue s b = if (s.billet b).bad then none
    else if (s.billet b).cls ≤ 1 then some (plainBytes (s.billet b).cls (s.billet b).sect) else runValue s b (runOf s b) := rfl

theorem keyOf_congr {s t : State} (hs : t.slovi = s.slovi) {p : Nat} (hk : (t.page p).map Page.key = (s.page p).map Page.key) : t.keyOf p = s.keyOf p := by
  rw [State.keyOf, State.keyOf, hs, hk]

theorem runValue_of {s t : State} {b : Nat} (hm : t.mem = s.mem) (hk : t.keyOf (pageOfBillet b) = s.keyOf (pageOfBillet b)) (hb : (t.billet b).bad = (s.billet b).bad)
    (hc : (t.billet b).cls = (s.billet b).cls) (hn : (t.billet b).nsec = (s.billet b).nsec) (x : Option Sealed) : runValue t b x = runValue s b x := by
  simp only [runValue, hk, hb, hc, hn, State.readMem, hm]

theorem storedValue_congr {s t : State} {b : Nat} (hm : t.mem = s.mem) (hk : t.keyOf (pageOfBillet b) = s.keyOf (pageOfBillet b)) (hb : t.billet b = s.billet b)
    (hr : runOf t b = runOf s b) : storedValue t b = storedValue s b := by
  rw [storedValue_eq, storedValue_eq, hb, hr, runValue_of hm hk (by rw [hb]) (by rw [hb]) (by rw [hb])]

theorem tierValue_congr {s t : State} {p : Nat} (hd : t.tierData = s.tierData) (hs : t.slovi = s.slovi) (hp : t.page p = s.page p) : tierValue t p = tierValue s p := by
  have hk : t.keyOf p = s.keyOf p := keyOf_congr hs (by rw [hp])
  simp only [tierValue, hp, State.tierRead, hd, hk]

/-! ## Operations that keep every stored form -/

/-- What stands, the descriptors, the memory-side cache, HBM4's runs and the keys are as before. -/
structure SameRuns (s t : State) : Prop where
  stands : Stands s t
  billets : t.billets = s.billets
  msc : t.msc = s.msc
  hbm : t.hbm = s.hbm
  slovi : t.slovi = s.slovi

namespace SameRuns

theorem refl (s : State) : SameRuns s s := ⟨.refl s, rfl, rfl, rfl, rfl⟩
theorem trans {a b c : State} (h : SameRuns a b) (k : SameRuns b c) : SameRuns a c :=
  ⟨h.stands.trans k.stands, k.billets.trans h.billets, k.msc.trans h.msc, k.hbm.trans h.hbm, k.slovi.trans h.slovi⟩

variable {s t : State} (h : SameRuns s t)
include h

theorem mem : t.mem = s.mem := h.stands.mem
theorem billet (b : Nat) : t.billet b = s.billet b := by rw [State.billet, h.billets]; rfl
theorem keyOf (p : Nat) : t.keyOf p = s.keyOf p := keyOf_congr h.slovi (h.stands.key p)
theorem storedAs (P : Nat → Prop) : StoredAs s t P := fun b _ =>
  storedValue_congr h.mem (h.keyOf _) (h.billet b) (by rw [runOf, placeOf, h.msc, h.hbm, h.billet]; rfl)

end SameRuns

theorem sameRuns_updMig (s : State) (p : Nat) (f : Migration → Migration) : SameRuns s (updMig s p f) := ⟨.of_eq rfl rfl rfl, rfl, rfl, rfl, rfl⟩
theorem sameRuns_migrations (s : State) (l : List Migration) : SameRuns s { s with migrations := l } := ⟨.of_eq rfl rfl rfl, rfl, rfl, rfl, rfl⟩
theorem sameRuns_updPage (s : State) (p : Nat) (f : Page → Page) (hf : ∀ g, (f g).identity = g.identity) : SameRuns s (s.updPage p f) :=
  ⟨stands_updPage s p f hf, updPage_billets .., updPage_msc .., updPage_hbm .., updPage_slovi ..⟩
theorem sameRuns_setChcmd (s : State) (op p st : Nat) : SameRuns s (setChcmd s op p st) := by
  rw [setChcmd]
  exact ⟨stands_updReg .., updReg_billets .., updReg_msc .., updReg_hbm .., updReg_slovi ..⟩
theorem sameRuns_endChcmd (s : State) (op p st : Nat) : SameRuns s (endChcmd s op p st) := by
  unfold endChcmd
  split
  · exact sameRuns_setChcmd ..
  · exact .refl s
theorem sameRuns_freeTier (s : State) (p : Nat) : SameRuns s (freeTier s p) :=
  ⟨stands_freeTier s p, updPage_billets .., updPage_msc .., updPage_hbm .., updPage_slovi ..⟩
theorem sameRuns_abandonMigration (s : State) (p : Nat) : SameRuns s (abandonMigration s p) := by
  unfold abandonMigration
  split
  · exact ((sameRuns_migrations ..).trans (sameRuns_freeTier ..)).trans (sameRuns_endChcmd ..)
  · exact .refl s
theorem sameRuns_tierWrite (s : State) (p b : Nat) (img : List Byte) : SameRuns s (s.tierWrite p b img) := ⟨.of_eq rfl rfl rfl, rfl, rfl, rfl, rfl⟩
theorem sameRuns_poolGive (s : State) (v n : Nat) : SameRuns s (s.poolGive v n) := ⟨stands_poolGive .., rfl, rfl, rfl, rfl⟩
theorem sameRuns_tier (s : State) (m : Map Nat) : SameRuns s { s with tier := m } := ⟨.of_eq rfl rfl rfl, rfl, rfl, rfl, rfl⟩

theorem endChcmd_tier (s : State) (op p st : Nat) : (endChcmd s op p st).tier = s.tier := by
  unfold endChcmd
  split
  · rw [setChcmd, updReg_tier]
  · rfl

/-! ## Chipper's list (R89) -/

theorem findMig_congr {s t : State} (h : t.migrations = s.migrations) (p : Nat) (up : Bool) : findMig t p up = findMig s p up := by rw [findMig, h]; rfl

/-- A migration of the page after an update of its page's migrations. -/
theorem findMig_updMig {s : State} {p : Nat} {up : Bool} {f : Migration → Migration} (hp : ∀ m, (f m).page = m.page) (hu : ∀ m, (f m).up = m.up) {m : Migration}
    (h : findMig s p up = some m) : findMig (updMig s p f) p up = some (f m) := by
  have hcomp : (fun m : Migration => m.page == p && m.up == up) ∘ (fun m => if m.page == p then f m else m) = fun m => m.page == p && m.up == up := by
    funext m
    simp only [Function.comp_apply]
    split <;> simp [hp, hu]
  have hpage : (m.page == p) = true := (Bool.and_eq_true_iff.mp (List.find?_some (p := fun m : Migration => m.page == p && m.up == up) h)).1
  rw [findMig, updMig, List.find?_map, hcomp]
  rw [findMig] at h
  rw [h, Option.map_some, if_pos hpage]

theorem findMig_none {s : State} {p : Nat} {up : Bool} (h : ∀ m ∈ s.migrations, ¬ (m.page = p ∧ m.up = up)) : findMig s p up = none :=
  List.find?_eq_none.mpr fun m hm => by simpa using h m hm

/-- A demotion that is under way ends, and the page stays out of the tier (R90 step 8). -/
theorem abandoned_spec {s : State} {p : Nat} {m : Migration} (h : findMig s p false = some m) : let t := abandonMigration s p
    t.mem = s.mem ∧ StoredAs s t (fun _ => True) ∧ findMig t p false = none ∧ inTier t p = false := by
  have hk := sameRuns_abandonMigration s p
  have hp := List.find?_some (p := fun m : Migration => m.page == p && m.up == false) h
  refine ⟨hk.mem, hk.storedAs _, findMig_none fun x hx hxp => ?_, ?_⟩
  · rw [abandonMigration_migrations, List.mem_filter] at hx
    simp [hxp.1, hxp.2] at hx
  · have hany : (s.migrations.any fun m => m.page == p && !m.up) = true :=
      List.any_eq_true.mpr ⟨m, List.mem_of_find?_eq_some h, by simpa using hp⟩
    rw [abandonMigration, if_pos hany, inTier, endChcmd_tier]
    simp [freeTier, mapGet_erase]

/-! ## The memory-side cache is flushed (R79, R90 step 2) -/

/-- A write of a cached run where no error waits: the run stays cached, and HBM4 changes at the billet's place alone. -/
structure Flushed (s t : State) (at' : Nat → Prop) : Prop where
  rest : t = { s with msc := t.msc, hbm := t.hbm }
  run : ∀ b, (mapGet? t.msc b).map MscEntry.run = (mapGet? s.msc b).map MscEntry.run
  hbm : ∀ x, ¬ at' x → mapGet? t.hbm x = mapGet? s.hbm x

theorem flushed_mscWrite {s : State} (he : s.errors = []) (q : Nat) : Flushed s (mscWrite s q) fun x => x = placeOf s q := by
  unfold mscWrite
  cases hq : mapGet? s.msc q with
  | none => exact ⟨rfl, fun _ => rfl, fun _ _ => rfl⟩
  | some e =>
    simp only [takeError_none he, Bool.false_eq_true, if_false]
    split
    · exact ⟨rfl, fun _ => rfl, fun _ _ => rfl⟩
    · refine ⟨rfl, fun b => ?_, fun x hx => ?_⟩
      · show (mapGet? (mapSet s.msc q { e with dirty := false }) b).map MscEntry.run = _
        rw [mapGet_set]
        split
        · next hb => rw [hb, hq]; rfl
        · rfl
      · exact (mapGet_set ..).trans (if_neg hx)

theorem flushed_mscWrites (qs : List Nat) {s : State} (he : s.errors = []) : Flushed s (qs.foldl mscWrite s) fun x => ∃ q ∈ qs, x = placeOf s q := by
  induction qs generalizing s with
  | nil => exact ⟨rfl, fun _ => rfl, fun _ _ => rfl⟩
  | cons q qs ih =>
    have h1 := flushed_mscWrite he q
    have h2 := ih (s := mscWrite s q) (by rw [h1.rest]; exact he)
    have hplace : ∀ b, placeOf (mscWrite s q) b = placeOf s b := fun b => by rw [h1.rest]; rfl
    refine ⟨by rw [List.foldl_cons, h2.rest, h1.rest], fun b => (h2.run b).trans (h1.run b), fun x hx => (h2.hbm x ?_).trans (h1.hbm x ?_)⟩
    · rintro ⟨q', hq', rfl⟩
      exact hx ⟨q', List.mem_cons_of_mem _ hq', hplace q'⟩
    · exact fun hx' => hx ⟨q, List.mem_cons_self, hx'⟩

theorem runOf_flushed {s t : State} {at' : Nat → Prop} (h : Flushed s t at') {b : Nat} (hb : (mapGet? s.msc b).isSome = true ∨ ¬ at' (placeOf s b)) :
    runOf t b = runOf s b := by
  have hr := h.run b
  have hp : placeOf t b = placeOf s b := by rw [h.rest]; rfl
  unfold runOf
  cases hs : mapGet? s.msc b with
  | some e =>
    obtain ⟨e', he', hrun⟩ := Option.map_eq_some_iff.mp (hr.trans (by rw [hs]; rfl))
    rw [he']
    exact congrArg some hrun
  | none =>
    rw [hs, Option.map_none, Option.map_eq_none_iff] at hr
    rw [hr, hp]
    exact h.hbm _ (hb.resolve_left (by simp [hs]))

/-- The stored forms after the page's dirty entries are written: those in the cache, and those whose place in HBM4 none of them has. -/
theorem storedAs_flushMsc {s : State} (he : s.errors = []) (p : Nat) : StoredAs s (flushMsc s p) fun b => (mapGet? s.msc b).isSome = true ∨
    ∀ q x, (q, x) ∈ s.msc → pageOfBillet q = p → x.dirty = true → placeOf s q ≠ placeOf s b := by
  intro b hb
  have hf := flushed_mscWrites ((s.msc.filter fun (b, e) => pageOfBillet b == p && e.dirty).map Prod.fst) he
  have hfl : flushMsc s p = ((s.msc.filter fun (b, e) => pageOfBillet b == p && e.dirty).map Prod.fst).foldl mscWrite s := rfl
  rw [← hfl] at hf
  refine storedValue_congr (by rw [hf.rest]) (by rw [hf.rest]; rfl) (by rw [hf.rest]; rfl) (runOf_flushed hf (hb.imp_right fun hn => ?_))
  rintro ⟨q, hq, hplace⟩
  obtain ⟨⟨q', x⟩, hx, rfl⟩ := List.mem_map.mp hq
  obtain ⟨hmem, hcond⟩ := List.mem_filter.mp hx
  obtain ⟨hpage, hdirty⟩ := Bool.and_eq_true_iff.mp hcond
  exact hn q' x hmem (beq_iff_eq.mp hpage) hdirty hplace.symm

theorem cachesOnly_flushMsc (s : State) (p : Nat) : CachesOnly s (flushMsc s p) := cachesOnly_foldl _ _ (fun s b => cachesOnly_mscWrite s b) s

theorem CachesOnly.migrations {s t : State} (h : CachesOnly s t) : t.migrations = s.migrations := by rw [h]

/-! ## A page is read (R86, R93) -/

theorem cachesOnly_l2Error (s : State) (line : Nat) : CachesOnly s (l2Error s line) := by
  have ht := cachesOnly_takeError s 5 line
  unfold l2Error
  split
  · exact .refl s
  · dsimp only
    split_ifs
    · exact ht
    · exact ht.trans (cachesOnly_poisonLine ..)
    · exact ht.trans (cachesOnly_updLine ..)

theorem cachesOnly_readStored (s : State) (b : Nat) : CachesOnly s (readStored s b).2 := by
  have h1 : ∀ u : State, CachesOnly u (u.takeError 1 b).2 := fun u => cachesOnly_takeError u 1 b
  have h2 := cachesOnly_takeError s 2 b
  unfold readStored
  dsimp only
  by_cases hp : ((s.billet b).bad || decide ((s.billet b).cls ≤ 1)) = true
  · rw [if_pos hp]
    exact .refl s
  · rw [if_neg hp]
    cases mapGet? s.msc b with
    | none => exact h1 s
    | some e =>
      dsimp only
      split
      · exact h2
      split
      · exact h2.trans (cachesOnly_mscDrop ..)
      · exact (h2.trans (cachesOnly_mscDrop ..)).trans (h1 _)

theorem cachesOnly_copyRead (s : State) (b : Nat) : CachesOnly s (copyRead s b).2 := by
  have h0 := (cachesOnly_l2Error s (2 * b)).trans (cachesOnly_l2Error _ (2 * b + 1))
  have h1 := h0.trans (cachesOnly_readStored (l2Error (l2Error s (2 * b)) (2 * b + 1)) b)
  unfold copyRead
  dsimp only
  split_ifs
  · exact h0
  · exact h0
  · exact h1.trans (cachesOnly_poisonBillet ..)
  · exact h1

theorem cachesOnly_pageRead (s : State) (p : Nat) : CachesOnly s (pageRead s p).2 := by
  have ht := cachesOnly_takeError s 3 p
  have hfold : ∀ (is : List Nat) (acc : Bool × State), CachesOnly acc.2
      (is.foldl (fun (acc : Bool × State) i => let (x, s) := copyRead acc.2 (p * 256 + i); (acc.1 || x, s)) acc).2 := fun is => by
    induction is with
    | nil => exact fun acc => .refl _
    | cons i is ih => exact fun acc => (cachesOnly_copyRead acc.2 (p * 256 + i)).trans (ih _)
  unfold pageRead
  generalize List.range 256 = is
  split
  · dsimp only
    split
    · exact ht.trans (cachesOnly_poisonPage ..)
    · exact ht
  · exact hfold is _

/-! ## An image in the tier (R85) -/

theorem length_blocksOf {n fuel : Nat} {img : List Byte} (h : img.length = 4096 * n) (hf : n ≤ fuel) : (blocksOf fuel img).length = n ∧ (blocksOf fuel img).flatten = img := by
  induction fuel generalizing n img with
  | zero =>
    have h0 : n = 0 := by omega
    exact ⟨h0.symm, (List.length_eq_zero_iff.mp (by rw [h, h0])).symm⟩
  | succ fuel ih =>
    rw [blocksOf]
    split
    · next he =>
      have hn : img = [] := List.isEmpty_iff.mp he
      rw [hn, List.length_nil] at h
      exact ⟨by rw [List.length_nil]; omega, hn.symm⟩
    · next he =>
      have hne : img ≠ [] := fun hn => he (List.isEmpty_iff.mpr hn)
      have hpos : 0 < img.length := List.length_pos_iff.mpr hne
      obtain ⟨h1, h2⟩ := ih (n := n - 1) (img := img.drop 4096) (by rw [List.length_drop]; omega) (by omega)
      exact ⟨by rw [List.length_cons, h1]; omega, by rw [List.flatten_cons, h2, List.take_append_drop]⟩

/-- Blocks written one after another are found at their places. -/
theorem mapGet_blocks {α β : Type} (g : Nat → β → α) (a : Nat) (m : Map α) (bs : List β) : ∀ i (hi : i < bs.length),
    mapGet? ((bs.mapIdx fun i b => (i, b)).foldl (fun m (i, b) => mapSet m (a + i) (g i b)) m) (a + i) = some (g i bs[i]) := by
  induction bs using List.reverseRecOn with
  | nil => exact fun i hi => absurd hi (Nat.not_lt_zero i)
  | append_singleton bs b ih =>
    intro i hi
    rw [List.mapIdx_concat, List.foldl_append, List.foldl_cons, List.foldl_nil, mapGet_set]
    by_cases hil : i = bs.length
    · subst hil
      rw [if_pos rfl]
      simp
    · have hlt : i < bs.length := by rw [List.length_append, List.length_singleton] at hi; omega
      rw [if_neg (by omega), ih i hlt, List.getElem_append_left hlt]

theorem flatMap_getElem {α : Type} (bs : List (List α)) : (List.range bs.length).flatMap (fun i => bs.getD i []) = bs.flatten := by
  rw [List.flatMap_def]
  refine congrArg List.flatten (List.ext_getElem (by simp) fun i hi hi' => by simp [hi'])

theorem tierRead_tierWrite (s : State) (p b : Nat) {img : List Byte} (h : img.length % 4096 = 0) : (s.tierWrite p b img).tierRead p b (img.length / 4096) = img := by
  obtain ⟨hl, hfl⟩ := length_blocksOf (n := img.length / 4096) (fuel := img.length / 4096 + 1) (img := img) (by omega) (by omega)
  have hget := mapGet_blocks (fun i x => encrypt (s.keyOf p) (p * 32 + i) x) b s.tierData (blocksOf (img.length / 4096 + 1) img)
  have hkey : (s.tierWrite p b img).keyOf p = s.keyOf p := rfl
  have hdata : (s.tierWrite p b img).tierData = ((blocksOf (img.length / 4096 + 1) img).mapIdx fun i b => (i, b)).foldl
    (fun m (i, x) => mapSet m (b + i) (encrypt (s.keyOf p) (p * 32 + i) x)) s.tierData := rfl
  rw [State.tierRead, hdata, hkey]
  refine Eq.trans ?_ ((flatMap_getElem (blocksOf (img.length / 4096 + 1) img)).trans hfl)
  rw [hl]
  refine List.flatMap_congr fun i hi => ?_
  have hi' : i < (blocksOf (img.length / 4096 + 1) img).length := by rw [hl]; exact List.mem_range.mp hi
  rw [hget i hi']
  simp [decrypt, encrypt, hi']

end Sys2Proof.Machine
end

section
/-! PROOFS. Chipper's demotions and promotions (R85 to R91, R303, R419); O54 is put together here. -/

namespace Sys2Proof.Machine

theorem SameRuns.storedAs_trans {s t u : State} {P : Nat → Prop} (k : SameRuns t u) (h : StoredAs s t P) : StoredAs s u P :=
  fun b hb => (k.storedAs (fun _ => True) b trivial).trans (h b hb)

theorem tierRead_congr {s t : State} {p : Nat} (hd : t.tierData = s.tierData) (hk : t.keyOf p = s.keyOf p) (b n : Nat) : t.tierRead p b n = s.tierRead p b n := by
  rw [State.tierRead, State.tierRead, hd, hk]

theorem setChcmd_chcmd (s : State) (op p st : Nat) : (setChcmd s op p st).regs.chcmd = BitVec.ofNat 64 (op * 2 ^ 62 + p % 2 ^ 32 * 2 ^ 16 + st) := by
  rw [setChcmd, State.updReg]

theorem updReg_eq (s : State) (f : Regs → Regs) : s.updReg f = { s with regs := (s.updReg f).regs } := rfl
theorem setChcmd_eq (s : State) (op p st : Nat) : setChcmd s op p st = { s with regs := (setChcmd s op p st).regs } := updReg_eq ..
theorem endChcmd_eq (s : State) (op p st : Nat) : endChcmd s op p st = { s with regs := (endChcmd s op p st).regs } := by
  unfold endChcmd
  split
  · exact setChcmd_eq ..
  · rfl

theorem pageOfBillet_mul (p : Nat) {i : Nat} (hi : i < 256) : pageOfBillet (p * 256 + i) = p := by unfold pageOfBillet; omega

section
variable {s : State} {p : Nat}

/-! ## A demotion begins (R89, R90) -/

/-- With no billet of the page open, a demotion begins with the flush of the memory-side cache. -/
theorem startDemotion_calm (hc : s.billets.any (fun (b, d) => pageOfBillet b == p && d.opened) = false) :
    startDemotion s p = flushMsc { s with migrations := s.migrations ++ [{ page := p, up := false }] } p := by
  have hf : (s.billets.filter fun (b, d) => pageOfBillet b == p && d.opened) = [] := List.filter_eq_nil_iff.mpr fun x hx => List.any_eq_false.mp hc x hx
  simp only [startDemotion, flushPage, hf, List.map_nil, List.foldl_nil]

theorem startDemotion_spec (hc : s.billets.any (fun (b, d) => pageOfBillet b == p && d.opened) = false) : let u := startDemotion s p
    u.mem = s.mem ∧ (s.errors = [] → StoredAs s u fun b => (mapGet? s.msc b).isSome = true ∨
      ∀ q x, (q, x) ∈ s.msc → pageOfBillet q = p → x.dirty = true → placeOf s q ≠ placeOf s b) ∧ u.migrations = s.migrations ++ [{ page := p, up := false }] := by
  have hk := cachesOnly_flushMsc { s with migrations := s.migrations ++ [{ page := p, up := false }] } p
  intro u
  rw [show u = _ from startDemotion_calm hc]
  exact ⟨hk.mem, fun he => storedAs_flushMsc (s := { s with migrations := s.migrations ++ [{ page := p, up := false }] }) he p, hk.migrations⟩

/-- A page that is hot, of fixed size, or one too many may not be demoted (R89, R303). -/
theorem mayDemote_barred {g : Page} (hg : s.page p = some g) (h : s.ns < g.hotUntil ∨ g.fixed = true ∨ 8 ≤ s.migrations.length) : mayDemote s p = false := by
  simp only [mayDemote, hg]
  rcases h with h | h | h
  · simp [Nat.not_le.mpr h]
  · simp [h]
  · simp [Nat.not_lt.mpr h]

theorem chipperDemote_may (hm : mayDemote s p = true) : exec (.chipperDemote p) s = .next (setChcmd (startDemotion s p) 1 p 1) := by
  rw [exec_chipperDemote, execChipperDemote, if_pos hm]
theorem chipperDemote_not (hm : mayDemote s p = false) : exec (.chipperDemote p) s = .next (setChcmd s 1 p 2) := by
  rw [exec_chipperDemote, execChipperDemote, hm, if_neg Bool.false_ne_true]

/-! ## The copy (R90 step 3) -/

/-- An image is written to tier blocks, and the page's record and migration say so. -/
def imageCopied (v : State) (p b : Nat) (img : List Byte) : State :=
  updMig ((v.tierWrite p b img).updPage p fun g => { g with tierBlock := b, tierLen := img.length / 4096 }) p fun m => { m with stage := 1, dirty := false }

theorem sameRuns_imageCopied (v : State) (p b : Nat) (img : List Byte) : SameRuns v (imageCopied v p b img) := by
  have hf : ∀ g : Page, ({ g with tierBlock := b, tierLen := img.length / 4096 } : Page).identity = g.identity := fun _ => rfl
  exact ((sameRuns_tierWrite v p b img).trans (sameRuns_updPage _ p _ hf)).trans (sameRuns_updMig ..)

theorem imageCopied_tierData (v : State) (p b : Nat) (img : List Byte) : (imageCopied v p b img).tierData = (v.tierWrite p b img).tierData :=
  updPage_tierData (v.tierWrite p b img) p fun g => { g with tierBlock := b, tierLen := img.length / 4096 }

theorem imageCopied_tierRead (v : State) (p b : Nat) {img : List Byte} (h : img.length % 4096 = 0) : (imageCopied v p b img).tierRead p b (img.length / 4096) = img := by
  have hkey := ((sameRuns_imageCopied v p b img).keyOf p).trans ((sameRuns_tierWrite v p b img).keyOf p).symm
  exact (tierRead_congr (imageCopied_tierData v p b img) hkey ..).trans (tierRead_tierWrite v p b h)

theorem imageCopied_page {v : State} {p b : Nat} {img : List Byte} (h : (v.page p).isSome = true) :
    ∃ g, (imageCopied v p b img).page p = some g ∧ g.tierBlock = b ∧ g.tierLen = img.length / 4096 := by
  obtain ⟨g, hg⟩ := Option.isSome_iff_exists.mp h
  have hu := page_updPage (v.tierWrite p b img) p p fun g => { g with tierBlock := b, tierLen := img.length / 4096 }
  rw [if_pos rfl, show (v.tierWrite p b img).page p = some g from hg] at hu
  exact ⟨_, hu, rfl, rfl⟩

theorem imageCopied_findMig {v : State} {p b : Nat} {img : List Byte} {m : Migration} (h : findMig v p false = some m) :
    ∃ m', findMig (imageCopied v p b img) p false = some m' ∧ m'.stage = 1 ∧ m'.dirty = false :=
  ⟨_, findMig_updMig (f := fun m => { m with stage := 1, dirty := false }) (fun _ => rfl) (fun _ => rfl) ((findMig_congr (updPage_migrations ..) p false).trans h), rfl, rfl⟩

theorem demotionCopy_copies {m : Migration} {b : Nat} {v : State} {ws : List (List Word)} (hm : findMig s p false = some m) (hst : m.stage = 0)
    (hc : s.billets.any (fun (b, d) => pageOfBillet b == p && d.opened) = false) (hr : pageRead (flushMsc s p) p = (false, v)) (hw : pageWords v p = some ws)
    (hb : tierRun v ((tierImage ws).length / 4096) = some b) : exec (.demotionCopy p) s = .next (imageCopied v p b (tierImage ws)) := by
  simp only [exec_demotionCopy, execDemotionCopy, hm, hst, hc, hr, hw, hb, ne_eq, not_true_eq_false, Bool.false_eq_true, if_false, imageCopied]

theorem mem_pageRead_flushMsc {v : State} {x : Bool} (hr : pageRead (flushMsc s p) p = (x, v)) : v.mem = s.mem := by
  have h := cachesOnly_pageRead (flushMsc s p) p
  rw [hr] at h
  exact h.mem.trans (cachesOnly_flushMsc s p).mem

/-! ## The freeze (R90 steps 4 to 8) -/

theorem freeze_poisoned {m : Migration} (hm : findMig s p false = some m) (hst : m.stage = 1) (hp : pagePoisoned s p = true) :
    exec (.freeze p) s = .next (abandonMigration s p) := by
  simp [execFreeze, hm, hst, hp]

theorem freeze_begins {m : Migration} (hm : findMig s p false = some m) (hst : m.stage = 1) (hp : pagePoisoned s p = false) (hc : pageCalm s p = false)
    (hf : m.frozen = false) : Happens (.freeze p) s fun u => u.mem = s.mem ∧ StoredAs s u (fun _ => True) ∧ ∃ m', findMig u p false = some m' ∧ m'.frozen = true :=
  ⟨updMig s p fun m => { m with frozen := true }, by simp [execFreeze, hm, hst, hp, hc, freezePage, hf], rfl, (sameRuns_updMig ..).storedAs _,
    _, findMig_updMig (f := fun m => { m with frozen := true }) (fun _ => rfl) (fun _ => rfl) hm, rfl⟩

theorem freeze_again {m : Migration} (hm : findMig s p false = some m) (hst : m.stage = 1) (hp : pagePoisoned s p = false) (hc : pageCalm s p = true)
    (hd : m.dirty = true) (hr : m.retries < chRetry s) : Happens (.freeze p) s fun u => u.mem = s.mem ∧ StoredAs s u (fun _ => True) ∧
      ∃ m', findMig u p false = some m' ∧ m'.stage = 0 ∧ m'.retries = m.retries + 1 := by
  obtain ⟨x, hx⟩ : ∃ x, x = s.updPage p fun g => { g with tierLen := 0, tierBlock := 0 } := ⟨_, rfl⟩
  have hk : SameRuns s x := by
    rw [hx]
    refine sameRuns_updPage _ _ _ ?_
    exact fun _ => rfl
  have hku := hk.trans (sameRuns_updMig x p fun m => { m with stage := 0, frozen := false, retries := m.retries + 1 })
  refine ⟨updMig x p fun m => { m with stage := 0, frozen := false, retries := m.retries + 1 }, ?_, hku.mem, hku.storedAs _,
    _, findMig_updMig (f := fun m => { m with stage := 0, frozen := false, retries := m.retries + 1 }) (fun _ => rfl) (fun _ => rfl) ((findMig_congr ?_ p false).trans hm), rfl, rfl⟩
  · simp [execFreeze, hm, hst, hp, hc, hd, Nat.not_le.mpr hr, hx]
  · rw [hx, updPage_migrations]

/-! ## The commit (R90 step 6) -/

/-- The page's runs return to their frames, and its entries of the memory-side cache go. -/
def dropRuns (s : State) (bs : List (Nat × Billet)) : State :=
  bs.foldl (fun s (b, d) => mscDrop (if d.count > 0 then freeRun s d.stack d.sect.toNat d.nsec else s) b) s

theorem freeRun_eq (s : State) (st f n : Nat) : freeRun s st f n = { s with frames := (freeRun s st f n).frames } := by
  unfold freeRun
  split <;> rfl

theorem dropRuns_spec (bs : List (Nat × Billet)) (s : State) : dropRuns s bs = { s with msc := (dropRuns s bs).msc, frames := (dropRuns s bs).frames } ∧
    ∀ b, (∀ x ∈ bs, x.1 ≠ b) → mapGet? (dropRuns s bs).msc b = mapGet? s.msc b := by
  induction bs generalizing s with
  | nil => exact ⟨rfl, fun _ _ => rfl⟩
  | cons x bs ih =>
    obtain ⟨y, hy⟩ : ∃ y, y = if x.2.count > 0 then freeRun s x.2.stack x.2.sect.toNat x.2.nsec else s := ⟨_, rfl⟩
    have hys : y = { s with frames := y.frames } := by
      rw [hy]
      split
      · exact freeRun_eq ..
      · rfl
    have hcons : dropRuns s (x :: bs) = dropRuns (mscDrop y x.1) bs := by rw [hy]; rfl
    obtain ⟨h1, h2⟩ := ih (mscDrop y x.1)
    refine ⟨?_, fun b hb => ?_⟩
    · rw [hcons, h1, mscDrop, hys]
    · rw [hcons, h2 b fun z hz => hb z (List.mem_cons_of_mem _ hz), mscDrop, mapGet_erase, if_neg (Ne.symm (hb x List.mem_cons_self)), hys]

/-- Billets of a page changed one after the other. -/
theorem updBillets_spec (s : State) (p : Nat) (g : Nat → Billet → Billet) (n : Nat) : let t := (List.range n).foldl (fun s i => s.updBillet (p * 256 + i) (g i)) s
    t = { s with billets := t.billets } ∧ (∀ i < n, t.billet (p * 256 + i) = g i (s.billet (p * 256 + i))) ∧
      ∀ b, (∀ i < n, b ≠ p * 256 + i) → t.billet b = s.billet b := by
  induction n with
  | zero => exact ⟨rfl, fun i hi => absurd hi (Nat.not_lt_zero i), fun _ _ => rfl⟩
  | succ n ih =>
    obtain ⟨h1, h2, h3⟩ := ih
    intro t
    have ht : t = State.updBillet ((List.range n).foldl (fun s i => s.updBillet (p * 256 + i) (g i)) s) (p * 256 + n) (g n) := by
      show (List.range (n + 1)).foldl (fun s i => State.updBillet s (p * 256 + i) (g i)) s = _
      rw [List.range_succ, List.foldl_append, List.foldl_cons, List.foldl_nil]
    refine ⟨by rw [ht, State.updBillet, h1], fun i hi => ?_, fun b hb => ?_⟩
    · rw [ht, billet_updBillet]
      split
      · next hin => rw [h3 _ fun j hj => by omega, show i = n by omega]
      · next hin => exact h2 i (by omega)
    · rw [ht, billet_updBillet, if_neg (hb n (Nat.lt_succ_self n))]
      exact h3 b fun i hi => hb i (Nat.lt_succ_of_lt hi)

theorem poolGive_eq (s : State) (v n : Nat) : s.poolGive v n = { s with vds := (s.poolGive v n).vds, pool := (s.poolGive v n).pool } := rfl

/-- A billet's descriptor in the tier (R86). -/
def inBlock (block : Nat) (d : Billet) : Billet := { d with loc := 1, stack := 0, sect := tierSect block }

theorem commitDemotion_spec (s : State) (p block : Nat) : let u := commitDemotion s p block
    (u = { s with
      msc := u.msc, frames := u.frames, billets := u.billets, vds := u.vds, pool := u.pool, tier := mapSet s.tier p block,
      migrations := (s.migrations.filter fun m => !(m.page == p && !m.up)), regs := u.regs }) ∧
    (∀ b, pageOfBillet b ≠ p → mapGet? u.msc b = mapGet? s.msc b ∧ u.billet b = s.billet b) ∧
    ∀ i < 256, u.billet (p * 256 + i) = inBlock block (s.billet (p * 256 + i)) := by
  intro u
  obtain ⟨bs, hbs⟩ : ∃ bs, bs = s.billets.filter fun (b, _) => pageOfBillet b == p := ⟨_, rfl⟩
  obtain ⟨h1, h1m⟩ := dropRuns_spec bs s
  obtain ⟨s1, hs1⟩ : ∃ s1, s1 = dropRuns s bs := ⟨_, rfl⟩
  obtain ⟨h2, h2b, h2o⟩ := updBillets_spec s1 p (fun _ => inBlock block) 256
  obtain ⟨s2, hs2⟩ : ∃ s2, s2 = (List.range 256).foldl (fun s i => s.updBillet (p * 256 + i) (inBlock block)) s1 := ⟨_, rfl⟩
  rw [← hs2] at h2 h2b h2o
  rw [← hs1] at h1 h1m
  obtain ⟨s3, hs3⟩ : ∃ s3, s3 = s2.poolGive (s2.vdOfPage p) (bs.foldl (fun a (x : Nat × Billet) => a + x.2.held) 0) := ⟨_, rfl⟩
  have h3 : s3 = { s2 with vds := s3.vds, pool := s3.pool } := by rw [hs3]; exact poolGive_eq ..
  have hu : u = endChcmd { s3 with tier := mapSet s3.tier p block, migrations := s3.migrations.filter fun m => !(m.page == p && !m.up) } 1 p 0 := by
    rw [hs3, hs2, hs1, hbs]; rfl
  have h4 : u = { s3 with tier := mapSet s3.tier p block, migrations := (s3.migrations.filter fun m => !(m.page == p && !m.up)), regs := u.regs } := by
    rw [hu]; exact endChcmd_eq ..
  have hub : u.billets = s2.billets := by rw [h4, h3]
  have hum : u.msc = s1.msc := by rw [h4, h3, h2]
  have hbillet : ∀ b, u.billet b = s2.billet b := fun b => by rw [State.billet, hub]; rfl
  have hb1 : ∀ b, s1.billet b = s.billet b := fun b => by rw [h1]; rfl
  refine ⟨by rw [h4, h3, h2, h1], fun b hb => ⟨?_, ?_⟩, fun i hi => ?_⟩
  · rw [hum]
    refine h1m b fun x hx hxb => hb ?_
    rw [hbs, List.mem_filter] at hx
    exact hxb ▸ beq_iff_eq.mp hx.2
  · rw [hbillet, h2o b fun i hi he => hb (he ▸ pageOfBillet_mul p hi), hb1]
  · rw [hbillet, h2b i hi, hb1]

theorem freeze_commits {m : Migration} {g : Page} (hm : findMig s p false = some m) (hst : m.stage = 1) (hp : pagePoisoned s p = false) (hcalm : pageCalm s p = true)
    (hd : m.dirty = false) (hh : heldStores s p = false) (hc : s.billets.any (fun (b, d) => pageOfBillet b == p && d.opened) = false) (hg : s.page p = some g) :
    Happens (.freeze p) s fun u => u.mem = s.mem ∧ StoredAs s u (fun b => pageOfBillet b ≠ p) ∧ tierValue u p = tierValue s p ∧ findMig u p false = none ∧
      mapGet? u.tier p = some g.tierBlock ∧ ∀ i, i < 256 → (u.billet (p * 256 + i)).loc = 1 ∧ (u.billet (p * 256 + i)).sect = tierSect g.tierBlock := by
  obtain ⟨hrest, hother, hpage⟩ := commitDemotion_spec s p g.tierBlock
  obtain ⟨u, hu⟩ : ∃ u, u = commitDemotion s p g.tierBlock := ⟨_, rfl⟩
  rw [← hu] at hrest hother hpage
  have hmem : u.mem = s.mem := by rw [hrest]
  refine ⟨u, ?_, hmem, fun b hb => ?_, ?_, ?_, ?_, fun i hi => ?_⟩
  · simp only [exec_freeze, execFreeze, hm, hst, hp, hcalm, hd, hh, hc, hg, hu, Option.map_some, Option.getD_some, ne_eq, not_true_eq_false, Bool.not_true, Bool.or_self,
      Bool.false_eq_true, if_false]
  · obtain ⟨hmsc, hbil⟩ := hother b hb
    refine storedValue_congr hmem (by rw [hrest]; rfl) hbil ?_
    rw [runOf, runOf, hmsc, placeOf, hbil, show u.hbm = s.hbm by rw [hrest]]
    rfl
  · exact tierValue_congr (by rw [hrest]) (by rw [hrest]) (by rw [hrest]; rfl)
  · refine findMig_none fun x hx hxp => ?_
    rw [hrest] at hx
    have := (List.mem_filter.mp hx).2
    simp [hxp.1, hxp.2] at this
  · rw [hrest]
    exact (mapGet_set ..).trans (if_pos rfl)
  · rw [hpage i hi]
    exact ⟨rfl, rfl⟩

/-! ## Promotions (R88, R91) -/

theorem promoting_false (h : ∀ m ∈ s.migrations, m.page ≠ p) : promoting s p = false := List.any_eq_false.mpr fun m hm => by simp [h m hm]

theorem chipperPromote_may (ht : inTier s p = true) (hno : ∀ m ∈ s.migrations, m.page ≠ p) (hlen : s.migrations.length < 8)
    (hpool : promotionNeed s p ≤ s.poolOf (s.vdOfPage p)) :
    exec (.chipperPromote p) s = .next (setChcmd { s with migrations := s.migrations ++ [{ page := p, up := true }] } 2 p 1) := by
  have hany : (s.migrations.any fun m => m.page == p) = false := List.any_eq_false.mpr fun m hm => by simp [hno m hm]
  simp [execChipperPromote, ht, promoting_false hno, Nat.not_le.mpr hlen, Nat.not_lt.mpr hpool, startPromotion, hany]

theorem chipperPromote_not (h : inTier s p = false ∨ 8 ≤ s.migrations.length) : exec (.chipperPromote p) s = .next (setChcmd s 2 p 2) := by
  rcases h with h | h <;> simp [execChipperPromote, h]

/-- One billet's run of a promotion. -/
def runStep (p : Nat) (ws : Option (List (List Word))) (acc : Option (List (Nat × Nat) × State)) (i : Nat) : Option (List (Nat × Nat) × State) := acc.bind fun (rs, s) =>
  let b := p * 256 + i
  let d := s.billet b
  if d.count = 0 then some (rs ++ [(0, 0)], s)
  else (allocRun s b d.nsec).map fun (st, f, s) =>
    (rs ++ [(st, f)], match ws with | some ws => s.hbmWrite st f (s.sealRun b (runBytes d.cls d.nsec (ws.getD i []))) | none => s)

theorem writeRuns_steps (s : State) (p : Nat) (ws : Option (List (List Word))) : writeRuns s p ws = (List.range 256).foldl (runStep p ws) (some ([], s)) := rfl

/-- The run that a promotion writes for a billet of the page. -/
def promotedRun (s : State) (p : Nat) (ws : List (List Word)) (i : Nat) : Sealed :=
  s.sealRun (p * 256 + i) (runBytes (s.billet (p * 256 + i)).cls (s.billet (p * 256 + i)).nsec (ws.getD i []))
/-- Where a list of runs puts a billet's. -/
def runAt (rs : List (Nat × Nat)) (i : Nat) : Nat := runPlace (rs.getD i (0, 0)).1 (rs.getD i (0, 0)).2

theorem runStep_some {ws : List (List Word)} {rs rs' : List (Nat × Nat)} {t t' : State} {i : Nat} (h : runStep p (some ws) (some (rs, t)) i = some (rs', t')) :
    ∃ x, rs' = rs ++ [x] ∧ (t' = { t with frames := t'.frames, hbm := t'.hbm }) ∧
      t'.hbm = if (t.billet (p * 256 + i)).count = 0 then t.hbm else mapSet t.hbm (runPlace x.1 x.2) (promotedRun t p ws i) := by
  simp only [runStep, Option.bind_some] at h
  split at h
  · next hc =>
    cases h
    exact ⟨(0, 0), rfl, rfl, by rw [if_pos hc]⟩
  · next hc =>
    obtain ⟨⟨st, f, v⟩, hv, he⟩ := Option.map_eq_some_iff.mp h
    have hf := allocRun_frames hv
    cases he
    refine ⟨(st, f), rfl, by rw [State.hbmWrite, hf], ?_⟩
    rw [if_neg hc, hf]
    rfl

/-- The first n billets' runs are written: each stands at its place where no other has it, and no other place changes. -/
structure RunsWritten (s : State) (p : Nat) (ws : List (List Word)) (n : Nat) (rs : List (Nat × Nat)) (t : State) : Prop where
  length : rs.length = n
  rest : t = { s with frames := t.frames, hbm := t.hbm }
  other : ∀ x, (∀ i < n, (s.billet (p * 256 + i)).count ≠ 0 → runAt rs i ≠ x) → mapGet? t.hbm x = mapGet? s.hbm x
  written : ∀ i < n, (s.billet (p * 256 + i)).count ≠ 0 → (∀ j < n, (s.billet (p * 256 + j)).count ≠ 0 → j ≠ i → runAt rs j ≠ runAt rs i) →
    mapGet? t.hbm (runAt rs i) = some (promotedRun s p ws i)

theorem runsWritten {ws : List (List Word)} (n : Nat) {rs : List (Nat × Nat)} {t : State} (h : (List.range n).foldl (runStep p (some ws)) (some ([], s)) = some (rs, t)) :
    RunsWritten s p ws n rs t := by
  induction n generalizing rs t with
  | zero =>
    cases h
    exact ⟨rfl, rfl, fun _ _ => rfl, fun i hi => absurd hi (Nat.not_lt_zero i)⟩
  | succ n ih =>
    rw [List.range_succ, List.foldl_append, List.foldl_cons, List.foldl_nil] at h
    cases hprev : (List.range n).foldl (runStep p (some ws)) (some ([], s)) with
    | none => rw [hprev] at h; cases h
    | some r =>
      obtain ⟨rs0, t0⟩ := r
      rw [hprev] at h
      have h0 := ih hprev
      obtain ⟨x, rfl, hrest, hhbm⟩ := runStep_some h
      have hold : ∀ i < n, runAt (rs0 ++ [x]) i = runAt rs0 i := fun i hi => by
        rw [runAt, runAt, List.getD_append _ _ _ _ (by rw [h0.length]; exact hi)]
      have hnew : runAt (rs0 ++ [x]) n = runPlace x.1 x.2 := by rw [runAt, ← h0.length]; simp
      have hbil : ∀ b, t0.billet b = s.billet b := fun b => by rw [h0.rest]; rfl
      have hrun : promotedRun t0 p ws n = promotedRun s p ws n := by rw [h0.rest]; rfl
      rw [hbil, hrun, ← hnew] at hhbm
      refine ⟨by rw [List.length_append, h0.length]; rfl, by rw [hrest, h0.rest], fun y hy => ?_, fun i hi hu hd => ?_⟩
      · have h1 := h0.other y fun i hi hu => hold i hi ▸ hy i (Nat.lt_succ_of_lt hi) hu
        rw [hhbm]
        split
        · exact h1
        · next hc => rw [mapGet_set, if_neg (Ne.symm (hy n (Nat.lt_succ_self n) hc)), h1]
      · rw [hhbm]
        by_cases hin : i = n
        · subst hin
          rw [if_neg hu, mapGet_set, if_pos rfl]
        · have hlt : i < n := by omega
          have h1 := h0.written i hlt hu fun j hj hju hji => by
            have := hd j (Nat.lt_succ_of_lt hj) hju hji
            rwa [hold j hj, hold i hlt] at this
          rw [hold i hlt]
          split
          · exact h1
          · next hc =>
            have hne := hd n (Nat.lt_succ_self n) hc (Ne.symm hin)
            rw [hold i hlt] at hne
            rw [mapGet_set, if_neg (Ne.symm hne), h1]

theorem promotion_spec {m : Migration} {ws : List (List Word)} {rs : List (Nat × Nat)} {w : State} (hm : findMig s p true = some m) (hst : m.stage = 0)
    (ht : inTier s p = true) (hpool : promotionNeed s p ≤ s.poolOf (s.vdOfPage p)) (he : s.errors = []) (hv : tierValue s p = some ws)
    (hw : writeRuns (s.poolTake (s.vdOfPage p) (promotionNeed s p)) p (some ws) = some (rs, w)) (hmw : findMig w p true = some m) : Happens (.promotion p) s fun u => u.mem = s.mem ∧
      tierValue u p = tierValue s p ∧ StoredAs s u (fun b => (mapGet? s.msc b).isSome = true ∨ ∀ i, i < 256 ∧ (s.billet (p * 256 + i)).count ≠ 0 → runAt rs i ≠ placeOf s b) ∧
      (∀ i, i < 256 ∧ (s.billet (p * 256 + i)).count ≠ 0 → (∀ j, j < 256 ∧ (s.billet (p * 256 + j)).count ≠ 0 → j ≠ i → runAt rs j ≠ runAt rs i) →
        mapGet? u.hbm (runAt rs i) = some (promotedRun s p ws i)) ∧
      ∃ m', findMig u p true = some m' ∧ m'.stage = 1 ∧ m'.runs = rs := by
  rw [writeRuns_steps] at hw
  have hr := runsWritten 256 hw
  rw [← writeRuns_steps] at hw
  have hrest := hr.rest
  have hmem : w.mem = s.mem := by rw [hrest]; rfl
  have hbil : ∀ b, w.billet b = s.billet b := fun b => by rw [hrest]; rfl
  have hmsc : w.msc = s.msc := by rw [hrest]; rfl
  have hkey : ∀ q, w.keyOf q = s.keyOf q := fun q => by rw [hrest]; rfl
  have hstored : StoredAs s w fun b => (mapGet? s.msc b).isSome = true ∨ ∀ i, i < 256 ∧ (s.billet (p * 256 + i)).count ≠ 0 → runAt rs i ≠ placeOf s b := fun b hb => by
    refine storedValue_congr hmem (hkey _) (hbil b) ?_
    rw [runOf, runOf, hmsc, placeOf, hbil b]
    cases hb' : mapGet? s.msc b with
    | some e => rfl
    | none => exact hr.other _ fun i hi hu => hb.resolve_left (by simp [hb']) i ⟨hi, hu⟩
  refine ⟨updMig w p fun m => { m with stage := 1, runs := rs }, ?_, hmem, ?_, (sameRuns_updMig ..).storedAs_trans hstored, fun i hi hd => ?_,
    _, findMig_updMig (f := fun m => { m with stage := 1, runs := rs }) (fun _ => rfl) (fun _ => rfl) hmw, rfl, rfl⟩
  · have hcond : (!inTier s p || decide (s.poolOf (s.vdOfPage p) < promotionNeed s p)) = false := by simp [ht, Nat.not_lt.mpr hpool]
    simp only [exec_promotion, execPromotion, hm, hst, hcond, takeError_none he, hv, hw, ne_eq, not_true_eq_false, Bool.false_eq_true, if_false, Option.isNone_some]
  · exact tierValue_congr (by rw [show (updMig w p _).tierData = w.tierData from rfl, hrest]; rfl) (by rw [show (updMig w p _).slovi = w.slovi from rfl, hrest]; rfl)
      (by rw [show (updMig w p _).page p = w.page p from rfl, hrest]; rfl)
  · exact hr.written i hi.1 hi.2 fun j hj hju hji => hd j ⟨hj, hju⟩ hji

/-! ## The commit of a promotion (R91 steps 3 to 5) -/

/-- A billet's descriptor once its page is back in HBM4. -/
def backAt (ws : List (List Word)) (rs : List (Nat × Nat)) (i : Nat) (d : Billet) : Billet :=
  { d with loc := 0, stack := (rs.getD i (0, 0)).1, sect := if d.cls = 1 then (ws.getD i []).headD 0 else BitVec.ofNat 32 (rs.getD i (0, 0)).2 }

theorem storedValue_run {s t : State} {b : Nat} (hm : t.mem = s.mem) (hk : t.keyOf (pageOfBillet b) = s.keyOf (pageOfBillet b)) (hb : (t.billet b).bad = (s.billet b).bad)
    (hc : (t.billet b).cls = (s.billet b).cls) (hn : (t.billet b).nsec = (s.billet b).nsec) (h2 : 2 ≤ (s.billet b).cls) :
    storedValue t b = runValue s b (runOf t b) := by
  rw [storedValue_eq, hb, hc, if_neg (show ¬ (s.billet b).cls ≤ 1 by omega), runValue_of hm hk hb hc hn]
  split
  · next hbad => exact (if_pos hbad).symm
  · rfl

theorem promotionCommit_spec {m : Migration} (hm : findMig s p true = some m) (hst : m.stage = 1) (hc : pageCalm s p = true) :
    Happens (.promotionCommit p) s fun u => u.mem = s.mem ∧ inTier u p = false ∧ StoredAs s u (fun b => pageOfBillet b ≠ p) ∧ findMig u p true = none ∧
      ∀ i, i < 256 → let b := p * 256 + i
        (u.billet b).loc = 0 ∧ (u.billet b).stack = (m.runs.getD i (0, 0)).1 ∧
        (∀ ws, tierValue s p = some ws → (s.billet b).cls = 1 → (u.billet b).sect = (ws.getD i []).headD 0) ∧
        (2 ≤ (s.billet b).cls → (m.runs.getD i (0, 0)).2 < 2 ^ 32 → mapGet? s.msc b = none →
          storedValue u b = runValue s b (mapGet? s.hbm (runPlace (m.runs.getD i (0, 0)).1 (m.runs.getD i (0, 0)).2))) := by
  obtain ⟨ws0, hws0⟩ : ∃ ws0, ws0 = (tierValue s p).getD [] := ⟨_, rfl⟩
  obtain ⟨h1, h1b, h1o⟩ := updBillets_spec s p (backAt ws0 m.runs) 256
  obtain ⟨s1, hs1⟩ : ∃ s1, s1 = (List.range 256).foldl (fun s i => s.updBillet (p * 256 + i) (backAt ws0 m.runs i)) s := ⟨_, rfl⟩
  rw [← hs1] at h1 h1b h1o
  obtain ⟨s2, hs2⟩ : ∃ s2, s2 = (freeTier s1 p).updPage p fun g => { g with shortReported := false } := ⟨_, rfl⟩
  obtain ⟨u, hu⟩ : ∃ u, u = endChcmd { s2 with migrations := s2.migrations.filter fun m => !(m.page == p && m.up) } 2 p 0 := ⟨_, rfl⟩
  have hk : SameRuns s1 u := by
    rw [hu, hs2]
    refine (((sameRuns_freeTier s1 p).trans (sameRuns_updPage _ _ _ ?_)).trans (sameRuns_migrations ..)).trans (sameRuns_endChcmd ..)
    exact fun _ => rfl
  have hmem : u.mem = s.mem := hk.mem.trans (by rw [h1])
  have hkey : ∀ q, u.keyOf q = s.keyOf q := fun q => (hk.keyOf q).trans (by rw [h1]; rfl)
  have hmsc : u.msc = s.msc := hk.msc.trans (by rw [h1])
  have hhbm : u.hbm = s.hbm := hk.hbm.trans (by rw [h1])
  refine ⟨u, ?_, hmem, ?_, fun b hb => ?_, findMig_none fun x hx hxp => ?_, fun i hi => ?_⟩
  · simp only [exec_promotionCommit, execPromotionCommit, hm, hst, hc, ne_eq, not_true_eq_false, if_false, Bool.not_true, Bool.false_eq_true, ← hws0]
    rw [hu, hs2, hs1]
    rfl
  · rw [inTier, hu, endChcmd_tier, hs2, updPage_tier]
    show (mapGet? (mapErase _ p) p).isSome = false
    rw [mapGet_erase, if_pos rfl]
    rfl
  · have hbil : u.billet b = s.billet b := (hk.billet b).trans (h1o b fun i hi he => hb (he ▸ pageOfBillet_mul p hi))
    refine storedValue_congr hmem (hkey _) hbil ?_
    rw [runOf, runOf, hmsc, hhbm, placeOf, hbil]
    rfl
  · rw [hu, endChcmd_migrations] at hx
    have := (List.mem_filter.mp hx).2
    simp [hxp.1, hxp.2] at this
  · intro b
    have hbil : u.billet b = backAt ws0 m.runs i (s.billet b) := (hk.billet b).trans (h1b i hi)
    rw [hbil]
    refine ⟨rfl, rfl, fun ws hv hcls => ?_, fun h2 hf hno => ?_⟩
    · rw [backAt, if_pos hcls, hws0, hv, Option.getD_some]
    · rw [storedValue_run hmem (hkey _) (by rw [hbil]; rfl) (by rw [hbil]; rfl) (by rw [hbil]; rfl) h2, runOf, hmsc, hno, hhbm, placeOf, hbil]
      simp only [backAt, if_neg (show ¬ (s.billet b).cls = 1 by omega), BitVec.toNat_ofNat, Nat.mod_eq_of_lt hf]

end

theorem migrates : Part.Migrates := by
  intro s w p flushed calm cmd
  refine ⟨fun g hg hen hcold hmay hc => ?_, fun hmay hc => ?_, fun hnot => ?_, fun g hg hbar => ?_, fun ht hno hlen hpool => ?_, fun hbar => ?_, fun m hm hret => ?_,
    fun m b v ws hm hst hc hr hw hb hp hmv => ?_, fun m hm hst hp => ?_, fun m hm hst hp hcalm hf => freeze_begins hm hst hp hcalm hf,
    fun m g hm hst hp hcalm hd hh hc hg => freeze_commits hm hst hp hcalm hd hh hc hg, fun m hm hst hp hcalm hd hr => freeze_again hm hst hp hcalm hd hr,
    fun m ws rs hm hst ht hpool he hv hw hmw => promotion_spec hm hst ht hpool he hv hw hmw, fun m hm hst hc => promotionCommit_spec hm hst hc⟩
  · exact ⟨startDemotion s p, by simp [execChipperSelect, hg, hen, hcold, hmay], startDemotion_spec hc⟩
  · obtain ⟨hmem, hst, hmig⟩ := startDemotion_spec hc
    have hk := sameRuns_setChcmd (startDemotion s p) 1 p 1
    refine ⟨_, chipperDemote_may hmay, setChcmd_chcmd .., hk.mem.trans hmem, fun he => hk.storedAs_trans (hst he), ?_⟩
    rw [setChcmd_eq]
    exact hmig
  · refine ⟨_, chipperDemote_not hnot, setChcmd_chcmd .., (sameRuns_setChcmd ..).mem, ?_⟩
    rw [setChcmd_eq]
  · refine ⟨_, chipperDemote_not (mayDemote_barred hg hbar), setChcmd_chcmd .., (sameRuns_setChcmd ..).mem, ?_⟩
    rw [setChcmd_eq]
  · have hk := (sameRuns_migrations s (s.migrations ++ [{ page := p, up := true }])).trans (sameRuns_setChcmd _ 2 p 1)
    refine ⟨_, chipperPromote_may ht hno hlen hpool, setChcmd_chcmd .., hk.mem, hk.storedAs _, ?_⟩
    rw [setChcmd_eq]
  · refine ⟨_, chipperPromote_not hbar, setChcmd_chcmd .., (sameRuns_setChcmd ..).mem, ?_⟩
    rw [setChcmd_eq]
  · exact ⟨_, by simp [execDemotionAbandon, hm, hret], abandoned_spec hm⟩
  · have hk := sameRuns_imageCopied v p b (tierImage ws)
    exact ⟨_, demotionCopy_copies hm hst hc hr hw hb, hk.mem.trans (mem_pageRead_flushMsc hr), hk.storedAs _, imageCopied_tierRead v p b (length_tierImage ws),
      imageCopied_page hp, imageCopied_findMig hmv⟩
  · exact ⟨_, freeze_poisoned hm hst hp, abandoned_spec hm⟩

/-- Settles O54: the codecs of images and runs, and each of Chipper's steps by what it leaves of the stored forms. -/
theorem migration : Obligations.Migration := ⟨images, migrates⟩

end Sys2Proof.Machine
end

section
/-! PROOFS. Loads at a home: a fill under OWN, WIS or SIS, and a load under WT (R74, R124, R127, R130); O30 is put together here. -/

namespace Sys2Proof

open Machine

/-! ## A load that nothing keeps from performing -/

/-- The load has begun and left its queue. -/
def loadBegun (s : State) (r : HomeReq) : State := dropReq (startReq s r) r

theorem recallFor_unowned {r : HomeReq} {l : Line} (hw : l.wmask = 0) : (recallFor r l).1 = 0 := by
  unfold recallFor
  split
  · rfl
  · split <;> simp [hw]

/-- A load has no copy invalidated, and no word recalled where none is owned (R124, R127). -/
theorem startReq_load {s : State} {r : HomeReq} (hw : (s.line r.line).wmask = 0) (hk : r.kind.isStore = false) :
    startReq s r = s.updLine r.line fun l => { l with started := true } := by
  obtain ⟨⟨words, forWrite⟩, hr⟩ : ∃ p, recallFor r (s.line r.line) = p := ⟨_, rfl⟩
  obtain rfl : words = 0 := by simpa [hr] using recallFor_unowned (r := r) hw
  simp [startReq, hr, hk]

theorem homeClk_l2Fill {s : State} (he : s.errors = []) (line : Nat) (ch : BitVec 8) : (l2Fill s line ch).homeClk = s.homeClk := by
  have hstores : ∀ {u : State}, StoresOnly s u → u.homeClk = s.homeClk := fun hu => by rw [hu]
  have hcaches : ∀ {u v : State}, CachesOnly u v → v.homeClk = u.homeClk := fun hc => by rw [hc]
  have hf := fillsTo_l2Fill he line ch
  generalize l2Fill s line ch = t at hf
  cases hf with
  | valid => rfl
  | peer => rfl
  | poison u v _ _ _ hu hv =>
    show v.homeClk = s.homeClk
    rcases hv with rfl | rfl | rfl
    · exact hstores hu
    · exact (hcaches (cachesOnly_poisonPage ..)).trans (hstores hu)
    · exact (hcaches (cachesOnly_poisonBillet ..)).trans (hstores hu)
  | raw u bs _ _ _ _ hu => rw [updLine_homeClk, putChunks_mem rfl]; exact hstores (u := u) hu
  | whole u bs _ _ _ _ hu => rw [installBoth, updLine_homeClk, updLine_homeClk, fillBytes_mem]; exact hstores (u := u) hu

/-- What a load's fill leaves, with the access counted at its page (R90). -/
def loadFilled (s : State) (r : HomeReq) (ch : BitVec 8) : State := touchPage (l2Fill (loadBegun s r) r.line ch) (pageOf r.ea)

section
variable {s : State} {r : HomeReq} (h : AtHome s r) (hk : r.kind.isStore = false)
include h hk

theorem serve_load : serve s r = some (performReq (startReq s r) r) := by
  obtain ⟨hinv, hrec, hst⟩ := h.calm
  have hbusy : (s.line r.line).busy = false := by simp [Line.busy, hinv, hrec]
  have hbusy' : ((startReq s r).line r.line).busy = false := by
    rw [startReq_load h.unowned hk, line_updLine, if_pos rfl]
    exact hbusy
  have hgrant : grantHeld s r.ea false = true := hk ▸ h.granted
  have hpoison : poisonedAtom s r = false := by unfold poisonedAtom; split <;> simp [h.sound]
  simp [serve, hst, h.still, hbusy, hbusy', leaseBarred, h.unkilled, h.room, h.errors, h.undoomed, h.own, hk, hpoison, h.admitted, hgrant]

theorem homeStep_load {p : ReqKind → Bool} (hp : p r.kind = true) : homeStep s r.core r.line p = .next (performReq (startReq s r) r) := by
  have hnext : nextReq s r.line = some r := by simp [nextReq, h.queue, h.billet]
  simp [homeStep, hnext, h.core, hp, serve_load h hk]

theorem loadBegun_eq : loadBegun s r = (s.updLine r.line fun l => { l with started := true }).updLine r.line fun l =>
    { l with queue := removeFirst (· == r) l.queue, started := false, admitted := false } := by
  rw [loadBegun, dropReq, startReq_load h.unowned hk]

/-- A load that has begun waits no more, its line is shared as before, and all that a fill looks at is as before. -/
theorem loadBegun_spec : FillSame s (loadBegun s r) ∧ ((loadBegun s r).line r.line).queue = [] ∧
    ((loadBegun s r).line r.line).sharers = .ptrs [] ∧ (loadBegun s r).homeClk = s.homeClk := by
  rw [loadBegun_eq h hk]
  refine ⟨FillSame.trans (.updLine ?_ ?_) (.updLine ?_ ?_), ?_, ?_, rfl⟩
  any_goals exact fun _ => rfl
  · simp [h.queue, removeFirst]
  · simp [h.unshared]

theorem loadFilled_spec (ch : BitVec 8) : let w := loadFilled s r ch
    w.mem = (l2Fill s r.line ch).mem ∧ (w.line r.line).queue = [] ∧ (w.line r.line).sharers = .ptrs [] ∧ w.homeClk = s.homeClk := by
  obtain ⟨hb, hq, hsh, hclk⟩ := loadBegun_spec h hk
  have he : (loadBegun s r).errors = [] := hb.errors.trans h.errors
  have hkept := (homeKept_l2Fill he r.line ch).trans (homeKept_touchPage _ (pageOf r.ea))
  refine ⟨?_, (hkept.queue _).trans hq, (hkept.sharers _).trans hsh, ?_⟩
  · rw [loadFilled, mem_touchPage, mem_l2Fill he, hb.fillMem, mem_l2Fill h.errors]
  · rw [loadFilled, touchPage, updPage_homeClk, homeClk_l2Fill he, hclk]

/-- The fill for a load finds the line sound and brings the bytes that it would have brought before. -/
theorem loadFill_sound (ch : BitVec 8) : (l2Fill (loadBegun s r) r.line ch).isPoisoned r.line = false ∧
    ∀ a n, (l2Fill (loadBegun s r) r.line ch).readMem a n = (l2Fill s r.line ch).readMem a n := by
  obtain ⟨hb, -⟩ := loadBegun_spec h hk
  have he : (loadBegun s r).errors = [] := hb.errors.trans h.errors
  refine ⟨?_, fun a n => ?_⟩
  · rw [isPoisoned_l2Fill he, hb.isPoisoned, hb.fillPoisons, ← isPoisoned_l2Fill h.errors]
    exact h.fills ch
  · rw [State.readMem, mem_l2Fill he, hb.fillMem, ← mem_l2Fill h.errors]; rfl

end

/-! ## The replies -/

/-- The line's bytes as a fill brings them to the core. -/
def fillData (s : State) (line : Nat) (ch : BitVec 8) : Cells 8 := cellsSet ([] : Cells 8) 0 ((l2Fill s line ch).readMem (line * 128) 128)

/-- A lease granted shows in the directory entry, whose queue and sharers it leaves (R124). -/
theorem line_leaseGrant (s : State) (line lease : Nat) : let x := (leaseGrant s line lease).2.line line
    x.queue = (s.line line).queue ∧ x.lv = true ∧ x.sharers = (s.line line).sharers := by
  rw [leaseGrant, line_updLine, if_pos rfl]
  exact ⟨rfl, rfl, rfl⟩

/-- A core that comes to share a line shared by none is recorded (R122). -/
theorem records_share {l : Line} (hl : l.sharers = .ptrs []) (c : Nat) : (l.share c).sharers.records c = true := by
  simp [Line.share, hl, Sharers.add, Sharers.records]

section
variable {s : State} {r : HomeReq} (h : AtHome s r)
include h

/-- Under OWN and WIS the core becomes a sharer (R124, R127). -/
theorem homeLoadFill_spec {pol lease : Nat} {ch : BitVec 8} (hk : r.kind = .fill pol ch lease) (hpol : pol ≠ 2) :
    ∃ t, exec (.homeLoadFill r.core r.line) s = .next t ∧ t.mem = (l2Fill s r.line ch).mem ∧ (t.line r.line).queue = [] ∧
      (t.line r.line).sharers.records r.core = true ∧ Replies t r.core r.ea (.fill r.team r.iss r.lane r.line ch (fillData s r.line ch) none) := by
  have hs : r.kind.isStore = false := by rw [hk]; rfl
  obtain ⟨hmem, hq, hsh, -⟩ := loadFilled_spec h hs ch
  obtain ⟨hsound, hread⟩ := loadFill_sound h hs ch
  have hline : ((loadFilled s r ch).updLine r.line fun l => l.share r.core).line r.line = ((loadFilled s r ch).line r.line).share r.core := by
    rw [line_updLine, if_pos rfl]
  refine ⟨sendDown ((loadFilled s r ch).updLine r.line fun l => l.share r.core) r.core r.ea (.fill r.team r.iss r.lane r.line ch (fillData s r.line ch) none),
    ?_, hmem, (congrArg Line.queue hline).trans hq, (congrArg (fun l : Line => l.sharers.records r.core) hline).trans (records_share hsh _), replies_sendDown ..⟩
  · rw [exec_homeLoadFill, execHomeLoadFill, homeStep_load h hs (by simp [hk, ReqKind.isFill, hpol]), performReq, ← loadBegun, hk]
    simp [serveFill, hsound, h.own, hpol, hread, loadFilled, fillData]

/-- Under SIS the line takes a lease, which ends as late as the core's copy does, and no pointer (R124, R130). -/
theorem homeSisFill_spec {lease : Nat} {ch : BitVec 8} (hk : r.kind = .fill 2 ch lease) :
    ∃ t, exec (.homeSisFill r.core r.line) s = .next t ∧ t.mem = (l2Fill s r.line ch).mem ∧ (t.line r.line).queue = [] ∧
      (t.line r.line).lv = true ∧ (t.line r.line).sharers = .ptrs [] ∧
      Replies t r.core r.ea (.fill r.team r.iss r.lane r.line ch (fillData s r.line ch) (some (s.homeClk + BitVec.ofNat 16 lease))) := by
  have hs : r.kind.isStore = false := by rw [hk]; rfl
  obtain ⟨hmem, hq, hsh, hclk⟩ := loadFilled_spec h hs ch
  obtain ⟨hsound, hread⟩ := loadFill_sound h hs ch
  have hlease : (leaseGrant (loadFilled s r ch) r.line lease).1 = s.homeClk + BitVec.ofNat 16 lease := by rw [leaseGrant, hclk]
  obtain ⟨hlq, hlv, hlsh⟩ := line_leaseGrant (loadFilled s r ch) r.line lease
  refine ⟨sendDown (leaseGrant (loadFilled s r ch) r.line lease).2 r.core r.ea
      (.fill r.team r.iss r.lane r.line ch (fillData s r.line ch) (some (s.homeClk + BitVec.ofNat 16 lease))), ?_, hmem, hlq.trans hq, hlv, hlsh.trans hsh, replies_sendDown ..⟩
  · rw [exec_homeSisFill, execHomeSisFill, homeStep_load h hs (by simp [hk, ReqKind.isSis]), performReq, ← loadBegun, hk, ← hlease]
    simp [serveFill, hsound, h.own, hread, loadFilled, fillData]

/-- Under WT the bytes alone go: the directory entry takes no pointer and no lease (R124). -/
theorem homeWtLoad_spec (hk : r.kind = .wtLoad) : let v := l2Fill s r.line (chunksOf (r.ea % 128) r.n)
    ∃ t, exec (.homeWtLoad r.core r.line) s = .next t ∧ t.mem = v.mem ∧ (t.line r.line).queue = [] ∧
      (t.line r.line).sharers = .ptrs [] ∧ Replies t r.core r.ea (.bytes r.team r.iss r.lane r.ea (v.readMem r.ea r.n)) := by
  intro v
  have hs : r.kind.isStore = false := by rw [hk]; rfl
  obtain ⟨hmem, hq, hsh, -⟩ := loadFilled_spec h hs (chunksOf (r.ea % 128) r.n)
  obtain ⟨hsound, hread⟩ := loadFill_sound h hs (chunksOf (r.ea % 128) r.n)
  refine ⟨sendDown (loadFilled s r (chunksOf (r.ea % 128) r.n)) r.core r.ea (.bytes r.team r.iss r.lane r.ea (v.readMem r.ea r.n)), ?_, hmem, hq, hsh,
    replies_sendDown ..⟩
  rw [exec_homeWtLoad, execHomeWtLoad, homeStep_load h hs (by rw [hk]; rfl), performReq, ← loadBegun, hk]
  simp [hsound, h.own, hread, loadFilled, v]

/-- A fill gives values to chunks alone that were not valid in L2 (R74). -/
theorem memoryKept_l2Fill (ch : BitVec 8) : MemoryKept s (l2Fill s r.line ch) (Unfilled s r.line) := fun a ha => by
  rw [readMem_one, readMem_one, mem_l2Fill h.errors, fillMem_kept ha]

end

/-- Settles O30: each policy's load by what its fill leaves and the reply that follows. -/
theorem homeLoads : Obligations.HomeLoads := fun _ _ h =>
  ⟨memoryKept_l2Fill h, fun _ _ _ hk hpol => homeLoadFill_spec h hk hpol, fun _ _ hk => homeSisFill_spec h hk, homeWtLoad_spec h⟩

end Sys2Proof
end

section
/-! PROOFS. The fabric's ports, their flits, replay and recovery (R421 to R424), and a pseudo-channel's width (R83); O55 is put together here. -/

namespace Sys2Proof

open Machine

/-! ## What a port's changes leave -/

@[simp] theorem port_postDevice (s : State) (r : List Byte) (q : Nat) : (s.postDevice r).port q = s.port q := rfl

/-- An amendment is of the Slovi complex alone (R433). -/
theorem addAmend_eq (s : State) (kind unit : Nat) : addAmend s kind unit = { s with slovi := (addAmend s kind unit).slovi } := by
  unfold addAmend
  split <;> rfl

@[simp] theorem addAmend_mem (s : State) (kind unit : Nat) : (addAmend s kind unit).mem = s.mem := by rw [addAmend_eq]
@[simp] theorem addAmend_halfWidth (s : State) (kind unit : Nat) : (addAmend s kind unit).halfWidth = s.halfWidth := by rw [addAmend_eq]
@[simp] theorem addAmend_port (s : State) (kind unit q : Nat) : (addAmend s kind unit).port q = s.port q := by rw [addAmend_eq]; rfl

@[simp] theorem setPortState_mem (s : State) (p st : Nat) : (setPortState s p st).mem = s.mem := by
  unfold setPortState
  split <;> rfl
@[simp] theorem setPortState_port (s : State) (p st : Nat) : (setPortState s p st).port p = { s.port p with state := st } := by
  unfold setPortState
  split
  · next h => rw [← h]
  · rw [port_postDevice, port_updPort, if_pos rfl]

@[simp] theorem enterRecovery_mem (s : State) (p : Nat) : (enterRecovery s p).mem = s.mem := setPortState_mem ..
@[simp] theorem enterRecovery_port (s : State) (p : Nat) : (enterRecovery s p).port p = { s.port p with state := 3, recoverySince := some s.ns } := by
  rw [enterRecovery, port_updPort, if_pos rfl, setPortState_port]

@[simp] theorem portDown_mem (s : State) (p : Nat) : (portDown s p).mem = s.mem := setPortState_mem ..
@[simp] theorem portDown_port (s : State) (p : Nat) : (portDown s p).port p =
    { s.port p with state := 0, width := 0, spared := false, recoverySince := none, replayBuf := [] } := by
  rw [portDown, setPortState_port, port_updPort, if_pos rfl]
  rfl

/-! ## A message delivered leaves the ports -/

theorem deliverReply_ports (s : State) (tk iss lane sb status reserve : Nat) (bytes : List Byte) :
    (deliverReply s tk iss lane sb status reserve bytes).ports = s.ports := by
  unfold deliverReply
  split <;> rfl

theorem deliver_ports (src : Nat) (s : State) (m : FabricMsg) : (deliver src s m).ports = s.ports := by
  cases m with
  | reply => exact deliverReply_ports ..
  | lineData line bytes =>
    unfold deliver
    dsimp only
    split_ifs <;> rfl
  | _ => rfl

theorem deliverAll_ports (src : Nat) (ms : List FabricMsg) (s : State) : (ms.foldl (deliver src) s).ports = s.ports := by
  induction ms generalizing s with
  | nil => rfl
  | cons m ms ih => exact (ih _).trans (deliver_ports ..)

/-! ## Flits and replay (R421, R422) -/

section
variable {s : State} {p : Nat}

theorem flitReceive_inSequence {f : Flit} (hst : (s.port p).state = 2) (hc : f.crcOk = true) (hn : f.nak = false) (hq : f.seq = (s.port p).rxSeq) :
    Happens (.flitReceive p f) s fun u => (u.port p).rxSeq = (s.port p).rxSeq + 1 ∧ (u.port p).nakSent = false := by
  obtain ⟨v, hv⟩ : ∃ v, v = s.updPort p fun x =>
    { x with rxSeq := x.rxSeq + 1, nakSent := false, replayBuf := x.replayBuf.filter fun g => !seqBefore g.seq f.ack } := ⟨_, rfl⟩
  have hport : (f.msgs.foldl (deliver f.src) v).port p = v.port p := by rw [State.port, deliverAll_ports]; rfl
  refine ⟨f.msgs.foldl (deliver f.src) v, ?_, ?_⟩
  · simp [execFlitReceive, hst, hc, hn, hq, hv]
  · dsimp only
    rw [hport, hv, port_updPort, if_pos rfl]
    exact ⟨rfl, rfl⟩

theorem flitReceive_badCrc {f : Flit} (hst : (s.port p).state = 2) (hc : f.crcOk = false) :
    Happens (.flitReceive p f) s fun u => u.mem = s.mem ∧ (u.port p).nakSent = true ∧ (u.port p).rxSeq = (s.port p).rxSeq ∧
      ∃ y, (u.port p).out = (s.port p).out ++ [y] ∧ y.nak = true ∧ y.ack = (s.port p).rxSeq := by
  refine ⟨s.updPort p fun x => { x with out := x.out ++ [nakFlit s (s.port p)], nakSent := true }, ?_, rfl, ?_⟩
  · simp [execFlitReceive, hst, hc]
  · rw [port_updPort, if_pos rfl]
    exact ⟨rfl, rfl, _, rfl, rfl, rfl⟩

/-- The replay goes out whether or not a flit's eighth replay then sends the port into recovery. -/
theorem nakReplay_sends {q : Nat} (hst : (s.port p).state = 2) (hfs : ((s.port p).replayBuf.dropWhile fun f => f.seq.toNat != q % 4096) ≠ []) :
    Happens (.nakReplay p q) s fun u => u.mem = s.mem ∧ (u.port p).nakFrom = none ∧
      (u.port p).out = (s.port p).out ++ (s.port p).replayBuf.dropWhile (fun f => f.seq.toNat != q % 4096) ∧
      (u.port p).retry = min 65535 ((s.port p).retry + 1) := by
  have hne : ((s.port p).replayBuf.dropWhile fun f => f.seq.toNat != q % 4096).isEmpty = false := by simpa using hfs
  unfold Happens
  rw [exec_nakReplay, execNakReplay]
  simp only [hst, hne, ne_eq, not_true_eq_false, if_false, Bool.false_eq_true]
  refine ⟨_, rfl, ?_⟩
  split <;> simp

/-! ## Recovery (R422) -/

theorem portRecovery_allGood (spare : Bool) (hst : (s.port p).state = 2) (hsp : (s.port p).spared = false) :
    Happens (.portRecovery p 4 spare) s fun u => u.mem = s.mem ∧ (u.port p).state = 3 ∧ (u.port p).width = (s.port p).width ∧
      (u.port p).recoverySince = some s.ns :=
  ⟨enterRecovery s p, by simp [execPortRecovery, hst, hsp], by simp⟩

theorem portRecovery_spare (hst : (s.port p).state = 2) (hsp : (s.port p).spared = false) (hw : (s.port p).width ≠ 1) :
    Happens (.portRecovery p 3 true) s fun u => u.mem = s.mem ∧ (u.port p).state = 3 ∧ (u.port p).width = 2 ∧ (u.port p).spared = true :=
  ⟨addAmend ((enterRecovery s p).updPort p fun x => { x with spared := true, width := 2 }) 3 p, by simp [execPortRecovery, hst, hsp, hw], by simp⟩

theorem portRecovery_half (hst : (s.port p).state = 2) :
    Happens (.portRecovery p 2 false) s fun u => u.mem = s.mem ∧ (u.port p).state = 3 ∧ (u.port p).width = 1 ∧ (u.port p).spared = false :=
  ⟨addAmend ((enterRecovery s p).updPort p fun x => { x with width := 1, spared := false }) 5 p, by simp [execPortRecovery, hst], by simp⟩

theorem portRecovery_none (hst : (s.port p).state = 2) :
    Happens (.portRecovery p 0 false) s fun u => u.mem = s.mem ∧ (u.port p).state = 0 ∧ (u.port p).width = 0 ∧ (u.port p).spared = false :=
  ⟨portDown (enterRecovery s p) p, by simp [execPortRecovery, hst], by simp⟩

theorem recoveryEnd_up {t : Nat} (hst : (s.port p).state = 3) (ht : (s.port p).recoverySince = some t) (hns : s.ns < t + linkTimeout) :
    Happens (.recoveryEnd p) s fun u => u.mem = s.mem ∧ (u.port p).state = 2 ∧ (u.port p).out = (s.port p).out ++ (s.port p).replayBuf ∧
      (u.port p).recoverySince = none :=
  ⟨setPortState (s.updPort p fun x => { x with recoverySince := none, replays := [], nakSent := false, out := x.out ++ x.replayBuf }) p 2,
    by simp [execRecoveryEnd, hst, ht, hns], by simp⟩

theorem recoveryTimeout_down {t : Nat} (hst : (s.port p).state = 3) (ht : (s.port p).recoverySince = some t) (hns : t + linkTimeout ≤ s.ns) :
    Happens (.recoveryTimeout p) s fun u => u.mem = s.mem ∧ (u.port p).state = 0 ∧ (u.port p).width = 0 :=
  ⟨portDown s p, by simp [execRecoveryTimeout, hst, ht, hns], by simp⟩

/-! ## Half width (R83) -/

theorem halfWidthEntry_enters {fault : Bool} (hcause : fault = true ∨ tooHot s p = true) (hfull : mapGet? s.halfWidth p = none) :
    Happens (.halfWidthEntry p fault) s fun u => u.mem = s.mem ∧ mapGet? u.halfWidth p = some fault := by
  obtain ⟨v, hv⟩ : ∃ v, v = ({ s with halfWidth := mapSet s.halfWidth p fault } : State).postDevice (simpleRecord s 3 p) := ⟨_, rfl⟩
  have hmem : v.mem = s.mem := by rw [hv]; rfl
  have hwidth : mapGet? v.halfWidth p = some fault := by rw [hv]; exact (mapGet_set ..).trans (if_pos rfl)
  have hmay : (!fault && !tooHot s p) = false := by rcases hcause with h | h <;> simp [h]
  refine ⟨if fault then addAmend v 2 p else v, ?_, ?_⟩
  · rw [exec_halfWidthEntry, execHalfWidthEntry, hmay, hfull, hv]
    rfl
  · split
    · rw [addAmend_mem, addAmend_halfWidth]
      exact ⟨hmem, hwidth⟩
    · exact ⟨hmem, hwidth⟩

theorem fullWidthReturn_returns (hheat : mapGet? s.halfWidth p = some false) :
    Happens (.fullWidthReturn p) s fun u => u.mem = s.mem ∧ mapGet? u.halfWidth p = none :=
  ⟨({ s with halfWidth := mapErase s.halfWidth p } : State).postDevice (simpleRecord s 3 p), by rw [exec_fullWidthReturn, execFullWidthReturn, hheat],
    rfl, (mapGet_erase ..).trans (if_pos rfl)⟩

end

/-- Settles O55, one lemma for each thing that befalls a port or a pseudo-channel. -/
theorem ports : Obligations.Ports := fun _ _ =>
  ⟨fun _ hst hc hn hq => flitReceive_inSequence hst hc hn hq, fun _ hst hc => flitReceive_badCrc hst hc, fun _ hst hfs => nakReplay_sends hst hfs,
    fun spare hst hsp => portRecovery_allGood spare hst hsp, fun hst hsp hw => portRecovery_spare hst hsp hw, fun hst _ => portRecovery_half hst,
    fun hst _ => portRecovery_none hst, fun _ hst ht hns => recoveryEnd_up hst ht hns, fun _ hst ht hns => recoveryTimeout_down hst ht hns,
    fun _ hcause hfull => halfWidthEntry_enters hcause hfull, fullWidthReturn_returns⟩

end Sys2Proof
end

section
/-! PROOFS. The layer on scratchpad rows: what a row's metadata and bytes are after an update, and the operations on rows where no error waits in an array
(R98, R101, R103, R109). -/

namespace Sys2Proof.Machine

/-! ## A core's rows -/

theorem row_setRow (k : Core) (p q : Nat) (r : Row) : (k.setRow p r).row q = if q = p then r else k.row q := by
  unfold Core.setRow Core.row
  dsimp only
  split
  · next h => rw [mapGet_erase]; split <;> simp [h]
  · rw [mapGet_set]; split <;> rfl

@[simp] theorem setRow_pad (k : Core) (p : Nat) (r : Row) : (k.setRow p r).pad = k.pad := rfl

/-- A row expires by its metadata, the lifetime that csr.tret bounds, and the tick alone. -/
theorem rowExpired_congr {k k' : Core} {p : Nat} (ht : k'.tret = k.tret) (hr : k'.row p = k.row p) (al : Alloc) (tick : BitVec 16) :
    rowExpired k' al p tick = rowExpired k al p tick := by
  have hl : leff k' al = leff k al := by rw [leff, leff, Core.tretTicks, Core.tretTicks, ht]
  have ha : rowAge k' p tick = rowAge k p tick := by rw [rowAge, rowAge, hr]
  rw [rowExpired, rowExpired, hl, ha, hr]

/-- A row that has just been stamped is not expired. -/
theorem rowExpired_fresh {k : Core} {p : Nat} (h : k.row p = { stamp := k.rtick, exp := false }) (al : Alloc) : rowExpired k al p k.rtick = false := by
  simp [rowExpired, rowAge, h]

/-! ## Rows where no error waits -/

theorem checkStamp_none {s : State} (h : s.errors = []) (c p : Nat) : checkStamp s c p = s := by simp [checkStamp, takeError_none h]
theorem takeRowError_none {s : State} (h : s.errors = []) (c p : Nat) : takeRowError s c p = (false, s) := by simp [takeRowError, takeError_none h]

/-- A core after a write to a row (R103). -/
def padWritten (al : Alloc) (p byte : Nat) (bs : List Byte) (k : Core) : Core :=
  ({ k with pad := cellsSet (if rowExpired k al p k.rtick then cellsZero k.pad (p * 256) 256 else k.pad) (p * 256 + byte) bs } : Core).setRow p
    { stamp := k.rtick, exp := false }

theorem padWrite_none {s : State} (h : s.errors = []) (c : Nat) (al : Alloc) (p byte : Nat) (bs : List Byte) :
    padWrite s c al p byte bs = s.updCore c (padWritten al p byte bs) := by
  rw [padWrite, checkStamp_none h]
  rfl

theorem cellGet_zero {w : Nat} (c : Cells w) (a n j : Nat) : cellGet (cellsZero c a n) j = if a ≤ j ∧ j < a + n then 0 else cellGet c j := by
  induction n generalizing c with
  | zero => rw [cellsZero, if_neg (by omega)]
  | succ n ih =>
    rw [cellsZero, ih, cellGet_set]
    by_cases h1 : a ≤ j ∧ j < a + n
    · rw [if_pos h1, if_pos (by omega)]
    · by_cases h2 : j = a + n
      · rw [if_neg h1, if_pos h2, if_pos (by omega)]
      · rw [if_neg h1, if_neg h2, if_neg (by omega)]

theorem row_padWritten (al : Alloc) (p byte : Nat) (bs : List Byte) (k : Core) : (padWritten al p byte bs k).row p = { stamp := k.rtick, exp := false } :=
  (row_setRow ..).trans (if_pos rfl)

theorem bytes_padWritten (al : Alloc) (p byte : Nat) (bs : List Byte) (k : Core) :
    cellsGet (padWritten al p byte bs k).pad (p * 256 + byte) bs.length = bs := cellsGet_cellsSet ..

/-- The other bytes of the row: zero where it was expired, else as before. -/
theorem others_padWritten (al : Alloc) (p byte : Nat) (bs : List Byte) (k : Core) {j : Nat} (hj : j < 256) (h : ¬ (byte ≤ j ∧ j < byte + bs.length)) :
    cellGet (padWritten al p byte bs k).pad (p * 256 + j) = if rowExpired k al p k.rtick then 0 else cellGet k.pad (p * 256 + j) := by
  unfold padWritten
  rw [setRow_pad, cellGet_sets, if_neg (by omega)]
  split
  · rw [cellGet_zero, if_pos (by omega)]
  · rfl

end Sys2Proof.Machine
end

section
/-! PROOFS. Scratchpad instructions at issue and accesses at the row (R96, R98, R101, R103, R104, R153, R310 to R312); O35 is put together here. -/

namespace Sys2Proof

open Machine

/-! ## The check of the lanes (R98) -/

section
variable {s : State} {e : Env} {ls : List (Nat × Nat × Nat)} {n : Nat} {al rd : Bool}

/-- What the check answers decides, once the metadata of the rows named is sound. -/
theorem withPad_none (h : s.errors = []) (k : List (Nat × Nat × Nat × Nat) → State → State) :
    (∀ ps, padCheck s e ls n al rd = .ok ps → withPad s e ls n al rd k = .next (Machine.advance (k ps s) e)) ∧
    ∀ f, padCheck s e ls n al rd = .fault f → withPad s e ls n al rd k = .next (faultSel s e (lanesIn ls) f) := by
  unfold withPad
  rw [List.foldl_fixed']
  · exact ⟨fun _ hc => by simp only [hc], fun _ hc => by simp only [hc]⟩
  · intro q
    dsimp only
    split
    · exact checkStamp_none h ..
    · rfl

/-- The lanes with their allocations and rows, where all have one. -/
def placedLanes (e : Env) (n : Nat) (ls : List (Nat × Nat × Nat)) : List (Nat × Nat × Nat × Alloc × Nat) :=
  ls.filterMap fun (l, tid, a) => (padPlace e.team a n).map fun (al, p) => (l, tid, a, al, p)

theorem mem_placedLanes {l tid a : Nat} {al : Alloc} {p : Nat} :
    (l, tid, a, al, p) ∈ placedLanes e n ls ↔ (l, tid, a) ∈ ls ∧ padPlace e.team a n = some (al, p) := by
  simp only [placedLanes, List.mem_filterMap, Option.map_eq_some_iff, Prod.exists, Prod.mk.injEq]
  constructor
  · rintro ⟨l', tid', a', hm, al', p', hp, rfl, rfl, rfl, rfl, rfl⟩
    exact ⟨hm, hp⟩
  · exact fun ⟨hm, hp⟩ => ⟨l, tid, a, hm, al, p, hp, rfl, rfl, rfl, rfl, rfl⟩

theorem placedLanes_rows (h : ∀ q ∈ ls, (padPlace e.team q.2.2 n).isSome = true) :
    (placedLanes e n ls).map (fun (l, tid, a, _, p) => (l, tid, a, p)) = padPlaces e n ls := by
  induction ls with
  | nil => rfl
  | cons q ls ih =>
    obtain ⟨⟨al, p⟩, hq⟩ := Option.isSome_iff_exists.mp (h q List.mem_cons_self)
    have := ih fun x hx => h x (List.mem_cons_of_mem _ hx)
    simp only [placedLanes, padPlaces] at this
    simp only [placedLanes, padPlaces, List.filterMap_cons, hq, Option.map_some, List.map_cons, this, Option.getD_some]

/-- Every lane aligned, within its allocation and, where it reads, in a live row: the check answers the lanes with their rows. -/
theorem padCheck_ok (hal : al = true → ∀ q ∈ ls, q.2.2 % n = 0) (h : ∀ q ∈ ls, PadLive s e q.2.2 n rd) :
    padCheck s e ls n al rd = .ok (padPlaces e n ls) := by
  have hsome : ∀ q ∈ ls, (padPlace e.team q.2.2 n).isSome = true := fun q hq => by
    obtain ⟨al, row, hp, -⟩ := h q hq
    rw [hp]; rfl
  have h1 : (if al then ls.find? (fun (_, _, a) => a % n != 0) else none) = none := by
    split
    · next ha => exact List.find?_eq_none.mpr fun q hq => by simp [hal ha q hq]
    · rfl
  have h2 : ls.find? (fun (_, _, a) => (padPlace e.team a n).isNone) = none :=
    List.find?_eq_none.mpr fun q hq => by simpa [Option.isSome_iff_ne_none] using hsome q hq
  have h3 : (if rd then (placedLanes e n ls).find? (fun (_, _, _, al, p) => rowExpired (s.core e.core) al p (s.core e.core).rtick) else none) = none := by
    split
    · next hr =>
      refine List.find?_eq_none.mpr ?_
      rintro ⟨l, tid, a, al, p⟩ hm
      obtain ⟨hin, hp⟩ := mem_placedLanes.mp hm
      obtain ⟨al', row, hp', hlive⟩ := h _ hin
      obtain ⟨rfl, rfl⟩ := Prod.mk.inj (Option.some.inj (hp'.symm.trans hp))
      simp [hlive hr]
    · rfl
  have h4 := placedLanes_rows hsome
  unfold placedLanes at h3 h4
  unfold padCheck
  simp only [h1, h2, h3, h4]

/-- A fault of the bundle's instruction with some cause. -/
def FaultOf (e : Env) (c : Cause) (f : FaultInfo) : Prop := f.cause = c ∧ f.word = e.word ∧ f.clause = e.b.clause ∧ f.index = e.b.index

theorem padCheck_sbound (h : ∃ q ∈ ls, padPlace e.team q.2.2 n = none) : ∃ f, padCheck s e ls n false rd = .fault f ∧ FaultOf e .sbound f := by
  obtain ⟨q, hq, hp⟩ := h
  obtain ⟨x, hx⟩ : ∃ x, ls.find? (fun (_, _, a) => (padPlace e.team a n).isNone) = some x :=
    Option.isSome_iff_exists.mp (List.find?_isSome.mpr ⟨q, hq, by simp [hp]⟩)
  refine ⟨{ insnFault e .sbound with addrs := [x.2.2] }, ?_, rfl, rfl, rfl, rfl⟩
  simp only [padCheck, Bool.false_eq_true, if_false, hx]

theorem padCheck_sstale {l tid a row : Nat} {x : Alloc} (hm : (l, tid, a) ∈ ls) (hsome : ∀ q ∈ ls, (padPlace e.team q.2.2 n).isSome = true)
    (hp : padPlace e.team a n = some (x, row)) (hx : rowExpired (s.core e.core) x row (s.core e.core).rtick = true) :
    ∃ f, padCheck s e ls n false true = .fault f ∧ FaultOf e .sstale f := by
  have h2 : ls.find? (fun (_, _, a) => (padPlace e.team a n).isNone) = none :=
    List.find?_eq_none.mpr fun q hq => by simpa [Option.isSome_iff_ne_none] using hsome q hq
  obtain ⟨y, hy⟩ : ∃ y, (placedLanes e n ls).find? (fun (_, _, _, al, p) => rowExpired (s.core e.core) al p (s.core e.core).rtick) = some y :=
    Option.isSome_iff_exists.mp (List.find?_isSome.mpr ⟨(l, tid, a, x, row), mem_placedLanes.mpr ⟨hm, hp⟩, hx⟩)
  unfold placedLanes at hy
  refine ⟨{ insnFault e .sstale with addrs := [y.2.2.1 / 256 * 256], aux := rowAge (s.core e.core) y.2.2.2.2 (s.core e.core).rtick }, ?_, rfl, rfl, rfl, rfl⟩
  simp only [padCheck, Bool.false_eq_true, if_false, h2, if_true, hy]

end

/-- A scratchpad instruction that the check refuses: its selected threads take the fault (log 72). -/
theorem parks_padFault {s : State} {e : Env} {ls : List (Nat × Nat)} {c : Cause} {f : FaultInfo} (hb : envOf s = some e) (hs : ls.Sublist e.lanes)
    (hout : Outside e ls) (hf : FaultOf e c f) : Parks (faultSel s e ls f) e ls c := by
  obtain ⟨rfl, hw, hc, hi⟩ := hf
  exact parks_faultSel hb (fun _ => rfl) hs hout hw hc hi

/-! ## The lanes enter the window and wait at the port (R96, R150) -/

/-- What an instruction that enters puts in the window, whatever the team's threads and bundles have come to. -/
theorem iw_enterWindow {u : State} {e : Env} {w : List Inflight} (h : (u.team e.tk).map Team.iw = some w) (i : Instr) (lanes : List LaneOp) (acq : Option Nat)
    (sc en : Bool) : ((enterWindow u e i lanes acq sc en).team e.tk).map Team.iw = some (w ++ [entered u.nextId e i lanes acq sc en]) := by
  obtain ⟨tm, ht, rfl⟩ := Option.map_eq_some_iff.mp h
  have ht' : u.fresh.2.team e.tk = some tm := ht
  rw [enterWindow_eq, team_updGroup, if_pos rfl, team_updTeam, if_pos rfl, ht']
  rfl

theorem cf_enterWindow {u : State} {e : Env} (h : (u.group e.tk e.g).map Group.cf = some e.grp.cf) (i : Instr) (lanes : List LaneOp) (acq : Option Nat)
    (sc en : Bool) : ((enterWindow u e i lanes acq sc en).group e.tk e.g).map Group.cf = some (e.grp.incFlag (e.flag i)).cf := by
  obtain ⟨gr, hg, hcf⟩ := Option.map_eq_some_iff.mp h
  have hg' : u.fresh.2.group e.tk e.g = some gr := hg
  rw [enterWindow_eq, group_updGroup, if_pos ⟨rfl, rfl⟩, group_updTeam, hg', Option.map_some, Option.map_some]
  case hf => exact fun _ => rfl
  have : ∀ k, (gr.incFlag k).cf = (e.grp.incFlag k).cf := by
    intro k
    cases k with
    | none => exact hcf
    | some j => unfold Group.incFlag Group.setFlag Group.flag; rw [hcf]
  rw [this]

/-- A lane of a scratchpad instruction stands in the window as the model writes it. -/
theorem padIssue_eq {s : State} {e : Env} {i : Instr} {ps : List (Nat × Nat × Nat × Nat)} (hne : ps ≠ []) (n : Nat) (kind : LaneKind) (data : Nat → List Byte)
    (acq : Option Nat) : padIssue s e i ps n kind data acq =
      (enterWindow s e i (ps.map (padLane n kind data)) acq true false).updCore e.core fun c => { c with port := c.port ++ (dedup (ps.map fun p => p.2.2.2)).map fun r =>
        { team := e.tk, iss := s.nextId, lanes := (ps.filter fun p => p.2.2.2 == r).map Prod.fst, row := r } } := by
  unfold padIssue
  rw [if_neg (by simpa using hne)]
  rfl

/-- From a state with the window, the flags, the registers and all but the teams of the state of issue, the lanes enter and wait at the port. -/
theorem padIssue_enters {s v : State} {e : Env} {i : Instr} {ps : List (Nat × Nat × Nat × Nat)} (he : envOf s = some e) (ho : OnlyTeams s v) (hr : RegsSame s v)
    (hw : WindowSame s v) (hne : ps ≠ []) (n : Nat) (kind : LaneKind) (data : Nat → List Byte) (acq : Option Nat) :
    let t := Machine.advance (padIssue v e i ps n kind data acq) e
    Enters s t e i (ps.map (padLane n kind data)) acq ∧ AtPort s t e ps := by
  have hid : v.nextId = s.nextId := by rw [ho]
  have hiw : (v.team e.tk).map Team.iw = some e.team.iw := (hw.1 _).trans (by rw [(envOf_spec he).1]; rfl)
  have hcf : (v.group e.tk e.g).map Group.cf = some e.grp.cf := (hw.2 _ _).trans (by rw [group_of_env he]; rfl)
  have hen := onlyTeams_enterWindow v e i (ps.map (padLane n kind data)) acq true false
  have hcore : ∀ c, (enterWindow v e i (ps.map (padLane n kind data)) acq true false).core c = s.core c := fun c => (hen.core c).trans (ho.core c)
  rw [padIssue_eq hne]
  obtain ⟨w, hwd⟩ : ∃ w, w = enterWindow v e i (ps.map (padLane n kind data)) acq true false := ⟨_, rfl⟩
  rw [← hwd] at hen hcore ⊢
  obtain ⟨f, hf⟩ : ∃ f : Core → Core, f = fun c => { c with port := c.port ++ (dedup (ps.map fun p => p.2.2.2)).map fun r =>
    { team := e.tk, iss := v.nextId, lanes := (ps.filter fun p => p.2.2.2 == r).map Prod.fst, row := r } } := ⟨_, rfl⟩
  rw [← hf]
  have hadv := windowSame_advance (w.updCore e.core f) e
  refine ⟨enters_of ?_ ?_ (x := entered s.nextId e i (ps.map (padLane n kind data)) acq true false) rfl ?_ ?_, ?_⟩
  · exact (onlyTeams_advance ..).mem.trans (hen.mem.trans ho.mem)
  · refine (hr.trans ?_).trans ((regsSame_of_teams (updCore_teams ..)).trans (regsSame_advance _ e))
    rw [hwd]; exact regsSame_enterWindow ..
  · exact (hadv.1 _).trans (by rw [← hid, hwd]; exact iw_enterWindow hiw ..)
  · exact (hadv.2 _ _).trans (by rw [hwd]; exact cf_enterWindow hcf ..)
  · rw [AtPort, (onlyTeams_advance ..).core, core_updCore, if_pos rfl, hcore, hf, hid]

/-! ## sld, sst and satom at issue (R310 to R312) -/

theorem released_windowSame {s v : State} {e : Env} {c : Prop} [Decidable c] {scope : Nat} {ok : Bool}
    (h : (if c then released s e scope else (true, s)) = (ok, v)) : WindowSame s v := by
  rcases released_cases h with rfl | ⟨ids, rfl⟩
  · exact .refl _
  · exact windowSame_updGroup _ _ _ _ fun _ => rfl

/-- Sources are read from the environment and the core, which a release leaves alone. -/
theorem OnlyTeams.src32 {s v : State} (h : OnlyTeams s v) (e : Env) (tid : Nat) (c : BitVec 11) (fl : Bool) : Machine.src32 v e tid c fl = Machine.src32 s e tid c fl := by
  have hg : ∀ k, srGroup v e k = srGroup s e k := fun k => by unfold srGroup; rw [h.core]
  unfold Machine.src32
  simp only [hg]
theorem OnlyTeams.srcNat {s v : State} (h : OnlyTeams s v) (e : Env) (tid : Nat) (c : BitVec 11) (k : Nat) (fl : Bool) :
    Machine.srcNat v e tid c k fl = Machine.srcNat s e tid c k fl := by simp only [Machine.srcNat, h.src32]
theorem OnlyTeams.padAddrs {s v : State} (h : OnlyTeams s v) (e : Env) (f : MF) : Machine.padAddrs v e f = Machine.padAddrs s e f := by
  simp only [Machine.padAddrs, h.src32]
theorem OnlyTeams.atomBytes {s v : State} (h : OnlyTeams s v) (e : Env) (f : MAF) (tid : Nat) : Machine.atomBytes v e f tid = Machine.atomBytes s e f tid := by
  simp only [Machine.atomBytes, h.srcNat]
theorem OnlyTeams.padLive {s v : State} (h : OnlyTeams s v) {e : Env} {a n : Nat} {rd : Bool} (hl : PadLive s e a n rd) : PadLive v e a n rd := by
  unfold PadLive
  rw [h.core]
  exact hl

theorem lanesIn_padAddrs (s : State) (e : Env) (f : MF) : lanesIn (padAddrs s e f) = e.sel f.pm f.pn := by
  simp [lanesIn, padAddrs, Function.comp_def]

theorem padPlaces_ne_nil {e : Env} {n : Nat} {ls : List (Nat × Nat × Nat)} (h : ls ≠ []) : padPlaces e n ls ≠ [] := by simpa [padPlaces] using h

section
variable {s : State} {e : Env} (hs : s.errors = [])
include hs

theorem sld_enters {f : MF} (h : Issues s (.sld f) e) (hne : e.sel f.pm f.pn ≠ []) (hl : ∀ q ∈ padAddrs s e f, PadLive s e q.2.2 (tyBytes f.ty) true) :
    ∃ t, exec (.sld f) s = .next t ∧ let ps := padPlaces e (tyBytes f.ty) (padAddrs s e f)
      Enters s t e (.sld f) (ps.map (padLane (tyBytes f.ty) .load fun _ => [])) (if f.ord = 1 then some f.scope.toNat else none) ∧ AtPort s t e ps := by
  have hx : exec (.sld f) s = .next (Machine.advance (padIssue s e (.sld f) (padPlaces e (tyBytes f.ty) (padAddrs s e f)) (tyBytes f.ty) .load (fun _ => [])
      (if f.ord = 1 then some f.scope.toNat else none)) e) := by
    rw [exec_sld, execSld, h.withGate]
    simp only [beq_iff_eq]
    exact (withPad_none hs _).1 _ (padCheck_ok (by simp) hl)
  exact ⟨_, hx, padIssue_enters h.bundle (.refl s) (.refl s) (.refl s) (padPlaces_ne_nil (by simpa [padAddrs] using hne)) ..⟩

theorem sst_enters {f : MF} (h : Issues s (.sst f) e) (hne : e.sel f.pm f.pn ≠ []) (hrel : f.ord = 2 → (released s e f.scope.toNat).1 = true)
    (hl : ∀ q ∈ padAddrs s e f, PadLive s e q.2.2 (tyBytes f.ty) false) :
    ∃ t, exec (.sst f) s = .next t ∧ let ps := padPlaces e (tyBytes f.ty) (padAddrs s e f)
      Enters s t e (.sst f) (ps.map (padLane (tyBytes f.ty) .store fun tid => leBytes (tyBytes f.ty) (srcNat s e tid f.d (tySpan f.ty)))) none ∧ AtPort s t e ps := by
  obtain ⟨v, hv⟩ : ∃ v, (if f.ord = 2 then released s e f.scope.toNat else (true, s)) = (true, v) := by
    split
    · next h2 => exact ⟨_, Prod.ext (hrel h2) rfl⟩
    · exact ⟨s, rfl⟩
  have ho := released_onlyTeams hv
  have hve : v.errors = [] := by rw [ho]; exact hs
  have hx : exec (.sst f) s = .next (Machine.advance (padIssue v e (.sst f) (padPlaces e (tyBytes f.ty) (padAddrs s e f)) (tyBytes f.ty) .store
      (fun tid => leBytes (tyBytes f.ty) (srcNat s e tid f.d (tySpan f.ty))) none) e) := by
    rw [exec_sst, execSst, h.withGate]
    simp only [beq_iff_eq, hv, Bool.not_true, Bool.false_eq_true, if_false, ho.padAddrs, ho.srcNat]
    exact (withPad_none hve _).1 _ (padCheck_ok (by simp) fun q hq => ho.padLive (hl q hq))
  exact ⟨_, hx, padIssue_enters h.bundle ho (released_regsSame hv) (released_windowSame hv) (padPlaces_ne_nil (by simpa [padAddrs] using hne)) ..⟩

theorem satom_enters {f : MAF} (h : Issues s (.satom f) e) (hne : e.sel f.pm f.pn ≠ [])
    (hrel : f.ord = 2 ∨ f.ord = 3 → (released s e f.scope.toNat).1 = true) :
    let qs := (e.sel f.pm f.pn).map fun q => (q.1, q.2, (src32 s e q.2 f.base).toNat)
    (∀ q ∈ qs, q.2.2 % tyBytes f.ty.toNat = 0 ∧ PadLive s e q.2.2 (tyBytes f.ty.toNat) true) →
    ∃ t, exec (.satom f) s = .next t ∧ let ps := padPlaces e (tyBytes f.ty.toNat) qs
      Enters s t e (.satom f) (ps.map (padLane (tyBytes f.ty.toNat) (.atom f.fn.toNat f.ty.toNat true) fun tid => atomBytes s e f tid)) (acquireOf f.ord f.scope) ∧
      AtPort s t e ps := by
  intro qs hl
  obtain ⟨v, hv⟩ : ∃ v, (if f.ord = 2 ∨ f.ord = 3 then released s e f.scope.toNat else (true, s)) = (true, v) := by
    split
    · next h2 => exact ⟨_, Prod.ext (hrel h2) rfl⟩
    · exact ⟨s, rfl⟩
  have ho := released_onlyTeams hv
  have hve : v.errors = [] := by rw [ho]; exact hs
  have hx : exec (.satom f) s = .next (Machine.advance (padIssue v e (.satom f) (padPlaces e (tyBytes f.ty.toNat) qs) (tyBytes f.ty.toNat)
      (.atom f.fn.toNat f.ty.toNat true) (fun tid => atomBytes s e f tid) (acquireOf f.ord f.scope)) e) := by
    rw [exec_satom, execSatom, h.withGate]
    simp only [Bool.or_eq_true, beq_iff_eq, hv, Bool.not_true, Bool.false_eq_true, if_false, ho.src32, ho.atomBytes]
    exact (withPad_none hve _).1 _ (padCheck_ok (fun _ q hq => (hl q hq).1) fun q hq => ho.padLive (hl q hq).2)
  exact ⟨_, hx, padIssue_enters h.bundle ho (released_regsSame hv) (released_windowSame hv) (padPlaces_ne_nil (by simpa [qs] using hne)) ..⟩

/-- A load that the check refuses. -/
theorem sld_parks {f : MF} {c : Cause} (h : Issues s (.sld f) e) (hout : Outside e (e.sel f.pm f.pn))
    (hf : ∃ g, padCheck s e (padAddrs s e f) (tyBytes f.ty) false true = .fault g ∧ FaultOf e c g) :
    ∃ t, exec (.sld f) s = .next t ∧ Parks t e (e.sel f.pm f.pn) c := by
  obtain ⟨g, hg, hc⟩ := hf
  refine ⟨faultSel s e (e.sel f.pm f.pn) g, ?_, parks_padFault h.bundle (sel_sublist ..) hout hc⟩
  rw [exec_sld, execSld, h.withGate, ← lanesIn_padAddrs s e f]
  exact (withPad_none hs _).2 _ hg

end

theorem padIssuePart : Part.PadIssue := by
  intro s e hs
  refine ⟨fun f h hne hl => sld_enters hs h hne hl, fun f h hne hrel hl => sst_enters hs h hne hrel hl, fun f h hne hrel => satom_enters hs h hne hrel, ?_, ?_⟩
  · rintro f a h hout ⟨l, tid, hm⟩ hp
    exact sld_parks hs h hout (padCheck_sbound ⟨_, hm, hp⟩)
  · intro f l tid a al row h hout hm hsome hp hx
    exact sld_parks hs h hout (padCheck_sstale hm hsome hp hx)

/-! ## An access at its row (R96, R103, R104, R153) -/

/-- The part once an access has left the port. -/
def portTaken (s : State) (c : Nat) (o : PortOp) : State := s.updCore c fun k => { k with port := removeFirst (· == o) k.port }

/-- Where no error waits, an access performs for all the lanes that share it. -/
theorem portPerform_none {s : State} (h : s.errors = []) (c : Nat) (o : PortOp) : portPerform s c o = o.lanes.foldl (portLane c o) (portTaken s c o) := by
  have hs : (portTaken s c o).errors = [] := h
  unfold portTaken at hs ⊢
  unfold portPerform
  dsimp only
  split
  · rfl
  · simp only [takeRowError_none hs, Bool.false_eq_true, if_false]

theorem exec_port_none {s : State} {c row : Nat} {o : PortOp} (h : s.errors = []) (hf : (s.core c).port.find? (fun o => o.row == row) = some o)
    (he : ∀ x ∈ o.ops s, engineFirst s c o.team [x.2.2.tid] o.iss (padHandle x.2.2.va) (padRow x.2.2.va) = false) :
    exec (.port c row) s = .next (o.lanes.foldl (portLane c o) (portTaken s c o)) := by
  have hb : (o.ops s).any (fun (_, _, l) => engineFirst s c o.team [l.tid] o.iss (padHandle l.va) (padRow l.va)) = false :=
    List.any_eq_false.mpr fun x hx => by simp [he x hx]
  simp only [exec_port, execPort, hf, hb, Bool.false_eq_true, if_false, portPerform_none h]

section
variable {s : State} {c : Nat} {o : PortOp} {lane : Nat} {tm : Team} {i : Inflight} {l : LaneOp} {al : Alloc}
  (hl : laneOf s o.team o.iss lane = some (tm, i, l)) (hal : mapGet? tm.allocs (padHandle l.va) = some al)
include hl hal

theorem portLane_load (hk : l.kind = .load) : portLane c o s lane = s.updLane o.team o.iss lane fun x =>
    { x with stage := .returned, result := padRead s c l.row (padByte l.va) l.n } := by
  simp only [portLane, hl, hal, hk]

theorem portLane_store (hk : l.kind = .store) : portLane c o s lane =
    progress ((padWrite s c al l.row (padByte l.va) l.data).updLane o.team o.iss lane fun x => { x with stage := .performed, result := [] }) o.team := by
  simp only [portLane, hl, hal, hk]

theorem portLane_atom {op ty : Nat} {ret : Bool} (hk : l.kind = .atom op ty ret) : portLane c o s lane =
    progress ((padWrite s c al l.row (padByte l.va) (atomResult op ty (padRead s c l.row (padByte l.va) l.n) l.data)).updLane o.team o.iss lane
      fun x => { x with stage := .performed, result := padRead s c l.row (padByte l.va) l.n }) o.team := by
  simp only [portLane, hl, hal, hk]

end

/-- What an access leaves alone: the errors that wait, memory, and the accesses that are still to be made. -/
structure PortKept (c : Nat) (s u : State) : Prop where
  errors : u.errors = s.errors
  mem : u.mem = s.mem
  port : (u.core c).port = (s.core c).port

theorem PortKept.trans {c : Nat} {s u v : State} (h : PortKept c s u) (k : PortKept c u v) : PortKept c s v :=
  ⟨k.errors.trans h.errors, k.mem.trans h.mem, k.port.trans h.port⟩

theorem portKept_of_onlyTeams {s u : State} (h : OnlyTeams s u) (c : Nat) : PortKept c s u := ⟨by rw [h], h.mem, by rw [h.core]⟩

theorem portKept_padWrite {s : State} (h : s.errors = []) (c : Nat) (al : Alloc) (p byte : Nat) (bs : List Byte) : PortKept c s (padWrite s c al p byte bs) := by
  rw [padWrite_none h]
  exact ⟨rfl, rfl, by rw [core_updCore, if_pos rfl]; rfl⟩

theorem portKept_portLane {s : State} (h : s.errors = []) (c : Nat) (o : PortOp) (lane : Nat) : PortKept c s (portLane c o s lane) := by
  cases hl : laneOf s o.team o.iss lane with
  | none => simp only [portLane, hl]; exact portKept_of_onlyTeams (.refl s) c
  | some x =>
    obtain ⟨tm, i, l⟩ := x
    have hdone : ∀ (u : State) f, OnlyTeams u (progress (u.updLane o.team o.iss lane f) o.team) := fun u f =>
      (onlyTeams_updLane ..).trans (onlyTeams_progress ..)
    cases ha : mapGet? tm.allocs (padHandle l.va) with
    | none => simp only [portLane, hl, ha]; exact portKept_of_onlyTeams (onlyTeams_updLane ..) c
    | some al =>
      cases hk : l.kind with
      | load => rw [portLane_load hl ha hk]; exact portKept_of_onlyTeams (onlyTeams_updLane ..) c
      | store => rw [portLane_store hl ha hk]; exact (portKept_padWrite h ..).trans (portKept_of_onlyTeams (hdone ..) c)
      | atom op ty ret => rw [portLane_atom hl ha hk]; exact (portKept_padWrite h ..).trans (portKept_of_onlyTeams (hdone ..) c)

theorem portKept_portLanes (c : Nat) (o : PortOp) (ls : List Nat) {s : State} (h : s.errors = []) : PortKept c s (ls.foldl (portLane c o) s) := by
  induction ls generalizing s with
  | nil => exact portKept_of_onlyTeams (.refl s) c
  | cons lane ls ih =>
    have hk := portKept_portLane h c o lane
    exact hk.trans (ih (hk.errors.trans h))

/-- A write of one lane: the lane is done, its bytes stand in the row, the row is restamped, and an expired row's other bytes are zero (R103). -/
theorem laneWritten {s : State} (hs : s.errors = []) (c : Nat) {o : PortOp} {lane : Nat} {tm : Team} {i : Inflight} {l : LaneOp}
    (hl : laneOf s o.team o.iss lane = some (tm, i, l)) (al : Alloc) (bs res : List Byte) :
    let k := s.core c
    let t := progress ((padWrite (portTaken s c o) c al l.row (padByte l.va) bs).updLane o.team o.iss lane fun x => { x with stage := .performed, result := res }) o.team
    (∃ tm' i', laneOf t o.team o.iss lane = some (tm', i', { l with stage := .performed, result := res })) ∧ t.mem = s.mem ∧
    (t.core c).row l.row = { stamp := k.rtick, exp := false } ∧ cellsGet (t.core c).pad (l.row * 256 + padByte l.va) bs.length = bs ∧
    ∀ j < 256, ¬ (padByte l.va ≤ j ∧ j < padByte l.va + bs.length) →
      cellGet (t.core c).pad (l.row * 256 + j) = if rowExpired k al l.row k.rtick then 0 else cellGet k.pad (l.row * 256 + j) := by
  intro k t
  have ho : OnlyTeams (padWrite (portTaken s c o) c al l.row (padByte l.va) bs) t := (onlyTeams_updLane ..).trans (onlyTeams_progress ..)
  have hw : padWrite (portTaken s c o) c al l.row (padByte l.va) bs = (portTaken s c o).updCore c (padWritten al l.row (padByte l.va) bs) :=
    padWrite_none (s := portTaken s c o) hs ..
  have hcore : t.core c = padWritten al l.row (padByte l.va) bs { k with port := removeFirst (· == o) k.port } := by
    rw [ho.core, hw, core_updCore, if_pos rfl, portTaken, core_updCore, if_pos rfl]
  have hexp : rowExpired { k with port := removeFirst (· == o) k.port } al l.row k.rtick = rowExpired k al l.row k.rtick := rowExpired_congr rfl rfl ..
  refine ⟨?_, ?_, ?_, ?_, fun j hj hn => ?_⟩
  · have h1 : laneOf (padWrite (portTaken s c o) c al l.row (padByte l.va) bs) o.team o.iss lane = some (tm, i, l) :=
      (laneOf_of_teams (by rw [hw]; rfl) ..).trans hl
    obtain ⟨t1, h2⟩ := laneOf_updLane h1 lane (fun x => { x with stage := .performed, result := res }) fun _ => rfl
    obtain ⟨t2, h3⟩ := laneOf_progress h2 _
    exact ⟨t2, _, h3.trans (by rw [if_pos rfl])⟩
  · rw [ho.mem, hw]; rfl
  · rw [hcore]; exact row_padWritten ..
  · rw [hcore]; exact bytes_padWritten ..
  · rw [hcore, others_padWritten _ _ _ _ _ hj hn, hexp]

theorem padAccess : Part.PadAccess := by
  intro s c row o hs hf he
  have hx := exec_port_none hs hf he
  have hk := portKept_portLanes c o o.lanes (s := portTaken s c o) hs
  refine ⟨⟨_, hx, hk.mem, ?_, rfl⟩, ?_⟩
  · rw [hk.port, portTaken, core_updCore, if_pos rfl]
  rintro lane tm i l al hlanes hl rfl hal old k
  have hl0 : laneOf (portTaken s c o) o.team o.iss lane = some (tm, i, l) := (laneOf_of_teams (updCore_teams ..) ..).trans hl
  have hold : padRead (portTaken s c o) c l.row (padByte l.va) l.n = old := by rw [padRead, portTaken, core_updCore, if_pos rfl]
  simp only [hlanes, List.foldl_cons, List.foldl_nil] at hx
  refine ⟨fun hkd => ?_, fun hkd => ?_, fun op ty ret hkd => ?_⟩
  · rw [portLane_load hl0 hal hkd, hold] at hx
    obtain ⟨t1, h1⟩ := laneOf_updLane hl0 lane (fun x => { x with stage := .returned, result := old }) fun _ => rfl
    refine ⟨_, t1, _, hx, h1.trans (by rw [if_pos rfl]), ?_, (onlyTeams_updLane ..).mem⟩
    rw [(onlyTeams_updLane ..).core, portTaken, core_updCore, if_pos rfl]
  · rw [portLane_store hl0 hal hkd] at hx
    obtain ⟨⟨t1, i1, h1⟩, h2, h3, h4, h5⟩ := laneWritten hs c hl al l.data []
    exact ⟨_, t1, i1, hx, h1, h2, h3, h4, h5⟩
  · rw [portLane_atom hl0 hal hkd, hold] at hx
    obtain ⟨⟨t1, i1, h1⟩, h2, h3, h4, h5⟩ := laneWritten hs c hl al (atomResult op ty old l.data) old
    have hlen : (atomResult op ty old l.data).length = l.n := (length_atomResult ..).trans (by simp [old, cellsGet])
    rw [hlen] at h4 h5
    exact ⟨_, t1, i1, hx, h1, h2, h3, h4, h5⟩

/-- Settles O35: the check of R98 names what an issue comes to, and a write at the row is laneWritten's. -/
theorem scratchpadAccess : Obligations.ScratchpadAccess := ⟨padIssuePart, padAccess⟩

end Sys2Proof
end

section
/-! PROOFS. The layer on what moves through a run of steps: a property kept by each step of a fold, a team's own fields through the moving on of a bundle,
results for a whole bundle from any state in which its registers stand, and rows renewed (R105, R313). -/

namespace Sys2Proof

open Machine

/-! ## Folds -/

/-- What every step of a fold keeps, the fold keeps. -/
theorem foldl_keeps {α σ : Type} {P : σ → Prop} (l : List α) (f : σ → α → σ) (hf : ∀ u, ∀ x ∈ l, P u → P (f u x)) {u : σ} (hu : P u) : P (l.foldl f u) := by
  induction l generalizing u with
  | nil => exact hu
  | cons y l ih => exact ih (fun u x hx => hf u x (List.mem_cons_of_mem _ hx)) (hf u y List.mem_cons_self hu)

/-- What one element of a fold brings about and every step keeps stands at the end; I is known of every state on the way. -/
theorem foldl_reaches {α σ : Type} {I P : σ → Prop} {l : List α} {x : α} (hx : x ∈ l) (f : σ → α → σ) (hI : ∀ u y, I u → I (f u y))
    (hP : ∀ u y, I u → P u → P (f u y)) (hfx : ∀ u, I u → P (f u x)) {u : σ} (hu : I u) : P (l.foldl f u) := by
  induction l generalizing u with
  | nil => exact absurd hx List.not_mem_nil
  | cons y l ih =>
    rw [List.foldl_cons]
    rcases List.mem_cons.mp hx with rfl | hx
    · exact (foldl_keeps (P := fun u => I u ∧ P u) l f (fun u z _ h => ⟨hI u z h.1, hP u z h.1 h.2⟩) ⟨hI u x hu, hfx u hu⟩).2
    · exact ih hx (hI u y hu)

/-! ## A team's own fields -/

/-- A team without its threads and groups. -/
def bareTeam (t : Team) : Team := { t with threads := [], groups := [] }
/-- Every team is the same but for its threads and groups. -/
structure TeamsBare (s t : State) : Prop where
  bare : ∀ k, (t.team k).map bareTeam = (s.team k).map bareTeam

theorem TeamsBare.refl (s : State) : TeamsBare s s := ⟨fun _ => rfl⟩
theorem TeamsBare.trans {a b c : State} (h : TeamsBare a b) (k : TeamsBare b c) : TeamsBare a c := ⟨fun x => (k.bare x).trans (h.bare x)⟩

theorem teamsBare_updTeam (s : State) (k : Nat) (f : Team → Team) (hf : ∀ t, bareTeam (f t) = bareTeam t) : TeamsBare s (s.updTeam k f) := by
  refine ⟨fun j => ?_⟩
  rw [team_updTeam]
  split
  · next h => simp [h, Option.map_map, Function.comp_def, hf]
  · rfl
theorem teamsBare_updThread (s : State) (k i : Nat) (f : Thread → Thread) : TeamsBare s (s.updThread k i f) := teamsBare_updTeam s k _ fun _ => rfl
theorem teamsBare_updGroup (s : State) (k g : Nat) (f : Group → Group) : TeamsBare s (s.updGroup k g f) := teamsBare_updTeam s k _ fun _ => rfl

theorem teamsBare_foldl {α : Type} (l : List α) (f : State → α → State) (hf : ∀ s x, TeamsBare s (f s x)) (s : State) : TeamsBare s (l.foldl f s) :=
  foldl_keeps l f (fun u x _ h => h.trans (hf u x)) (.refl s)

theorem teamsBare_endClause (s : State) (e : Env) : TeamsBare s (Machine.endClause s e) := by
  unfold Machine.endClause
  split
  · exact .refl s
  split
  · exact .refl s
  · exact (teamsBare_foldl _ _ (fun s (x : Nat × Nat) => teamsBare_updThread s e.tk x.2 _) s).trans (teamsBare_updGroup ..)

theorem teamsBare_advance (s : State) (e : Env) : TeamsBare s (Machine.advance s e) := by
  have hr : TeamsBare s (Machine.endReplay s e.tk e.g) := teamsBare_updTeam s e.tk _ fun t => by split <;> rfl
  unfold Machine.advance
  dsimp only
  split
  · exact hr
  split
  · exact hr
  split
  · exact hr.trans (teamsBare_updGroup ..)
  · exact hr.trans ((teamsBare_updGroup ..).trans (teamsBare_endClause ..))

theorem teamsBare_writeAll (s : State) (e : Env) (d : BitVec 11) (k x : Nat) : TeamsBare s (writeAll s e d k x) := by
  unfold writeAll
  split
  · refine teamsBare_foldl _ _ (fun s p => ?_) s
    unfold writeV
    dsimp only
    split
    · exact teamsBare_updThread ..
    · exact .refl s
  · unfold writeG
    split
    · exact teamsBare_updGroup ..
    · exact .refl s

/-- A field that a team has without its threads and groups. -/
theorem TeamsBare.allocs {s t : State} (h : TeamsBare s t) {k : Nat} {tm : Team} (ht : s.team k = some tm) :
    ∃ tm', t.team k = some tm' ∧ tm'.allocs = tm.allocs := by
  obtain ⟨tm', h1, h2⟩ := Option.map_eq_some_iff.mp ((h.bare k).trans (congrArg (Option.map bareTeam) ht))
  exact ⟨tm', h1, (congrArg Team.allocs h2 : (bareTeam tm').allocs = (bareTeam tm).allocs)⟩

/-! ## A result for the whole bundle (R313, R317) -/

/-- The result stands in its destination once the bundle has moved on, from any state in which the bundle's threads and group stand as at the issue. -/
theorem allHold_of_same {s t : State} {e : Env} (h : envOf s = some e) (hth : ∀ i, t.thread e.tk i = s.thread e.tk i) (hg : t.group e.tk e.g = s.group e.tk e.g)
    (d : BitVec 11) (k x : Nat) : AllHold (Machine.advance (writeAll t e d k x) e) e d k x := by
  refine ⟨fun n l tid hd hl => holds_of_regs (advance_regs _ e e.tk tid) ?_, fun n hd => gHolds_of_group (advance_group _ e e.tk e.g) ?_⟩
  · have hnd : ((e.lanes.map fun p => (p.2, x)).map Prod.fst).Nodup := by
      simpa [Function.comp_def] using lanes_tids_nodup (List.Sublist.refl e.lanes)
    have := foldWriteV (k := k) hd _ hnd t tid x (List.mem_map.mpr ⟨(l, tid), hl, rfl⟩) (by rw [hth]; exact thread_of_env h hl)
    simpa only [writeAll, hd, List.foldl_map] using this
  · simp only [writeAll, writeG, hd, group_updGroup, and_self, if_true, hg, group_of_env h]
    exact ⟨_, rfl, holds_setG e.grp n k x⟩

/-- The bundle takes a fault of its instruction. -/
theorem parks_faultBundle {s : State} {e : Env} {c : Cause} {f : FaultInfo} (hb : envOf s = some e) (hout : Outside e e.lanes) (hf : FaultOf e c f) :
    Parks (faultBundle s e f) e e.lanes c := by
  obtain ⟨rfl, hw, hc, hi⟩ := hf
  exact parks_parkAll hb (fun _ => rfl) (List.Sublist.refl _) hout hw hc hi

/-! ## Rows renewed (R105) -/

/-- Nothing but rows of one core's scratchpad differs, and every row is as before or freshly stamped. -/
structure RowsRenewed (c : Nat) (s u : State) : Prop where
  rest : u = { s with cores := u.cores }
  core : ∃ r, u.core c = { s.core c with rows := r }
  rows : ∀ q, (u.core c).row q = (s.core c).row q ∨ (u.core c).row q = { stamp := (s.core c).rtick, exp := false }

namespace RowsRenewed

variable {c : Nat} {s u v : State}

theorem refl (c : Nat) (s : State) : RowsRenewed c s s := ⟨rfl, ⟨_, rfl⟩, fun _ => .inl rfl⟩
theorem errors (h : RowsRenewed c s u) : u.errors = s.errors := by rw [h.rest]
theorem mem (h : RowsRenewed c s u) : u.mem = s.mem := by rw [h.rest]
theorem teams (h : RowsRenewed c s u) : u.teams = s.teams := by rw [h.rest]
theorem rtick (h : RowsRenewed c s u) : (u.core c).rtick = (s.core c).rtick := by obtain ⟨r, hr⟩ := h.core; rw [hr]
theorem rtotal (h : RowsRenewed c s u) : (u.core c).rtotal = (s.core c).rtotal := by obtain ⟨r, hr⟩ := h.core; rw [hr]
theorem tret (h : RowsRenewed c s u) : (u.core c).tret = (s.core c).tret := by obtain ⟨r, hr⟩ := h.core; rw [hr]

theorem trans (h : RowsRenewed c s u) (k : RowsRenewed c u v) : RowsRenewed c s v where
  rest := by rw [k.rest, h.rest]
  core := by
    obtain ⟨r, hr⟩ := h.core
    obtain ⟨r', hr'⟩ := k.core
    exact ⟨r', by rw [hr', hr]⟩
  rows q := by
    rcases k.rows q with hq | hq
    · rw [hq]; exact h.rows q
    · exact .inr (by rw [hq, h.rtick])

/-- A row that is live before is live after. -/
theorem live (h : RowsRenewed c s u) {al : Alloc} {p : Nat} (hp : rowExpired (s.core c) al p (s.core c).rtick = false) :
    rowExpired (u.core c) al p (u.core c).rtick = false := by
  rcases h.rows p with hq | hq
  · rw [rowExpired_congr h.tret hq, h.rtick]; exact hp
  · exact rowExpired_fresh (by rw [hq, h.rtick]) al

theorem fresh (h : RowsRenewed c s u) {p : Nat} (hp : (s.core c).row p = { stamp := (s.core c).rtick, exp := false }) :
    (u.core c).row p = { stamp := (s.core c).rtick, exp := false } := by
  rcases h.rows p with hq | hq
  · rw [hq, hp]
  · exact hq

end RowsRenewed

/-- One row renewed where no error waits: whether it was expired, and the row stamped where it was not. -/
theorem renewRow_none {s : State} (h : s.errors = []) (c : Nat) (al : Alloc) (p : Nat) : renewRow s c al p =
    (rowExpired (s.core c) al p (s.core c).rtick,
      if rowExpired (s.core c) al p (s.core c).rtick then s else s.updCore c fun k => k.setRow p { stamp := k.rtick, exp := false }) := by
  simp only [renewRow, checkStamp_none h, takeRowError_none h, Bool.false_eq_true, if_false]
  cases hx : rowExpired (s.core c) al p (s.core c).rtick <;> rfl

theorem row_stamped (s : State) (c p q : Nat) : ((s.updCore c fun k => k.setRow p { stamp := k.rtick, exp := false }).core c).row q =
    if q = p then { stamp := (s.core c).rtick, exp := false } else (s.core c).row q := by
  rw [core_updCore, if_pos rfl, row_setRow]

theorem rowsRenewed_stamp (s : State) (c p : Nat) : RowsRenewed c s (s.updCore c fun k => k.setRow p { stamp := k.rtick, exp := false }) where
  rest := rfl
  core := ⟨_, by rw [core_updCore, if_pos rfl, Core.setRow]⟩
  rows q := by
    rw [row_stamped]
    split
    · exact .inr rfl
    · exact .inl rfl

theorem rowsRenewed_renewRow {s : State} (h : s.errors = []) (c : Nat) (al : Alloc) (p : Nat) : RowsRenewed c s (renewRow s c al p).2 := by
  rw [renewRow_none h]
  dsimp only
  split
  · exact .refl c s
  · exact rowsRenewed_stamp s c p

/-- A live row is renewed. -/
theorem row_renewRow {s : State} (h : s.errors = []) {c : Nat} {al : Alloc} {p : Nat} (hp : rowExpired (s.core c) al p (s.core c).rtick = false) :
    ((renewRow s c al p).2.core c).row p = { stamp := (s.core c).rtick, exp := false } := by
  simp only [renewRow_none h, hp, Bool.false_eq_true, if_false, row_stamped, if_true]

/-- No row but the one named changes. -/
theorem row_renewRow_other {s : State} (h : s.errors = []) {c : Nat} {al : Alloc} {p q : Nat} (hq : q ≠ p) :
    ((renewRow s c al p).2.core c).row q = (s.core c).row q := by
  rw [renewRow_none h]
  dsimp only
  split
  · rfl
  · rw [row_stamped, if_neg hq]

end Sys2Proof
end

section
/-! PROOFS. The management of scratchpad allocations (R100 to R102, R105 to R107, R313); O36 is put together here. -/

namespace Sys2Proof

open Machine

/-! ## salloc (R102) -/

/-- Rows zeroed and stamped: the metadata. -/
theorem row_stampRows (k : Core) (p m q : Nat) : ((List.range m).foldl (fun c i => c.setRow (p + i) { stamp := c.rtick, exp := false }) k).row q =
    if p ≤ q ∧ q < p + m then { stamp := k.rtick, exp := false } else k.row q := by
  have hr : ∀ m : Nat, ((List.range m).foldl (fun c i => c.setRow (p + i) { stamp := c.rtick, exp := false }) k).rtick = k.rtick := fun m => by
    refine foldl_keeps (P := fun c : Core => c.rtick = k.rtick) _ _ (fun c i _ h => ?_) rfl
    exact h
  induction m with
  | zero => rw [if_neg (by omega)]; rfl
  | succ m ih =>
    rw [List.range_succ, List.foldl_append, List.foldl_cons, List.foldl_nil, row_setRow, hr, ih]
    by_cases hq : q = p + m
    · rw [if_pos hq, if_pos (by omega)]
    · rw [if_neg hq]
      exact if_congr (by omega) rfl rfl

theorem row_zeroRows (k : Core) (p m q : Nat) : (zeroRows k p m).row q = if p ≤ q ∧ q < p + m then { stamp := k.rtick, exp := false } else k.row q :=
  row_stampRows ..

theorem pad_zeroRows (k : Core) (p m : Nat) : (zeroRows k p m).pad = cellsZero k.pad (p * 256) (m * 256) := by
  refine foldl_keeps (P := fun c : Core => c.pad = cellsZero k.pad (p * 256) (m * 256)) _ _ (fun c i _ h => ?_) rfl
  exact h

/-- The part once an allocation has been taken. -/
def allocTaken (s : State) (e : Env) (n l h g : Nat) : State :=
  progress ((s.updCore e.core fun c => zeroRows c ((e.team.block + g) * 16) (granules n * 16)).updTeam e.tk fun t =>
    { t with allocs := mapSet t.allocs h { n := n, life := l, gran := g } }) e.tk

/-- What salloc leaves, for an answer: status, handle, granule. -/
def sallocState (s : State) (e : Env) (f : OF) (r : Nat × Nat × Nat) : State :=
  Machine.advance (writeAll (if r.1 = 0 then allocTaken s e (uni32 s e f.a).toNat (uni32 s e f.b).toNat r.2.1 r.2.2 else s) e f.d 1 (r.1 * 2 ^ 28 + r.2.1)) e

section
variable {s : State} {e : Env} {f : OF}

theorem exec_salloc_eq (h : Issues s (.salloc f) e) :
    exec (.salloc f) s = .next (sallocState s e f (allocDecide s e.team (uni32 s e f.a).toNat (uni32 s e f.b).toNat)) := by
  rw [exec_salloc, execSalloc, h.simple]
  simp only [sallocState, allocTaken]

theorem allocTaken_thread (s : State) (e : Env) (n l h g k i : Nat) : (allocTaken s e n l h g).thread k i = s.thread k i := by
  rw [allocTaken, progress, thread_updTeam, thread_updTeam]
  · rfl
  all_goals exact fun _ => rfl
theorem allocTaken_group (s : State) (e : Env) (n l h g k i : Nat) : (allocTaken s e n l h g).group k i = s.group k i := by
  rw [allocTaken, progress, group_updTeam, group_updTeam]
  · rfl
  all_goals exact fun _ => rfl
theorem allocTaken_core (s : State) (e : Env) (n l h g : Nat) :
    (allocTaken s e n l h g).core e.core = zeroRows (s.core e.core) ((e.team.block + g) * 16) (granules n * 16) := by
  rw [allocTaken, (onlyTeams_progress ..).core, (onlyTeams_updTeam (.refl _) _ _).core, core_updCore, if_pos rfl]
theorem allocTaken_mem (s : State) (e : Env) (n l h g : Nat) : (allocTaken s e n l h g).mem = s.mem :=
  (onlyTeams_progress ..).mem.trans (onlyTeams_updTeam (.refl _) _ _).mem

/-- Whatever the answer, it stands in the destination, and memory is as before. -/
theorem sallocState_answer (he : envOf s = some e) (st h g : Nat) :
    AllHold (sallocState s e f (st, h, g)) e f.d 1 (st * 2 ^ 28 + h) ∧ (sallocState s e f (st, h, g)).mem = s.mem := by
  refine ⟨allHold_of_same he (fun i => ?_) ?_ .., (onlyTeams_advance ..).mem.trans ((onlyTeams_writeAll ..).mem.trans ?_)⟩
  · dsimp only; split
    · exact allocTaken_thread ..
    · rfl
  · dsimp only; split
    · exact allocTaken_group ..
    · rfl
  · dsimp only; split
    · exact allocTaken_mem ..
    · rfl

/-- A salloc that takes nothing writes its status alone. -/
theorem sallocState_refused (he : envOf s = some e) {st : Nat} (hst : st ≠ 0) :
    AllHold (sallocState s e f (st, 0, 0)) e f.d 1 (st * 2 ^ 28) ∧ AllKept s (sallocState s e f (st, 0, 0)) e f.d 1 := by
  refine ⟨by simpa only [Nat.add_zero] using (sallocState_answer he st 0 0).1, ?_⟩
  simp only [sallocState, hst, if_false]
  exact allKept_writeAll he ..

/-- A salloc that takes rows names them in the team, zeroes and stamps them. -/
theorem sallocState_taken (he : envOf s = some e) (h g : Nat) : let t := sallocState s e f (0, h, g)
    let n := (uni32 s e f.a).toNat
    (∃ tm, t.team e.tk = some tm ∧ mapGet? tm.allocs h = some { n := n, life := (uni32 s e f.b).toNat, gran := g }) ∧
    ∀ j < granules n * 16, (t.core e.core).row ((e.team.block + g) * 16 + j) = { stamp := (s.core e.core).rtick, exp := false } ∧
      ∀ b < 256, cellGet (t.core e.core).pad (((e.team.block + g) * 16 + j) * 256 + b) = 0 := by
  intro t n
  obtain ⟨u, hu⟩ : ∃ u, u = allocTaken s e n (uni32 s e f.b).toNat h g := ⟨_, rfl⟩
  have ht : t = Machine.advance (writeAll u e f.d 1 (0 * 2 ^ 28 + h)) e := by rw [hu]; exact congrArg (fun u => Machine.advance (writeAll u e f.d 1 (0 * 2 ^ 28 + h)) e) (if_pos rfl)
  have hcore : t.core e.core = zeroRows (s.core e.core) ((e.team.block + g) * 16) (granules n * 16) := by
    rw [ht, (onlyTeams_advance ..).core, (onlyTeams_writeAll ..).core, hu, allocTaken_core]
  refine ⟨?_, fun j hj => ⟨?_, fun b hb => ?_⟩⟩
  · obtain ⟨tm, hut, ha⟩ : ∃ tm, u.team e.tk = some tm ∧ tm.allocs = mapSet e.team.allocs h { n := n, life := (uni32 s e f.b).toNat, gran := g } := by
      have hs : (s.updCore e.core fun c => zeroRows c ((e.team.block + g) * 16) (granules n * 16)).team e.tk = some e.team := (envOf_spec he).1
      rw [hu, allocTaken, progress, team_updTeam, if_pos rfl, team_updTeam, if_pos rfl, hs]
      exact ⟨_, rfl, rfl⟩
    obtain ⟨tm', h1, h2⟩ := ((teamsBare_writeAll u e f.d 1 (0 * 2 ^ 28 + h)).trans (teamsBare_advance _ e)).allocs hut
    exact ⟨tm', ht ▸ h1, by rw [h2, ha, mapGet_set, if_pos rfl]⟩
  · rw [hcore, row_zeroRows, if_pos (by omega)]
  · rw [hcore, pad_zeroRows, cellGet_zero, if_pos (by omega)]

/-! ### The order of R102's table -/

variable {t : Team} {n l : Nat}

theorem allocDecide_rows (h : n = 0 ∨ 3072 < n) : allocDecide s t n l = (4, 0, 0) := by
  rw [allocDecide, if_pos (by simpa using h)]

theorem allocDecide_life (h1 : n ≠ 0) (h2 : n ≤ 3072) (h : l = 0 ∨ 1023 < l ∨ (s.core t.core).tretTicks < l) : allocDecide s t n l = (3, 0, 0) := by
  rw [allocDecide, if_neg (by simp; omega), if_pos (by simpa [or_assoc] using h)]

/-- The sizes and the lifetime are in order, and no handle is free. -/
theorem allocDecide_handles (h1 : n ≠ 0) (h2 : n ≤ 3072) (h3 : l ≠ 0) (h4 : l ≤ 1023) (h5 : l ≤ (s.core t.core).tretTicks)
    (h : (List.range 8).find? (fun h => (mapGet? t.allocs h).isNone) = none) : allocDecide s t n l = (2, 0, 0) := by
  rw [allocDecide, if_neg (by simp; omega), if_neg (by simp; omega), h]

/-- A handle is free, and there is no room. -/
theorem allocDecide_room (h1 : n ≠ 0) (h2 : n ≤ 3072) (h3 : l ≠ 0) (h4 : l ≤ 1023) (h5 : l ≤ (s.core t.core).tretTicks) {y : Nat}
    (h : (List.range 8).find? (fun h => (mapGet? t.allocs h).isNone) = some y) (hg : freeGranules t (granules n) = none) : allocDecide s t n l = (1, 0, 0) := by
  rw [allocDecide, if_neg (by simp; omega), if_neg (by simp; omega), h]
  simp only [hg]

theorem freeGranules_none {k : Nat} (h : ∀ g, g + k ≤ t.spg → ∃ x ∈ t.allocs, x.2.gran < g + k ∧ g < x.2.gran + granules x.2.n) : freeGranules t k = none := by
  refine List.find?_eq_none.mpr fun g _ hg => ?_
  simp only [Bool.and_eq_true, decide_eq_true_eq, List.all_eq_true, Bool.or_eq_true] at hg
  obtain ⟨x, hx, h1, h2⟩ := h g hg.1
  have := hg.2 x hx
  omega

end

theorem salloc_spec {s : State} {e : Env} {f : OF} (h : Issues s (.salloc f) e) :
    let n := (uni32 s e f.a).toNat
    let l := (uni32 s e f.b).toNat
    ∃ t, exec (.salloc f) s = .next t ∧ t.mem = s.mem ∧
      (n = 0 ∨ 3072 < n → AllHold t e f.d 1 (4 * 2 ^ 28) ∧ AllKept s t e f.d 1) ∧
      (n ≠ 0 → n ≤ 3072 → l = 0 ∨ 1023 < l ∨ (s.core e.team.core).tretTicks < l → AllHold t e f.d 1 (3 * 2 ^ 28) ∧ AllKept s t e f.d 1) ∧
      (n ≠ 0 → n ≤ 3072 → l ≠ 0 → l ≤ 1023 → l ≤ (s.core e.team.core).tretTicks →
        ((∀ h < 8, (mapGet? e.team.allocs h).isSome = true) → AllHold t e f.d 1 (2 * 2 ^ 28) ∧ AllKept s t e f.d 1) ∧
        ((∃ h < 8, mapGet? e.team.allocs h = none) →
          (∀ g, g + granules n ≤ e.team.spg → ∃ x ∈ e.team.allocs, x.2.gran < g + granules n ∧ g < x.2.gran + granules x.2.n) →
          AllHold t e f.d 1 (2 ^ 28) ∧ AllKept s t e f.d 1)) ∧
      (∀ h g, allocDecide s e.team n l = (0, h, g) → AllHold t e f.d 1 h ∧ (∃ tm, t.team e.tk = some tm ∧ mapGet? tm.allocs h = some { n := n, life := l, gran := g }) ∧
        ∀ j < granules n * 16, (t.core e.core).row ((e.team.block + g) * 16 + j) = { stamp := (s.core e.core).rtick, exp := false } ∧
          ∀ b < 256, cellGet (t.core e.core).pad (((e.team.block + g) * 16 + j) * 256 + b) = 0) := by
  intro n l
  have he := h.bundle
  have refused : ∀ st, st ≠ 0 → allocDecide s e.team n l = (st, 0, 0) →
      AllHold (sallocState s e f (allocDecide s e.team n l)) e f.d 1 (st * 2 ^ 28) ∧ AllKept s (sallocState s e f (allocDecide s e.team n l)) e f.d 1 := by
    intro st hst hd
    rw [hd]
    exact sallocState_refused he hst
  refine ⟨_, exec_salloc_eq h, (sallocState_answer he ..).2, fun h1 => refused 4 (by omega) (allocDecide_rows h1),
    fun h1 h2 h3 => refused 3 (by omega) (allocDecide_life h1 h2 h3), fun h1 h2 h3 h4 h5 => ⟨fun hall => refused 2 (by omega) ?_, fun hfree hfull => ?_⟩,
    fun x g hd => ?_⟩
  · have hnone : (List.range 8).find? (fun h => (mapGet? e.team.allocs h).isNone) = none :=
      List.find?_eq_none.mpr fun h hh => by simpa [Option.isSome_iff_ne_none] using hall h (List.mem_range.mp hh)
    exact allocDecide_handles h1 h2 h3 h4 h5 hnone
  · obtain ⟨x, hx, hxn⟩ := hfree
    obtain ⟨y, hy⟩ : ∃ y, (List.range 8).find? (fun h => (mapGet? e.team.allocs h).isNone) = some y :=
      Option.isSome_iff_exists.mp (List.find?_isSome.mpr ⟨x, List.mem_range.mpr hx, by simp [hxn]⟩)
    have := refused 1 (by omega) (allocDecide_room h1 h2 h3 h4 h5 hy (freeGranules_none hfull))
    rwa [Nat.one_mul] at this
  · rw [hd]
    refine ⟨?_, sallocState_taken he x g⟩
    simpa only [Nat.zero_mul, Nat.zero_add] using (sallocState_answer (f := f) he 0 x g).1

/-! ## srenew and sage (R105, R106) -/

/-- k rows renewed in turn: how many were expired, and each row that was not is stamped. -/
theorem renewRows_spec {s : State} (hs : s.errors = []) (c : Nat) (al : Alloc) (p k : Nat) :
    let r := (List.range k).foldl (fun (x : Nat × State) i => (if (renewRow x.2 c al (p + i)).1 then x.1 + 1 else x.1, (renewRow x.2 c al (p + i)).2)) (0, s)
    r.1 = (List.range k).countP (fun i => rowExpired (s.core c) al (p + i) (s.core c).rtick) ∧ RowsRenewed c s r.2 ∧
    (∀ i < k, (r.2.core c).row (p + i) = if rowExpired (s.core c) al (p + i) (s.core c).rtick then (s.core c).row (p + i)
      else { stamp := (s.core c).rtick, exp := false }) ∧
    ∀ q, p + k ≤ q → (r.2.core c).row q = (s.core c).row q := by
  induction k with
  | zero => exact ⟨rfl, .refl c s, fun i hi => absurd hi (Nat.not_lt_zero i), fun _ _ => rfl⟩
  | succ k ih =>
    simp only [List.range_succ, List.foldl_append, List.foldl_cons, List.foldl_nil, List.countP_append] at ih ⊢
    generalize (List.range k).foldl (fun (x : Nat × State) i => (if (renewRow x.2 c al (p + i)).1 then x.1 + 1 else x.1, (renewRow x.2 c al (p + i)).2)) (0, s) = r at ih ⊢
    obtain ⟨m, u⟩ := r
    obtain ⟨hcount, hren, hrow, hlater⟩ := ih
    have hu : u.errors = [] := hren.errors.trans hs
    have hx : rowExpired (u.core c) al (p + k) (u.core c).rtick = rowExpired (s.core c) al (p + k) (s.core c).rtick := by
      rw [rowExpired_congr hren.tret (hlater _ (Nat.le_refl _)), hren.rtick]
    have hrk := renewRow_none hu c al (p + k)
    rw [hx] at hrk
    refine ⟨?_, hren.trans (rowsRenewed_renewRow hu c al _), fun i hi => ?_, fun q hq => ?_⟩
    · have hm : m = _ := hcount
      rw [hrk, hm]
      cases hex : rowExpired (s.core c) al (p + k) (s.core c).rtick <;> simp [hex]
    · rcases Nat.lt_succ_iff_lt_or_eq.mp hi with hi | rfl
      · rw [row_renewRow_other hu (by omega)]; exact hrow i hi
      · cases hex : rowExpired (s.core c) al (p + i) (s.core c).rtick with
        | true => simp only [hrk, hex, if_true]; exact hlater _ (Nat.le_refl _)
        | false => rw [row_renewRow hu (hx.trans hex), hren.rtick]; rfl
    · rw [row_renewRow_other hu (by omega)]; exact hlater q (by omega)

theorem thread_progress (s : State) (k i : Nat) : (progress s k).thread k i = s.thread k i :=
  thread_updTeam s k (fun t => { t with lookout := 0 }) (fun _ => rfl) k i
theorem group_progress (s : State) (k g : Nat) : (progress s k).group k g = s.group k g :=
  group_updTeam s k (fun t => { t with lookout := 0 }) (fun _ => rfl) k g

section
variable {s : State} {e : Env} {f : OF} {al : Alloc} {p : Nat}

theorem srenew_spec (hs : s.errors = []) (h : Issues s (.srenew f) e) (hp : padRows e.team (uni32 s e f.a).toNat (uni32 s e f.b).toNat = some (al, p))
    (hb : rowsBusy s e p (uni32 s e f.b).toNat (padHandle (uni32 s e f.a).toNat) (padRow (uni32 s e f.a).toNat) = false) :
    ∃ t, exec (.srenew f) s = .next t ∧ t.mem = s.mem ∧
      AllHold t e f.d 1 ((List.range (uni32 s e f.b).toNat).countP fun i => rowExpired (s.core e.core) al (p + i) (s.core e.core).rtick) ∧
      ∀ i < (uni32 s e f.b).toNat, (t.core e.core).row (p + i) = if rowExpired (s.core e.core) al (p + i) (s.core e.core).rtick
        then (s.core e.core).row (p + i) else { stamp := (s.core e.core).rtick, exp := false } := by
  have ho := onlyTeams_progress s e.tk
  obtain ⟨hcount, hren, hrow, -⟩ := renewRows_spec (s := progress s e.tk) (by rw [ho]; exact hs) e.core al p (uni32 s e f.b).toNat
  rw [ho.core] at hcount hrow
  have hx : exec (.srenew f) s = .next (Machine.advance (writeAll ((List.range (uni32 s e f.b).toNat).foldl (fun (x : Nat × State) i =>
      (if (renewRow x.2 e.core al (p + i)).1 then x.1 + 1 else x.1, (renewRow x.2 e.core al (p + i)).2)) (0, progress s e.tk)).2 e f.d 1
      ((List.range (uni32 s e f.b).toNat).countP fun i => rowExpired (s.core e.core) al (p + i) (s.core e.core).rtick)) e) := by
    rw [← hcount, exec_srenew, execSrenew, rangeInsn, h.withGate]
    simp only [hp, hb, Bool.false_eq_true, if_false]
  refine ⟨_, hx, ?_, allHold_of_same h.bundle (fun i => ?_) ?_ .., fun i hi => ?_⟩
  · rw [(onlyTeams_advance ..).mem, (onlyTeams_writeAll ..).mem, hren.mem, ho.mem]
  · rw [State.thread, State.team, hren.teams]
    exact thread_progress s e.tk i
  · rw [State.group, State.team, hren.teams]
    exact group_progress s e.tk e.g
  · rw [(onlyTeams_advance ..).core, (onlyTeams_writeAll ..).core]
    exact hrow i hi

theorem sage_spec (hs : s.errors = []) (h : Issues s (.sage f) e) (hp : padRows e.team (uni32 s e f.a).toNat (uni32 s e f.b).toNat = some (al, p))
    (hb : rowsBusy s e p (uni32 s e f.b).toNat (padHandle (uni32 s e f.a).toNat) (padRow (uni32 s e f.a).toNat) = false) :
    ∃ t, exec (.sage f) s = .next t ∧ AllHold t e f.d 1 (ageWord (s.core e.core) al p (uni32 s e f.b).toNat) ∧ AllKept s t e f.d 1 := by
  have hfix : (List.range (uni32 s e f.b).toNat).foldl (fun s i => checkStamp s e.core (p + i)) s = s :=
    foldl_keeps (P := (· = s)) _ _ (fun u i _ h => by rw [h, checkStamp_none hs]) rfl
  refine ⟨_, ?_, allHold_writeAll h.bundle rfl .., allKept_writeAll h.bundle ..⟩
  rw [exec_sage, execSage, rangeInsn, h.withGate]
  simp only [hp, hb, hfix, Bool.false_eq_true, if_false]

/-- A range that leaves its allocation (R98). -/
theorem rangeInsn_parks {i : Instr} {act : State → Env → Alloc → Nat → Nat → Nat × State} (h : Issues s i e) (hout : Outside e e.lanes)
    (hp : padRows e.team (uni32 s e f.a).toNat (uni32 s e f.b).toNat = none) : ∃ t, rangeInsn s i f act = .next t ∧ Parks t e e.lanes .sbound := by
  refine ⟨faultBundle s e { insnFault e .sbound with addrs := [(uni32 s e f.a).toNat] }, ?_, parks_faultBundle h.bundle hout ⟨rfl, rfl, rfl, rfl⟩⟩
  rw [rangeInsn, h.withGate]
  simp only [hp]

/-! ## sfree (R107) -/

theorem queueAt_freeCopies (s : State) (c tk h ch : Nat) : queueAt (freeCopies s c tk h) c ch = (queueAt s c ch).map fun x =>
    if x.team == tk && x.freed.isNone && x.pads.any (fun a => padHandle a == h) then { x with freed := some h } else x := by
  unfold queueAt freeCopies
  rw [core_updCore, if_pos rfl]
  dsimp only
  induction (s.core c).copyq with
  | nil => rfl
  | cons q qs ih =>
    simp only [List.map_cons, mapGet?]
    split
    · rfl
    · exact ih

/-- Every command of the team that names the freed handle is marked to stop. -/
theorem freeCopies_marks {s : State} {c tk h ch : Nat} {x : CopyCmd} (hx : x ∈ queueAt (freeCopies s c tk h) c ch) (ht : x.team = tk)
    (hp : ∃ a ∈ x.pads, padHandle a = h) : x.freed.isSome = true := by
  rw [queueAt_freeCopies] at hx
  obtain ⟨y, -, rfl⟩ := List.mem_map.mp hx
  by_cases hc : (y.team == tk && y.freed.isNone && y.pads.any fun a => padHandle a == h) = true
  · rw [if_pos hc]; rfl
  · rw [if_neg hc] at ht hp ⊢
    obtain ⟨a, ha, hah⟩ := hp
    have : y.pads.any (fun a => padHandle a == h) = true := List.any_eq_true.mpr ⟨a, ha, by simp [hah]⟩
    simpa [ht, this, Option.isSome_iff_ne_none] using hc

theorem sfree_frees (h : Issues s (.sfree f) e) (h8 : (uni32 s e f.a).toNat < 8) (hal : mapGet? e.team.allocs (uni32 s e f.a).toNat = some al)
    (hport : ∀ o ∈ (s.core e.core).port, o.team = e.tk → let p := (e.team.block + al.gran) * 16
      o.row < p ∨ p + granules al.n * 16 ≤ o.row)
    (hmat : ∀ m ∈ (s.core e.core).matq, m.team = e.tk → ∀ x ∈ m.pads, padHandle x.1 ≠ (uni32 s e f.a).toNat) :
    ∃ t tm, exec (.sfree f) s = .next t ∧ t.mem = s.mem ∧ RegsSame s t ∧ t.team e.tk = some tm ∧ mapGet? tm.allocs (uni32 s e f.a).toNat = none ∧
      ∀ ch, ∀ x ∈ queueAt t e.core ch, x.team = e.tk → (∃ a ∈ x.pads, padHandle a = (uni32 s e f.a).toNat) → x.freed.isSome = true := by
  have hfree : ((s.core e.core).port.any (fun o => o.team == e.tk && decide ((e.team.block + al.gran) * 16 ≤ o.row) &&
      decide (o.row < (e.team.block + al.gran) * 16 + granules al.n * 16)) ||
      (s.core e.core).matq.any fun m => m.team == e.tk && m.pads.any fun (a, _) => padHandle a == (uni32 s e f.a).toNat) = false := by
    rw [Bool.or_eq_false_iff, List.any_eq_false, List.any_eq_false]
    refine ⟨fun o ho hn => ?_, fun m hm hn => ?_⟩
    · simp only [Bool.and_eq_true, beq_iff_eq, decide_eq_true_eq] at hn
      have := hport o ho hn.1.1
      omega
    · simp only [Bool.and_eq_true, beq_iff_eq, List.any_eq_true] at hn
      obtain ⟨ht, x, hx, hxh⟩ := hn
      exact hmat m hm ht x hx hxh
  obtain ⟨u, hu⟩ : ∃ u, u = s.updTeam e.tk fun t => { t with allocs := mapErase t.allocs (uni32 s e f.a).toNat } := ⟨_, rfl⟩
  have hx : exec (.sfree f) s = .next (Machine.advance (freeCopies u e.core e.tk (uni32 s e f.a).toNat) e) := by
    rw [exec_sfree, execSfree, h.withGate]
    simp only [h8, hal, hfree, hu, if_true, Bool.false_eq_true, if_false]
  have hut : u.team e.tk = some { e.team with allocs := mapErase e.team.allocs (uni32 s e f.a).toNat } := by
    rw [hu, team_updTeam, if_pos rfl, (envOf_spec h.bundle).1, Option.map_some]
  obtain ⟨tm, h1, h2⟩ := (teamsBare_advance (freeCopies u e.core e.tk (uni32 s e f.a).toNat) e).allocs (tm := { e.team with allocs := _ }) hut
  refine ⟨_, tm, hx, ?_, ?_, h1, by rw [h2, mapGet_erase, if_pos rfl], fun ch x hm ht hp => ?_⟩
  · rw [(onlyTeams_advance ..).mem, hu]; exact (onlyTeams_updTeam (.refl s) _ _).mem
  · refine (RegsSame.trans ?_ (regsSame_of_teams (updCore_teams ..))).trans (regsSame_advance _ e)
    rw [hu]; exact regsSame_updTeam _ _ _ (fun _ => rfl) fun _ => rfl
  · rw [queueAt, (onlyTeams_advance ..).core] at hm
    exact freeCopies_marks hm ht hp

theorem sfree_parks (h : Issues s (.sfree f) e) (hout : Outside e e.lanes)
    (hn : 8 ≤ (uni32 s e f.a).toNat ∨ mapGet? e.team.allocs (uni32 s e f.a).toNat = none) : ∃ t, exec (.sfree f) s = .next t ∧ Parks t e e.lanes .sbound := by
  have hnone : (if (uni32 s e f.a).toNat < 8 then mapGet? e.team.allocs (uni32 s e f.a).toNat else none) = none := by
    rcases hn with h | h
    · exact if_neg (by omega)
    · rw [h, ite_self]
  refine ⟨faultBundle s e { insnFault e .sbound with addrs := [(uni32 s e f.a).toNat] }, ?_, parks_faultBundle h.bundle hout ⟨rfl, rfl, rfl, rfl⟩⟩
  rw [exec_sfree, execSfree, h.withGate]
  simp only [hnone]

end

/-- Settles O36, one lemma for each instruction and for what stops it. -/
theorem padManagement : Obligations.PadManagement := by
  intro f s e hs
  refine ⟨fun h => ?_, fun h => ⟨fun al h8 hal => sfree_frees h h8 hal, sfree_parks h⟩, fun al p h hp hb => srenew_spec hs h hp hb,
    fun al p h hp hb => sage_spec hs h hp hb, fun i hi h hout hp => ?_⟩
  · exact salloc_spec h
  rcases List.mem_pair.mp hi with rfl | rfl
  · rw [exec_srenew, execSrenew]; exact rangeInsn_parks h hout hp
  · rw [exec_sage, execSage]; exact rangeInsn_parks h hout hp

end Sys2Proof
end

section
/-! PROOFS. The copy channels' head commands (R321, R324, R327 to R330); O39 is put together here. -/

namespace Sys2Proof

open Machine

/-! ## Queues and channels through the model's updates -/

theorem queueAt_of_core {s t : State} {c : Nat} (h : t.core c = s.core c) (ch : Nat) : queueAt t c ch = queueAt s c ch := by
  rw [queueAt, queueAt, h]

theorem queueAt_setCopyQueue (s : State) (c ch : Nat) (q : List CopyCmd) : queueAt (setCopyQueue s c ch q) c ch = q := by
  rw [queueAt, setCopyQueue, core_updCore, if_pos rfl]
  cases q with
  | nil => simp [mapGet_erase]
  | cons x q => simp [mapGet_set]

theorem chanOf_of_teams {s t : State} (h : t.teams = s.teams) (k ch : Nat) : chanOf t k ch = chanOf s k ch := by
  rw [chanOf, chanOf, State.team, State.team, h]

theorem chanOf_setCopyQueue (s : State) (c i : Nat) (q : List CopyCmd) (k ch : Nat) : chanOf (setCopyQueue s c i q) k ch = chanOf s k ch :=
  chanOf_of_teams rfl ..

/-- What keeps a team's channels keeps what each of them is. -/
theorem chanOf_updTeam (s : State) (k : Nat) (f : Team → Team) (hf : ∀ t, (f t).chans = t.chans) (j ch : Nat) : chanOf (s.updTeam k f) j ch = chanOf s j ch := by
  rw [chanOf, chanOf, team_updTeam]
  split
  · next h =>
    rw [h]
    cases s.team k with
    | none => rfl
    | some t => simp [hf]
  · rfl

theorem chanOf_progress (s : State) (k j ch : Nat) : chanOf (progress s k) j ch = chanOf s j ch := by
  exact chanOf_updTeam s k (fun t => { t with lookout := 0 }) (fun _ => rfl) ..

/-- A channel updated. -/
theorem chanOf_updChan {s : State} {k ch : Nat} {tm : Team} {x : ChanState} (ht : s.team k = some tm) (hx : tm.chans[ch]? = some x) (f : ChanState → ChanState) :
    chanOf (s.updChan k ch f) k ch = f x := by
  simp [chanOf, State.updChan, team_updTeam, ht, listUpd_get, hx]

theorem chanOf_of_team {s : State} {k ch : Nat} {tm : Team} {x : ChanState} (ht : s.team k = some tm) (hx : tm.chans[ch]? = some x) : chanOf s k ch = x := by
  simp [chanOf, ht, hx]

/-! ## A command leaves its queue (R329) -/

/-- What an issue's leaving the window keeps: the cores, memory and the channels. -/
theorem engineDone_keeps (s : State) (k iss : Nat) : OnlyTeams s (engineDone s k iss) ∧
    ∀ j ch, chanOf (engineDone s k iss) j ch = chanOf s j ch := by
  unfold engineDone
  split
  · unfold leaveWindow
    refine ⟨(onlyTeams_updTeam (.refl s) ..).trans (onlyTeams_updGroup ..), fun j ch => ?_⟩
    rw [State.updGroup, chanOf_updTeam, chanOf_updTeam]
    · exact fun _ => rfl
    · exact fun _ => rfl
  · exact ⟨.refl s, fun _ _ => rfl⟩

section
variable (s : State) (core ch : Nat) (c : CopyCmd)

theorem mem_endCopy : (endCopy s core ch c).mem = s.mem := (engineDone_keeps ..).1.mem
theorem queueAt_endCopy : queueAt (endCopy s core ch c) core ch = (queueAt s core ch).drop 1 :=
  (queueAt_of_core ((engineDone_keeps ..).1.core _) _).trans (queueAt_setCopyQueue ..)
theorem chanOf_endCopy (j i : Nat) : chanOf (endCopy s core ch c) j i = chanOf s j i := (engineDone_keeps ..).2 j i
theorem core_endCopy : ∃ q, (endCopy s core ch c).core core = { s.core core with copyq := q } := by
  refine ⟨if ((queueAt s core ch).drop 1).isEmpty then mapErase (s.core core).copyq ch else mapSet (s.core core).copyq ch ((queueAt s core ch).drop 1), ?_⟩
  have h : (endCopy s core ch c).core core = (setCopyQueue s core ch ((queueAt s core ch).drop 1)).core core :=
    (engineDone_keeps ..).1.core core
  rw [h, setCopyQueue, core_updCore, if_pos rfl]

theorem mem_updChan (f : ChanState → ChanState) (k : Nat) : (s.updChan k ch f).mem = s.mem := updTeam_mem ..
theorem queueAt_updChan (f : ChanState → ChanState) (k : Nat) : queueAt (s.updChan k ch f) core ch = queueAt s core ch := queueAt_of_core ((onlyTeams_updTeam (.refl s) ..).core _) _

/-- A channel that stops: the command is gone, and the cause and the address are recorded (R329, R330). -/
theorem stopCopy_spec {tm : Team} {x : ChanState} (ht : s.team c.team = some tm) (hx : tm.chans[ch]? = some x) (st : Stop) : let t := stopCopy s core ch c st
    t.mem = s.mem ∧ queueAt t core ch = (queueAt s core ch).drop 1 ∧ (chanOf t c.team ch).stopped = true ∧
    (chanOf t c.team ch).cause = st.cause.number ∧ (chanOf t c.team ch).cpfa = BitVec.ofNat 64 st.addr := by
  intro t
  have hc := chanOf_endCopy (s.updChan c.team ch fun x => { x with
    stopped := true, cause := st.cause.number, cpfa := BitVec.ofNat 64 st.addr, cprsv := BitVec.ofNat 64 (if st.cause == .caprefuse then st.reserve % 2 ^ 36 else 0) }) core ch c c.team ch
  rw [chanOf_updChan ht hx] at hc
  refine ⟨(mem_endCopy ..).trans (mem_updChan ..), (queueAt_endCopy ..).trans (congrArg (List.drop 1) (queueAt_updChan ..)), ?_⟩
  rw [show chanOf t c.team ch = _ from hc]
  exact ⟨rfl, rfl, rfl⟩

end

/-! ## What the head command of a channel does -/

section
variable {s : State} {core ch : Nat} {c : CopyCmd} {rest : List CopyCmd} {tm : Team} {x : ChanState}

/-- The head command of a core that is awake, of a channel that is not stopped, once no older access of its thread comes first. -/
structure CopyHeads (s : State) (core ch : Nat) (c : CopyCmd) (rest : List CopyCmd) (tm : Team) (x : ChanState) : Prop where
  queue : queueAt s core ch = c :: rest
  team : s.team c.team = some tm
  chan : tm.chans[ch]? = some x
  awake : (s.core core).asleep = false
  runs : c.suspended = false
  going : x.stopped = false
  first : copyHeld s core tm c = false

theorem exec_copy_stopped (hq : queueAt s core ch = c :: rest) (ht : s.team c.team = some tm) (hx : tm.chans[ch]? = some x) (ha : (s.core core).asleep = false)
    (hs : c.suspended = false) (hst : x.stopped = true) :
    exec (.copySegment core ch) s = .next (endCopy (s.updChan c.team ch fun x => { x with disc := min 255 (x.disc + 1) }) core ch c) := by
  simp [execCopySegment, hq, ht, ha, hs, chanOf_of_team ht hx, hst]

/-- A channel already stopped discards the command and counts it. -/
theorem copy_discarded (hq : queueAt s core ch = c :: rest) (ht : s.team c.team = some tm) (hx : tm.chans[ch]? = some x) (ha : (s.core core).asleep = false)
    (hs : c.suspended = false) (hst : x.stopped = true) : ∃ t, exec (.copySegment core ch) s = .next t ∧ t.mem = s.mem ∧ queueAt t core ch = rest ∧
      chanOf t c.team ch = { x with disc := min 255 (x.disc + 1) } := by
  refine ⟨_, exec_copy_stopped hq ht hx ha hs hst, (mem_endCopy ..).trans (mem_updChan ..), ?_, (chanOf_endCopy ..).trans (chanOf_updChan ht hx _)⟩
  rw [queueAt_endCopy, queueAt_updChan, hq]
  rfl

/-- A command that reads no record starts by its checks alone (R324). -/
theorem startCopy_plain (s : State) (core ch ps : Nat) (hop : c.op ≠ 4) (hsh : c.shapedBit = false) :
    startCopy s core ch tm ps c = .ok { c with started := true } (startChecks tm c) s := by
  simp [startCopy, hop, hsh]

namespace CopyHeads

variable (h : CopyHeads s core ch c rest tm x)
include h

theorem exec_tsr (hop : c.op = 1) : exec (.copySegment core ch) s = runTsr s core ch (((tm.threads[c.tid]?).map Thread.pslot).getD 0) c := by
  simp [execCopySegment, h.queue, h.team, h.awake, h.runs, chanOf_of_team h.team h.chan, h.going, h.first, hop]

theorem exec_move (hop : c.op ≠ 1) (hst : c.started = true) (hf : c.freed = none) :
    exec (.copySegment core ch) s = moveSegment s core ch tm (((tm.threads[c.tid]?).map Thread.pslot).getD 0) c := by
  have hfind : (c.here.find? fun x => c.freed == some (padHandle x)) = none := List.find?_eq_none.mpr fun a _ => by simp [hf]
  simp [execCopySegment, h.queue, h.team, h.awake, h.runs, chanOf_of_team h.team h.chan, h.going, h.first, hop, hst, hfind]

theorem exec_freed (hop : c.op ≠ 1) (hst : c.started = true) {a : Nat} (ha : a ∈ c.here) (hf : c.freed = some (padHandle a)) :
    ∃ b, exec (.copySegment core ch) s = .next (stopCopy s core ch c { cause := .sbound, addr := b }) := by
  obtain ⟨b, hb⟩ : ∃ b, (c.here.find? fun x => c.freed == some (padHandle x)) = some b :=
    Option.isSome_iff_exists.mp (List.find?_isSome.mpr ⟨a, ha, by simp [hf]⟩)
  exact ⟨b, by simp [execCopySegment, h.queue, h.team, h.awake, h.runs, chanOf_of_team h.team h.chan, h.going, h.first, hop, hst, hb]⟩

/-- The head command is still to start: its record and its checks decide. -/
theorem exec_start (hop : c.op ≠ 1) (hst : c.started = false) {c' : CopyCmd} {u : State}
    (hs : startCopy s core ch tm (((tm.threads[c.tid]?).map Thread.pslot).getD 0) c = .ok c' none u) :
    exec (.copySegment core ch) s = .next (setCopyQueue u core ch (c' :: rest)) := by
  simp [execCopySegment, h.queue, h.team, h.awake, h.runs, chanOf_of_team h.team h.chan, h.going, h.first, hop, hst, hs]

theorem exec_startStop (hop : c.op ≠ 1) (hst : c.started = false) {c' : CopyCmd} {st : Stop} {u : State}
    (hs : startCopy s core ch tm (((tm.threads[c.tid]?).map Thread.pslot).getD 0) c = .ok c' (some st) u) :
    exec (.copySegment core ch) s = .next (stopCopy u core ch c' st) := by
  simp [execCopySegment, h.queue, h.team, h.awake, h.runs, chanOf_of_team h.team h.chan, h.going, h.first, hop, hst, hs]

theorem starts (hop : c.op ≠ 1) (hop4 : c.op ≠ 4) (hsh : c.shapedBit = false) (hst : c.started = false) (hck : startChecks tm c = none) :
    ∃ t, exec (.copySegment core ch) s = .next t ∧ t.mem = s.mem ∧ t.teams = s.teams ∧ queueAt t core ch = { c with started := true } :: rest := by
  exact ⟨setCopyQueue s core ch ({ c with started := true } :: rest), h.exec_start hop hst (by rw [startCopy_plain _ _ _ _ hop4 hsh, hck]), rfl, rfl, queueAt_setCopyQueue ..⟩

theorem startStops (hop : c.op ≠ 1) (hop4 : c.op ≠ 4) (hsh : c.shapedBit = false) (hst : c.started = false) {st : Stop} (hck : startChecks tm c = some st) :
    ∃ t, exec (.copySegment core ch) s = .next t ∧ t.mem = s.mem ∧ queueAt t core ch = rest ∧ (chanOf t c.team ch).stopped = true ∧
      (chanOf t c.team ch).cause = st.cause.number ∧ (chanOf t c.team ch).cpfa = BitVec.ofNat 64 st.addr := by
  obtain ⟨hmem, hq, hc⟩ := stopCopy_spec s core ch { c with started := true } h.team h.chan st
  refine ⟨_, h.exec_startStop hop hst (by rw [startCopy_plain _ _ _ _ hop4 hsh, hck]), hmem, ?_, hc⟩
  rw [hq, h.queue]; rfl

theorem freedStops (hop : c.op ≠ 1) (hst : c.started = true) {a : Nat} (ha : a ∈ c.here) (hf : c.freed = some (padHandle a)) :
    ∃ t, exec (.copySegment core ch) s = .next t ∧ t.mem = s.mem ∧ queueAt t core ch = rest ∧ (chanOf t c.team ch).stopped = true ∧
      (chanOf t c.team ch).cause = Cause.sbound.number := by
  obtain ⟨b, hb⟩ := h.exec_freed hop hst ha hf
  obtain ⟨hmem, hq, hs, hc, -⟩ := stopCopy_spec s core ch c h.team h.chan { cause := .sbound, addr := b }
  refine ⟨_, hb, hmem, ?_, hs, hc⟩
  rw [hq, h.queue]; rfl

/-- tsr sets the channel's shape from its record (R327). -/
theorem tsr {ws : List DWord} {u : State} (hop : c.op = 1) (hr : readRecord s core c (((tm.threads[c.tid]?).map Thread.pslot).getD 0) = .ok ws none u)
    (hu : u.team c.team = some tm) : ∃ t, exec (.copySegment core ch) s = .next t ∧ t.mem = u.mem ∧ queueAt t core ch = (queueAt u core ch).drop 1 ∧
      chanOf t c.team ch = { x with shape := ws, shapeAddr := c.rcd } := by
  refine ⟨_, by rw [h.exec_tsr hop, runTsr, hr], (mem_endCopy ..).trans (mem_updChan ..), ?_, (chanOf_endCopy ..).trans (chanOf_updChan hu h.chan _)⟩
  rw [queueAt_endCopy, queueAt_updChan]

end CopyHeads

/-! ### One segment (R321) -/

/-- What a command is once a segment's d bytes have been delivered, and the state in which its channel has counted them. -/
def segmentMoved (v : State) (core ch ps : Nat) (c : CopyCmd) (d : Nat) : State :=
  let u := v.updChan c.team ch fun x => { x with wp := x.wp + BitVec.ofNat 32 d }
  let c := { c with done := c.done + d, inside := insideNow u core ps c d }
  if c.len ≤ c.done then progress (endCopy u core ch c) c.team else setCopyQueue u core ch (c :: (queueAt u core ch).drop 1)

/-- A segment that is read and written without a stop. -/
theorem moveSegment_moved {ps d : Nat} {bs : List Byte} {u v : State} (hr : readSeg s core tm ps c c.done (segLen c c.done c.len 1) = .ok bs none u)
    (hw : writeSeg u core tm ps c c.done bs = .ok d none v) : moveSegment s core ch tm ps c = .next (segmentMoved v core ch ps c d) := by
  have hm : moveSegment s core ch tm ps c = if c.len ≤ c.done + d
      then .next (progress (endCopy (v.updChan c.team ch fun x => { x with wp := x.wp + BitVec.ofNat 32 d }) core ch
        { c with done := c.done + d, inside := insideNow (v.updChan c.team ch fun x => { x with wp := x.wp + BitVec.ofNat 32 d }) core ps c d }) c.team)
      else .next (setCopyQueue (v.updChan c.team ch fun x => { x with wp := x.wp + BitVec.ofNat 32 d }) core ch
        ({ c with done := c.done + d, inside := insideNow (v.updChan c.team ch fun x => { x with wp := x.wp + BitVec.ofNat 32 d }) core ps c d } ::
          (queueAt (v.updChan c.team ch fun x => { x with wp := x.wp + BitVec.ofNat 32 d }) core ch).drop 1)) := by
    rw [moveSegment]
    simp only [hr]
    cases bs <;> simp only [hw] <;> rfl
  rw [hm, segmentMoved]
  dsimp only
  split <;> rfl

section
variable (v : State) (core ch ps : Nat) (c : CopyCmd) (d : Nat)

theorem mem_segmentMoved : (segmentMoved v core ch ps c d).mem = v.mem := by
  rw [segmentMoved]
  dsimp only
  split
  · exact (updTeam_mem ..).trans ((mem_endCopy ..).trans (mem_updChan ..))
  · exact mem_updChan ..

theorem pad_segmentMoved : ((segmentMoved v core ch ps c d).core core).pad = (v.core core).pad := by
  have hu : (v.updChan c.team ch fun x => { x with wp := x.wp + BitVec.ofNat 32 d }).core core = v.core core :=
    (onlyTeams_updTeam (.refl v) ..).core core
  rw [segmentMoved]
  dsimp only
  split
  · obtain ⟨q, hq⟩ := core_endCopy (v.updChan c.team ch fun x => { x with wp := x.wp + BitVec.ofNat 32 d }) core ch
      { c with done := c.done + d, inside := insideNow (v.updChan c.team ch fun x => { x with wp := x.wp + BitVec.ofNat 32 d }) core ps c d }
    rw [(onlyTeams_progress ..).core, hq, hu]
  · rw [setCopyQueue, core_updCore, if_pos rfl, hu]

theorem queueAt_segmentMoved : queueAt (segmentMoved v core ch ps c d) core ch = if c.len ≤ c.done + d then (queueAt v core ch).drop 1 else
    { c with done := c.done + d, inside := insideNow (v.updChan c.team ch fun x => { x with wp := x.wp + BitVec.ofNat 32 d }) core ps c d } :: (queueAt v core ch).drop 1 := by
  rw [segmentMoved]
  dsimp only
  split
  · rw [queueAt_of_core ((onlyTeams_progress ..).core _), queueAt_endCopy, queueAt_updChan]
  · rw [queueAt_setCopyQueue, queueAt_updChan]

theorem chanOf_segmentMoved {tm : Team} {x : ChanState} (ht : v.team c.team = some tm) (hx : tm.chans[ch]? = some x) :
    chanOf (segmentMoved v core ch ps c d) c.team ch = { x with wp := x.wp + BitVec.ofNat 32 d } := by
  rw [segmentMoved]
  dsimp only
  split
  · rw [chanOf_progress, chanOf_endCopy, chanOf_updChan ht hx]
  · rw [chanOf_setCopyQueue, chanOf_updChan ht hx]

end

/-- A segment written to a row of the scratchpad where no error waits. -/
theorem writeSeg_pad (he : s.errors = []) (ps k : Nat) {a p : Nat} {al : Alloc} {bs : List Byte} (hd : c.dstSide = .pad a)
    (hp : padPlace tm (padAt a k) bs.length = some (al, p)) : writeSeg s core tm ps c k bs =
      .ok bs.length none (progress (s.updCore core (padWritten al p (padByte (padAt a k)) bs)) c.team) := by
  rw [← padWrite_none he, writeSeg, hd]
  -- the place under a name of its own, for the kernel would compute it from the address
  obtain ⟨place, hplace⟩ : ∃ place, place = padPlace := ⟨_, rfl⟩
  rw [← hplace] at hp ⊢
  dsimp only
  rw [hp]

/-- A command that writes the scratchpad stands inside no billet. -/
theorem insideNow_pad (u : State) (core ps : Nat) {c : CopyCmd} {a : Nat} (hd : c.dstSide = .pad a) (d : Nat) : insideNow u core ps c d = none := by
  have hb : ∀ k, billetAt u core ps c k = none := fun k => by rw [billetAt, hd]; rfl
  simp [insideNow, hb]

namespace CopyHeads

variable (h : CopyHeads s core ch c rest tm x)
include h

/-- One segment moved: the queue after it. -/
theorem moves {bs : List Byte} {d : Nat} {u v : State} (hop : c.op ≠ 1) (hst : c.started = true) (hf : c.freed = none)
    (hr : readSeg s core tm (((tm.threads[c.tid]?).map Thread.pslot).getD 0) c c.done (segLen c c.done c.len 1) = .ok bs none u)
    (hw : writeSeg u core tm (((tm.threads[c.tid]?).map Thread.pslot).getD 0) c c.done bs = .ok d none v) :
    ∃ t, exec (.copySegment core ch) s = .next t ∧ t.mem = v.mem ∧ (c.done + d < c.len → ∃ y, queueAt t core ch =
      y :: (queueAt v core ch).drop 1 ∧ y = { c with done := c.done + d, inside := y.inside }) ∧
      (c.len ≤ c.done + d → queueAt t core ch = (queueAt v core ch).drop 1) := by
  refine ⟨_, (h.exec_move hop hst hf).trans (moveSegment_moved hr hw), mem_segmentMoved .., fun hlt => ?_, fun hle => ?_⟩
  · exact ⟨_, by rw [queueAt_segmentMoved, if_neg (by omega)], rfl⟩
  · rw [queueAt_segmentMoved, if_pos hle]

/-- A fill of the scratchpad, one segment of it. -/
theorem fills {a p : Nat} {al : Alloc} (hop : c.op = 2) (hst : c.started = true) (hf : c.freed = none) (hd : c.dstSide = .pad a) (he : s.errors = [])
    (hp : padPlace tm (padAt a c.done) (segLen c c.done c.len 1) = some (al, p)) : let n := segLen c c.done c.len 1
    ∃ t, exec (.copySegment core ch) s = .next t ∧ t.mem = s.mem ∧
      cellsGet (t.core core).pad (p * 256 + padByte (padAt a c.done)) n =
        (List.range n).map (fun i => BitVec.ofNat 8 (c.src / 2 ^ (8 * ((c.done + i) % if c.shapedBit then (shapeOf c.shape).e else 4)))) ∧
      (chanOf t c.team ch).wp = x.wp + BitVec.ofNat 32 n ∧
      queueAt t core ch = if c.len ≤ c.done + n then rest else { c with done := c.done + n, inside := none } :: rest := by
  intro n
  obtain ⟨ps, hps⟩ : ∃ ps, ps = ((tm.threads[c.tid]?).map Thread.pslot).getD 0 := ⟨_, rfl⟩
  obtain ⟨bs, hbs⟩ : ∃ bs, bs = (List.range n).map (fun i => BitVec.ofNat 8 (c.src / 2 ^ (8 * ((c.done + i) % if c.shapedBit then (shapeOf c.shape).e else 4)))) := ⟨_, rfl⟩
  have hlen : bs.length = n := by simp [hbs]
  have hsrc : c.srcSide = .fill c.src (if c.shapedBit then (shapeOf c.shape).e else 4) := by simp [CopyCmd.srcSide, hop]
  have hr : readSeg s core tm ps c c.done n = .ok bs none s := by rw [readSeg, hsrc, hbs]
  have hw : writeSeg s core tm ps c c.done bs = .ok n none (progress (s.updCore core (padWritten al p (padByte (padAt a c.done)) bs)) c.team) := by
    have := writeSeg_pad (core := core) he ps c.done hd (bs := bs) (by rw [hlen]; exact hp)
    rwa [hlen] at this
  obtain ⟨v, hv⟩ : ∃ v, v = progress (s.updCore core (padWritten al p (padByte (padAt a c.done)) bs)) c.team := ⟨_, rfl⟩
  have hvcore : v.core core = padWritten al p (padByte (padAt a c.done)) bs (s.core core) := by rw [hv, (onlyTeams_progress ..).core, core_updCore, if_pos rfl]
  have hvteam : v.team c.team = some { tm with lookout := 0 } := by
    have hs : (s.updCore core (padWritten al p (padByte (padAt a c.done)) bs)).team c.team = some tm := h.team
    rw [hv, progress, team_updTeam, if_pos rfl, hs, Option.map_some]
  have hvqueue : queueAt v core ch = c :: rest := by rw [← h.queue, queueAt, queueAt, hvcore]; rfl
  rw [← hv] at hw
  refine ⟨_, (h.exec_move (by omega) hst hf).trans (hps ▸ moveSegment_moved hr hw), ?_, ?_, ?_, ?_⟩
  · rw [mem_segmentMoved, hv]; exact updTeam_mem ..
  · rw [pad_segmentMoved, hvcore, ← hbs, ← hlen]; exact bytes_padWritten ..
  · rw [chanOf_segmentMoved _ _ _ _ _ _ hvteam h.chan]
  · rw [queueAt_segmentMoved, insideNow_pad _ _ _ hd, hvqueue]; rfl

end CopyHeads

end

/-- Settles O39, by what the head command is: on a stopped channel, before its start, moving, freed, or a tsr. -/
theorem copySegments : Obligations.CopySegments := by
  intro s core ch c rest tm x hq ht hx ha hs
  have heads : x.stopped = false → copyHeld s core tm c = false → CopyHeads s core ch c rest tm x := fun hg hf => ⟨hq, ht, hx, ha, hs, hg, hf⟩
  refine ⟨copy_discarded hq ht hx ha hs, fun hg hf hst hop hop4 hsh hck => ?_, fun st hg hf hst hop hop4 hsh hck => ?_, fun a al p hg hf hst hop hfr hd he => ?_,
    fun bs d u v hg hf hst hop hfr => ?_, fun a hin hg hf hst hop hfr => ?_, fun ws u hg hf hop hr hu => ?_⟩
  · exact (heads hg hf).starts hop hop4 hsh hst hck
  · exact (heads hg hf).startStops hop hop4 hsh hst hck
  · exact fun hp => (heads hg hf).fills hop hst hfr hd he hp
  · exact fun hr hw => (heads hg hf).moves hop hst hfr hr hw
  · exact (heads hg hf).freedStops hop hst hin hfr
  · exact (heads hg hf).tsr hop hr hu

end Sys2Proof
end

section
/-! PROOFS. Resume, keep-alive and pre-emption (R112, R113, R376, R382, R386); O47 is put together here. -/

namespace Sys2Proof

open Machine

/-! ## A running packet's entry and a team's end -/

theorem showRunning_keeps (s : State) (x : Nat) (r : Running) : (showRunning s x r).mem = s.mem ∧ (showRunning s x r).teams = s.teams ∧
    (showRunning s x r).ctxs = s.ctxs := by
  unfold showRunning
  split
  · exact ⟨rfl, rfl, rfl⟩
  · exact ⟨rfl, rfl, rfl⟩

/-- A change of a running packet keeps memory, the teams and every context's directory of records. -/
theorem updRunning_keeps (s : State) (x q i : Nat) (f : Running → Running) : (updRunning s x q i f).mem = s.mem ∧ (updRunning s x q i f).teams = s.teams ∧
    ∀ y, ((updRunning s x q i f).ctx y).map Ctx.saved = (s.ctx y).map Ctx.saved := by
  unfold updRunning
  split
  · exact ⟨rfl, rfl, fun _ => rfl⟩
  · next r _ =>
    obtain ⟨hm, ht, hc⟩ := showRunning_keeps (s.updCtx x fun c => { c with running := c.running.map fun y => if y.queue == q && y.index == i then f y else y }) x (f r)
    refine ⟨hm.trans (updCtx_mem ..), ht.trans (updCtx_teams ..), fun y => ?_⟩
    rw [State.ctx, hc, ← State.ctx, ctx_updCtx]
    split
    · next h => subst h; cases s.ctx y <;> rfl
    · rfl

/-- A team that leaves without its private slots: it is gone, and memory and the contexts stand. -/
theorem freeTeam_keeps (s : State) (k : Nat) (t : Team) : (freeTeam s k t false).mem = s.mem ∧ (freeTeam s k t false).team k = none ∧
    ∀ y, (freeTeam s k t false).ctx y = s.ctx y :=
  ⟨rfl, (mapGet_erase ..).trans (if_pos rfl), fun _ => rfl⟩

/-! ## Resume (R386) -/

theorem teamResume_resumes {s s1 s2 s3 : State} {x e core q idx team n last tk : Nat} {c : Ctx} {bs : List Byte} {r : Running} {b : Beside} {old : Bool}
    (hc : s.ctx x = some c) (hposted : s.posted x = true)
    (hsaved : mapGet? c.saved e = some { queue := q, idx := idx, team := team, relaunches := n, core := last, beside := b, restored := old })
    (hload : loadRecord s x c e = .ok bs s1) (hkept : keptTeam s1 x e = none) (hstop : stopAsked s1 c.vd = false) (hdest : c.destroying = false)
    (hrun : findRunning c q idx = some r) (hfits : fits s1 x c q idx (pktWords ((bs.drop 0x40).take 64)) core [] [] = true) (hhigh : higherFits s1 c.vd r.prio = false)
    (hreb : rebuildTeam (rouse s1 core) x e core c bs = (tk, s2)) (hfree : freeRecord (packetAcquire s2 r core) x c e = .ok () s3) :
    Happens (.teamResume x e core) s fun u => u.mem = s3.mem ∧ u.team tk = s3.team tk ∧ ∀ c', u.ctx x = some c' → mapGet? c'.saved e = none := by
  obtain ⟨hmem, hteams, hctx⟩ := updRunning_keeps (s3.updCtx x fun c => { c with saved := mapErase c.saved e }) x q idx fun r =>
    { r with members := tk :: r.members, acquired := if r.acquired.contains core then r.acquired else core :: r.acquired }
  refine ⟨_, ?_, hmem.trans (updCtx_mem ..), congrArg (mapGet? · tk) (hteams.trans (updCtx_teams ..)), fun c' hc' => ?_⟩
  · rw [exec_teamResume, execTeamResume]
    simp only [hc, Option.bind_some, hsaved, Option.map_some, Option.getD_some, hposted, hload, hkept, hstop, hdest, hrun, hfits, hhigh, hreb, hfree, Bool.not_true,
      Bool.or_self, Bool.false_eq_true, if_false]
  · have h := hctx x
    rw [hc', ctx_updCtx, if_pos rfl] at h
    rw [Option.map_map] at h
    obtain ⟨c3, -, hc3⟩ := Option.map_eq_some_iff.mp h.symm
    rw [← hc3]
    exact (mapGet_erase ..).trans (if_pos rfl)

/-! ## Keep-alive (R113) -/

/-- The rows of one allocation renewed in turn. -/
def renewAlloc (t : Team) (s : State) (x : Nat × Alloc) : State :=
  (List.range x.2.n).foldl (fun s i => (renewRow s t.core x.2 ((t.block + x.2.gran) * 16 + i)).2) s

theorem renewRows_eq (s : State) (t : Team) : renewRows s t = t.allocs.foldl (renewAlloc t) s := rfl

section
variable {s : State} {t : Team} {x : Nat × Alloc} {i : Nat} (hs : s.errors = [])
include hs

theorem rowsRenewed_renewAlloc (t : Team) (x : Nat × Alloc) : RowsRenewed t.core s (renewAlloc t s x) :=
  foldl_keeps (P := RowsRenewed t.core s) _ _ (fun _ _ _ h => h.trans (rowsRenewed_renewRow (h.errors.trans hs) t.core x.2 _)) (.refl ..)

theorem rowsRenewed_renewRows (t : Team) : RowsRenewed t.core s (renewRows s t) :=
  foldl_keeps (P := RowsRenewed t.core s) _ _ (fun _ x _ h => h.trans (rowsRenewed_renewAlloc (h.errors.trans hs) t x)) (.refl ..)

/-- Of the rows of an allocation, each that is live at the start is stamped at its end. -/
theorem row_renewAlloc (hi : i < x.2.n) (hl : rowExpired (s.core t.core) x.2 ((t.block + x.2.gran) * 16 + i) (s.core t.core).rtick = false) :
    ((renewAlloc t s x).core t.core).row ((t.block + x.2.gran) * 16 + i) = { stamp := (s.core t.core).rtick, exp := false } := by
  refine foldl_reaches (I := RowsRenewed t.core s) (P := fun u => (u.core t.core).row ((t.block + x.2.gran) * 16 + i) = { stamp := (s.core t.core).rtick, exp := false })
    (List.mem_range.mpr hi) (fun s i => (renewRow s t.core x.2 ((t.block + x.2.gran) * 16 + i)).2) (fun u j h => ?_) (fun u j h hp => ?_) (fun u h => ?_) (.refl ..)
  · exact h.trans (rowsRenewed_renewRow (h.errors.trans hs) ..)
  · rw [← h.rtick] at hp ⊢
    exact (rowsRenewed_renewRow (h.errors.trans hs) ..).fresh hp
  · rw [← h.rtick]
    exact row_renewRow (h.errors.trans hs) (h.live hl)

/-- A row of an allocation that is live is stamped by the sweeper's visit. -/
theorem row_renewRows (hx : x ∈ t.allocs) (hi : i < x.2.n)
    (hl : rowExpired (s.core t.core) x.2 ((t.block + x.2.gran) * 16 + i) (s.core t.core).rtick = false) :
    ((renewRows s t).core t.core).row ((t.block + x.2.gran) * 16 + i) = { stamp := (s.core t.core).rtick, exp := false } := by
  rw [renewRows_eq]
  refine foldl_reaches (I := RowsRenewed t.core s) (P := fun u => (u.core t.core).row ((t.block + x.2.gran) * 16 + i) = { stamp := (s.core t.core).rtick, exp := false })
    hx (renewAlloc t) (fun u y h => ?_) (fun u y h hp => ?_) (fun u h => ?_) (.refl ..)
  · exact h.trans (rowsRenewed_renewAlloc (h.errors.trans hs) t y)
  · rw [← h.rtick] at hp ⊢
    exact (rowsRenewed_renewAlloc (h.errors.trans hs) t y).fresh hp
  · rw [← h.rtick]
    exact row_renewAlloc (h.errors.trans hs) hi (h.live hl)

end

theorem keepaliveRenew_renews {s : State} {k : Nat} {t : Team} (ht : s.team k = some t) (hk : t.kept = true) (hs : s.errors = []) :
    Happens (.keepaliveRenew k) s fun u => u.mem = s.mem ∧ (∃ tm, u.team k = some tm ∧ tm.renewTick = (s.core t.core).rtotal) ∧
      ∀ h al i, (h, al) ∈ t.allocs → i < al.n → let p := (t.block + al.gran) * 16 + i
        rowExpired (s.core t.core) al p (s.core t.core).rtick = false → (u.core t.core).row p = { stamp := (s.core t.core).rtick, exp := false } := by
  have hr := rowsRenewed_renewRows hs t
  have hrt : (renewRows s t).team k = some t := by rw [State.team, hr.teams]; exact ht
  refine ⟨keepRows s k t, ?_, ?_, ⟨{ t with renewTick := (s.core t.core).rtotal }, ?_, rfl⟩, fun h al i hx hi => ?_⟩
  · simp [execKeepaliveRenew, ht, hk]
  · exact (updTeam_mem ..).trans hr.mem
  · rw [keepRows, team_updTeam, if_pos rfl, hrt]
    rfl
  · rw [keepRows, (onlyTeams_updTeam (.refl _) ..).core]
    exact row_renewRows (x := (h, al)) hs hx hi

/-- What keep-alive leaves when it ends: the team's record names the entry it has been written at, and the team is gone. -/
def keepaliveEnded (v : State) (k e : Nat) (t : Team) : State :=
  freeTeam (v.updCtx t.ctx fun c => { c with saved := mapSet (mapErase c.saved t.entry) e { queue := t.queue, idx := t.pidx, team := t.index, relaunches := t.relaunches, core := t.core, beside := ((mapGet? c.saved t.entry).map Saved.beside).getD {} } }) k t false

theorem keepaliveEnded_spec (v : State) (k e : Nat) (t : Team) : let u := keepaliveEnded v k e t
    u.mem = v.mem ∧ u.team k = none ∧ ∀ c', v.ctx t.ctx = some c' → ∃ c2, u.ctx t.ctx = some c2 ∧ mapGet? c2.saved e =
      some { queue := t.queue, idx := t.pidx, team := t.index, relaunches := t.relaunches, core := t.core, beside := (((mapGet? c'.saved t.entry).map Saved.beside).getD {}) } := by
  obtain ⟨hm, ht, hc⟩ := freeTeam_keeps (v.updCtx t.ctx fun c => { c with saved := mapSet (mapErase c.saved t.entry) e { queue := t.queue, idx := t.pidx, team := t.index, relaunches := t.relaunches, core := t.core, beside := ((mapGet? c.saved t.entry).map Saved.beside).getD {} } }) k t
  refine ⟨hm.trans (updCtx_mem ..), ht, fun c' hc' => ?_⟩
  refine ⟨_, (hc t.ctx).trans ((ctx_updCtx ..).trans ((if_pos rfl).trans (congrArg _ hc'))), ?_⟩
  exact (mapGet_set ..).trans (if_pos rfl)

theorem keepaliveEnd_ends {s v : State} {k e : Nat} {t : Team} {c : Ctx} (ht : s.team k = some t) (hc : s.ctx t.ctx = some c) (hk : t.kept = true)
    (hend : t.keptSince + c.keepalive.toNat % 2 ^ 20 ≤ (s.core t.core).rtotal ∨ blockWanted s k t = true ∨ stopAsked s c.vd = true)
    (hr : ((loadRecord s t.ctx c t.entry).bind fun bs s =>
      (freeRecord (rewriteRecord (renewRows s t) t bs).2 t.ctx c t.entry).bind fun _ u => storeRecord u t.ctx c (rewriteRecord (renewRows s t) t bs).1) = .ok (some e) v) :
    exec (.keepaliveEnd k) s = .next (keepaliveEnded v k e t) := by
  have hgo : (decide ((s.core t.core).rtotal < t.keptSince + c.keepalive.toNat % 2 ^ 20) && !blockWanted s k t && !stopAsked s c.vd) = false := by
    rcases hend with h | h | h
    · rw [decide_eq_false (Nat.not_lt.mpr h)]; rfl
    · simp [h]
    · simp [h]
  rw [exec_keepaliveEnd, execKeepaliveEnd]
  simp only [ht, hc, Option.bind_some, Option.map_some, hk, Bool.not_true, Bool.false_eq_true, if_false, hgo, hr]
  rfl

/-! ## Pre-emption (R376, R382) -/

/-- The teams of g asked to stop, those of ks with leave to keep their granules. -/
def askedToStop (s : State) (g ks : List Nat) : State := g.foldl (fun s tk => s.updTeam tk fun t => { t with asked := true, mayKeep := ks.contains tk }) s

theorem preemptive_exec {s v : State} {x q idx core : Nat} {c : Ctx} {r r' : Running} {g : List Nat} (hc : s.ctx x = some c) (hr : findRunning c q idx = some r)
    (hp : r.prio = 3) (hm : mayPlace s c r = true) (hw : r.waitsSince + 100000 ≤ s.ns) (hb : bestCore s x c q idx r.packet r.avoid = none)
    (hroom : roomFor s x c r = some (v, r', core, g)) : exec (.preemptiveDeschedule x q idx core) s = .next (askedToStop s g (keepersOf v x c r' core g)) := by
  have ho : r.overdue c s = true := by simp [Running.overdue, hp, hm, hw]
  simp [execPreemptiveDeschedule, hc, hr, ho, hb, hroom, askedToStop]

theorem askedToStop_keeps (s : State) (g ks : List Nat) : OnlyTeams s (askedToStop s g ks) ∧ RegsSame s (askedToStop s g ks) := by
  refine foldl_keeps (P := fun u => OnlyTeams s u ∧ RegsSame s u) _ _ (fun u k _ h => ⟨onlyTeams_updTeam h.1 .., h.2.trans ?_⟩) ⟨.refl s, .refl s⟩
  exact regsSame_updTeam _ _ _ (fun _ => rfl) fun _ => rfl

theorem askedToStop_asks {s : State} {g : List Nat} (ks : List Nat) {k : Nat} {t : Team} (hk : k ∈ g) (ht : s.team k = some t) :
    ∃ tm, (askedToStop s g ks).team k = some tm ∧ tm.asked = true ∧ tm.mayKeep = ks.contains k := by
  refine foldl_reaches (I := fun u : State => ∃ tm, u.team k = some tm) (P := fun u : State => ∃ tm, u.team k = some tm ∧ tm.asked = true ∧ tm.mayKeep = ks.contains k) hk _
    (fun u y hu => ?_) (fun u y _ hu => ?_) (fun u hu => ?_) ⟨t, ht⟩
  · obtain ⟨tm, hu⟩ := hu
    rw [team_updTeam]
    split
    · next h => exact ⟨_, by rw [← h, hu]; rfl⟩
    · exact ⟨tm, hu⟩
  · obtain ⟨tm, hu, ha, hm⟩ := hu
    rw [team_updTeam]
    split
    · next h => exact ⟨_, by rw [← h, hu]; rfl, rfl, by rw [h]⟩
    · exact ⟨tm, hu, ha, hm⟩
  · obtain ⟨tm, hu⟩ := hu
    exact ⟨_, by rw [team_updTeam, if_pos rfl, hu]; rfl, rfl, rfl⟩

/-- Settles O47, by the four steps that it speaks of. -/
theorem resume : Obligations.Resume := by
  refine ⟨fun s s1 s2 s3 x e core q idx team n last tk c bs r b old hc hp hs hl hk hst hd hr hf hh hreb hfr => ?_, fun s k t ht hk hs => ?_,
    fun s v k e t c ht hc hk hend hr => ?_, fun s v x q idx core c r r' g hc hr hp hm hw hb hroom => ?_⟩
  · exact teamResume_resumes hc hp hs hl hk hst hd hr hf hh hreb hfr
  · exact keepaliveRenew_renews ht hk hs
  · exact ⟨_, keepaliveEnd_ends ht hc hk hend hr, keepaliveEnded_spec v k e t⟩
  · obtain ⟨ho, hregs⟩ := askedToStop_keeps s g (keepersOf v x c r' core g)
    exact ⟨_, preemptive_exec hc hr hp hm hw hb hroom, ho.mem, hregs, fun k t hk ht => askedToStop_asks _ hk ht⟩

end Sys2Proof
end

section
/-! PROOFS. The tick and the sweeps it brings, temperature bands and the governor (R99, R100, R108, R128, R131, R179, R436); O50 is put together here. -/

namespace Sys2Proof

open Machine

/-! ## What the keep-alive sweeper leaves unchanged (R113) -/

/-- Nothing but rows of the scratchpads, the error log, the registers and the teams differs, and of the teams no register. -/
structure Swept (s u : State) : Prop where
  rest : u = { s with cores := u.cores, teams := u.teams, errors := u.errors, regs := u.regs }
  registers : RegsSame s u
  cores : ∀ c k, mapGet? s.cores c = some k → ∃ r, mapGet? u.cores c = some { k with rows := r }

namespace Swept

variable {s u v : State}

theorem refl (s : State) : Swept s s := ⟨rfl, .refl s, fun _ _ h => ⟨_, h⟩⟩

theorem trans (h : Swept s u) (k : Swept u v) : Swept s v where
  rest := by rw [k.rest, h.rest]
  registers := h.registers.trans k.registers
  cores c x hx := by
    obtain ⟨r, hr⟩ := h.cores c x hx
    obtain ⟨r', hr'⟩ := k.cores c _ hr
    exact ⟨r', hr'⟩

theorem of_teams_cores (h : u = { s with errors := u.errors, regs := u.regs }) : Swept s u := by
  refine ⟨by rw [h], regsSame_of_teams (by rw [h]), fun c k hk => ⟨k.rows, ?_⟩⟩
  rw [h]
  exact hk

end Swept

theorem swept_updCore (s : State) (c : Nat) (f : Core → Core) (hf : ∀ k, ∃ r, f k = { k with rows := r }) : Swept s (s.updCore c f) := by
  refine ⟨rfl, regsSame_of_teams rfl, fun d k hk => ?_⟩
  rw [State.updCore, mapGet_set]
  split
  · next h =>
    obtain ⟨r, hr⟩ := hf k
    have hc : s.core c = k := by rw [State.core, ← h, hk, Option.getD_some]
    exact ⟨r, by rw [hc, hr]⟩
  · exact ⟨k.rows, hk⟩

theorem swept_setRow (s : State) (c p : Nat) (g : Core → Row) : Swept s (s.updCore c fun k => k.setRow p (g k)) := swept_updCore s c _ fun _ => ⟨_, rfl⟩

theorem swept_takeError (s : State) (a p : Nat) : Swept s (s.takeError a p).2 := by
  refine Swept.of_teams_cores ?_
  unfold State.takeError
  dsimp only
  split <;> split <;> rfl

theorem swept_checkStamp (s : State) (c p : Nat) : Swept s (checkStamp s c p) := by
  have hte := swept_takeError s 7 (rowPlace c p)
  unfold checkStamp
  dsimp only
  split
  · exact hte.trans ((swept_setRow _ c p _).trans (.of_teams_cores rfl))
  · exact hte

theorem swept_takeRowError (s : State) (c p : Nat) : Swept s (takeRowError s c p).2 := by
  have hte := swept_takeError s 6 (rowPlace c p)
  unfold takeRowError
  dsimp only
  split
  · exact hte.trans (.of_teams_cores rfl)
  · exact hte

theorem swept_renewRow (s : State) (c : Nat) (al : Alloc) (p : Nat) : Swept s (renewRow s c al p).2 := by
  have hck := (swept_checkStamp s c p).trans (swept_takeRowError _ c p)
  unfold renewRow
  dsimp only
  generalize takeRowError (checkStamp s c p) c p = r at hck ⊢
  split
  · exact hck.trans (swept_setRow r.2 c p fun k => { k.row p with exp := true })
  split
  · exact hck
  · exact hck.trans (swept_setRow r.2 c p fun k => { stamp := k.rtick, exp := false })

theorem swept_foldl {α : Type} (l : List α) (f : State → α → State) (hf : ∀ s x, Swept s (f s x)) (s : State) : Swept s (l.foldl f s) :=
  foldl_keeps (P := Swept s) l f (fun u x _ h => h.trans (hf u x)) (.refl s)

theorem swept_keepRows (s : State) (k : Nat) (t : Team) : Swept s (keepRows s k t) := by
  have hr : Swept s (renewRows s t) := swept_foldl _ _ (fun s x => swept_foldl _ _ (fun s _ => swept_renewRow s ..) s) s
  refine hr.trans ⟨?_, regsSame_updTeam _ _ _ (fun _ => rfl) fun _ => rfl, fun c x hx => ⟨x.rows, ?_⟩⟩
  · have ho : OnlyTeams (renewRows s t) (keepRows s k t) := onlyTeams_updTeam (.refl _) ..
    rw [ho]
  · rw [keepRows, updTeam_cores]
    exact hx

theorem swept_sweepKept (s : State) : Swept s (sweepKept s) := by
  refine swept_foldl _ _ (fun s x => ?_) s
  dsimp only
  split
  · exact swept_keepRows ..
  · exact .refl s

/-! ## The tick (log 13) -/

/-- A whole microsecond has passed at the next tick. -/
def micro (s : State) : Bool := (s.ns + 64) / 1000 != s.ns / 1000
/-- The teams after a tick: Lookout counts the microseconds. -/
def tickedTeams (s : State) : Map Team :=
  if micro s then s.teams.map fun (k, t) => (k, if lookoutRuns s k t then { t with lookout := t.lookout + 1 } else t) else s.teams
/-- The part 64 ns later, before its governors have run. -/
def ticked (s : State) : State :=
  { s with ns := s.ns + 64, homeClk := s.homeClk + 1, cores := s.cores.map fun (k, c) => (k, tickCore (micro s) s.regs.clockCap c), teams := tickedTeams s, stalled := [] }
/-- The part 64 ns later. -/
def tickGoverned (s : State) : State := if governorDue s (micro s) then governed (ticked s) else ticked s

theorem sendFlits_rest (s : State) : sendFlits s = { s with ports := (sendFlits s).ports, fabricOut := (sendFlits s).fabricOut } := by
  refine foldl_keeps (P := fun u : State => u = { s with ports := u.ports, fabricOut := u.fabricOut }) _ _ (fun u x _ h => ?_) rfl
  dsimp only
  split
  · rw [h]
  split
  · rw [h]
  · rw [h]; rfl

/-- A tick, but for what it puts on the agenda and sends. -/
theorem tick_next (s : State) : Happens .tick s fun u => ∃ a p f, u = { tickGoverned (sweepKept s) with agenda := a, ports := p, fabricOut := f } :=
  ⟨_, rfl, _, _, _, sendFlits_rest _⟩

theorem tickGoverned_rest (s : State) : tickGoverned s = { ticked s with regs := (tickGoverned s).regs } := by
  unfold tickGoverned
  split <;> rfl

/-- A map whose values a function has changed that reads their keys. -/
theorem mapGet_mapKey {α β : Type} (m : Map α) (f : Nat → α → β) (i : Nat) : mapGet? (m.map fun (k, x) => (k, f k x)) i = (mapGet? m i).map (f i) := by
  induction m with
  | nil => rfl
  | cons p rest ih =>
    obtain ⟨k, x⟩ := p
    simp only [List.map_cons, mapGet?, ih]
    split
    · next h => rw [h]; rfl
    · rfl

theorem regsSame_ticked (s : State) : RegsSame s (ticked s) := by
  have hteam : ∀ k, ((ticked s).team k).map (fun t => (t.threads, t.groups)) = (s.team k).map fun t => (t.threads, t.groups) := by
    intro k
    unfold ticked tickedTeams State.team
    dsimp only
    split
    · rw [mapGet_mapKey s.teams (fun k t => if lookoutRuns s k t then { t with lookout := t.lookout + 1 } else t)]
      cases mapGet? s.teams k with
      | none => rfl
      | some t =>
        simp only [Option.map_some]
        split <;> rfl
    · rfl
  refine ⟨fun k i => ?_, fun k g => ?_⟩
  · have h := congrArg (Option.bind · fun x => (x.1[i]?).map Thread.v) (hteam k)
    simpa [Option.bind_map, Option.map_bind, Function.comp_def, State.thread] using h
  · have h := congrArg (Option.bind · fun x => (x.2[g]?).map fun gr => (gr.g, gr.m)) (hteam k)
    simpa [Option.bind_map, Option.map_bind, Function.comp_def, State.group] using h

theorem core_ticked {s : State} {c : Nat} {k : Core} (h : mapGet? s.cores c = some k) :
    mapGet? (ticked s).cores c = some (tickCore (micro s) s.regs.clockCap k) := by
  rw [ticked, mapGet_map, h, Option.map_some]

theorem tick_counts (s : State) (c : Nat) : Happens .tick s fun u => u.ns = s.ns + 64 ∧ u.homeClk = s.homeClk + 1 ∧ u.mem = s.mem ∧ RegsSame s u ∧
    ∀ k, mapGet? s.cores c = some k → ∃ k', mapGet? u.cores c = some k' ∧ k'.lclk = k.lclk + 1 ∧ k'.pad = k.pad ∧ k'.acc = k.acc ∧
      k'.rtick = (if (s.ns + 64) / 1000 ≠ s.ns / 1000 then k.rtick + 1 else k.rtick) := by
  obtain ⟨u, hx, a, p, f, hu⟩ := tick_next s
  have hsw := swept_sweepKept s
  have hns : (sweepKept s).ns = s.ns := by rw [hsw.rest]
  have hu' := hu.trans (by rw [tickGoverned_rest])
  refine ⟨u, hx, ?_, ?_, ?_, ?_, fun k hk => ?_⟩
  · rw [hu']; exact congrArg (· + 64) hns
  · rw [hu']; exact congrArg (· + 1) (by rw [hsw.rest])
  · rw [hu']; exact (by rw [hsw.rest] : (sweepKept s).mem = s.mem)
  · refine hsw.registers.trans ((regsSame_ticked _).trans (regsSame_of_teams ?_))
    rw [hu']
  · obtain ⟨r, hr⟩ := hsw.cores c k hk
    refine ⟨tickCore (micro (sweepKept s)) (sweepKept s).regs.clockCap { k with rows := r }, by rw [hu']; exact core_ticked hr, rfl, rfl, rfl, ?_⟩
    rw [tickCore, micro, hns]
    exact if_congr (by simp) rfl rfl

/-! ## The governors (R179, R436) -/

/-- The top field of a 32-bit word. -/
theorem fld_top (q : Word) : fld (q.zeroExtend 64) 31 20 = (q >>> 20).toNat := by
  have : q.toNat % 2 ^ 64 = q.toNat := Nat.mod_eq_of_lt (by omega)
  simp only [fld, BitVec.toNat_setWidth, this, BitVec.toNat_ushiftRight, Nat.shiftRight_eq_div_pow]
  omega

theorem setBit_ushiftRight {w i k : Nat} (b : BitVec w) (x : Bool) (h : i < k) : setBit b i x >>> k = b >>> k := by
  refine BitVec.eq_of_getLsbD_eq fun j _ => ?_
  rw [BitVec.getLsbD_ushiftRight, BitVec.getLsbD_ushiftRight]
  by_cases hj : k + j < w
  · exact (bit_setBit b i (k + j) x hj).trans (if_neg (by omega))
  · rw [BitVec.getLsbD_of_ge _ _ (by omega), BitVec.getLsbD_of_ge _ _ (by omega)]

/-- PKGW, written with THR beside it. -/
theorem fld_pkgw (p : Word) (n : Nat) (x : Bool) :
    fld ((setBit ((p &&& 0x000FFFFF) ||| BitVec.ofNat 32 (n % 4096 * 2 ^ 20)) 7 x).zeroExtend 64) 31 20 = n % 4096 := by
  have hmask : (p &&& 0x000FFFFF) >>> 20 = 0 := by
    rw [BitVec.ushiftRight_and_distrib, show (0x000FFFFF : Word) >>> 20 = 0 from rfl]
    exact BitVec.and_zero
  rw [fld_top, setBit_ushiftRight _ _ (by omega), BitVec.ushiftRight_or_distrib, hmask, show (0 : Word) = 0#32 from rfl, BitVec.zero_or, BitVec.toNat_ushiftRight, BitVec.toNat_ofNat,
    Nat.shiftRight_eq_div_pow]
  omega

/-- PWRSTAT shows what the governors have found. -/
theorem governed_shows (s : State) : bit (governed s).regs.pwrstat 7 = throttled (governed s) ∧
    fld ((governed s).regs.pwrstat.zeroExtend 64) 31 20 = packageWatts (governed s) % 4096 := by
  refine ⟨?_, ?_⟩
  · exact (bit_setBit _ 7 7 _ (by omega)).trans (if_pos rfl)
  · exact fld_pkgw ..

theorem tick_governs {s : State} (h : (s.ns + 64) / 1000 ≠ s.ns / 1000) : Happens .tick s fun u =>
    bit u.regs.pwrstat 7 = throttled u ∧ fld (u.regs.pwrstat.zeroExtend 64) 31 20 = packageWatts u % 4096 := by
  obtain ⟨u, hx, a, p, f, hu⟩ := tick_next s
  have hm : micro (sweepKept s) = true := by
    rw [micro, (by rw [(swept_sweepKept s).rest] : (sweepKept s).ns = s.ns)]
    simpa using h
  have hg : tickGoverned (sweepKept s) = governed (ticked (sweepKept s)) := by rw [tickGoverned, governorDue, hm]; rfl
  obtain ⟨h1, h2⟩ := governed_shows (ticked (sweepKept s))
  rw [hg] at hu
  generalize governed (ticked (sweepKept s)) = v at hu h1 h2
  refine ⟨u, hx, ?_⟩
  rw [hu]
  exact ⟨h1, h2⟩

theorem core_governed (s : State) (c : Nat) : (governed s).core c = s.core c := rfl

theorem governorInterval_sets (s : State) (c : Nat) {d : Nat} (h1 : 400000 ≤ d) (h2 : d ≤ 1500000) : Happens (.governorInterval c d) s fun u =>
    u.mem = s.mem ∧ u.teams = s.teams ∧ u.core c = { s.core c with clockKHz := d, wakeAllowed := (s.core c).wakeAllowed || ((s.core c).asleep && (s.core c).sleepAsked) } ∧
    bit u.regs.pwrstat 7 = throttled u ∧ fld (u.regs.pwrstat.zeroExtend 64) 31 20 = packageWatts u % 4096 := by
  refine ⟨governed (s.updCore c fun k => { k with clockKHz := d, wakeAllowed := k.wakeAllowed || (k.asleep && k.sleepAsked) }), ?_, rfl, rfl, ?_, governed_shows _⟩
  · rw [exec_governorInterval, execGovernorInterval, if_neg (by simp; omega)]
  · rw [core_governed, core_updCore, if_pos rfl]

/-! ## The sweeps of leases and rows (R108, R131) -/

/-- A holding at tick t: a lease that has ended holds nothing. -/
def holdingAt (t : BitVec 16) (h : Holding) : Holding := match h with | .leased e => if leaseLive e t then h else .empty | h => h
/-- A line's mark of leases at tick t. -/
def lineAt (t : BitVec 16) (l : Line) : Line := if l.lv && !leaseLive l.lexp t then { l with lv := false } else l
/-- The part once a core's ended leases have gone, and the homes' marks of ended ones. -/
def leasesSwept (s : State) (c : Nat) : State :=
  { s.updCore c fun k => { k with l1 := (k.l1.map fun (i, x) => (i, { x with chunks := x.chunks.map (holdingAt (s.core c).lclk) })).filter fun (_, x) => !x.isEmpty } with
    lines := s.lines.map fun (k, l) => (k, lineAt s.homeClk l) }

theorem leaseLive_of_holdingAt {t e : BitVec 16} {h : Holding} (hh : holdingAt t h = .leased e) : leaseLive e t = true := by
  cases h with
  | empty => exact absurd hh nofun
  | tracked => exact absurd hh nofun
  | leased e' =>
    by_cases hl : leaseLive e' t = true
    · have : Holding.leased e' = .leased e := (if_pos hl).symm.trans hh
      cases this
      exact hl
    · have : Holding.empty = .leased e := (if_neg hl).symm.trans hh
      exact absurd this nofun

theorem leaseLive_of_lineAt {t : BitVec 16} {l : Line} (hl : (lineAt t l).lv = true) : leaseLive (lineAt t l).lexp t = true := by
  unfold lineAt at hl ⊢
  split
  · next h => rw [if_pos h] at hl; exact absurd hl nofun
  · next h => rw [if_neg h] at hl; simpa [hl] using h

theorem leaseSweep_sweeps {s : State} {c : Nat} (h : (s.core c).lclk.toNat % 16384 = 0) : Happens (.leaseSweep c) s fun u => u.mem = s.mem ∧ u.teams = s.teams ∧
    (∀ l x, mapGet? (u.core c).l1 l = some x → ∀ e, Holding.leased e ∈ x.chunks → leaseLive e (s.core c).lclk = true) ∧
    ∀ l, (u.line l).lv = true → leaseLive (u.line l).lexp s.homeClk = true := by
  have hcore : (leasesSwept s c).core c = { s.core c with
      l1 := ((s.core c).l1.map fun (i, x) => (i, { x with chunks := x.chunks.map (holdingAt (s.core c).lclk) })).filter fun (_, x) => !x.isEmpty } := by
    simp only [leasesSwept, State.core, State.updCore, mapGet_set, if_true, Option.getD_some]
  refine ⟨leasesSwept s c, ?_, rfl, rfl, fun l x hx e he => ?_, fun l hl => ?_⟩
  · rw [exec_leaseSweep, execLeaseSweep]
    exact if_neg (not_not_intro h)
  · rw [hcore] at hx
    obtain ⟨y, -, hy⟩ := List.mem_map.mp (List.mem_filter.mp (mem_of_mapGet hx)).1
    obtain ⟨-, rfl⟩ := Prod.mk.inj hy
    obtain ⟨o, -, ho⟩ := List.mem_map.mp he
    exact leaseLive_of_holdingAt ho
  · have hline : (leasesSwept s c).line l = ((mapGet? s.lines l).map (lineAt s.homeClk)).getD {} := by
      rw [State.line, leasesSwept, mapGet_map]
    rw [hline] at hl ⊢
    cases hg : mapGet? s.lines l with
    | none => rw [hg] at hl; exact absurd hl nofun
    | some y => rw [hg] at hl; exact leaseLive_of_lineAt hl

/-- A row that is too old is marked; another stays. -/
def sweepRow (c : Nat) (al : Alloc) (p : Nat) (s : State) : State :=
  s.updCore c fun k => if leff k al < rowAge k p k.rtick then k.setRow p { k.row p with exp := true } else k

/-- Only marks of rows of one core's scratchpad differ, and none is taken back. -/
structure RowsMarked (c : Nat) (s u : State) : Prop where
  rest : u = { s with cores := u.cores }
  core : ∃ r, u.core c = { s.core c with rows := r }
  stamp : ∀ q, ((u.core c).row q).stamp = ((s.core c).row q).stamp
  marks : ∀ q, ((s.core c).row q).exp = true → ((u.core c).row q).exp = true

namespace RowsMarked

variable {c : Nat} {s u v : State}

theorem refl (c : Nat) (s : State) : RowsMarked c s s := ⟨rfl, ⟨_, rfl⟩, fun _ => rfl, fun _ h => h⟩

theorem trans (h : RowsMarked c s u) (k : RowsMarked c u v) : RowsMarked c s v where
  rest := by rw [k.rest, h.rest]
  core := by
    obtain ⟨r, hr⟩ := h.core
    obtain ⟨r', hr'⟩ := k.core
    exact ⟨r', by rw [hr', hr]⟩
  stamp q := (k.stamp q).trans (h.stamp q)
  marks q hq := k.marks q (h.marks q hq)

theorem errors (h : RowsMarked c s u) : u.errors = s.errors := by rw [h.rest]

/-- A row is as old as before. -/
theorem old (h : RowsMarked c s u) {al : Alloc} {p : Nat} (hp : leff (s.core c) al < rowAge (s.core c) p (s.core c).rtick) :
    leff (u.core c) al < rowAge (u.core c) p (u.core c).rtick := by
  rw [rowAge, h.stamp]
  obtain ⟨r, hr⟩ := h.core
  rw [hr]
  exact hp

end RowsMarked

theorem core_sweepRow (c : Nat) (al : Alloc) (p : Nat) (s : State) : (sweepRow c al p s).core c =
    if leff (s.core c) al < rowAge (s.core c) p (s.core c).rtick then (s.core c).setRow p { (s.core c).row p with exp := true } else s.core c := by
  rw [sweepRow, core_updCore, if_pos rfl]

theorem rowsMarked_sweepRow (c : Nat) (al : Alloc) (p : Nat) (s : State) : RowsMarked c s (sweepRow c al p s) := by
  refine ⟨rfl, ?_, fun q => ?_, fun q hq => ?_⟩
  all_goals
    rw [core_sweepRow]
    split
  · exact ⟨_, rfl⟩
  · exact ⟨_, rfl⟩
  · rw [row_setRow]
    split
    · next h => rw [h]
    · rfl
  · rfl
  · rw [row_setRow]
    split
    · rfl
    · exact hq
  · exact hq

/-- The sweep of a team's allocations, in order. -/
def sweepAlloc (c : Nat) (t : Team) (s : State) (x : Nat × Alloc) : State :=
  (List.range x.2.n).foldl (fun s i => sweepRow c x.2 ((t.block + x.2.gran) * 16 + i) (checkStamp s c ((t.block + x.2.gran) * 16 + i))) s
/-- The sweep of a team's allocations. -/
def sweepTeam (c : Nat) (s : State) (y : Nat × Team) : State := y.2.allocs.foldl (sweepAlloc c y.2) s

theorem exec_expirySweep_eq {s : State} {c : Nat} (h : (s.core c).rtick.toNat % 16384 = 0) :
    exec (.expirySweep c) s = .next ((s.teams.filter fun (_, t) => t.core == c).foldl (sweepTeam c) s) := by
  rw [exec_expirySweep, execExpirySweep, if_neg (not_not_intro h)]
  rfl

section
variable {s : State} {c : Nat} (hs : s.errors = [])
include hs

theorem rowsMarked_sweepAlloc (t : Team) (x : Nat × Alloc) : RowsMarked c s (sweepAlloc c t s x) := by
  refine foldl_keeps (P := RowsMarked c s) _ _ (fun u i _ h => h.trans ?_) (.refl c s)
  rw [checkStamp_none (h.errors.trans hs)]
  exact rowsMarked_sweepRow ..

theorem rowsMarked_sweepTeam (y : Nat × Team) : RowsMarked c s (sweepTeam c s y) :=
  foldl_keeps (P := RowsMarked c s) _ _ (fun _ x _ h => h.trans (rowsMarked_sweepAlloc (h.errors.trans hs) y.2 x)) (.refl c s)

theorem exp_sweepAlloc {t : Team} {x : Nat × Alloc} {i : Nat} (hi : i < x.2.n)
    (ho : leff (s.core c) x.2 < rowAge (s.core c) ((t.block + x.2.gran) * 16 + i) (s.core c).rtick) :
    (((sweepAlloc c t s x).core c).row ((t.block + x.2.gran) * 16 + i)).exp = true := by
  refine foldl_reaches (I := RowsMarked c s) (P := fun u => ((u.core c).row ((t.block + x.2.gran) * 16 + i)).exp = true) (List.mem_range.mpr hi)
    (fun s i => sweepRow c x.2 ((t.block + x.2.gran) * 16 + i) (checkStamp s c ((t.block + x.2.gran) * 16 + i))) (fun u j h => h.trans ?_) (fun u j h hp => ?_)
    (fun u h => ?_) (.refl c s)
  · rw [checkStamp_none (h.errors.trans hs)]
    exact rowsMarked_sweepRow ..
  · rw [checkStamp_none (h.errors.trans hs)]
    exact (rowsMarked_sweepRow ..).marks _ hp
  · rw [checkStamp_none (h.errors.trans hs), core_sweepRow, if_pos (h.old ho), row_setRow, if_pos rfl]

theorem exp_sweepTeam {y : Nat × Team} {x : Nat × Alloc} (hx : x ∈ y.2.allocs) {i : Nat} (hi : i < x.2.n)
    (ho : leff (s.core c) x.2 < rowAge (s.core c) ((y.2.block + x.2.gran) * 16 + i) (s.core c).rtick) :
    (((sweepTeam c s y).core c).row ((y.2.block + x.2.gran) * 16 + i)).exp = true :=
  foldl_reaches (I := RowsMarked c s) (P := fun u => ((u.core c).row ((y.2.block + x.2.gran) * 16 + i)).exp = true) hx (sweepAlloc c y.2)
    (fun _ z h => h.trans (rowsMarked_sweepAlloc (h.errors.trans hs) y.2 z)) (fun _ z h hp => (rowsMarked_sweepAlloc (h.errors.trans hs) y.2 z).marks _ hp)
    (fun _ h => exp_sweepAlloc (h.errors.trans hs) hi (h.old ho)) (.refl c s)

theorem expirySweep_sweeps (h : (s.core c).rtick.toNat % 16384 = 0) : Happens (.expirySweep c) s fun u => u.mem = s.mem ∧ u.teams = s.teams ∧
    ∀ k t h al i, (k, t) ∈ s.teams → t.core = c → (h, al) ∈ t.allocs → i < al.n → let p := (t.block + al.gran) * 16 + i
      leff (s.core c) al < rowAge (s.core c) p (s.core c).rtick → ((u.core c).row p).exp = true := by
  have hm : RowsMarked c s ((s.teams.filter fun (_, t) => t.core == c).foldl (sweepTeam c) s) :=
    foldl_keeps (P := RowsMarked c s) _ _ (fun _ y _ h => h.trans (rowsMarked_sweepTeam (h.errors.trans hs) y)) (.refl c s)
  refine ⟨_, exec_expirySweep_eq h, by rw [hm.rest], by rw [hm.rest], fun k t h al i ht hc hx hi => ?_⟩
  intro p ho
  exact foldl_reaches (I := RowsMarked c s) (P := fun u => ((u.core c).row p).exp = true) (x := (k, t)) (List.mem_filter.mpr ⟨ht, by simpa using hc⟩) (sweepTeam c)
    (fun _ y h => h.trans (rowsMarked_sweepTeam (h.errors.trans hs) y)) (fun _ y h hp => (rowsMarked_sweepTeam (h.errors.trans hs) y).marks _ hp)
    (fun _ h => exp_sweepTeam (x := (_, al)) (h.errors.trans hs) hx hi (h.old ho)) (.refl c s)

end

theorem timePart : Part.Time := fun s c =>
  ⟨tick_counts s c, tick_governs, leaseSweep_sweeps, fun h hs => expirySweep_sweeps hs h⟩

/-! ## Temperature bands (R100) -/

theorem bandTret_le (b : Nat) : bandTret b < 2048 := by
  unfold bandTret
  split <;> decide

theorem bandOf_lt (d : Nat) : bandOf d < 8 := by
  unfold bandOf
  cases h : ((List.range 8).filter fun b => b = 0 || bandEdge b < d).getLast? with
  | none => simp
  | some b => simpa using List.mem_range.mp (List.mem_filter.mp (List.mem_of_getLast? h)).1

theorem fallTo_le (s : State) (c : Core) (b : Nat) : fallTo s c b ≤ b := by
  induction b with
  | zero => exact Nat.le_refl 0
  | succ b ih =>
    unfold fallTo
    split
    · split
      · exact Nat.le_succ_of_le ih
      · exact Nat.le_refl _
    · exact Nat.le_refl _

theorem band_lt (k : Core) : k.band < 8 := Nat.mod_lt _ (by omega)

/-- csr.tret for a band: its number, its lifetime, and RISE. -/
theorem setBand_spec (k : Core) {b : Nat} (hb : b < 8) (rise : Bool) :
    (k.setBand b rise).band = b ∧ (k.setBand b rise).tretTicks = bandTret b ∧ (rise = true → bit (k.setBand b rise).tret 31 = true) := by
  have ht := bandTret_le b
  have hn : (k.setBand b rise).tret.toNat = (if rise || bit k.tret 31 then 2 ^ 31 else 0) + b * 65536 + bandTret b := by
    rw [Core.setBand, BitVec.toNat_ofNat]
    refine Nat.mod_eq_of_lt ?_
    split <;> omega
  refine ⟨?_, ?_, fun hr => ?_⟩
  · rw [Core.band, hn]
    split <;> omega
  · rw [Core.tretTicks, hn]
    split <;> omega
  · rw [bit, BitVec.getLsbD, hn, hr, Bool.true_or, if_pos rfl, Nat.testBit_eq_decide_div_mod_eq]
    simp only [decide_eq_true_eq]
    omega

/-- A core once its sensor has been read: what it knows of the temperature. -/
def sensed (s : State) (d : Nat) (k : Core) : Core :=
  { k with temp := d, firstReading := false, belowSince := (List.range 8).filterMap fun e =>
      if e = 0 || bandEdge e < d + 20 then none else some (e, (mapGet? k.belowSince e).getD s.ns) }

/-- A core after a reading: csr.tret follows the first one and a rise. -/
theorem core_temperatureReading (s : State) (c d : Nat) : Happens (.temperatureReading c d) s fun u => u.mem = s.mem ∧ u.teams = s.teams ∧ u.core c =
    if (s.core c).firstReading then (sensed s d (s.core c)).setBand (bandOf d) (6 < bandOf d)
    else if (s.core c).band < bandOf d then (sensed s d (s.core c)).setBand (bandOf d) true else sensed s d (s.core c) :=
  ⟨_, rfl, rfl, rfl, (core_updCore ..).trans (if_pos rfl)⟩

theorem temperatureReading_reads (s : State) (c d : Nat) : Happens (.temperatureReading c d) s fun u => u.mem = s.mem ∧ u.teams = s.teams ∧ (u.core c).temp = d ∧
    ((s.core c).firstReading = true → (u.core c).band = bandOf d ∧ (u.core c).tretTicks = bandTret (bandOf d)) ∧
    ((s.core c).firstReading = false → (s.core c).band < bandOf d → (u.core c).band = bandOf d ∧ (u.core c).tretTicks = bandTret (bandOf d) ∧ bit (u.core c).tret 31 = true) ∧
    ((s.core c).firstReading = false → bandOf d ≤ (s.core c).band → (u.core c).tret = (s.core c).tret) := by
  obtain ⟨u, hx, hm, ht, hu⟩ := core_temperatureReading s c d
  refine ⟨u, hx, hm, ht, ?_, fun h1 => ?_, fun h1 h2 => ?_, fun h1 h2 => ?_⟩
  · rw [hu]
    split
    · rfl
    · split <;> rfl
  · rw [hu, if_pos h1]
    obtain ⟨hb, htr, -⟩ := setBand_spec (sensed s d (s.core c)) (bandOf_lt d) (6 < bandOf d)
    exact ⟨hb, htr⟩
  · rw [hu, if_neg (by simp [h1]), if_pos h2]
    obtain ⟨hb, htr, hrise⟩ := setBand_spec (sensed s d (s.core c)) (bandOf_lt d) true
    exact ⟨hb, htr, hrise rfl⟩
  · rw [hu, if_neg (by simp [h1]), if_neg (by omega)]
    rfl

theorem bandFall_falls {s : State} {c : Nat} (h : fallTo s (s.core c) (s.core c).band ≠ (s.core c).band) : Happens (.bandFall c) s fun u => u.mem = s.mem ∧
    u.teams = s.teams ∧ (u.core c).band = fallTo s (s.core c) (s.core c).band ∧ (u.core c).tretTicks = bandTret (u.core c).band := by
  have hlt : fallTo s (s.core c) (s.core c).band < 8 := Nat.lt_of_le_of_lt (fallTo_le ..) (band_lt _)
  obtain ⟨hband, htret, -⟩ := setBand_spec (s.core c) hlt false
  refine ⟨s.updCore c fun k => k.setBand (fallTo s (s.core c) (s.core c).band) false, by rw [exec_bandFall, execBandFall]; exact if_neg h, rfl, rfl, ?_⟩
  rw [core_updCore, if_pos rfl, hband]
  exact ⟨rfl, htret⟩

theorem bandFall_stays {s : State} {c : Nat} (h : fallTo s (s.core c) (s.core c).band = (s.core c).band) : ∃ n, exec (.bandFall c) s = .refused (.notEnabled n) :=
  ⟨_, by rw [exec_bandFall, execBandFall]; exact if_pos h⟩

theorem temperaturePart : Part.Temperature := by
  refine fun s c d => ⟨temperatureReading_reads s c d, bandFall_falls, bandFall_stays, fun h1 h2 => ?_⟩
  obtain ⟨u, hx, hm, ht, hc, hp⟩ := governorInterval_sets s c h1 h2
  exact ⟨u, hx, hm, ht, by rw [hc], hp⟩

/-- Settles O50: time and the sweeps, then temperature and the governor. -/
theorem timeAndTemperature : Obligations.TimeAndTemperature := ⟨timePart, temperaturePart⟩

end Sys2Proof
end

section
/-! PROOFS. Retention sleep, wake, the emergency sleep and the power cap (R110, R111, R133, R436); O51 is put together here. -/

namespace Sys2Proof

open Machine

variable {s : State} {c : Nat}

/-! ## Falling asleep (R110, R133) -/

theorem core_fallAsleep (s : State) (c : Nat) : ((fallAsleep s c).core c).asleep = true ∧ ((fallAsleep s c).core c).l1 = [] ∧ ((fallAsleep s c).core c).filter = [] ∧
    ((fallAsleep s c).core c).tlb = [] ∧ ((fallAsleep s c).core c).kc = [] := by
  rw [fallAsleep, core_updCore, if_pos rfl]
  exact ⟨rfl, rfl, rfl, rfl, rfl⟩

/-- A core that holds nothing in its L1 gives nothing up. -/
theorem fallAsleep_empty (h : (s.core c).l1 = []) :
    fallAsleep s c = s.updCore c fun k => { k with asleep := true, l1 := [], filter := [], kc := [], tlb := [], walkers := [] } := by
  rw [fallAsleep, h]
  rfl

theorem retentionSleep_sleeps (hen : s.coreEnabled c = true) (ha : (s.core c).asleep = false) (hem : (s.core c).emergency = false)
    (hw : (s.core c).sleepAsked = true ∨ noAllocation s c = true ∧ noRunnable s c = true) (hd : coreDrained s c = true) :
    exec (.retentionSleep c) s = .next (fallAsleep s c) := by
  have hgo : (!(s.core c).sleepAsked && !(noAllocation s c && noRunnable s c)) = false := by
    rcases hw with h | ⟨h1, h2⟩
    · rw [h]; rfl
    · rw [h1, h2]; exact Bool.and_false _
  rw [exec_retentionSleep, execRetentionSleep]
  simp only [hen, ha, hem, hgo, hd, Bool.not_true, Bool.or_self, Bool.false_eq_true, if_false]

/-! ## The wake (R110, R111) -/

/-- The governor has not given leave, or the core is still hot. -/
theorem retentionWake_held (ha : (s.core c).asleep = true) (hs : (s.core c).sleepAsked = true) (h : (s.core c).wakeAllowed = false ∨ 1150 < (s.core c).temp) :
    ∃ n, exec (.retentionWake c) s = .refused (.notEnabled n) := by
  have hheld : ((s.core c).sleepAsked && (!(s.core c).wakeAllowed || decide (1150 < (s.core c).temp))) = true := by
    rcases h with h | h
    · simp [hs, h]
    · simp [hs, h]
  exact ⟨_, by rw [exec_retentionWake, execRetentionWake]; exact (if_neg (by rw [ha]; exact Bool.false_ne_true)).trans (if_pos hheld)⟩

theorem exec_retentionWake_wakes (ha : (s.core c).asleep = true) (hok : (s.core c).sleepAsked = false ∨ (s.core c).wakeAllowed = true ∧ (s.core c).temp ≤ 1150)
    (hw : (s.core c).sleepAsked = true ∨ wakeWanted s c = true) : exec (.retentionWake c) s = .next (wakeCore s c) := by
  have h1 : ((s.core c).sleepAsked && (!(s.core c).wakeAllowed || decide (1150 < (s.core c).temp))) = false := by
    rcases hok with h | ⟨h, ht⟩
    · rw [h]; rfl
    · rw [h, decide_eq_false (Nat.not_lt.mpr ht)]; exact Bool.and_false _
  have h2 : (!(s.core c).sleepAsked && !wakeWanted s c) = false := by
    rcases hw with h | h
    · rw [h]; rfl
    · rw [h]; exact Bool.and_false _
  rw [exec_retentionWake, execRetentionWake]
  simp only [ha, h1, h2, Bool.not_true, Bool.false_eq_true, if_false]

/-- A map that a function gives on a list of keys, read at one of them. -/
theorem mapGet_keys {α : Type} (f : Nat → α) {l : List Nat} {i : Nat} (h : i ∈ l) : mapGet? (l.map fun p => (p, f p)) i = some (f i) := by
  induction l with
  | nil => exact absurd h List.not_mem_nil
  | cons p l ih =>
    rw [List.map_cons, mapGet?]
    split
    · next hp => rw [hp]
    · next hp => exact ih ((List.mem_cons.mp h).resolve_left hp)

/-- What waking does to the team. -/
def wokenTeam (s : State) (c : Nat) (t : Team) : Team :=
  if t.core == c && t.threads.any (sleepOver s c) then
    { t with lookout := 0, threads := t.threads.map fun th => if sleepOver s c th then { th with st := .runnable } else th }
  else t

theorem wakeCore_eq (s : State) (c : Nat) : wakeCore s c = ({ s with teams := s.teams.map fun (k, t) => (k, wokenTeam s c t) } : State).updCore c fun k =>
    { k with asleep := false, sleepAsked := false, wakeAllowed := false, emergency := false, l1 := [], filter := [], kc := [], rows := (List.range padRowCount).map fun p => (p, { k.row p with exp := true }) } := rfl

theorem team_wakeCore (s : State) (c i : Nat) : (wakeCore s c).team i = (s.team i).map (wokenTeam s c) := by
  rw [wakeCore_eq, State.team, updCore_teams, mapGet_map]
  rfl

theorem core_wakeCore (s : State) (c : Nat) : (wakeCore s c).core c = { s.core c with
    asleep := false, sleepAsked := false, wakeAllowed := false, emergency := false, l1 := [], filter := [], kc := [], rows := (List.range padRowCount).map fun p => (p, { (s.core c).row p with exp := true }) } := by
  rw [wakeCore_eq, core_updCore, if_pos rfl]
  rfl

/-- Every row of a core that wakes is expired. -/
theorem exp_wakeCore (s : State) (c : Nat) {p : Nat} (hp : p < padRowCount) : (((wakeCore s c).core c).row p).exp = true := by
  rw [core_wakeCore, Core.row, mapGet_keys _ (List.mem_range.mpr hp)]
  rfl

/-- A thread whose sleep is over runs. -/
theorem wokenTeam_runs {t : Team} (hc : t.core = c) {j : Nat} {th : Thread} (hj : t.threads[j]? = some th) (ho : sleepOver s c th = true) :
    ∃ tu, (wokenTeam s c t).threads[j]? = some tu ∧ tu.st = .runnable := by
  have hany : (t.core == c && t.threads.any (sleepOver s c)) = true := by
    rw [Bool.and_eq_true, beq_iff_eq]
    exact ⟨hc, List.any_eq_true.mpr ⟨th, List.mem_of_getElem? hj, ho⟩⟩
  rw [wokenTeam, if_pos hany]
  exact ⟨_, by rw [List.getElem?_map, hj, Option.map_some, if_pos ho], rfl⟩

theorem retentionWake_wakes (ha : (s.core c).asleep = true) (hok : (s.core c).sleepAsked = false ∨ (s.core c).wakeAllowed = true ∧ (s.core c).temp ≤ 1150)
    (hw : (s.core c).sleepAsked = true ∨ wakeWanted s c = true) : Happens (.retentionWake c) s fun u => u.mem = s.mem ∧
      (u.core c).asleep = false ∧ (u.core c).sleepAsked = false ∧ (∀ p, p < padRowCount → ((u.core c).row p).exp = true) ∧
      ∀ i t, s.team i = some t → t.core = c → ∃ tm : Team, u.team i = some tm ∧ ∀ (j : Nat) (th : Thread), t.threads[j]? = some th → sleepOver s c th = true →
        ∃ tu : Thread, tm.threads[j]? = some tu ∧ tu.st = .runnable := by
  refine ⟨_, exec_retentionWake_wakes ha hok hw, rfl, by rw [core_wakeCore], by rw [core_wakeCore], fun _ => exp_wakeCore s c, fun i t ht hc => ?_⟩
  exact ⟨wokenTeam s c t, by rw [team_wakeCore, ht, Option.map_some], fun _ _ => wokenTeam_runs hc⟩

/-! ## The emergency sleep (R111, R417) -/

theorem reportEmergency_rest (s : State) (c : Nat) : reportEmergency s c =
    { s with posts := (reportEmergency s c).posts, regs := { s.regs with pwrstat := setBit s.regs.pwrstat 6 true } } := by
  have h : ∀ (xs : List Nat) (r : List Byte), xs.foldl (fun s x => s.postCtx x r) (s.postDevice r) =
      { s with posts := (xs.foldl (fun s x => s.postCtx x r) (s.postDevice r)).posts } := fun xs r =>
    foldl_keeps (P := fun u : State => u = { s with posts := u.posts }) _ _ (fun u x _ h => by rw [h]; rfl) rfl
  rw [reportEmergency]
  dsimp only
  rw [h]
  rfl

/-- A core that is sent to sleep in an emergency and has drained. -/
theorem emergency_sleeps (hen : s.coreEnabled c = true) (ha : (s.core c).asleep = false) (h : (s.core c).emergency = true ∨ 1150 < (s.core c).temp)
    (hd : coreDrained s c = true) : exec (.emergencyRetentionSleep c) s = .next (fallAsleep (tripSleep (reportEmergency s c) c) c) := by
  have htrip : (!(s.core c).emergency && decide ((s.core c).temp ≤ 1150)) = false := by
    rcases h with h | h
    · rw [h]; rfl
    · rw [decide_eq_false (Nat.not_le.mpr h)]; exact Bool.and_false _
  rw [exec_emergencyRetentionSleep, execEmergencyRetentionSleep]
  simp only [hen, ha, htrip, hd, Bool.not_true, Bool.or_self, Bool.false_eq_true, if_false, if_true]

theorem emergency_shows (hl : (s.core c).l1 = []) : let u := fallAsleep (tripSleep (reportEmergency s c) c) c
    (u.core c).emergency = true ∧ bit u.regs.pwrstat 6 = true ∧ u.mem = s.mem := by
  have hr := reportEmergency_rest s c
  have hcore : (tripSleep (reportEmergency s c) c).core c = { s.core c with
      sleepAsked := true, emergency := true, wakeAllowed := if (s.core c).sleepAsked then (s.core c).wakeAllowed else true } := by
    rw [tripSleep, core_updCore, if_pos rfl, hr]
    rfl
  have hempty := fallAsleep_empty (s := tripSleep (reportEmergency s c) c) (c := c) (by rw [hcore]; exact hl)
  intro u
  have hu : u = _ := hempty
  refine ⟨?_, ?_, ?_⟩
  · rw [hu, core_updCore, if_pos rfl, hcore]
  · rw [hu, updCore_regs, tripSleep, updCore_regs, hr]
    exact (bit_setBit _ 6 6 _ (by omega)).trans (if_pos rfl)
  · rw [hu, updCore_mem, tripSleep, updCore_mem, hr]

/-- A hot core that has not drained stops its issue first. -/
theorem emergency_trips (hen : s.coreEnabled c = true) (ha : (s.core c).asleep = false) (hem : (s.core c).emergency = false) (ht : 1150 < (s.core c).temp)
    (hd : coreDrained s c = false) : Happens (.emergencyRetentionSleep c) s fun u => u.mem = s.mem ∧ u.teams = s.teams ∧ (u.core c).sleepAsked = true ∧
      (u.core c).emergency = true := by
  refine ⟨tripSleep s c, ?_, rfl, rfl, ?_⟩
  · rw [exec_emergencyRetentionSleep, execEmergencyRetentionSleep]
    simp only [hen, ha, hem, hd, decide_eq_false (Nat.not_le.mpr ht), Bool.not_true, Bool.not_false, Bool.or_self, Bool.and_false, Bool.false_and, Bool.false_eq_true, if_false]
  · rw [tripSleep, core_updCore, if_pos rfl]
    exact ⟨rfl, rfl⟩

/-! ## The power cap (R436) -/

/-- A core that a cap asks to sleep, where it holds no allocation. -/
def askIdle (s : State) (c : Nat) : State :=
  if noAllocation s c then s.updCore c fun k => { k with sleepAsked := true, wakeAllowed := false } else s
/-- A core that a cap sends to sleep in an emergency, where it holds one. -/
def askHolder (s : State) (c : Nat) : State :=
  if noAllocation s c then s else s.updCore c fun k => { k with sleepAsked := true, emergency := true, wakeAllowed := false }
/-- The enabled cores that are awake. -/
def awakeCores (s : State) : List Nat := s.enabledCores.filter fun c => !(s.core c).asleep
/-- The part once the idle cores have been asked. -/
def idleAsked (s : State) : State := (awakeCores s).foldl askIdle s

theorem exec_powerCap {enough emergency : Bool} (h : emergency = true ∨ powerOver s = true) : exec (.powerCapExceeded enough emergency) s = .next (if enough then idleAsked s
    else ((awakeCores s).filter fun c => c / 160 == hottestDie (idleAsked s)).foldl askHolder (idleAsked s)) := by
  have hgo : (!emergency && !powerOver s) = false := by
    rcases h with h | h
    · rw [h]; rfl
    · rw [h]; exact Bool.and_false _
  rw [exec_powerCapExceeded, execPowerCapExceeded, hgo]
  rfl

/-- Only the cores differ, and no sensor's reading. -/
structure CoresAsked (s u : State) : Prop where
  rest : u = { s with cores := u.cores }
  temp : ∀ c, (u.core c).temp = (s.core c).temp

namespace CoresAsked

variable {u v : State}

theorem refl (s : State) : CoresAsked s s := ⟨rfl, fun _ => rfl⟩
theorem trans (h : CoresAsked s u) (k : CoresAsked u v) : CoresAsked s v := ⟨by rw [k.rest, h.rest], fun c => (k.temp c).trans (h.temp c)⟩
theorem noAllocation (h : CoresAsked s u) (c : Nat) : Machine.noAllocation u c = Machine.noAllocation s c := by rw [h.rest]; rfl
theorem mem (h : CoresAsked s u) : u.mem = s.mem := by rw [h.rest]
theorem teams (h : CoresAsked s u) : u.teams = s.teams := by rw [h.rest]
theorem hottest (h : CoresAsked s u) : hottestDie u = hottestDie s := by
  have he : u.enabledCores = s.enabledCores := by rw [h.rest]; rfl
  unfold hottestDie
  simp only [he, h.temp]

end CoresAsked

theorem coresAsked_updCore (s : State) (c : Nat) (f : Core → Core) (hf : ∀ k, (f k).temp = k.temp) : CoresAsked s (s.updCore c f) := by
  refine ⟨rfl, fun d => ?_⟩
  rw [core_updCore]
  split
  · next h => rw [hf, h]
  · rfl

theorem coresAsked_askIdle (s : State) (c : Nat) : CoresAsked s (askIdle s c) := by
  unfold askIdle
  split
  · exact coresAsked_updCore _ _ _ fun _ => rfl
  · exact .refl s

theorem coresAsked_askHolder (s : State) (c : Nat) : CoresAsked s (askHolder s c) := by
  unfold askHolder
  split
  · exact .refl s
  · exact coresAsked_updCore _ _ _ fun _ => rfl

theorem coresAsked_idleAsked (s : State) : CoresAsked s (idleAsked s) :=
  foldl_keeps (P := CoresAsked s) _ _ (fun u c _ h => h.trans (coresAsked_askIdle u c)) (.refl s)

theorem coresAsked_askHolders (s : State) (cs : List Nat) : CoresAsked s (cs.foldl askHolder s) :=
  foldl_keeps (P := CoresAsked s) _ _ (fun u c _ h => h.trans (coresAsked_askHolder u c)) (.refl s)

/-- A core is to sleep until the governor allows its wake. -/
def ToSleep (c : Nat) (u : State) : Prop := (u.core c).sleepAsked = true ∧ (u.core c).wakeAllowed = false

theorem toSleep_askIdle {d : Nat} (h : ToSleep c s) : ToSleep c (askIdle s d) := by
  unfold askIdle
  split
  · rw [ToSleep, core_updCore]
    split
    · exact ⟨rfl, rfl⟩
    · exact h
  · exact h

theorem toSleep_askHolder {d : Nat} (h : ToSleep c s) : ToSleep c (askHolder s d) := by
  unfold askHolder
  split
  · exact h
  · rw [ToSleep, core_updCore]
    split
    · exact ⟨rfl, rfl⟩
    · exact h

/-- An awake core without an allocation is asked to sleep. -/
theorem toSleep_idleAsked (hc : c ∈ awakeCores s) (hn : noAllocation s c = true) : ToSleep c (idleAsked s) := by
  refine foldl_reaches (I := CoresAsked s) (P := ToSleep c) hc askIdle (fun u d h => h.trans (coresAsked_askIdle u d)) (fun u d _ h => toSleep_askIdle h) (fun u h => ?_) (.refl s)
  rw [askIdle, if_pos ((h.noAllocation c).trans hn), ToSleep, core_updCore, if_pos rfl]
  exact ⟨rfl, rfl⟩

/-- A core is to sleep in an emergency. -/
def InEmergency (c : Nat) (u : State) : Prop := (u.core c).sleepAsked = true ∧ (u.core c).emergency = true

/-- A core with an allocation, of those that are sent to sleep, sleeps in an emergency. -/
theorem inEmergency_askHolders {cs : List Nat} (hc : c ∈ cs) (hn : noAllocation s c = false) : InEmergency c (cs.foldl askHolder s) := by
  refine foldl_reaches (I := CoresAsked s) (P := InEmergency c) hc askHolder (fun u d h => h.trans (coresAsked_askHolder u d)) (fun u d _ hu => ?_) (fun u h => ?_) (.refl s)
  · unfold askHolder
    split
    · exact hu
    · rw [InEmergency, core_updCore]
      split
      · exact ⟨rfl, rfl⟩
      · exact hu
  · have hnu : ¬ noAllocation u c = true := by rw [h.noAllocation, hn]; exact Bool.false_ne_true
    rw [askHolder, if_neg hnu, InEmergency, core_updCore, if_pos rfl]
    exact ⟨rfl, rfl⟩

theorem mem_awakeCores (hc : c ∈ s.enabledCores) (ha : (s.core c).asleep = false) : c ∈ awakeCores s := List.mem_filter.mpr ⟨hc, by rw [ha]; rfl⟩

theorem powerCap_asks {enough emergency : Bool} (h : emergency = true ∨ powerOver s = true) (c : Nat) : Happens (.powerCapExceeded enough emergency) s fun u =>
    u.mem = s.mem ∧ u.teams = s.teams ∧
    (c ∈ s.enabledCores → (s.core c).asleep = false → noAllocation s c = true → (u.core c).sleepAsked = true ∧ (u.core c).wakeAllowed = false) ∧
    (c ∈ s.enabledCores → (s.core c).asleep = false → enough = false → c / 160 = hottestDie s → noAllocation s c = false → (u.core c).sleepAsked = true ∧
      (u.core c).emergency = true) := by
  have hi := coresAsked_idleAsked s
  cases enough with
  | true => exact ⟨_, exec_powerCap h, hi.mem, hi.teams, fun hc ha hn => toSleep_idleAsked (mem_awakeCores hc ha) hn, fun _ _ he => absurd he nofun⟩
  | false =>
    have hh := hi.trans (coresAsked_askHolders (idleAsked s) ((awakeCores s).filter fun c => c / 160 == hottestDie (idleAsked s)))
    refine ⟨_, exec_powerCap h, hh.mem, hh.teams, fun hc ha hn => ?_, fun hc ha _ hd hn => ?_⟩
    · exact foldl_keeps (P := ToSleep c) _ _ (fun u d _ h => toSleep_askHolder h) (toSleep_idleAsked (mem_awakeCores hc ha) hn)
    · refine inEmergency_askHolders (List.mem_filter.mpr ⟨mem_awakeCores hc ha, ?_⟩) ((hi.noAllocation c).trans hn)
      rw [hi.hottest, beq_iff_eq]
      exact hd

/-- Settles O51: sleep, the leave to wake and the wake, the emergency, and the cap. -/
theorem retentionSleep : Obligations.RetentionSleep := by
  intro s c
  refine ⟨fun hen ha hem hw hd => ?_, fun d ha hs h1 h2 => ?_, fun ha hs h => retentionWake_held ha hs h, fun ha hok hw => retentionWake_wakes ha hok hw,
    fun hen ha h hd => ?_, fun hen ha hem ht hd => emergency_trips hen ha hem ht hd, fun h enough => ?_, fun enough emergency h => powerCap_asks h c⟩
  · exact ⟨_, retentionSleep_sleeps hen ha hem hw hd, core_fallAsleep s c⟩
  · obtain ⟨u, hx, -, -, hc, -⟩ := governorInterval_sets s c h1 h2
    exact ⟨u, hx, by rw [hc, ha, hs]; exact Bool.or_true _, by rw [hc]; exact ha⟩
  · exact ⟨_, emergency_sleeps hen ha h hd, (core_fallAsleep _ c).1, emergency_shows⟩
  · exact ⟨_, by rw [exec_powerCapExceeded, execPowerCapExceeded, h]; rfl⟩

end Sys2Proof
end

section
/-! PROOFS. Page grants between devices (R142 to R148): the state in which a poisoned line that comes back does not stay poisoned; O56 is
refuted here. -/

namespace Sys2Proof

open Machine

/-- Device 1 gives back page 0, which it holds exclusively. Billet 0 is poisoned, and the bytes of its first line have been written since it was
marked (R57). -/
def halfRewritten : State :=
  { State.reset with
    pages := [(0, { ctx := 0 })]
    prt := [(0, { pstate := 2, xdev := 1, devs := [1], pend := [1] })]
    billets := [(0, { poison := true, opened := true, byGrant := true, written := 2 ^ 128 - 1 })]
    lines := [(0, { present := true, valid := 0xFF, psn := true }), (1, { present := true, valid := 0xFF, psn := true })] }

/-- The billet's first line comes back poisoned, its second with bytes. -/
def halfPoisoned (bs : List Byte) : List (Nat × List Byte) := [(0, []), (1, bs)]

/-- What the acknowledgement leaves: the first line is marked, the second is written, and the page's record is free. -/
def afterAck (bs : List Byte) : State := freeRec (performWrite (halfRewritten.poisonLine 0) 128 (bs.take 128)) 0

theorem revocationAck_halfPoisoned {bs : List Byte} (h : bs ≠ []) : exec (.revocationAck 1 (0, 0) (halfPoisoned bs)) halfRewritten = .next (afterAck bs) := by
  cases bs with
  | nil => exact absurd rfl h
  | cons b bs => rfl

/-- The second line's bytes are the last that the billet's written-byte record lacked, so that the write clears the poison of the whole billet
(R57), and with it that of the line that has just come back poisoned. -/
theorem isPoisoned_afterAck : (afterAck (List.replicate 128 1)).isPoisoned 0 = false := by decide +kernel

/-- Refutes O56: an acknowledgement brings a line of a poisoned billet poisoned, and after it the bytes that the billet's written-byte record
still lacks; neither line is poisoned then (R57). -/
theorem not_peerPages : ¬ Obligations.PeerPages := by
  intro h
  obtain ⟨-, -, -, -, -, -, -, hack, -⟩ := h halfRewritten halfRewritten 1 0
  have hlines : ∀ x ∈ halfPoisoned (List.replicate 128 1), pageOfLine x.1 = 0 ∧ (x.2 = [] ∨ x.2.length = 128) ∧ halfRewritten.l2Room x.1 = true := by decide +kernel
  obtain ⟨u, hu, -, -, hpoison, -⟩ := hack _ _ rfl rfl List.mem_cons_self (fun _ => List.not_mem_nil) (by simp [halfPoisoned]) hlines
  obtain rfl : afterAck _ = u := Host.Outcome.next.inj ((revocationAck_halfPoisoned (List.cons_ne_nil _ _)).symm.trans hu)
  exact Bool.false_ne_true (isPoisoned_afterAck.symm.trans (hpoison (0, []) List.mem_cons_self rfl))

end Sys2Proof
end

section
/-! PROOFS. Issue, clause fetch and the throttle's handoff (R150, R180, R181, R211, R377, R378); O3 and O52 are put together here. -/

namespace Sys2Proof

open Machine

/-! ## A prepared group (R150, R181) -/

/-- A group that is prepared with a word stands with that word before it, and is the issuer. -/
theorem prepare_word {s s1 : State} {c tk g : Nat} {w : DWord} (h : prepare s c tk g = (some w, s1)) : ∃ u, nextWord u tk g = some w ∧
    s1 = { u.updCore c fun k => { k with issueClock := k.issueClock + 1 } with issuer := some { core := c, team := tk, grp := g, word := w } } := by
  simp only [prepare] at h
  split at h
  · cases h
  · cases h
  · split at h
    · cases h
    · next hw => cases h; exact ⟨_, hw, rfl⟩

theorem prepare_issuer {s s1 : State} {c tk g : Nat} {w : DWord} (h : prepare s c tk g = (some w, s1)) :
    s1.issuer = some { core := c, team := tk, grp := g, word := w } := by
  obtain ⟨u, -, rfl⟩ := prepare_word h
  rfl

theorem prepare_bundle {s s1 : State} {c tk g : Nat} {w : DWord} (h : prepare s c tk g = (some w, s1)) :
    ∃ b, (s1.group tk g).bind Group.bundle = some b ∧ b.words.getD (1 + b.index) 0 = w := by
  obtain ⟨u, hw, rfl⟩ := prepare_word h
  exact Option.map_eq_some_iff.mp hw

/-! ## A step at an issue's turn (R377, log 2) -/

theorem step_issues {s : State} {c tk g : Nat} (ha : s.agenda = []) (ht : s.turn % 2 = 0) (hn : nextIssue s = some (c, tk, g)) :
    step s = issueNow { s with turn := s.turn + 1 } c tk g := by
  have htick : ¬ s.turn % 64 = 63 := by omega
  simp only [step, ha, autoStep, hn, Option.map_some, if_neg htick, if_pos ht]

theorem issueNow_runs {s s1 : State} {c tk g : Nat} {w : DWord} {i : Instr} (hp : prepare s c tk g = (some w, s1)) (hd : decode w = some i) :
    issueNow s c tk g = conclude s1 i (exec i s1) := by
  simp only [issueNow, hp, hd]

theorem issueNow_illegal {s s1 : State} {c tk g : Nat} {w : DWord} (hp : prepare s c tk g = (some w, s1)) (hd : decode w = none) :
    issueNow s c tk g = .next (settle (flush { illegalWord s1 with issuer := none })) := by
  simp only [issueNow, hp, hd, finish]

theorem conclude_issued {old t : State} {i : Instr} (hi : i.opcode.isSome = true) :
    conclude old i (.next t) = .next (settle (flush { countIssue old i t with issuer := none })) := by
  simp only [conclude, hi, if_true, finish]

/-- Settles O3: the step is the issue of the prepared group's next word. -/
theorem stepRunsDecoded : Obligations.StepRunsDecoded := by
  intro s s1 c tk g w ha ht hn hp
  have hstep := step_issues ha ht hn
  refine ⟨prepare_issuer hp, prepare_bundle hp, fun i t hd hi he => ?_, fun i f hd he => ?_, fun i r hd he => ?_, fun hd => ?_⟩
  · rw [hstep, issueNow_runs hp hd, he, conclude_issued hi]
  · rw [hstep, issueNow_runs hp hd, he]; rfl
  · rw [hstep, issueNow_runs hp hd, he]; rfl
  · rw [hstep, issueNow_illegal hp hd]

/-! ## A thread that takes a fault by itself -/

/-- A step that parks one thread outside any handler keeps memory and leaves the thread with the fault pending (R389). -/
theorem happens_parkThread {s : State} {i : Instr} {k tid : Nat} {th : Thread} {f : FaultInfo} (hx : exec i s = .next (parkThread s k tid f))
    (ht : s.thread k tid = some th) (hh : th.handler = false) :
    Happens i s fun u => u.mem = s.mem ∧ ∃ tu g, u.thread k tid = some tu ∧ tu.st = .parked ∧ tu.fault = some g ∧ g.cause = f.cause := by
  obtain ⟨⟨tu, hu, ⟨hst, ⟨g, hg, hc, -⟩, -⟩, -⟩, -⟩ := parkThread_thread f ht hh
  exact ⟨_, hx, (onlyTeams_parkThread ..).mem, tu, g, hu, hst, hg, hc⟩

/-! ## The fetch of a clause's header (R180, R212, R272) -/

section
variable {s : State} {a b : Nat} {t : Team} {th : Thread} (ht : s.team a = some t) (hth : t.threads[b]? = some th) (hf : th.fetch = true)
  (hst : th.st = .runnable ∨ th.st = .held) (hk : t.kill = none) (hdr : t.drained = false) (hp : fencePending t [b] = false)
include hf hst hk hdr

/-- Nothing keeps the thread from fetching the header of its clause. -/
theorem fetch_due : (!(th.fetch && (th.st == .runnable || th.st == .held) && t.kill.isNone && !t.drained)) = false := by
  have hruns : (th.st == .runnable || th.st == .held) = true := by simpa using hst
  rw [hf, hruns, hk, hdr]
  rfl

include ht hth hp

theorem clauseFetch_noncanon (hc : 2 ^ 57 ≤ th.rp.clause) :
    exec (.clauseFetch a b) s = .next (parkThread s a b (fetchFault th .noncanon [th.rp.clause] 0 0)) := by
  simp only [exec_clauseFetch, execClauseFetch, ht, hth, fetch_due hf hst hk hdr, hp, Bool.false_eq_true, if_false, ge_iff_le, if_pos hc]

theorem clauseFetch_misaligned (hc : th.rp.clause < 2 ^ 57) (h8 : th.rp.clause % 8 ≠ 0) :
    exec (.clauseFetch a b) s = .next (parkThread s a b (fetchFault th .badclause [] 0 0)) := by
  simp only [exec_clauseFetch, execClauseFetch, ht, hth, fetch_due hf hst hk hdr, hp, Bool.false_eq_true, if_false, ge_iff_le, if_neg (Nat.not_le.mpr hc),
    bne_iff_ne.mpr h8, if_true]

/-- The header is the thread's from now on, and the marks of its group know the resume point by the header's priority (R180, R284). -/
theorem clauseFetch_header {s1 : State} {h : DWord} (hc : th.rp.clause < 2 ^ 57) (h8 : th.rp.clause % 8 = 0)
    (hw : kcWord s t.core t.ctx th.pslot th.rp.clause kFetch th.handler = .ok h s1) (hgood : hdrBad h = false)
    (hrole : roleAllows (((t.groups[th.grp]?).map Group.role).getD 0) (hdrClass h) = true) (hin : th.rp.index < hdrCount h) :
    exec (.clauseFetch a b) s = .next ((s1.updThread a b fun x =>
      { x with fetch := false, hdr := h, xprio := x.rp.prio, rp := { th.rp with prio := th.setPrio.getD (hdrPrio h) } }).updGroup a th.grp fun g =>
        g.learnt th.entry { th.rp with prio := th.setPrio.getD (hdrPrio h) }) := by
  simp only [exec_clauseFetch, execClauseFetch, ht, hth, fetch_due hf hst hk hdr, hp, Bool.false_eq_true, if_false, ge_iff_le, if_neg (Nat.not_le.mpr hc), h8,
    bne_self_eq_false, hw, hgood, hrole, Bool.not_true, if_neg (Nat.not_le.mpr hin)]

end

/-! ## The throttle's handoff (R378) -/

/-- The key of the group of a list that issued least recently. -/
def leastServed (x : Nat × Nat × Group) (xs : List (Nat × Nat × Group)) : Nat :=
  let r := xs.foldl (fun a b => if b.2.2.lastIssue < a.2.2.lastIssue then b else a) x
  r.1 * 64 + r.2.1

/-- A slot whose older holder has given way to a group: the group, a holder from now, stands behind the others. -/
def handedOff (s : State) (a b : Nat) (hs : List Nat) (n : Nat) : State :=
  s.updCore a fun k => { k with holders := mapSet k.holders b (hs.drop 1 ++ [n]), heldSince := mapSet k.heldSince b (((mapGet? k.heldSince b).getD []).drop 1 ++ [k.cycles]) }

theorem holders_handedOff (s : State) (a b : Nat) (hs : List Nat) (n : Nat) : mapGet? ((handedOff s a b hs n).core a).holders b = some (hs.drop 1 ++ [n]) := by
  rw [handedOff, core_updCore, if_pos rfl]
  exact (mapGet_set ..).trans (if_pos rfl)

section
variable {s : State} {a b : Nat} {hs : List Nat} (hh : mapGet? (s.core a).holders b = some hs)
include hh

theorem throttleHandoff_early (hc : (s.core a).cycles < ((mapGet? (s.core a).heldSince b).getD []).headD 0 + 1024) :
    ∃ n, exec (.throttleHandoff a b) s = .refused (.notEnabled n) := by
  refine ⟨"no holder has held its place for 1,024 cycles", ?_⟩
  simp only [exec_throttleHandoff, execThrottleHandoff, hh, if_pos hc]

theorem throttleHandoff_hands {x : Nat × Nat × Group} {xs : List (Nat × Nat × Group)}
    (hc : ((mapGet? (s.core a).heldSince b).getD []).headD 0 + 1024 ≤ (s.core a).cycles)
    (hr : (readyGroups { s with cores := mapSet s.cores a { s.core a with holders := mapErase (s.core a).holders b } } a b).filter
      (fun p => !hs.contains (p.1 * 64 + p.2.1) && ((s.team p.1).map fun t => groupClass t p.2.1 == 2).getD false) = x :: xs) :
    exec (.throttleHandoff a b) s = .next (handedOff s a b hs (leastServed x xs)) := by
  simp only [exec_throttleHandoff, execThrottleHandoff, hh, if_neg (Nat.not_lt.mpr hc), hr]
  rfl

end

/-- Settles O52, by the steps that it speaks of. -/
theorem fetching : Obligations.Fetching := by
  refine fun s s1 a b => ⟨fun tk g w i hpick hprep hd => ?_, fun t th ht hth hf hst hk hdr hp => ?_, fun hs x xs hh hc hr => ?_,
    fun hs hh hc => throttleHandoff_early hh hc⟩
  · simp only [exec_issue, execIssue, hpick, hprep, hd]
  · have hthread : s.thread a b = some th := by rw [State.thread, ht]; exact hth
    refine ⟨fun h hc h8 hw hgood hrole hin h1 => ?_, fun hh hc => ?_, fun hh hc h8 => ?_⟩
    · exact ⟨_, clauseFetch_header ht hth hf hst hk hdr hp hc h8 hw hgood hrole hin, (updGroup_mem ..).trans (updTeam_mem ..), _,
        (thread_updGroup ..).trans ((thread_updThread ..).trans ((if_pos ⟨rfl, rfl⟩).trans (congrArg _ h1))), rfl, rfl, rfl, rfl, rfl⟩
    · exact happens_parkThread (clauseFetch_noncanon ht hth hf hst hk hdr hp hc) hthread hh
    · exact happens_parkThread (clauseFetch_misaligned ht hth hf hst hk hdr hp hc h8) hthread hh
  · exact ⟨_, throttleHandoff_hands hh hc hr, rfl, rfl, _, holders_handedOff s a b hs _⟩

end Sys2Proof
end

section
/-! PROOFS. Lookout, the kill of a team and its retirement (R168, R176, R387, R400, R402); O45 is put together here. -/

namespace Sys2Proof

open Machine

/-! ## A team's end and its packet (R173, R176, R402) -/

/-- The entry of a running packet is found again where it is changed in place. -/
theorem findRunning_changed {c : Ctx} {q i : Nat} {r : Running} {f : Running → Running} (h : findRunning c q i = some r)
    (hf : ∀ y, (f y).queue = y.queue ∧ (f y).index = y.index) :
    findRunning { c with running := c.running.map fun y => if y.queue == q && y.index == i then f y else y } q i = some (f r) := by
  have hkey : ((fun y : Running => y.queue == q && y.index == i) ∘ fun y => if y.queue == q && y.index == i then f y else y) =
      fun y => y.queue == q && y.index == i := by
    funext y
    obtain ⟨hq, hi⟩ := hf y
    simp only [Function.comp_apply]
    split
    · rw [hq, hi]
    · rfl
  rw [findRunning, List.find?_map, hkey]
  rw [findRunning] at h
  rw [h, Option.map_some, if_pos (List.find?_some h)]

theorem findRunning_updRunning {s : State} {x q i : Nat} {c : Ctx} {r : Running} {f : Running → Running} (hc : s.ctx x = some c)
    (hr : findRunning c q i = some r) (hf : ∀ y, (f y).queue = y.queue ∧ (f y).index = y.index) :
    ∃ c', (updRunning s x q i f).ctx x = some c' ∧ findRunning c' q i = some (f r) := by
  simp only [updRunning, hc, Option.bind_some, hr]
  obtain ⟨-, -, hshow⟩ := showRunning_keeps (s.updCtx x fun c => { c with running := c.running.map fun y => if y.queue == q && y.index == i then f y else y }) x (f r)
  refine ⟨_, ?_, findRunning_changed hr hf⟩
  rw [State.ctx, hshow, ← State.ctx, ctx_updCtx, if_pos rfl, hc]
  rfl

/-- A team that leaves and frees its slots: it is gone, and memory and the packets of its context stand. -/
theorem freeTeam_leaves (s : State) (k : Nat) (t : Team) : (freeTeam s k t true).mem = s.mem ∧
    (freeTeam s k t true).team k = none ∧ ∀ c, s.ctx t.ctx = some c → ∃ c', (freeTeam s k t true).ctx t.ctx = some c' ∧ c'.running = c.running := by
  refine ⟨updCtx_mem .., (mapGet_erase ..).trans (if_pos rfl), fun c hc => ?_⟩
  exact ⟨_, (ctx_updCtx ..).trans ((if_pos rfl).trans (congrArg _ hc)), rfl⟩

theorem freeTeam_ns (s : State) (k : Nat) (t : Team) : (freeTeam s k t true).ns = s.ns := updCtx_ns ..

/-- What remains of a team that has left and whose packet has been changed: the team is gone, and its packet's entry is the changed one. -/
theorem freed_updRunning {v w : State} {k : Nat} {t : Team} {f : Running → Running} (hf : ∀ y, (f y).queue = y.queue ∧ (f y).index = y.index)
    (hmem : w.mem = (freeTeam v k t true).mem) (hteams : w.teams = (freeTeam v k t true).teams) (hctxs : w.ctxs = (freeTeam v k t true).ctxs) :
    let u := updRunning w t.ctx t.queue t.pidx f
    u.team k = none ∧ u.mem = v.mem ∧ ∀ c r, v.ctx t.ctx = some c → findRunning c t.queue t.pidx = some r →
      ∃ c', u.ctx t.ctx = some c' ∧ findRunning c' t.queue t.pidx = some (f r) := by
  obtain ⟨hm, hgone, hpackets⟩ := freeTeam_leaves v k t
  obtain ⟨hum, hut, -⟩ := updRunning_keeps w t.ctx t.queue t.pidx f
  refine ⟨?_, hum.trans (hmem.trans hm), fun c r hc hr => ?_⟩
  · rw [State.team, hut, hteams]
    exact hgone
  · obtain ⟨c1, hc1, hrun⟩ := hpackets c hc
    have hr1 : findRunning c1 t.queue t.pidx = some r := by rw [findRunning, hrun]; exact hr
    exact findRunning_updRunning (by rw [State.ctx, hctxs]; exact hc1) hr1 hf

/-! ## Lookout (R387) -/

theorem lookout_kills {s : State} {k : Nat} {t : Team} (ht : s.team k = some t) (hkept : t.kept = false) (hk : t.kill = none)
    (hl : lookoutLimit t < t.lookout) : Happens (.lookout k) s fun u => u.mem = s.mem ∧
      ∃ tm f, u.team k = some tm ∧ tm.kill = some f ∧ f.cause = .lookout := by
  obtain ⟨tm, hm, -, -, hself⟩ := team_killTeam ht k { cause := .lookout, time := s.ns, core := t.core, pmark := t.pmark } none
  refine ⟨_, ?_, (onlyTeams_killTeam ..).mem, tm, _, hm, hself hk rfl, rfl⟩
  simp only [exec_lookout, execLookout, ht, hk, hkept, decide_eq_false (Nat.not_le.mpr hl), Option.isSome_none, Bool.or_self, Bool.false_eq_true, if_false]

/-! ## What a packet learns of a killed team (R402) -/

/-- What a packet learns at a time of a team that has been killed (R402). -/
def afterKill (ns : Nat) (t : Team) (f : FaultInfo) (r : Running) : Running :=
  if relaunches t f then { r with placed := r.placed - 1, again := r.again ++ [{ team := t.index, count := t.relaunches + 1, mark := t.pmark, avoid := some t.core, since := ns }] }
  else { r with placed := r.placed - 1, killed := true }

theorem packetAfterKill_eq (s : State) (t : Team) (f : FaultInfo) : packetAfterKill s t f = updRunning s t.ctx t.queue t.pidx (afterKill s.ns t f) := rfl

/-- The packet learns it in place, counts the team off, and has the team placed again or is marked as killed. -/
theorem afterKill_spec (ns : Nat) (t : Team) (f : FaultInfo) (r : Running) : (afterKill ns t f r).queue = r.queue ∧ (afterKill ns t f r).index = r.index ∧
    (afterKill ns t f r).placed = r.placed - 1 ∧
    (relaunches t f = true → (afterKill ns t f r).again = r.again ++ [{ team := t.index, count := t.relaunches + 1, mark := t.pmark, avoid := some t.core, since := ns }]) ∧
    (relaunches t f = false → (afterKill ns t f r).killed = true) := by
  unfold afterKill
  split
  · next h => exact ⟨rfl, rfl, rfl, fun _ => rfl, fun hn => by rw [h] at hn; cases hn⟩
  · next h => exact ⟨rfl, rfl, rfl, fun hr => absurd hr h, fun _ => rfl⟩

/-! ## A kill begins (R400 steps 1 to 5) -/

/-- A team whose kill has begun: its window and its groups' flags are clear. -/
def clearedTeam (t : Team) : Team := { t with killing := true, iw := [], groups := t.groups.map fun g => { g with cf := [] } }

theorem beginKill_mem (s : State) (k : Nat) (t : Team) : (beginKill s k t).mem = s.mem := updTeam_mem ..

theorem team_beginKill {s : State} {k : Nat} {t : Team} (ht : s.team k = some t) : (beginKill s k t).team k = some (clearedTeam t) :=
  (team_updTeam ..).trans ((if_pos rfl).trans (congrArg _ ht))

theorem matq_beginKill (s : State) (k : Nat) (t : Team) :
    ((beginKill s k t).core t.core).matq = (s.core t.core).matq.filter fun m => m.team != k := by
  rw [beginKill, core_updCore, if_pos rfl, (onlyTeams_updTeam (.refl _) ..).core]
  rfl

/-- Of the team's entries in the store buffer those stay that have been admitted or sent. -/
theorem sb_beginKill {s : State} {k : Nat} {t : Team} {x : SbEntry} (hx : x ∈ ((beginKill s k t).core t.core).sb) (hk : x.team = k) :
    x.admitted = true ∨ x.sent = true := by
  rw [beginKill, core_updCore, if_pos rfl] at hx
  have hkeep := (List.mem_filter.mp hx).2
  subst hk
  cases ha : x.admitted
  · exact .inr (by simpa [ha] using hkeep)
  · exact .inl rfl

/-- The state in which the release of a team has taken its count of a core's store buffer (R168). -/
def releaseCounted (s : State) (k : Nat) (t : Team) : State := s.updTeam k fun x => { x with snap := some ((s.core t.core).sb.map SbEntry.id) }

theorem team_releaseCounted {s : State} {k : Nat} {t x : Team} (h : s.team k = some x) :
    (releaseCounted s k t).team k = some { x with snap := some ((s.core t.core).sb.map SbEntry.id) } :=
  (team_updTeam ..).trans ((if_pos rfl).trans (congrArg _ h))

theorem onlyTeams_releaseCounted (s : State) (k : Nat) (t : Team) : OnlyTeams s (releaseCounted s k t) := onlyTeams_updTeam (.refl s) k _

/-- With no load outstanding and stores in the core's buffer, the release takes its count and waits (R168). -/
theorem teamReleased_counts {s : State} {k : Nat} {t : Team} (hi : t.iw = []) (hn : t.snap = none) (hsb : (s.core t.core).sb ≠ []) :
    teamReleased s k t = (false, releaseCounted s k t) := by
  simp only [teamReleased, hi, hn, List.any_nil, Bool.false_eq_true, if_false, List.isEmpty_map, List.isEmpty_eq_false_iff.mpr hsb]
  rfl

section
variable {s : State} {k : Nat} {t : Team} {f : FaultInfo} (ht : s.team k = some t) (hk : t.kill = some f)
  (hy : ∀ gr ∈ t.groups, ∀ b, gr.bundle = some b → b.yields = [])
include ht hk

/-- The kill of the team is due. -/
theorem kill_due : ((s.team k).bind fun t => t.kill.map fun f => (t, f)) = some (t, f) := by
  rw [ht, Option.bind_some, hk, Option.map_some]

include hy

omit ht hk in
/-- No pgyield of the team has begun to surrender its pages. -/
theorem groups_surrender_nothing : (t.groups.any fun g => (g.bundle.map fun b => !b.yields.isEmpty).getD false) = false := by
  refine List.any_eq_false.mpr fun gr hgr => ?_
  cases hb : gr.bundle with
  | none => simp
  | some b => simp [hy gr hgr b hb]

theorem teamKill_begins (hb : t.killing = false) (hsb : ((beginKill s k t).core t.core).sb ≠ []) :
    exec (.teamKill k) s = .next (releaseCounted (beginKill s k t) k t) := by
  have hteam := team_beginKill ht
  have hrel : teamReleased (beginKill s k t) k { clearedTeam t with snap := none } = (false, releaseCounted (beginKill s k t) k t) :=
    teamReleased_counts rfl rfl hsb
  have hne : releaseCounted (beginKill s k t) k t ≠ s := fun h => by
    have hsame : (releaseCounted (beginKill s k t) k t).team k = some t := by rw [h]; exact ht
    rw [team_releaseCounted hteam] at hsame
    have hkilling : true = t.killing := congrArg Team.killing (Option.some.inj hsame)
    rw [hb] at hkilling
    cases hkilling
  rw [exec_teamKill, execTeamKill, kill_due ht hk]
  simp only [groups_surrender_nothing hy, Bool.false_eq_true, if_false, hb, hteam, Option.getD_some, hrel,
    Bool.not_false, Bool.true_or, if_true, if_neg hne]

/-! ## A kill ends (R400, R402) -/

theorem teamKill_ends {v : State} (hb : t.killing = true) (hkept : t.kept = false) (hposted : s.posted t.ctx = true)
    (hrel : teamReleased s k t = (true, s)) (hidle : teamIdle s k t = true) (hw : writeRetires s t f = .ok () v) :
    exec (.teamKill k) s = .next (updRunning ((freeTeam v k t true).postCtx t.ctx (killRecord v t f)) t.ctx t.queue t.pidx (afterKill v.ns t f)) := by
  have hlearns : packetAfterKill ((freeTeam v k t true).postCtx t.ctx (killRecord v t f)) t f =
      updRunning ((freeTeam v k t true).postCtx t.ctx (killRecord v t f)) t.ctx t.queue t.pidx (afterKill v.ns t f) := by
    rw [packetAfterKill_eq, ← freeTeam_ns v k t]
    rfl
  have hstays : ¬ t.kept = true := by rw [hkept]; exact Bool.false_ne_true
  rw [exec_teamKill, execTeamKill, kill_due ht hk]
  simp only [groups_surrender_nothing hy, Bool.false_eq_true, if_false, if_pos hb, ht, Option.getD_some, hrel, hidle, hposted,
    Bool.not_true, Bool.or_self, if_neg hstays, hw]
  exact congrArg _ hlearns

end

/-! ## Retirement (R168, R176) -/

theorem teamRetire_retires {s v : State} {k : Nat} {t : Team} (ht : s.team k = some t) (hkept : t.kept = false) (hk : t.kill = none)
    (hexit : ∀ th ∈ t.threads, th.st = .exited) (hflags : ∀ g ∈ t.groups, g.flagMask = 0) (hidle : teamIdle s k t = true)
    (hposted : s.posted t.ctx = true) (hrel : teamReleased s k t = (true, v)) :
    exec (.teamRetire k) s = .next (updRunning (freeTeam v k t true) t.ctx t.queue t.pidx fun r => { r with placed := r.placed - 1 }) := by
  have hgone : (t.threads.all fun th => th.st == .exited) = true := List.all_eq_true.mpr fun th h => beq_iff_eq.mpr (hexit th h)
  have hzero : (t.groups.all fun g => g.flagMask == 0) = true := List.all_eq_true.mpr fun g h => beq_iff_eq.mpr (hflags g h)
  rw [exec_teamRetire, execTeamRetire]
  simp only [ht, hk, hkept, hgone, hzero, hidle, hposted, hrel, Option.isSome_none, Bool.not_true, Bool.or_self, Bool.false_eq_true, if_false]

/-- Settles O45, by the four steps that it speaks of. -/
theorem teamEnds : Obligations.TeamEnds := by
  refine fun s v k t ht hkept => ⟨fun hk hl => lookout_kills ht hkept hk hl, fun f hk hb hy hsb => ?_, fun f hk hb hy hposted hrel hidle hw => ?_,
    fun hk hexit hflags hidle hposted hrel => ?_⟩
  · have honly := onlyTeams_releaseCounted (beginKill s k t) k t
    refine ⟨_, teamKill_begins ht hk hy hb hsb, honly.mem.trans (beginKill_mem s k t),
      ⟨_, team_releaseCounted (team_beginKill ht), rfl, rfl, fun gr hgr => ?_⟩, ?_, fun x hx hxk => ?_⟩
    · obtain ⟨g, -, rfl⟩ := List.mem_map.mp hgr
      rfl
    · rw [honly.core, matq_beginKill]
    · rw [honly.core] at hx
      exact sb_beginKill hx hxk
  · obtain ⟨hgone, hmem, hpacket⟩ := freed_updRunning (v := v) (w := (freeTeam v k t true).postCtx t.ctx (killRecord v t f)) (t := t) (k := k) (f := afterKill v.ns t f)
      (fun y => let ⟨hq, hi, _⟩ := afterKill_spec v.ns t f y; ⟨hq, hi⟩) rfl rfl rfl
    refine ⟨_, teamKill_ends ht hk hy hb hkept hposted hrel hidle hw, hgone, hmem, fun c r hc hr => ?_⟩
    obtain ⟨c', hc', hr'⟩ := hpacket c r hc hr
    obtain ⟨-, -, hplaced, hagain, hkilled⟩ := afterKill_spec v.ns t f r
    exact ⟨c', _, hc', hr', hplaced, hagain, hkilled⟩
  · obtain ⟨hgone, hmem, hpacket⟩ := freed_updRunning (v := v) (w := freeTeam v k t true) (t := t) (k := k) (f := fun r => { r with placed := r.placed - 1 })
      (fun _ => ⟨rfl, rfl⟩) rfl rfl rfl
    refine ⟨_, teamRetire_retires ht hkept hk hexit hflags hidle hposted hrel, hgone, hmem, fun c r hc hr => ?_⟩
    obtain ⟨c', hc', hr'⟩ := hpacket c r hc hr
    exact ⟨c', _, hc', hr', rfl⟩

end Sys2Proof
end

section
/-! PROOFS. The waits of R182, R281, R314 and R365: waking the threads whose condition holds brings about no further condition, and every step
ends with it; O5 and O6 are put together here. -/

namespace Sys2Proof

open Machine

/-! ## A thread whose wait may be over -/

/-- A thread as the end of a step leaves it: runnable where its wait is over, else as it was. -/
def woken (t : Team) (th : Thread) : Thread := if wakes t th then { th with st := .runnable } else th

theorem settleTeam_threads (t : Team) : (settleTeam t).threads = t.threads.map (woken t) := rfl
theorem settleTeam_groups (t : Team) : (settleTeam t).groups = t.groups := rfl

@[simp] theorem woken_grp (t : Team) (th : Thread) : (woken t th).grp = th.grp := by unfold woken; split <;> rfl
@[simp] theorem woken_lane (t : Team) (th : Thread) : (woken t th).lane = th.lane := by unfold woken; split <;> rfl

theorem woken_of_wakes {t : Team} {th : Thread} (h : wakes t th = true) : woken t th = { th with st := .runnable } := if_pos h
theorem woken_of_sleeps {t : Team} {th : Thread} (h : wakes t th = false) : woken t th = th := by simp [woken, h]

/-- An exited thread waits for nothing. -/
theorem live_of_wakes {t : Team} {th : Thread} (h : wakes t th = true) : th.live = true := by
  refine bne_iff_ne.mpr fun hst => ?_
  rw [wakes, hst] at h
  cases h

@[simp] theorem woken_live (t : Team) (th : Thread) : (woken t th).live = th.live := by
  cases h : wakes t th with
  | true => rw [woken_of_wakes h, live_of_wakes h]; rfl
  | false => rw [woken_of_sleeps h]

/-- Only a thread that waited before waits after. -/
theorem waits_of_woken {t : Team} {th : Thread} {w : Wait} (h : (woken t th).st = .waiting w) : th.st = .waiting w := by
  cases hw : wakes t th with
  | true => rw [woken_of_wakes hw] at h; cases h
  | false => rwa [woken_of_sleeps hw] at h

/-! ## No condition comes true by the waking of threads -/

/-- Threads that have been woken no longer stand at the mwait, so no mask is complete that was not (R182). -/
theorem mwaitDone_of_settleTeam {t : Team} {g k : Nat} (h : mwaitDone (settleTeam t) g k = true) : mwaitDone t g k = true := by
  unfold mwaitDone at h ⊢
  rw [settleTeam_groups] at h
  cases hg : t.groups[g]? with
  | none => simp [hg] at h
  | some gr =>
    simp only [hg, settleTeam_threads, List.all_map, List.all_eq_true, Function.comp_apply, woken_grp, woken_live, woken_lane] at h ⊢
    intro th hth
    rcases Bool.or_eq_true_iff.mp (h th hth) with hout | hat
    · rw [hout, Bool.true_or]
    · rw [beq_iff_eq.mpr (waits_of_woken (beq_iff_eq.mp hat)), Bool.or_true]

/-- A barrier that some thread has not reached keeps its arrivals, so it stays open (R314). -/
theorem barDone_of_settleTeam {t : Team} (hopen : barDone t = false) : barDone (settleTeam t) = false := by
  have harrived : (settleTeam t).arrived = t.arrived := by simp [settleTeam, hopen]
  rw [← hopen]
  unfold barDone
  rw [harrived, settleTeam_threads, List.length_map]
  congr 1
  funext i
  rw [List.getElem?_map]
  cases t.threads[i]? with
  | none => rfl
  | some th => simp only [Option.map_some, woken_live]

/-- A thread whose wait was not over waits still. -/
theorem sleeps_settleTeam {t : Team} {th : Thread} (h : wakes t th = false) : wakes (settleTeam t) th = false := by
  cases hst : th.st with
  | waiting w =>
    cases w with
    | bar =>
      simp only [wakes, hst] at h ⊢
      exact barDone_of_settleTeam h
    | mwait k =>
      simp only [wakes, hst] at h ⊢
      exact Bool.eq_false_iff.mpr fun hd => Bool.eq_false_iff.mp h (mwaitDone_of_settleTeam hd)
    | waitf k n =>
      simp only [wakes, hst, settleTeam_groups] at h ⊢
      exact h
    | _ => simp only [wakes, hst]
  | _ => simp only [wakes, hst]

theorem teamSettled_settleTeam (t : Team) : TeamSettled (settleTeam t) := by
  intro th' hth'
  rw [settleTeam_threads] at hth'
  obtain ⟨th, -, rfl⟩ := List.mem_map.mp hth'
  cases h : wakes t th with
  | true => rw [woken_of_wakes h]; rfl
  | false => rw [woken_of_sleeps h]; exact sleeps_settleTeam h

theorem settled_settle (s : State) : Settled (settle s) := by
  intro p hp
  obtain ⟨⟨k, t⟩, -, rfl⟩ := List.mem_map.mp hp
  exact teamSettled_settleTeam t

/-! ## Every step ends so -/

/-- The next state, where the outcome has one, is settled. -/
def EndsSettled (o : Out) : Prop := ∀ t, o = .next t → Settled t

theorem endsSettled_finish (o : Out) : EndsSettled (finish o) := by
  intro t h
  cases o with
  | next s => cases h; exact settled_settle _
  | fault r => cases h
  | refused r => cases h

theorem endsSettled_conclude (old : State) (i : Instr) (o : Out) : EndsSettled (conclude old i o) := endsSettled_finish _

theorem endsSettled_issueNow (s : State) (c tk g : Nat) : EndsSettled (issueNow s c tk g) := by
  unfold issueNow
  split
  · exact endsSettled_finish _
  · split
    · exact endsSettled_conclude _ _ _
    · exact endsSettled_finish _

/-- A step that may be missing, or else another. -/
theorem endsSettled_getD {o : Option Out} {d : Out} (ho : ∀ x, o = some x → EndsSettled x) (hd : EndsSettled d) : EndsSettled (o.getD d) := by
  cases o with
  | none => exact hd
  | some x => exact ho x rfl

theorem endsSettled_map {α : Type} {o : Option α} {f : α → Out} (hf : ∀ a, EndsSettled (f a)) : ∀ x, o.map f = some x → EndsSettled x := by
  intro x hx
  obtain ⟨a, -, rfl⟩ := Option.map_eq_some_iff.mp hx
  exact hf a

theorem endsSettled_autoStep (s : State) : EndsSettled (autoStep s) := by
  have hissue : ∀ x, ((nextIssue s).map fun (c, tk, g) => issueNow { s with turn := s.turn + 1 } c tk g) = some x → EndsSettled x :=
    endsSettled_map fun _ => endsSettled_issueNow _ _ _ _
  have hhardware : ∀ x, ((hardwareStep s).map fun o => finish (match o with
      | .next u => .next { u with turn := s.turn + 1, stalled := [] }
      | o => o)) = some x → EndsSettled x := endsSettled_map fun _ => endsSettled_finish _
  unfold autoStep
  dsimp only
  split
  · exact endsSettled_conclude _ _ _
  split
  · split
    · next x hx => exact hissue x hx
    · exact endsSettled_getD hhardware (endsSettled_conclude _ _ _)
  · split
    · next x hx => exact hhardware x hx
    · exact endsSettled_getD hissue (endsSettled_conclude _ _ _)

theorem endsSettled_agendaStep (i : Instr) (rest : List Instr) (s : State) : EndsSettled (agendaStep i rest s) := by
  unfold agendaStep
  split
  · exact endsSettled_autoStep s
  · dsimp only
    split
    · exact endsSettled_autoStep s
    · exact endsSettled_conclude _ _ _

/-- Settles O5: whichever step is taken, it ends with the waking of the threads whose wait is over. -/
theorem stepSettles : Obligations.StepSettles := by
  intro s t h
  unfold step at h
  split at h
  · exact endsSettled_agendaStep _ _ s t h
  · exact endsSettled_autoStep s t h

/-- Settles O6: no team is there to wait, and memory lists nothing. -/
theorem resetSettled : Obligations.ResetSettled :=
  ⟨fun _ hp => absurd hp List.not_mem_nil, reset_memWf, rfl, rfl⟩

end Sys2Proof
end

section
/-! PROOFS. The forming of a bundle (R180, R181, R211, R213); O4 is put together here. -/

namespace Sys2Proof

open Machine

/-! ## Threads into a bundle -/

/-- The bundle that the threads at a resume point form of a clause's words; th is the first of them (R181, R211). -/
def bundleOf (ths : List (Nat × Thread)) (th : Thread) (ws : List DWord) : Bundle :=
  { lanes := maskOf (ths.map fun p => p.2.lane), clause := th.rp.clause, prio := th.rp.prio, index := th.rp.index, words := ws, handler := th.handler }

/-- The group runs the bundle, and its threads are in it. -/
def intoBundle (u : State) (tk g : Nat) (ths : List (Nat × Thread)) (th : Thread) (ws : List DWord) : State :=
  ths.foldl (fun s p => s.updThread tk p.1 fun x => { x with st := .inBundle, safe := none, setPrio := none })
    (u.updGroup tk g fun gr => { gr.issued th.rp with bundle := some (bundleOf ths th ws) })

theorem onlyTeams_intoBundle (u : State) (tk g : Nat) (ths : List (Nat × Thread)) (th : Thread) (ws : List DWord) :
    OnlyTeams u (intoBundle u tk g ths th ws) :=
  (onlyTeams_updGroup ..).trans (onlyTeams_foldl _ _ (fun s _ => onlyTeams_updThread s tk _ _) _)

theorem bundle_intoBundle {u : State} {tk g : Nat} (hg : (u.group tk g).isSome = true) (ths : List (Nat × Thread)) (th : Thread) (ws : List DWord) :
    ((intoBundle u tk g ths th ws).group tk g).bind Group.bundle = some (bundleOf ths th ws) := by
  obtain ⟨gr, hgr⟩ := Option.isSome_iff_exists.mp hg
  have hthreads : (intoBundle u tk g ths th ws).group tk g =
      (u.updGroup tk g fun gr => { gr.issued th.rp with bundle := some (bundleOf ths th ws) }).group tk g :=
    foldl_keeps (P := fun v : State => v.group tk g = _) ths _ (fun _ _ _ hv => (group_updThread ..).trans hv) rfl
  rw [hthreads, group_updGroup, if_pos ⟨rfl, rfl⟩, hgr]
  rfl

/-! ## The forming itself -/

section
variable {s u0 u : State} {tk g tid : Nat} {t : Team} {gr : Group} {th : Thread} {rest : List (Nat × Thread)} {h : DWord} {ws : List DWord}

/-- Nothing keeps the threads of the first resume point from running, and the clause's words are fetched and sound. -/
theorem formBundle_forms (ht : s.team tk = some t) (hgr : t.groups[g]? = some gr) (hhead : headThreads t g = (tid, th) :: rest)
    (hfence : fencePending t (((tid, th) :: rest).map Prod.fst) = false)
    (hw : kcWord s t.core t.ctx th.pslot th.rp.clause kFetch th.handler = .ok h u0) (hadm : ∀ p ∈ (tid, th) :: rest, unadmitted t p.1 = false)
    (herr : waitError u0 tk g (if th.rp.index = 0 then hdrWait h else 0) = none) (hgood : hdrBad h = false)
    (hrole : roleAllows gr.role (hdrClass h) = true) (hflags : th.rp.index = 0 → gr.flagsClear (hdrWait h) = true) (hin : th.rp.index < hdrCount h)
    (hws : kcWords u0 t.core t.ctx th.pslot th.rp.clause kFetch th.handler (hdrWords h) = .ok ws u) (hsound : clauseBad ws = false) :
    formBundle s tk g = .ok () (intoBundle u tk g ((tid, th) :: rest) th ws) := by
  have hready : ¬ (decide (th.rp.index = 0) && !gr.flagsClear (hdrWait h)) = true := by
    intro hc
    obtain ⟨hz, hset⟩ := Bool.and_eq_true_iff.mp hc
    rw [hflags (of_decide_eq_true hz)] at hset
    cases hset
  have hfree : ¬ (((tid, th) :: rest).any fun p => unadmitted t p.1) = true := by
    rw [List.any_eq_true]
    rintro ⟨p, hp, hu⟩
    exact Bool.false_ne_true ((hadm p hp).symm.trans hu)
  simp only [formBundle, ht, hhead, hfence, Bool.false_eq_true, if_false, hw, hgood, hgr, Option.getD_some, hrole, Bool.not_true, herr]
  rw [if_neg hready, if_neg hfree, if_neg (Nat.not_le.mpr hin)]
  simp only [hws, hsound, Bool.false_eq_true, if_false]
  rfl

end

/-- Settles O4: the bundle is `bundleOf` the threads at the first resume point. -/
theorem bundleFormation : Obligations.BundleFormation := by
  intro s u0 u tk g tid t gr th rest h ws ht hgr hhead hg hfence hw hadm herr hgood hrole hflags hin hws hsound
  exact ⟨_, _, formBundle_forms ht hgr hhead hfence hw hadm herr hgood hrole hflags hin hws hsound, (onlyTeams_intoBundle ..).mem,
    bundle_intoBundle hg _ _ _, rfl, rfl, rfl, rfl, rfl⟩

end Sys2Proof
end

section
/-! PROOFS. Reconvergence, exit, priority, yield and regroup (R182, R187, R281 to R285); O15 is put together here. -/

namespace Sys2Proof

open Machine

/-! ## Threads of a list brought to something -/

theorem thread_updThread_team (s : State) (k i j : Nat) (f : Thread → Thread) :
    (s.updThread k i f).thread k j = if j = i then (s.thread k i).map f else s.thread k j := by
  rw [thread_updThread]
  simp only [true_and]

/-- Threads changed in turn, each to something that holds of it whatever it was: it holds of every one of them at the end. -/
theorem foldl_thread_reaches {s t : State} {k l tid : Nat} {ls : List (Nat × Nat)} {f : State → Nat × Nat → State}
    {F : State → Nat × Nat → Thread → Thread} {Q : Thread → Prop} (hs : OnlyTeams s t) (ht : (t.thread k tid).isSome = true) (hm : (l, tid) ∈ ls)
    (hf : ∀ u y, OnlyTeams u (f u y))
    (hthread : ∀ u y, (f u y).thread k tid = if tid = y.2 then (u.thread k y.2).map (F u y) else u.thread k tid)
    (hQ : ∀ u y th, OnlyTeams s u → y.2 = tid → Q (F u y th)) :
    ∃ th, (ls.foldl f t).thread k tid = some th ∧ Q th := by
  refine foldl_reaches (I := fun u : State => OnlyTeams s u ∧ (u.thread k tid).isSome = true)
    (P := fun u : State => ∃ th, u.thread k tid = some th ∧ Q th) hm f (fun u y hu => ⟨hu.1.trans (hf u y), ?_⟩) (fun u y hu hP => ?_) (fun u hu => ?_) ⟨hs, ht⟩
  · rw [hthread]
    split
    · next h => rw [← h, Option.isSome_map]; exact hu.2
    · exact hu.2
  · rw [hthread]
    split
    · next h =>
      obtain ⟨th, hth⟩ := Option.isSome_iff_exists.mp hu.2
      exact ⟨_, by rw [← h, hth]; rfl, hQ u y th hu.1 h.symm⟩
    · exact hP
  · obtain ⟨th, hth⟩ := Option.isSome_iff_exists.mp hu.2
    exact ⟨_, by rw [hthread, if_pos rfl, hth]; rfl, hQ u (l, tid) th hu.1 rfl⟩

/-- What no change of a list of threads touches is as before. -/
theorem foldl_updThread_map {α β : Type} (ls : List α) (tid : α → Nat) (F : α → Thread → Thread) (p : Thread → β) (hp : ∀ x th, p (F x th) = p th)
    (k i : Nat) (t : State) : ((ls.foldl (fun s x => s.updThread k (tid x) (F x)) t).thread k i).map p = (t.thread k i).map p := by
  refine foldl_keeps (P := fun u : State => (u.thread k i).map p = (t.thread k i).map p) ls _ (fun u x _ h => ?_) rfl
  rw [thread_updThread]
  split
  · next hx => rw [← h, hx.2, Option.map_map]; congr 1; funext th; exact hp x th
  · exact h

theorem exists_of_map_eq {α β : Type} {o o' : Option α} {p : α → β} (h : o'.map p = o.map p) {a : α} (ha : o = some a) : ∃ b, o' = some b ∧ p b = p a := by
  rw [ha, Option.map_some, Option.map_eq_some_iff] at h
  exact h

/-! ## The moving on -/

/-- The clause of a thread has ended, and the thread takes its next resume point (R272). -/
def MovedOn (th th' : Thread) : Prop :=
  th' = { th with st := .runnable, rp := th'.rp, fetch := true, xfer := th'.xfer, safe := th'.safe, replay := none }

theorem MovedOn.setPrio {th th' : Thread} (h : MovedOn th th') : th'.setPrio = th.setPrio := by rw [h]

section
variable {P : State → Prop} {t : State} {e : Env}
  (hbundle : ∀ (u : State) (b : Option Bundle), P u → P (u.updGroup e.tk e.g fun gr => { gr with bundle := b }))
  (hthread : ∀ (u : State) (i : Nat) (F : Thread → Thread), (∀ th, MovedOn th (F th)) → P u → P (u.updThread e.tk i F))
include hbundle hthread

/-- What stands through changes of the group's bundle and of its threads' places stands through the end of the clause. -/
theorem endClause_keeps (h : P t) : P (Machine.endClause t e) := by
  unfold Machine.endClause
  split
  · exact h
  · split
    · exact h
    · refine hbundle _ _ (foldl_keeps _ _ (fun u x _ hu => hthread u x.2 _ ?_ hu) h)
      exact fun _ => rfl

/-- It stands through the moving on of the bundle, if it stands through the end of a replay. -/
theorem advance_keeps (h : P (Machine.endReplay t e.tk e.g)) : P (Machine.advance t e) := by
  simp only [Machine.advance]
  split
  · exact h
  · split
    · exact h
    · split
      · exact hbundle _ _ h
      · exact endClause_keeps hbundle hthread (hbundle _ _ h)

end

/-- The priority that an instruction gave a resume point stays through the moving on of the bundle (R283). -/
theorem setPrio_advance (t : State) (e : Env) (i : Nat) :
    ((Machine.advance t e).thread e.tk i).map Thread.setPrio = (t.thread e.tk i).map Thread.setPrio := by
  refine advance_keeps (P := fun u : State => (u.thread e.tk i).map Thread.setPrio = (t.thread e.tk i).map Thread.setPrio)
    (fun u b hu => by rw [thread_updGroup]; exact hu) (fun u j F hF hu => ?_) ?_
  · rw [thread_updThread_team, ← hu]
    split
    · next h => rw [h, Option.map_map]; congr 1; funext th; exact (hF th).setPrio
    · rfl
  · obtain ⟨f, hf, hx⟩ := thread_endReplay t e.tk e.g e.tk i
    rw [hx, Option.map_map]
    congr 1
    funext th
    rcases hf th with h | h <;> simp only [Function.comp_apply, h]

/-- So do the yield marks of the group (R284). -/
theorem marks_advance (t : State) (e : Env) : ((Machine.advance t e).group e.tk e.g).map Group.marks = (t.group e.tk e.g).map Group.marks := by
  refine advance_keeps (P := fun u : State => (u.group e.tk e.g).map Group.marks = (t.group e.tk e.g).map Group.marks)
    (fun u b hu => ?_) (fun u j F _ hu => by rw [group_updThread]; exact hu) (by rw [group_endReplay])
  rw [group_updGroup, if_pos ⟨rfl, rfl⟩, Option.map_map, ← hu]
  rfl

/-! ## Masks (R182, R281) -/

theorem bit_andNot {w : Nat} (x y : BitVec w) {l : Nat} (hl : l < w) : bit (x &&& ~~~y) l = (bit x l && !bit y l) := by
  simp [bit, hl]

theorem groupKept_setMask (gr : Group) (k : Nat) (x : LaneMask) : GroupKept (fun _ => False) (· = k) gr (gr.setMask k x) :=
  ⟨rfl, fun _ _ => rfl, fun j hj => by rw [mask_setMask, if_neg hj]⟩

section
variable {s : State} {e : Env} {f : OF}

/-- A mask register of the bundle's group is written, and the bundle moves on. -/
theorem setMask_advances (h : envOf s = some e) (k : Nat) (x : Group → LaneMask) :
    (∃ gr, (Machine.advance (s.updGroup e.tk e.g fun g => g.setMask k (x g)) e).group e.tk e.g = some gr ∧ gr.mask k = x e.grp) ∧
    Kept s (Machine.advance (s.updGroup e.tk e.g fun g => g.setMask k (x g)) e) e (fun _ _ => False) (fun _ => False) (· = k) := by
  refine ⟨?_, ((Kept.refl h _ _ _).updGroup _ fun gr => groupKept_setMask gr k _).advance⟩
  have hset : (s.updGroup e.tk e.g fun g => g.setMask k (x g)).group e.tk e.g = some (e.grp.setMask k (x e.grp)) := by
    rw [group_updGroup, if_pos ⟨rfl, rfl⟩, group_of_env h, Option.map_some]
  obtain ⟨gr, hgr, hmask⟩ := mask_of_group (advance_group _ e e.tk e.g) hset
  exact ⟨gr, hgr, by rw [hmask, mask_setMask, if_pos rfl]⟩

theorem mbegin_sets (h : Issues s (.mbegin f) e) : ∃ t, exec (.mbegin f) s = .next t ∧
    (∃ gr, t.group e.tk e.g = some gr ∧ gr.mask f.mreg.toNat = e.b.lanes) ∧ Kept s t e (fun _ _ => False) (fun _ => False) (· = f.mreg.toNat) :=
  ⟨_, (exec_mbegin ..).trans (h.simple _), setMask_advances h.bundle f.mreg.toNat fun _ => e.b.lanes⟩

theorem mleave_clears (h : Issues s (.mleave f) e) : ∃ t, exec (.mleave f) s = .next t ∧
    (∃ gr, t.group e.tk e.g = some gr ∧ ∀ l < 32, bit (gr.mask f.mreg.toNat) l = true ↔
      bit (e.grp.mask f.mreg.toNat) l = true ∧ ∀ tid, (l, tid) ∉ e.sel f.pm f.pn) ∧
    Kept s t e (fun _ _ => False) (fun _ => False) (· = f.mreg.toNat) := by
  obtain ⟨⟨gr, hgr, hmask⟩, hkept⟩ := setMask_advances h.bundle f.mreg.toNat fun g => g.mask f.mreg.toNat &&& ~~~(maskOf ((e.sel f.pm f.pn).map Prod.fst))
  refine ⟨_, (exec_mleave ..).trans (h.simple _), ⟨gr, hgr, fun l hl => ?_⟩, hkept⟩
  have hselected : l ∈ (e.sel f.pm f.pn).map Prod.fst ↔ ∃ tid, (l, tid) ∈ e.sel f.pm f.pn := by simp
  rw [hmask, bit_andNot _ _ hl, bit_maskOf _ l hl, Bool.and_eq_true, Bool.not_eq_true', decide_eq_false_iff_not, hselected, not_exists]

end

/-! ## A bundle that waits (R175, R281) -/

theorem onlyTeams_waitThreads (s : State) (e : Env) (ls : List (Nat × Nat)) (w : Wait) : OnlyTeams s (waitThreads s e ls w) :=
  (onlyTeams_foldl _ _ (fun s _ => onlyTeams_updThread s e.tk _ _) s).trans (onlyTeams_leaveBundle ..)

theorem teamsBare_waitThreads (s : State) (e : Env) (ls : List (Nat × Nat)) (w : Wait) : TeamsBare s (waitThreads s e ls w) :=
  (teamsBare_foldl _ _ (fun s (x : Nat × Nat) => teamsBare_updThread s e.tk x.2 _) s).trans (teamsBare_updGroup ..)

theorem key_waitThreads (s : State) (e : Env) (ls : List (Nat × Nat)) (w : Wait) (i : Nat) :
    ((waitThreads s e ls w).thread e.tk i).map Thread.key = (s.thread e.tk i).map Thread.key := by
  rw [waitThreads, leaveBundle_eq, thread_updGroup]
  refine foldl_updThread_map _ Prod.snd _ Thread.key ?_ e.tk i s
  intro _ _
  rfl

theorem bundleWaits_waitThreads {s : State} {e : Env} (hlanes : ∀ p ∈ e.lanes, (s.thread e.tk p.2).isSome = true) (w : Wait) :
    BundleWaits (waitThreads s e e.lanes w) e w := by
  intro l tid hm
  rw [waitThreads, leaveBundle_eq, thread_updGroup]
  exact foldl_thread_reaches (.refl s) (hlanes _ hm) hm (fun u y => onlyTeams_updThread u e.tk y.2 _) (fun u y => thread_updThread_team u e.tk y.2 tid _)
    fun _ _ _ _ _ => ⟨rfl, rfl, rfl, rfl⟩

/-- A release of group or team scope is over once nothing of the threads is open (R156). -/
theorem released_core {s : State} {e : Env} {scope : Nat} (hs : scope < 2) (h : coreReleased e.team (e.lanes.map Prod.snd) = true) :
    released s e scope = (true, s) := by
  simp only [released, releasedBy, h, Bool.not_true, Bool.false_eq_true, if_false, if_pos hs]

theorem mwait_waits {s : State} {e : Env} {f : OF} (h : Issues s (.mwait f) e) (hrel : coreReleased e.team (e.lanes.map Prod.snd) = true) :
    ∃ t, exec (.mwait f) s = .next t ∧ BundleWaits t e (.mwait f.mreg.toNat) ∧ OnlyTeams s t := by
  refine ⟨waitThreads s e e.lanes (.mwait f.mreg.toNat), ?_, bundleWaits_waitThreads (fun p hp => thread_of_env h.bundle hp) _, onlyTeams_waitThreads ..⟩
  rw [exec_mwait, execMwait, h.withGate, released_core (scope := 0) (by decide) hrel]
  rfl

theorem reconvergence : Part.Reconvergence := fun _ _ _ => ⟨mbegin_sets, mleave_clears, mwait_waits⟩

/-! ## exit (R282) -/

@[simp] theorem mask_withoutLanes (m : LaneMask) (gr : Group) (k : Nat) : (withoutLanes m gr).mask k = gr.mask k := by
  unfold withoutLanes
  split <;> rfl

/-- The lanes are out of every one of the first n mask registers, and the others are as before. -/
theorem mask_foldl_clear (x : LaneMask) (n : Nat) (gr : Group) (k : Nat) :
    ((List.range n).foldl (fun (g : Group) k => g.setMask k (g.mask k &&& ~~~x)) gr).mask k = if k < n then gr.mask k &&& ~~~x else gr.mask k := by
  induction n with
  | zero => rfl
  | succ n ih =>
    rw [List.range_succ, List.foldl_append, List.foldl_cons, List.foldl_nil, mask_setMask]
    by_cases hk : k = n
    · subst hk
      rw [if_pos rfl, ih, if_neg (Nat.lt_irrefl k), if_pos (Nat.lt_succ_self k)]
    · rw [if_neg hk, ih]
      exact if_congr (by omega) rfl rfl

theorem mask_clearLanes (x : LaneMask) (gr : Group) {k : Nat} (hk : k < 12) : (gr.clearLanes x).mask k = gr.mask k &&& ~~~x :=
  (mask_foldl_clear x 12 gr k).trans (if_pos hk)

/-- A thread that has exited (R282). -/
def exited (th : Thread) : Thread := { th with st := .exited, handler := false, fault := none, link := [], sp := 0 }
/-- A group that a lane has left for good (R282). -/
def lostLane (l : Nat) (gr : Group) : Group := withoutLanes (maskOf [l]) (gr.clearLanes (maskOf [l]))

theorem exitThread_eq {s : State} {k i : Nat} {t : Team} (ht : s.team k = some t) : exitThread s k i =
    leaveBundle ((s.updGroup k ((t.threads[i]?).getD {}).grp fun g => g.clearLanes (maskOf [((t.threads[i]?).getD {}).lane])).updThread k i exited)
      k ((t.threads[i]?).getD {}).grp (maskOf [((t.threads[i]?).getD {}).lane]) := by
  simp only [exitThread, ht]
  rfl

theorem onlyTeams_exitThread (s : State) (k i : Nat) : OnlyTeams s (exitThread s k i) := by
  cases ht : s.team k with
  | none => simp only [exitThread, ht]; exact .refl s
  | some t =>
    rw [exitThread_eq ht]
    exact (onlyTeams_updGroup ..).trans ((onlyTeams_updThread ..).trans (onlyTeams_leaveBundle ..))

theorem thread_exitThread (s : State) (k i j : Nat) :
    (exitThread s k i).thread k j = if j = i then (s.thread k i).map exited else s.thread k j := by
  cases ht : s.team k with
  | none => simp [exitThread, State.thread, ht]
  | some t => simp only [exitThread_eq ht, leaveBundle_eq, thread_updGroup, thread_updThread_team]

/-- The group that the thread stands in loses its lane. -/
theorem group_exitThread (s : State) (k i g : Nat) : (exitThread s k i).group k g =
    if g = ((s.thread k i).getD {}).grp then (s.group k g).map (lostLane ((s.thread k i).getD {}).lane) else s.group k g := by
  cases ht : s.team k with
  | none => simp [exitThread, State.group, ht]
  | some t =>
    have hth : s.thread k i = t.threads[i]? := by rw [State.thread, ht]; rfl
    rw [exitThread_eq ht, hth, leaveBundle_eq]
    simp only [group_updGroup, group_updThread, true_and]
    split
    · next h => rw [if_pos trivial, Option.map_map, h]; rfl
    · rfl

theorem bit_lostLane_of_clear {gr : Group} {l j : Nat} (hj : j < 12) (h : bit (gr.mask j) l = false) (l' : Nat) :
    bit ((lostLane l' gr).mask j) l = false := by
  rw [lostLane, mask_withoutLanes, mask_clearLanes _ _ hj]
  exact bit_and_false h _

theorem bit_lostLane (gr : Group) (l : Nat) {j : Nat} (hj : j < 12) : bit ((lostLane l gr).mask j) l = false := by
  rw [lostLane, mask_withoutLanes, mask_clearLanes _ _ hj]
  exact bit_without _ _

/-- A lane's bit is clear in every mask register of a group. -/
def LaneCleared (s : State) (k g l : Nat) : Prop := ∃ gr, s.group k g = some gr ∧ ∀ j < 12, bit (gr.mask j) l = false
/-- A thread stands in a lane of a group, alive or not. -/
def InLane (s : State) (k g l tid : Nat) : Prop :=
  (s.group k g).isSome = true ∧ ∃ th, s.thread k tid = some th ∧ th.grp = g ∧ th.lane = l

/-- A bit that is clear stays clear while threads exit. -/
theorem laneCleared_exitThread {s : State} {k g l : Nat} (i : Nat) (h : LaneCleared s k g l) : LaneCleared (exitThread s k i) k g l := by
  obtain ⟨gr, hgr, hclear⟩ := h
  rw [LaneCleared, group_exitThread, hgr]
  split
  · exact ⟨_, rfl, fun j hj => bit_lostLane_of_clear hj (hclear j hj) _⟩
  · exact ⟨gr, rfl, hclear⟩

theorem inLane_exitThread {s : State} {k g l tid : Nat} (i : Nat) (h : InLane s k g l tid) : InLane (exitThread s k i) k g l tid := by
  obtain ⟨hg, th, hth, hgrp, hlane⟩ := h
  refine ⟨?_, ?_⟩
  · rw [group_exitThread]
    split
    · rw [Option.isSome_map]; exact hg
    · exact hg
  · rw [thread_exitThread]
    split
    · next hi => rw [← hi, hth]; exact ⟨_, rfl, hgrp, hlane⟩
    · exact ⟨th, hth, hgrp, hlane⟩

theorem laneCleared_exits {s : State} {k g l tid : Nat} (h : InLane s k g l tid) : LaneCleared (exitThread s k tid) k g l := by
  obtain ⟨hg, th, hth, rfl, rfl⟩ := h
  obtain ⟨gr, hgr⟩ := Option.isSome_iff_exists.mp hg
  rw [LaneCleared, group_exitThread, hth, hgr]
  exact ⟨_, if_pos rfl, fun j hj => bit_lostLane gr th.lane hj⟩

/-- Threads exit in turn. -/
def exitAll (s : State) (k : Nat) (ls : List (Nat × Nat)) : State := ls.foldl (fun s p => exitThread s k p.2) s

theorem laneCleared_exitAll {s : State} {k g l tid : Nat} {ls : List (Nat × Nat)} (hm : (l, tid) ∈ ls) (h : InLane s k g l tid) :
    LaneCleared (exitAll s k ls) k g l :=
  foldl_reaches (I := fun u => InLane u k g l tid) (P := fun u => LaneCleared u k g l) hm _ (fun _ y => inLane_exitThread y.2)
    (fun _ y _ => laneCleared_exitThread y.2) (fun _ => laneCleared_exits) h

/-- What a thread that has exited looks like (R282). -/
def HasExited (th : Thread) : Prop := th.st = .exited ∧ th.link = [] ∧ th.sp = 0

theorem thread_exitAll {s : State} {k l tid : Nat} {ls : List (Nat × Nat)} (hm : (l, tid) ∈ ls) (h : (s.thread k tid).isSome = true) :
    ∃ th, (exitAll s k ls).thread k tid = some th ∧ HasExited th :=
  foldl_thread_reaches (.refl s) h hm (fun u y => onlyTeams_exitThread u k y.2) (fun u y => thread_exitThread u k y.2 tid) fun _ _ _ _ _ => ⟨rfl, rfl, rfl⟩

/-- An exited thread is in no lane of a bundle. -/
theorem live_of_tidAt {t : Team} {g l i : Nat} {th : Thread} (h : tidAt t g l = some i) (hi : t.threads[i]? = some th) : th.st ≠ .exited := by
  have hfound := List.find?_some h
  simp only [hi, Bool.and_eq_true] at hfound
  exact bne_iff_ne.mp hfound.2

theorem endClause_exited {t : State} {e : Env} {tid : Nat} {th : Thread} (ht : t.thread e.tk tid = some th) (hst : th.st = .exited) :
    (Machine.endClause t e).thread e.tk tid = some th := by
  unfold Machine.endClause
  split
  · exact ht
  · split
    · exact ht
    · rw [thread_updGroup]
      refine (foldThreads_other _ Prod.snd _ _ _ ?_ t).trans ht
      rintro ⟨l, i⟩ hm rfl
      obtain ⟨tm, hk, hth⟩ := Option.bind_eq_some_iff.mp ht
      rw [hk] at hm
      exact live_of_tidAt (mem_lanesOf hm).1 hth hst

/-- The moving on of the bundle finds no exited thread in it. -/
theorem advance_exited {t : State} {e : Env} {tid : Nat} {th : Thread} (ht : t.thread e.tk tid = some th) (h : HasExited th) :
    ∃ th', (Machine.advance t e).thread e.tk tid = some th' ∧ HasExited th' := by
  obtain ⟨f, hf, hx⟩ := thread_endReplay t e.tk e.g e.tk tid
  rw [ht, Option.map_some] at hx
  have hexited : HasExited (f th) := by
    rcases hf th with hf | hf <;> rw [hf]
    · exact h
    · exact h
  refine ⟨f th, ?_, hexited⟩
  simp only [Machine.advance]
  split
  · exact hx
  · split
    · exact hx
    · split
      · rw [thread_updGroup]; exact hx
      · exact endClause_exited ((thread_updGroup ..).trans hx) hexited.1

theorem laneCleared_advance {t : State} {e : Env} {l : Nat} (h : LaneCleared t e.tk e.g l) : LaneCleared (Machine.advance t e) e.tk e.g l := by
  obtain ⟨gr0, hgr0, hclear⟩ := h
  obtain ⟨gr, hgr, hmask⟩ := mask_of_group (advance_group t e e.tk e.g) hgr0
  exact ⟨gr, hgr, fun j hj => by rw [hmask]; exact hclear j hj⟩

section
variable {s : State} {e : Env} {f : OF}

/-- Naming what a release covers leaves the threads in their lanes. -/
theorem inLane_releasedBy (h : envOf s = some e) {l tid : Nat} (hm : (l, tid) ∈ e.lanes) (tids : List Nat) (scope : Nat) :
    InLane (releasedBy s e tids scope).2 e.tk e.g l tid := by
  obtain ⟨hth, hgrp, hlane⟩ := thread_of_lane h hm
  rcases releasedBy_spec s e tids scope with hr | ⟨ids, hr⟩ <;> rw [hr]
  · exact ⟨by rw [group_of_env h]; rfl, _, hth, hgrp, hlane⟩
  · exact ⟨by rw [group_updGroup, if_pos ⟨rfl, rfl⟩, group_of_env h]; rfl, _, (thread_updGroup ..).trans hth, hgrp, hlane⟩

theorem exit_released (h : Issues s (.exit f) e) (hne : e.sel f.pm f.pn ≠ []) (hrel : (releasedBy s e ((e.sel f.pm f.pn).map Prod.snd) 2).1 = true) :
    exec (.exit f) s = .next (Machine.advance
      (progress (exitAll (releasedBy s e ((e.sel f.pm f.pn).map Prod.snd) 2).2 e.tk (e.sel f.pm f.pn)) e.tk) e) := by
  rw [exec_exit, execExit, h.withGate]
  simp only [List.isEmpty_eq_false_iff.mpr hne, hrel, Bool.false_eq_true, if_false, Bool.not_true]
  rfl

theorem exit_ends (h : Issues s (.exit f) e)
    (hrel : e.sel f.pm f.pn = [] ∨ (releasedBy s e ((e.sel f.pm f.pn).map Prod.snd) 2).1 = true) :
    ∃ t, exec (.exit f) s = .next t ∧ ∀ l tid, (l, tid) ∈ e.sel f.pm f.pn →
      (∃ th, t.thread e.tk tid = some th ∧ th.st = .exited ∧ th.link = [] ∧ th.sp = 0) ∧
      ∃ gr, t.group e.tk e.g = some gr ∧ ∀ k < 12, bit (gr.mask k) l = false := by
  by_cases hne : e.sel f.pm f.pn = []
  · refine ⟨Machine.advance s e, ?_, fun l tid hm => absurd hm (hne ▸ List.not_mem_nil)⟩
    rw [exec_exit, execExit, h.withGate]
    simp only [List.isEmpty_iff.mpr hne, if_true]
  · refine ⟨_, exit_released h hne (hrel.resolve_left hne), fun l tid hm => ?_⟩
    have hin := inLane_releasedBy h.bundle (sel_sub hm) ((e.sel f.pm f.pn).map Prod.snd) 2
    obtain ⟨th, hth, hexited⟩ := thread_exitAll hm (Option.isSome_iff_exists.mpr (hin.2.imp fun _ h => h.1))
    obtain ⟨gr, hgr, hclear⟩ := laneCleared_exitAll hm hin
    exact ⟨advance_exited ((thread_progress ..).trans hth) hexited, laneCleared_advance ⟨gr, (group_progress ..).trans hgr, hclear⟩⟩

/-! ## prio (R283) -/

/-- A selected thread's next resume point gets the priority that its source names. -/
def prioStep (e : Env) (f : OF) (s : State) (p : Nat × Nat) : State :=
  transfer (s.updThread e.tk p.2 fun th => { th with setPrio := some ((src32 s e p.2 f.a).toNat % 256) }) e p.1
    { prio := (src32 s e p.2 f.a).toNat % 256, clause := fallThrough e.b }

theorem onlyTeams_prioStep (e : Env) (f : OF) (s : State) (p : Nat × Nat) : OnlyTeams s (prioStep e f s p) :=
  (onlyTeams_updThread ..).trans (onlyTeams_updGroup ..)

theorem prio_sets (h : Issues s (.prio f) e) : ∃ t, exec (.prio f) s = .next t ∧ OnlyTeams s t ∧ ∀ l tid, (l, tid) ∈ e.sel f.pm f.pn →
    ∃ th, t.thread e.tk tid = some th ∧ th.setPrio = some ((src32 s e tid f.a).toNat % 256) := by
  refine ⟨Machine.advance ((e.sel f.pm f.pn).foldl (prioStep e f) s) e, (exec_prio ..).trans (h.simple _),
    (onlyTeams_foldl _ _ (onlyTeams_prioStep e f) s).trans (onlyTeams_advance _ e), fun l tid hm => ?_⟩
  obtain ⟨th, hth, hprio⟩ := foldl_thread_reaches (Q := fun th => th.setPrio = some ((src32 s e tid f.a).toNat % 256)) (.refl s)
    (thread_of_env h.bundle (sel_sub hm)) hm (onlyTeams_prioStep e f) (fun u y => (thread_updGroup ..).trans (thread_updThread_team u e.tk y.2 tid _))
    fun u y th hu hy => by rw [← hy, ← hu.src32]
  obtain ⟨th', hth', hkept⟩ := exists_of_map_eq (setPrio_advance _ e tid) hth
  exact ⟨th', hth', hkept.trans hprio⟩

/-! ## yield (R284) -/

/-- The resume point that a yield marks: the fall-through, its priority still to be read. -/
def yieldPlace (e : Env) : Resume := { prio := 256, clause := fallThrough e.b }
/-- The set W of a yield's mark: the group's other entries. -/
def yieldSet (e : Env) : List Resume := (groupEntries e.team e.g).filter fun x => !x.same (yieldPlace e)
/-- The state in which a yield's mark stands, if it bars anything. -/
def yielded (s : State) (e : Env) : State :=
  if (yieldSet e).isEmpty then s else s.updGroup e.tk e.g fun g => { g with marks := g.marks ++ [{ place := yieldPlace e, wait := yieldSet e }] }

theorem yield_exec (h : Issues s (.yield f) e) : exec (.yield f) s = .next (Machine.advance (yielded s e) e) := by
  rw [exec_yield, execYield, h.simple, (envOf_spec h.bundle).1]
  rfl

theorem yield_marks (h : Issues s (.yield f) e) : ∃ t, exec (.yield f) s = .next t ∧ OnlyTeams s t ∧
    ∃ gr, t.group e.tk e.g = some gr ∧ gr.marks = if yieldSet e = [] then e.grp.marks else e.grp.marks ++ [{ place := yieldPlace e, wait := yieldSet e }] := by
  refine ⟨_, yield_exec h, OnlyTeams.trans ?_ (onlyTeams_advance _ e), ?_⟩
  · unfold yielded
    split
    · exact .refl s
    · exact onlyTeams_updGroup ..
  · have hset : ∃ gr, (yielded s e).group e.tk e.g = some gr ∧
        gr.marks = if yieldSet e = [] then e.grp.marks else e.grp.marks ++ [{ place := yieldPlace e, wait := yieldSet e }] := by
      unfold yielded
      by_cases hw : yieldSet e = []
      · rw [if_pos (List.isEmpty_iff.mpr hw), if_pos hw]
        exact ⟨_, group_of_env h.bundle, rfl⟩
      · rw [if_neg (mt List.isEmpty_iff.mp hw), if_neg hw, group_updGroup, if_pos ⟨rfl, rfl⟩, group_of_env h.bundle]
        exact ⟨_, rfl, rfl⟩
    obtain ⟨gr0, hgr0, hmarks⟩ := hset
    obtain ⟨gr, hgr, hkept⟩ := exists_of_map_eq (marks_advance _ e) hgr0
    exact ⟨gr, hgr, hkept.trans hmarks⟩

/-! ## regroup (R187, R285) -/

/-- A thread of the bundle takes its key. -/
def keyStep (e : Env) (f : OF) (s : State) (p : Nat × Nat) : State :=
  s.updThread e.tk p.2 fun th => { th with key := (src32 s e p.2 f.a).toNat % 256 }
/-- The bundle arrives at regroup: its threads take their keys and wait. -/
def arrive (s : State) (e : Env) (f : OF) : State := waitThreads (e.lanes.foldl (keyStep e f) s) e e.lanes .regroup
/-- The team with its open regroup address. -/
def openedAt (s : State) (e : Env) : State :=
  match e.team.rgAddr with
  | some _ => s
  | none => s.updTeam e.tk fun t => { t with rgAddr := some e.b.clause }

theorem onlyTeams_keyStep (e : Env) (f : OF) (s : State) (p : Nat × Nat) : OnlyTeams s (keyStep e f s p) := onlyTeams_updThread ..

theorem onlyTeams_openedAt (s : State) (e : Env) : OnlyTeams s (openedAt s e) := by
  unfold openedAt
  split
  · exact .refl s
  · exact onlyTeams_updTeam (.refl s) _ _

theorem thread_openedAt (s : State) (e : Env) (i : Nat) : (openedAt s e).thread e.tk i = s.thread e.tk i := by
  unfold openedAt
  split
  · rfl
  · exact thread_updTeam s e.tk (fun t => { t with rgAddr := some e.b.clause }) (fun _ => rfl) e.tk i

theorem team_openedAt (h : envOf s = some e) (hopen : ∀ a, e.team.rgAddr = some a → a = e.b.clause) :
    ∃ tm, (openedAt s e).team e.tk = some tm ∧ tm.rgAddr = some e.b.clause := by
  obtain ⟨hteam, -, -⟩ := envOf_spec h
  unfold openedAt
  split
  · next a ha => exact ⟨e.team, hteam, by rw [ha, hopen a ha]⟩
  · rw [team_updTeam, if_pos rfl, hteam]
    exact ⟨_, rfl, rfl⟩

theorem onlyTeams_arrive (v : State) (e : Env) (f : OF) : OnlyTeams v (arrive v e f) :=
  (onlyTeams_foldl _ _ (onlyTeams_keyStep e f) v).trans (onlyTeams_waitThreads ..)

/-- An arrival leaves the open address as it was. -/
theorem rgAddr_arrive {v : State} {tm : Team} (hv : v.team e.tk = some tm) : ∃ tm', (arrive v e f).team e.tk = some tm' ∧ tm'.rgAddr = tm.rgAddr := by
  have hbare : TeamsBare v (arrive v e f) := (teamsBare_foldl _ (keyStep e f) (fun u x => teamsBare_updThread u e.tk x.2 _) v).trans (teamsBare_waitThreads ..)
  obtain ⟨tm', htm', hb⟩ := exists_of_map_eq (hbare.bare e.tk) hv
  have haddr : (bareTeam tm').rgAddr = (bareTeam tm).rgAddr := congrArg _ hb
  exact ⟨tm', htm', haddr⟩

/-- Every thread of the bundle has its key (R187). -/
theorem key_arrive {v : State} (hv : OnlyTeams s v) {l tid : Nat} (hm : (l, tid) ∈ e.lanes) (hth : (v.thread e.tk tid).isSome = true) :
    ∃ th, (arrive v e f).thread e.tk tid = some th ∧ th.key = (src32 s e tid f.a).toNat % 256 := by
  obtain ⟨th, hth, hkey⟩ := foldl_thread_reaches (Q := fun th => th.key = (src32 s e tid f.a).toNat % 256) hv hth hm (onlyTeams_keyStep e f)
    (fun u y => thread_updThread_team u e.tk y.2 tid _) fun u y th hu hy => by rw [← hy, ← hu.src32]
  obtain ⟨th', hth', hkept⟩ := exists_of_map_eq (key_waitThreads _ e e.lanes .regroup tid) hth
  exact ⟨th', hth', hkept.trans hkey⟩

theorem bundleWaits_arrive {v : State} (hv : ∀ p ∈ e.lanes, (v.thread e.tk p.2).isSome = true) : BundleWaits (arrive v e f) e .regroup := by
  refine bundleWaits_waitThreads (fun p hp => ?_) .regroup
  obtain ⟨th, hth, -⟩ := foldl_thread_reaches (Q := fun _ => True) (.refl v) (hv p hp) hp (onlyTeams_keyStep e f)
    (fun u y => thread_updThread_team u e.tk y.2 p.2 _) fun _ _ _ _ _ => trivial
  rw [hth]
  rfl

theorem regroup_exec (h : Issues s (.regroup f) e) (hfl : e.grp.flagged = true) (hrel : coreReleased e.team (e.lanes.map Prod.snd) = true)
    (hzero : e.grp.flagMask = 0) (hopen : ∀ a, e.team.rgAddr = some a → a = e.b.clause) :
    exec (.regroup f) s = .next (arrive (openedAt s e) e f) := by
  rw [exec_regroup, execRegroup, h.withGate]
  simp only [hfl, released_core (scope := 1) (by decide) hrel, hzero, Bool.not_true, Bool.false_eq_true, if_false, bne_self_eq_false]
  unfold openedAt
  cases ha : e.team.rgAddr with
  | none => rfl
  | some a =>
    simp only [hopen a ha, bne_self_eq_false, Bool.false_eq_true, if_false]
    rfl

theorem regroup_arrives (h : Issues s (.regroup f) e) (hfl : e.grp.flagged = true) (hrel : coreReleased e.team (e.lanes.map Prod.snd) = true)
    (hzero : e.grp.flagMask = 0) (hopen : ∀ a, e.team.rgAddr = some a → a = e.b.clause) :
    ∃ t, exec (.regroup f) s = .next t ∧ BundleWaits t e .regroup ∧ OnlyTeams s t ∧
      (∃ tm, t.team e.tk = some tm ∧ tm.rgAddr = some e.b.clause) ∧
      ∀ l tid, (l, tid) ∈ e.lanes → ∃ th, t.thread e.tk tid = some th ∧ th.key = (src32 s e tid f.a).toNat % 256 := by
  have hthread : ∀ p ∈ e.lanes, ((openedAt s e).thread e.tk p.2).isSome = true := fun p hp => by
    rw [thread_openedAt]
    exact thread_of_env h.bundle hp
  obtain ⟨tm, htm, haddr⟩ := team_openedAt h.bundle hopen
  obtain ⟨tm', htm', hkept⟩ := rgAddr_arrive (f := f) htm
  exact ⟨_, regroup_exec h hfl hrel hzero hopen, bundleWaits_arrive hthread, (onlyTeams_openedAt s e).trans (onlyTeams_arrive ..),
    ⟨tm', htm', hkept.trans haddr⟩, fun l tid hm => key_arrive (onlyTeams_openedAt s e) hm (hthread _ hm)⟩

theorem regroup_unflagged (h : Issues s (.regroup f) e) (hout : Outside e e.lanes) (hfl : e.grp.flagged = false) :
    ∃ t, exec (.regroup f) s = .next t ∧ Parks t e e.lanes .illinsn := by
  refine ⟨faultBundle s e (insnFault e .illinsn), ?_, parks_faultBundle h.bundle hout ⟨rfl, rfl, rfl, rfl⟩⟩
  rw [exec_regroup, execRegroup, h.withGate]
  simp only [hfl, Bool.not_false, if_true]

theorem regroup_flags (h : Issues s (.regroup f) e) (hout : Outside e e.lanes) (hfl : e.grp.flagged = true)
    (hrel : coreReleased e.team (e.lanes.map Prod.snd) = true) (hset : e.grp.flagMask ≠ 0) :
    ∃ t, exec (.regroup f) s = .next t ∧ Parks t e e.lanes .rgflags := by
  refine ⟨faultBundle s e { insnFault e .rgflags with aux := e.grp.flagMask }, ?_, parks_faultBundle h.bundle hout ⟨rfl, rfl, rfl, rfl⟩⟩
  rw [exec_regroup, execRegroup, h.withGate]
  simp only [hfl, released_core (scope := 1) (by decide) hrel, bne_iff_ne.mpr hset, Bool.not_true, Bool.false_eq_true, if_false, if_true]

theorem regroup_elsewhere {a : Nat} (h : Issues s (.regroup f) e) (hout : Outside e e.lanes) (hfl : e.grp.flagged = true)
    (hrel : coreReleased e.team (e.lanes.map Prod.snd) = true) (hzero : e.grp.flagMask = 0) (ha : e.team.rgAddr = some a) (hne : a ≠ e.b.clause) :
    ∃ t, exec (.regroup f) s = .next t ∧ Parks t e e.lanes .rgaddr := by
  refine ⟨faultBundle s e { insnFault e .rgaddr with addrs := [a] }, ?_, parks_faultBundle h.bundle hout ⟨rfl, rfl, rfl, rfl⟩⟩
  rw [exec_regroup, execRegroup, h.withGate]
  simp only [hfl, released_core (scope := 1) (by decide) hrel, hzero, ha, bne_iff_ne.mpr hne, bne_self_eq_false, Bool.not_true, Bool.false_eq_true, if_false, if_true]

end

theorem threadEnds : Part.ThreadEnds := fun _ _ _ =>
  ⟨exit_ends, prio_sets, yield_marks, regroup_arrives, regroup_unflagged, regroup_flags, fun _ => regroup_elsewhere⟩

/-- Settles O15, one lemma for each instruction and for what stops regroup. -/
theorem threadControl : Obligations.ThreadControl := ⟨reconvergence, threadEnds⟩

end Sys2Proof
end

section
/-! PROOFS. The decoder reads back what the encoder wrote (R220 to R227, R229, R231): the word's opcode selects the instruction's row of the opcode
map, and the row's format gives the fields back; O1 and O2 are put together here. -/

namespace Sys2Proof

/-! ## A row of the opcode map (R231) -/

/-- A word decodes to an instruction when its opcode's row of the map builds the instruction from the fields that the format reads in the word. -/
theorem decode_of_row {F : Type} {ofWord : DWord → F} {C : F → Instr} {op : BitVec 8} {w : DWord} {f : F}
    (row : ∀ v : DWord, v.extractLsb' 56 8 = op → decode v = some (C (ofWord v))) (hop : w.extractLsb' 56 8 = op) (hfields : ofWord w = f) :
    decode w = some (C f) := by
  rw [row w hop, hfields]

/-! ## tret, one opcode with two rows (R229) -/

section
variable {f : SF}

theorem fn_of_wellFormed_tretReplay (h : (Instr.tretReplay f).wellFormed = true) : f.fn = 0 := by
  simp only [Instr.wellFormed, Instr.form, Bool.and_eq_true, beq_iff_eq] at h
  obtain ⟨⟨-, hfn⟩, -⟩ := h
  exact hfn

theorem fn_of_wellFormed_tretSkip (h : (Instr.tretSkip f).wellFormed = true) : f.fn = 1 := by
  simp only [Instr.wellFormed, Instr.form, Bool.and_eq_true, beq_iff_eq] at h
  obtain ⟨⟨-, hfn⟩, -⟩ := h
  exact hfn

/-- FN chooses the row of a tret word. -/
theorem decode_tret (f : SF) : decode (f.toWord 0xF4) = if f.fn = 0 then some (.tretReplay f) else if f.fn = 1 then some (.tretSkip f) else none := by
  rw [decode, SF.opcode_toWord, SF.ofWord_toWord]
  rfl

theorem decode_tretReplay (h : f.fn = 0) : decode (f.toWord 0xF4) = some (.tretReplay f) := by
  rw [decode_tret, if_pos h]

theorem decode_tretSkip (h : f.fn = 1) : decode (f.toWord 0xF4) = some (.tretSkip f) := by
  have h0 : f.fn ≠ 0 := by rw [h]; decide
  rw [decode_tret, if_neg h0, if_pos h]

end

/-! ## The way back from a word -/

/-- Settles O1: one case for each format's instructions, tret apart because its FN must be one that its row has; a hardware step has no word. -/
theorem roundTrip : Obligations.RoundTrip := by
  intro i w hwf hw
  cases i with
  | iadd f | isub f | imul f | imulh f | imad f | imin f | imax f | iabs f | ineg f | and f | or f | xor f | not f | shl f | shr f
  | rot f | bfx f | bfi f | popc f | clz f | brev f | prmt f | sel f | icmp f | iadd64 f | isub64 f | imad64 f | lea f | mov f | idot4 f
  | isat f | fadd f | fsub f | fmul f | ffma f | fdiv f | fsqrt f | frcp f | fmin f | fmax f | fcmp f | frsq f | fex2 f | flg2 f | fsin f
  | fcos f | ftanh f | fclass f | frnd f | hadd2 f | hmul2 f | hfma2 f | hmin2 f | hmax2 f | fcvt f | fcvti f | icvtf f | icvt f | mand f
  | mor f | mxor f | mnot f | mmov f | mpop f | mfirst f | vote f | shfl f | bcast f | lred f | lscan f | gadd f | gsub f | gmul f
  | gand f | gor f | gxor f | gshl f | gshr f | gcmp f | gmov f | gsel f | gadd64 f | gmin f | gmax f | gfop f | gldk f =>
    cases hw; exact decode_of_row (fun _ h => by rw [decode, h]; rfl) (VF.opcode_toWord _ f) (VF.ofWord_toWord _ f)
  | ld f | st f | ldk f | ldp f | stp f | pref f | fence f | pfence f | wback f | binfo f | rsvq f | pgyield f | mark f | resid f | sld f
  | sst f =>
    cases hw; exact decode_of_row (fun _ h => by rw [decode, h]; rfl) (MF.opcode_toWord _ f) (MF.ofWord_toWord _ f)
  | atom f | red f | satom f =>
    cases hw; exact decode_of_row (fun _ h => by rw [decode, h]; rfl) (MAF.opcode_toWord _ f) (MAF.ofWord_toWord _ f)
  | bra f | brm f | brg f | call f =>
    cases hw; exact decode_of_row (fun _ h => by rw [decode, h]; rfl) (BF.opcode_toWord _ f) (BF.ofWord_toWord _ f)
  | calli f | ret f | jmpi f | mbegin f | mleave f | mwait f | exit f | regroup f | prio f | yield f | pushm f | popm f | salloc f
  | sfree f | srenew f | sage f | bar f | qperm f | qpost f | qtake f | qfree f | qinit f | qstat f =>
    cases hw; exact decode_of_row (fun _ h => by rw [decode, h]; rfl) (OF.opcode_toWord _ f) (OF.ofWord_toWord _ f)
  | xmma f | xzero f | xfill f | xrd f | xwr f | xscale f | xdrain f | xquant f =>
    cases hw; exact decode_of_row (fun _ h => by rw [decode, h]; rfl) (XF.opcode_toWord _ f) (XF.ofWord_toWord _ f)
  | cpy f | cpwp f | tsr f | cpfill f | cpcancel f =>
    cases hw; exact decode_of_row (fun _ h => by rw [decode, h]; rfl) (CF.opcode_toWord _ f) (CF.ofWord_toWord _ f)
  | nop f | csrr f | csrw f | trap f | brk f | launch f | clock f | sleep f | waitf f =>
    cases hw; exact decode_of_row (fun _ h => by rw [decode, h]; rfl) (SF.opcode_toWord _ f) (SF.ofWord_toWord _ f)
  | tretReplay f => cases hw; exact decode_tretReplay (fn_of_wellFormed_tretReplay hwf)
  | tretSkip f => cases hw; exact decode_tretSkip (fn_of_wellFormed_tretSkip hwf)
  | _ => cases hw

/-- Settles O2: seven of the words are encodings of well-formed instructions, and the other two have unassigned opcodes. -/
theorem decodedWords : Obligations.DecodedWords :=
  ⟨roundTrip _ _ (by decide) rfl, roundTrip _ _ (by decide) rfl, roundTrip _ _ (by decide) rfl, roundTrip _ _ (by decide) rfl,
    roundTrip _ _ (by decide) rfl, roundTrip _ _ (by decide) rfl, roundTrip _ _ (by decide) rfl, rfl, rfl⟩

end Sys2Proof
end

section
/-! PROOFS. The vector integer instructions (R239, R241, R243, R247, R248): a number type's reading and writing as bit vectors, and the step from an
instruction's own function to its statement; O7 is put together here. -/

namespace Sys2Proof

open Machine

/-! ## From an instruction's function to its statement -/

/-- A vector instruction's statement holds where its function gives the value that the statement names for every well-formed encoding. -/
theorem vectorResult_of {i : Instr} {f : VF} {k : Nat} {w val : State → Env → Nat → Nat → Nat} (hexec : ∀ s, exec i s = vector s i f k (w s))
    (hval : i.wellFormed = true → ∀ s e l tid, w s e l tid = val s e l tid) : VectorResult i f k val := fun s e h => by
  have hwf : i.wellFormed = true := (Bool.and_eq_true .. ▸ h.legal).1
  have hw : w s = val s := funext fun e => funext fun l => funext fun tid => hval hwf s e l tid
  rw [hexec, hw]
  exact vector_spec s e i f k (val s) h

/-- The fixed fields of a well-formed vector instruction are as its row of the opcode map asks. -/
theorem fixed_of_vecForm {i : Instr} {f : VF} {sat fixed : Bool} {uses : List Use} (hform : i.form = vecForm f sat fixed uses) (h : i.wellFormed = true) :
    fixed = true := by
  rw [Instr.wellFormed, hform] at h
  simp only [vecForm, Bool.and_eq_true] at h
  exact h.1.2

/-! ## Number types as bit vectors (R228, R241) -/

theorem sext_eq_toInt (w n : Nat) : sext w n = (BitVec.ofNat w n).toInt := by
  rw [sext, BitVec.toInt_eq_toNat_cond, BitVec.toNat_ofNat]
  cases w with
  | zero => simp [Nat.mod_one]
  | succ w =>
    have h : n % 2 ^ (w + 1) < 2 ^ w ↔ 2 * (n % 2 ^ (w + 1)) < 2 ^ (w + 1) := by rw [Nat.pow_succ]; omega
    simp only [Nat.add_sub_cancel, h]

theorem readTy_eq (t n : Nat) :
    readTy t n = if tySigned t then (BitVec.ofNat (tyBits t) n).toInt else ((BitVec.ofNat (tyBits t) n).toNat : Int) := by
  rw [readTy, sext_eq_toInt, BitVec.toNat_ofNat]

theorem readTy_s32 (x : Word) : readTy 0 x.toNat = x.toInt := sext_word x

theorem readTy_u32 (x : Word) : readTy 1 x.toNat = x.toNat := by
  rw [readTy_eq]; exact congrArg (fun y : Word => (y.toNat : Int)) (ofNat_word x)

theorem ofNat_emod_toNat (w : Nat) (x : Int) : BitVec.ofNat w (x % (2 ^ w : Nat)).toNat = BitVec.ofInt w x :=
  BitVec.eq_of_toNat_eq (by rw [← BitVec.toNat_ofInt, BitVec.ofNat_toNat, BitVec.setWidth_eq])

/-- The model writes an exact result as R241 and R243 narrow it. -/
theorem writeTy_eq_narrowed (t : Nat) (sat : Bool) (x : Int) : writeTy t sat x = narrowed t sat x := by
  simp only [writeTy, narrowed, readTy_eq, ofNat_emod_toNat, BitVec.toNat_ofInt, clampTy]
  cases wideTy t <;> rfl

/-! ## Products, addresses and bytes (R243, R247, R248) -/

/-- A field of a word as a number. -/
theorem toNat_field {w : Nat} (x : BitVec w) (i k : Nat) : (x.extractLsb' i k).toNat = x.toNat / 2 ^ i % 2 ^ k := by
  rw [BitVec.extractLsb'_toNat, Nat.shiftRight_eq_div_pow]

theorem toNat_lowField {w : Nat} (x : BitVec w) (k : Nat) : (x.extractLsb' 0 k).toNat = x.toNat % 2 ^ k := by
  rw [toNat_field, Nat.pow_zero, Nat.div_one]

/-- A shift count is the low byte of its source (R244). -/
theorem s32_lowByte (s : State) (e : Env) (tid : Nat) (c : BitVec 11) : s32 s e tid c % 256 = ((opW c s e tid).extractLsb' 0 8).toNat :=
  (toNat_lowField (src32 s e tid c) 8).symm

/-- The upper half of a 64-bit product. -/
theorem low32_div_eq (x : Int) : low32 (x / (2 ^ 32 : Nat)) = ((BitVec.ofInt 64 x).extractLsb' 32 32).toNat := by
  rw [low32, toNat_field, BitVec.toNat_ofInt]
  norm_num
  omega

/-- A 64-bit address and a shifted index that stands for r (R247). -/
theorem lea_eq {r : Int} {y : DWord} (hy : y = BitVec.ofInt 64 r) (a k : Nat) :
    (((a : Int) + r * (2 ^ k : Nat)) % (2 ^ 64 : Nat)).toNat = (BitVec.ofNat 64 a + y <<< k).toNat := by
  rw [← BitVec.toNat_ofInt, BitVec.ofInt_add, BitVec.ofInt_mul, hy, BitVec.shiftLeft_eq_mul_twoPow, BitVec.ofInt_natCast, BitVec.ofInt_natCast]
  congr 3
  exact BitVec.eq_of_toNat_eq (by simp [BitVec.toNat_twoPow])

theorem byte_eq (signed : Bool) (x : Word) (j : Nat) :
    (let y := x.toNat / 2 ^ (8 * j) % 256
     if signed then sext 8 y else (y : Int)) = byteI signed x j := by
  have h : x.toNat / 2 ^ (8 * j) % 256 = (x.extractLsb' (8 * j) 8).toNat := (toNat_field x (8 * j) 8).symm
  simp only [byteI, h, sext_eq_toInt, BitVec.ofNat_toNat, BitVec.setWidth_eq]

/-- The four products of bytes are added from the lowest on. -/
theorem dot4_eq (signed : Bool) (a b : Word) : dot4 signed a.toNat b.toNat =
    byteI signed a 0 * byteI signed b 0 + byteI signed a 1 * byteI signed b 1 + byteI signed a 2 * byteI signed b 2 + byteI signed a 3 * byteI signed b 3 := by
  simp only [← byte_eq]
  simp only [dot4, List.range_succ, List.range_zero, List.nil_append, List.foldl_append, List.foldl_cons, List.foldl_nil, Int.zero_add]

/-! ## The instructions whose value depends on the types their row allows -/

theorem imad64_result (f : VF) : VectorResult (.imad64 f) f 2 (fun s e _ i => narrowed f.ty (f.sat == 1)
    ((if tySigned f.ty then (opW f.a s e i).toInt * (opW f.b s e i).toInt else (opW f.a s e i).toNat * (opW f.b s e i).toNat) + opI f f.c s e i)) :=
  vectorResult_of (exec_imad64 · f) fun hwf s e _ tid => by
    have hty : f.ty = 2 ∨ f.ty = 3 := by simpa using fixed_of_vecForm rfl hwf
    rw [writeTy_eq_narrowed]
    rcases hty with h | h <;> simp [h, opI, sI, s32, opW, readTy_s32, readTy_u32, tySigned]

theorem lea_result (f : VF) : VectorResult (.lea f) f 2 (fun s e _ i =>
    (BitVec.ofNat 64 (srcNat s e i f.a 2) + (if tySigned f.ty then (opW f.b s e i).signExtend 64 else (opW f.b s e i).zeroExtend 64) <<<
      ((opW f.c s e i).extractLsb' 0 5).toNat).toNat) :=
  vectorResult_of (exec_lea · f) fun hwf s e _ tid => by
    have hty : f.ty = 0 ∨ f.ty = 1 := by simpa [intTys] using fixed_of_vecForm rfl hwf
    rw [toNat_lowField]
    refine lea_eq ?_ _ _
    rcases hty with h | h
    · rw [h, s32, readTy_s32]; rfl
    · rw [h, s32, readTy_u32, BitVec.ofInt_natCast, BitVec.ofNat_toNat]; rfl

theorem idot4_result (f : VF) : VectorResult (.idot4 f) f 1 (fun s e _ i => let g := f.ty == 6
    narrowed (if g then 0 else 1) (f.sat == 1) ((if g then (opW f.c s e i).toInt else (opW f.c s e i).toNat) +
      byteI g (opW f.a s e i) 0 * byteI g (opW f.b s e i) 0 + byteI g (opW f.a s e i) 1 * byteI g (opW f.b s e i) 1 +
      byteI g (opW f.a s e i) 2 * byteI g (opW f.b s e i) 2 + byteI g (opW f.a s e i) 3 * byteI g (opW f.b s e i) 3)) :=
  vectorResult_of (exec_idot4 · f) fun hwf s e _ tid => by
    have hty : f.ty = 6 ∨ f.ty = 7 := by simpa using fixed_of_vecForm rfl hwf
    simp only [s32, dot4_eq, writeTy_eq_narrowed, opW]
    rcases hty with h | h <;> simp [h, readTy_s32, readTy_u32, Int.add_assoc]

/-- Settles O7: each instruction's function computes the exact result, which `writeTy_eq_narrowed` writes as the statement narrows it. -/
theorem vectorIntegerArithmetic : Obligations.VectorIntegerArithmetic := fun f =>
  ⟨vectorResult_of (exec_iadd · f) fun _ _ _ _ _ => writeTy_eq_narrowed ..,
    vectorResult_of (exec_isub · f) fun _ _ _ _ _ => writeTy_eq_narrowed ..,
    vectorResult_of (exec_imul · f) fun _ _ _ _ _ => writeTy_eq_narrowed ..,
    vectorResult_of (exec_imulh · f) fun _ _ _ _ _ => low32_div_eq _,
    vectorResult_of (exec_imad · f) fun _ _ _ _ _ => writeTy_eq_narrowed ..,
    vectorResult_of (exec_imin · f) fun _ _ _ _ _ => writeTy_eq_narrowed ..,
    vectorResult_of (exec_imax · f) fun _ _ _ _ _ => writeTy_eq_narrowed ..,
    vectorResult_of (exec_iabs · f) fun _ _ _ _ _ => by rw [writeTy_eq_narrowed, Int.natCast_natAbs]; rfl,
    vectorResult_of (exec_ineg · f) fun _ _ _ _ _ => writeTy_eq_narrowed ..,
    vectorResult_of (exec_iadd64 · f) fun _ _ _ _ _ => writeTy_eq_narrowed ..,
    vectorResult_of (exec_isub64 · f) fun _ _ _ _ _ => writeTy_eq_narrowed ..,
    imad64_result f, lea_result f, idot4_result f,
    vectorResult_of (exec_isat · f) fun _ _ _ _ _ => by rw [writeTy_eq_narrowed, s32, sext_word]; rfl⟩

end Sys2Proof
end

section
/-! PROOFS. The vector logic, shift, count, selection and bit-field instructions (R244 to R247): the model's functions on numbers as operations on
bit vectors, and their results bit by bit; O8 is put together here. -/

namespace Sys2Proof

open Machine

/-! ## Shifts and rotation (R244) -/

theorem shiftL_eq (w x k : Nat) : shiftL w x k = (BitVec.ofNat w x <<< k).toNat := by
  rw [shiftL, BitVec.toNat_shiftLeft, BitVec.toNat_ofNat, Nat.shiftLeft_eq, Nat.mod_mul_mod]
  split
  · rename_i h
    exact (Nat.mod_eq_zero_of_dvd ((Nat.pow_dvd_pow 2 h).mul_left x)).symm
  · rfl

/-- The model bounds a shift count by the width: shifted down by the width or by more, a number of w bits is its sign. -/
theorem ediv_two_pow_min {z : Int} {w : Nat} (hl : -2 ^ w ≤ z) (hu : z < 2 ^ w) (k : Nat) : z / (2 ^ min k w : Nat) = z / (2 ^ k : Nat) := by
  rcases Nat.le_total k w with h | h
  · rw [Nat.min_eq_left h]
  · have hp : (2 : Int) ^ w ≤ 2 ^ k := pow_le_pow_right₀ (by decide) h
    rw [Nat.min_eq_right h, Nat.cast_pow, Nat.cast_pow, Nat.cast_ofNat]
    rcases Int.lt_or_le z 0 with hz | hz
    · rw [Int.ediv_eq_neg_one_of_neg_of_le hz (by omega), Int.ediv_eq_neg_one_of_neg_of_le hz (by omega)]
    · rw [Int.ediv_eq_zero_of_lt hz hu, Int.ediv_eq_zero_of_lt hz (by omega)]

theorem toInt_ediv_min {w : Nat} (x : BitVec w) (k : Nat) : x.toInt / (2 ^ min k w : Nat) = (x.sshiftRight k).toInt := by
  have hl := x.le_two_mul_toInt
  have hu := x.two_mul_toInt_lt
  rw [ediv_two_pow_min (by omega) (by omega), BitVec.toInt_sshiftRight, Int.shiftRight_eq_div_pow]

theorem toNat_ediv_min {w : Nat} (x : BitVec w) (k : Nat) : (x.toNat : Int) / (2 ^ min k w : Nat) = ((x >>> k).toNat : Int) := by
  have hu : (x.toNat : Int) < 2 ^ w := by exact_mod_cast x.isLt
  rw [ediv_two_pow_min (by omega) hu, BitVec.toNat_ushiftRight, Nat.shiftRight_eq_div_pow, Int.natCast_ediv]

theorem shiftR_eq (t x k : Nat) : shiftR t x k =
    (let y := BitVec.ofNat (tyBits t) x
     if tySigned t then y.sshiftRight k else y >>> k).toNat := by
  simp only [shiftR, readTy_eq]
  split
  · rw [toInt_ediv_min, ← BitVec.toNat_ofInt, BitVec.ofInt_toInt]
  · rw [toNat_ediv_min, ← BitVec.toNat_ofInt, BitVec.ofInt_natCast, BitVec.ofNat_toNat, BitVec.setWidth_eq]

theorem rotL_eq (x : Word) (k : Nat) : rotL x.toNat k = (x.rotateLeft (k % 32)).toNat := by
  have hk : k % 32 < 32 := Nat.mod_lt _ (by decide)
  have hlow : x.toNat >>> (32 - k % 32) < 2 ^ (k % 32) := by
    rw [Nat.shiftRight_eq_div_pow, Nat.div_lt_iff_lt_mul (Nat.two_pow_pos _), ← Nat.pow_add, Nat.add_sub_cancel' hk.le]
    exact x.isLt
  have hword : x.toNat >>> (32 - k % 32) < 2 ^ 32 := hlow.trans_le (Nat.pow_le_pow_right (by decide) hk.le)
  rw [rotL, BitVec.toNat_rotateLeft, Nat.mod_mod, ← Nat.shiftLeft_eq, ← Nat.shiftRight_eq_div_pow, Nat.shiftLeft_add_eq_or_of_lt hlow, Nat.or_mod_two_pow,
    Nat.mod_eq_of_lt hword]

/-! ## Counts and reversal (R244) -/

theorem bitLen_eq_size (n : Nat) : bitLen n = n.size := by
  refine eq_of_forall_ge_iff fun k => Iff.trans ?_ Nat.size_le.symm
  rw [bitLen]
  split
  · rename_i h; simp [h]
  · rename_i h; exact Nat.log2_lt h

theorem bitLen_toNat {w : Nat} (x : BitVec w) : bitLen x.toNat = w - x.clz.toNat := by
  rw [bitLen_eq_size]
  by_cases hx : x = 0#w
  · simp [hx, BitVec.clz_eq_iff_eq_zero.mpr rfl]
  · have hlt : x.clz.toNat < w := by simpa [BitVec.lt_def, Nat.mod_eq_of_lt Nat.lt_two_pow_self] using BitVec.clz_lt_iff_ne_zero.mpr hx
    have hlow : w - 1 - x.clz.toNat < x.toNat.size := Nat.lt_size.mpr (BitVec.two_pow_sub_clz_le_toNat_of_ne_zero (by omega) hx)
    have hhigh : x.toNat.size ≤ w - x.clz.toNat := Nat.size_le.mpr BitVec.toNat_lt_two_pow_sub_clz
    omega

theorem leadZeros_eq {w : Nat} (x : BitVec w) : leadZeros w x.toNat = x.clz.toNat := by
  have hle : x.clz.toNat ≤ w := by simpa [BitVec.le_def, Nat.mod_eq_of_lt Nat.lt_two_pow_self] using BitVec.clz_le (x := x)
  rw [leadZeros, bitLen_toNat]
  omega

/-- The sum that reverses w bits, after its first m terms. -/
def reversalSum (w x m : Nat) : Nat := (List.range m).foldl (fun n i => if x.testBit i then n + 2 ^ (w - 1 - i) else n) 0

theorem bitReverse_eq_reversalSum (w x : Nat) : bitReverse w x = reversalSum w x w := rfl

theorem reversalSum_succ (w x m : Nat) : reversalSum w x (m + 1) = if x.testBit m then reversalSum w x m + 2 ^ (w - 1 - m) else reversalSum w x m := by
  simp only [reversalSum, List.range_succ, List.foldl_append, List.foldl_cons, List.foldl_nil]

/-- Below the m top positions the sum has no bits yet. -/
theorem two_pow_dvd_reversalSum (w x m : Nat) : 2 ^ (w - m) ∣ reversalSum w x m := by
  induction m with
  | zero => exact dvd_zero _
  | succ m ih =>
    have hdvd : 2 ^ (w - (m + 1)) ∣ reversalSum w x m := (Nat.pow_dvd_pow 2 (by omega)).trans ih
    rw [reversalSum_succ]
    split
    · exact Nat.dvd_add hdvd (Nat.pow_dvd_pow 2 (by omega))
    · exact hdvd

/-- In the m top positions the sum has the m low bits, in reverse. -/
theorem testBit_reversalSum {w m : Nat} (x : Nat) (h : m ≤ w) (j : Nat) :
    (reversalSum w x m).testBit j = (decide (w - m ≤ j ∧ j < w) && x.testBit (w - 1 - j)) := by
  induction m with
  | zero => simp [reversalSum]
  | succ m ih =>
    have hp : w - m = w - 1 - m + 1 := by omega
    have hnext : (if x.testBit m then reversalSum w x m + 2 ^ (w - 1 - m) else reversalSum w x m).testBit j =
        ((reversalSum w x m).testBit j || (decide (w - 1 - m = j) && x.testBit m)) := by
      split
      · rename_i hx
        obtain ⟨q, hq⟩ := hp ▸ two_pow_dvd_reversalSum w x m
        rw [hq, Nat.two_pow_add_eq_or_of_lt (Nat.pow_lt_pow_succ (by decide)), Nat.testBit_or, Nat.testBit_two_pow, hx, Bool.and_true]
      · rename_i hx
        rw [Bool.eq_false_iff.mpr hx, Bool.and_false, Bool.or_false]
    rw [reversalSum_succ, hnext, ih (by omega)]
    by_cases hj : w - 1 - m = j
    · have hold : ¬ (w - m ≤ j ∧ j < w) := by omega
      have hnew : w - (m + 1) ≤ j ∧ j < w := by omega
      rw [decide_eq_true hj, decide_eq_false hold, decide_eq_true hnew, Bool.false_and, Bool.false_or, show w - 1 - j = m by omega]
    · have hsame : (w - m ≤ j ∧ j < w) ↔ (w - (m + 1) ≤ j ∧ j < w) := by omega
      rw [decide_eq_false hj, decide_eq_decide.mpr hsame, Bool.false_and, Bool.or_false]

theorem testBit_bitReverse (w x j : Nat) : (bitReverse w x).testBit j = (decide (j < w) && x.testBit (w - 1 - j)) := by
  rw [bitReverse_eq_reversalSum, testBit_reversalSum x le_rfl, Nat.sub_self]
  simp only [Nat.zero_le, true_and]

theorem bitReverse_eq {w : Nat} (x : BitVec w) : bitReverse w x.toNat = x.reverse.toNat :=
  Nat.eq_of_testBit_eq fun j => by rw [testBit_bitReverse, BitVec.testBit_toNat, BitVec.testBit_toNat, BitVec.getLsbD_reverse, BitVec.getMsbD]

/-! ## Bit fields (R245) -/

/-- A number moved up to a position of a word; past the word nothing of it is left. -/
theorem testBit_placed (m pos : Nat) {j : Nat} (hj : j < 32) : (m * 2 ^ min pos 32 % 2 ^ 32).testBit j = (decide (pos ≤ j) && m.testBit (j - pos)) := by
  rw [Nat.testBit_mod_two_pow, decide_eq_true hj, Bool.true_and, Nat.testBit_mul_two_pow]
  rcases Nat.le_total pos 32 with h | h
  · rw [Nat.min_eq_left h]
  · rw [Nat.min_eq_right h, decide_eq_false (by omega), decide_eq_false (by omega), Bool.false_and, Bool.false_and]

section
variable (a b : Word) {c pos len : Nat} (hpos : c % 256 = pos) (hlen : min (c / 256 % 256) 32 = len)
include hpos hlen

theorem bitField_unsigned : bitField false a.toNat c = (a >>> pos).toNat % 2 ^ len := by
  simp only [bitField, hpos, hlen, Bool.false_eq_true, if_false, toNat_ediv_min]
  split
  · rename_i h; rw [h, Nat.pow_zero, Nat.mod_one]
  · rw [← Int.natCast_mod, Int.toNat_natCast]

theorem bitField_signed (h : len ≠ 0) : bitField true a.toNat c = (((a.sshiftRight pos).setWidth len).signExtend 32).toNat := by
  have hle : len ≤ 32 := hlen ▸ Nat.min_le_right ..
  simp only [bitField, hpos, hlen, if_neg h, if_true, sext_word, toInt_ediv_min, low32, sext_eq_toInt len, ofNat_emod_toNat]
  rw [← BitVec.signExtend_eq_setWidth_of_le _ hle, ← BitVec.toNat_ofInt]
  rfl

theorem testBit_bitField_unsigned (j : Nat) : (bitField false a.toNat c).testBit j = (decide (j < len) && a.getLsbD (pos + j)) := by
  rw [bitField_unsigned a hpos hlen, Nat.testBit_mod_two_pow, BitVec.testBit_toNat, BitVec.getLsbD_ushiftRight]

theorem testBit_bitField_signed {j : Nat} (hj : j < 32) : (bitField true a.toNat c).testBit j =
    (if len = 0 then false else let q := pos + (if j < len then j else len - 1)
      if q < 32 then a.getLsbD q else a.getLsbD 31) := by
  split
  · rename_i h
    simp only [bitField, hlen, if_pos h, Nat.zero_testBit]
  · rename_i h
    have hle : len ≤ 32 := hlen ▸ Nat.min_le_right ..
    have hbit : ∀ i < len, ((a.sshiftRight pos).setWidth len).getLsbD i = if pos + i < 32 then a.getLsbD (pos + i) else a.getLsbD 31 := fun i hi => by
      rw [BitVec.getLsbD_setWidth, BitVec.getLsbD_sshiftRight, BitVec.msb_eq_getLsbD_last]
      simp [hi, show i < 32 by omega]
    rw [bitField_signed a hpos hlen h, BitVec.testBit_toNat, BitVec.getLsbD_signExtend, BitVec.msb_eq_getLsbD_last, decide_eq_true hj, Bool.true_and]
    split
    · rename_i h'; exact hbit j h'
    · exact hbit (len - 1) (by omega)

theorem testBit_bitInsert {j : Nat} (hj : j < 32) : (bitInsert a.toNat b.toNat c).testBit j =
    if pos ≤ j ∧ j < pos + len then a.getLsbD (j - pos) else b.getLsbD j := by
  have hmask : (2 ^ len - 1) * 2 ^ min pos 32 % 2 ^ 32 < 2 ^ 32 := Nat.mod_lt _ (by decide)
  simp only [bitInsert, hpos, hlen]
  rw [Nat.testBit_or, Nat.testBit_and, Nat.testBit_and, Nat.sub_sub, Nat.add_comm 1, Nat.testBit_two_pow_sub_succ hmask, testBit_placed _ _ hj,
    testBit_placed _ _ hj, Nat.testBit_mod_two_pow, Nat.testBit_two_pow_sub_one, BitVec.testBit_toNat, BitVec.testBit_toNat, decide_eq_true hj]
  by_cases hin : pos ≤ j ∧ j < pos + len
  · simp [hin, show j - pos < len by omega]
  · by_cases hp : pos ≤ j
    · simp [hp, show ¬ j - pos < len by omega, show ¬ j < pos + len by omega]
    · simp [hp]

end

theorem testBit_leNat (bs : List Byte) (j : Nat) : (leNat bs).testBit j = (bs.getD (j / 8) 0).getLsbD (j % 8) := by
  induction bs generalizing j with
  | nil => simp [leNat]
  | cons b bs ih =>
    rw [leNat, Nat.add_comm, show (256 : Nat) = 2 ^ 8 from rfl, Nat.testBit_two_pow_mul_add _ b.isLt, ih]
    split
    · rename_i h
      rw [Nat.div_eq_of_lt h, Nat.mod_eq_of_lt h]; rfl
    · rename_i h
      rw [show j / 8 = (j - 8) / 8 + 1 by omega, show (j - 8) % 8 = j % 8 by omega]; rfl

/-- A byte of prmt's result (R245): the byte that the selector names, zero, its sign, or its reversal. -/
def permuteByte (a b c : Word) (i : Nat) : Byte :=
  let f := c.extractLsb' (8 * i) 8
  let p := (b ++ a).extractLsb' (8 * (f.extractLsb' 0 3).toNat) 8
  match (f.extractLsb' 3 2).toNat with
  | 0 => p
  | 1 => 0
  | 2 => if p.getLsbD 7 then BitVec.allOnes 8 else 0
  | _ => p.reverse

theorem append_toNat (a b : Word) : (b ++ a).toNat = a.toNat + b.toNat * 2 ^ 32 := by
  rw [BitVec.toNat_append, ← Nat.shiftLeft_add_eq_or_of_lt a.isLt, Nat.shiftLeft_eq, Nat.add_comm]

theorem permute_eq (a b c : Word) : permute a.toNat b.toNat c.toNat = leNat ((List.range 4).map (permuteByte a b c)) := by
  rw [permute]
  congr 1
  refine List.map_congr_left fun i _ => ?_
  have hf : c.toNat / 2 ^ (8 * i) % 256 = (c.extractLsb' (8 * i) 8).toNat := (toNat_field c (8 * i) 8).symm
  simp only [hf, permuteByte, ← append_toNat]
  generalize c.extractLsb' (8 * i) 8 = f
  have hk : f.toNat % 8 = (f.extractLsb' 0 3).toNat := (toNat_lowField f 3).symm
  have hm : f.toNat / 8 % 4 = (f.extractLsb' 3 2).toNat := (toNat_field f 3 2).symm
  have hp : ∀ k, (b ++ a).toNat / 2 ^ k % 256 = ((b ++ a).extractLsb' k 8).toNat := fun k => (toNat_field (b ++ a) k 8).symm
  simp only [hk, hm, hp]
  generalize (b ++ a).extractLsb' (8 * (f.extractLsb' 0 3).toNat) 8 = p
  generalize (f.extractLsb' 3 2).toNat = m
  rcases m with _ | _ | _ | m
  · exact (BitVec.ofNat_toNat ..).trans (BitVec.setWidth_eq p)
  · rfl
  · have h7 : 128 ≤ p.toNat ↔ p.getLsbD 7 = true := by rw [← BitVec.msb_eq_getLsbD_last p, BitVec.msb_eq_decide, decide_eq_true_eq]
    change BitVec.ofNat 8 (if 128 ≤ p.toNat then 255 else 0) = if p.getLsbD 7 then BitVec.allOnes 8 else 0
    simp only [h7]
    split <;> rfl
  · change BitVec.ofNat 8 (bitReverse 8 p.toNat) = p.reverse
    rw [bitReverse_eq, BitVec.ofNat_toNat, BitVec.setWidth_eq]

theorem testBit_permute (a b c : Word) {j : Nat} (hj : j < 32) : (permute a.toNat b.toNat c.toNat).testBit j = (permuteByte a b c (j / 8)).getLsbD (j % 8) := by
  rw [permute_eq, testBit_leNat, List.getD_eq_getElem _ _ (by simp; omega), List.getElem_map, List.getElem_range]

theorem bitFields : Part.BitFields := fun a b c j hj => by
  have hpos : c.toNat % 256 = (c.extractLsb' 0 8).toNat := (toNat_lowField c 8).symm
  have hlen : min (c.toNat / 256 % 256) 32 = min (c.extractLsb' 8 8).toNat 32 := congrArg (min · 32) (toNat_field c 8 8).symm
  refine ⟨testBit_bitField_unsigned a hpos hlen j, testBit_bitField_signed a hpos hlen hj, testBit_bitInsert a b hpos hlen hj, ?_⟩
  rw [testBit_permute a b c hj]
  have hlt : j % 8 < 8 := Nat.mod_lt _ (by decide)
  dsimp only [permuteByte]
  generalize c.extractLsb' (8 * (j / 8)) 8 = f
  generalize (b ++ a).extractLsb' (8 * (f.extractLsb' 0 3).toNat) 8 = p
  generalize (f.extractLsb' 3 2).toNat = m
  rcases m with _ | _ | _ | m
  · rfl
  · exact BitVec.getLsbD_zero
  · change (if p.getLsbD 7 = true then BitVec.allOnes 8 else 0).getLsbD (j % 8) = p.getLsbD 7
    cases p.getLsbD 7
    · exact BitVec.getLsbD_zero
    · exact (BitVec.getLsbD_allOnes ..).trans (decide_eq_true hlt)
  · change p.reverse.getLsbD (j % 8) = p.getLsbD (7 - j % 8)
    rw [BitVec.getLsbD_reverse, BitVec.getMsbD, decide_eq_true hlt, Bool.true_and]

/-! ## Logic (R244, R246) -/

/-- A source of an untyped bit pattern fills its type. -/
theorem opN_lt {f : VF} (h : f.ty = 8 ∨ f.ty = 9) (c : BitVec 11) (s : State) (e : Env) (tid : Nat) : opN f c s e tid < 2 ^ tyBits f.ty := by
  rcases h with h | h
  · rw [opN, h]; exact (src32 s e tid c).isLt
  · rw [opN, h]; exact (src64 e tid c).isLt

theorem opN_toNat {f : VF} (h : f.ty = 8 ∨ f.ty = 9) (c : BitVec 11) (s : State) (e : Env) (tid : Nat) :
    (BitVec.ofNat (tyBits f.ty) (opN f c s e tid)).toNat = opN f c s e tid := by
  rw [BitVec.toNat_ofNat, Nat.mod_eq_of_lt (opN_lt h c s e tid)]

/-- The type of not, popc and clz is a bit pattern of 32 or 64 bits. -/
theorem bits_ty {i : Instr} {f : VF} {uses : List Use} (hform : i.form = vecForm f false ([8, 9].contains f.ty && unused f.b && unused f.c) uses)
    (h : i.wellFormed = true) : f.ty = 8 ∨ f.ty = 9 := by
  have hfixed := fixed_of_vecForm hform h
  simp only [Bool.and_eq_true] at hfixed
  simpa using hfixed.1.1

theorem vectorLogic : Part.VectorLogic := fun f =>
  ⟨vectorResult_of (exec_and · f) fun _ _ _ _ _ => rfl,
    vectorResult_of (exec_or · f) fun _ _ _ _ _ => rfl,
    vectorResult_of (exec_xor · f) fun _ _ _ _ _ => rfl,
    vectorResult_of (exec_not · f) fun hwf s e _ tid => by
      rw [BitVec.toNat_not, opN_toNat (bits_ty rfl hwf)]; rfl,
    vectorResult_of (exec_shl · f) fun _ s e _ tid => by rw [s32_lowByte, shiftL_eq]; rfl,
    vectorResult_of (exec_shr · f) fun _ s e _ tid => by rw [s32_lowByte, shiftR_eq]; rfl,
    vectorResult_of (exec_rot · f) fun _ s e _ tid => by rw [s32_lowByte, s32, rotL_eq]; rfl,
    vectorResult_of (exec_bfx · f) fun _ _ _ _ _ => rfl,
    vectorResult_of (exec_bfi · f) fun _ _ _ _ _ => rfl,
    vectorResult_of (exec_popc · f) fun _ _ _ _ _ => rfl,
    vectorResult_of (exec_clz · f) fun hwf s e _ tid => by
      rw [← leadZeros_eq, opN_toNat (bits_ty rfl hwf)]; rfl,
    vectorResult_of (exec_brev · f) fun _ s e _ tid => bitReverse_eq (src32 s e tid f.a),
    vectorResult_of (exec_prmt · f) fun _ _ _ _ _ => rfl,
    vectorResult_of (exec_sel · f) fun _ _ _ _ _ => rfl,
    vectorResult_of (exec_mov · f) fun _ _ _ _ _ => rfl⟩

/-- Settles O8: the model's functions on numbers are the statement's operations on bit vectors, and what a bit of a field or a permuted byte is
follows from the bits of a shifted word. -/
theorem logicAndBitFields : Obligations.LogicAndBitFields := ⟨vectorLogic, bitFields⟩

end Sys2Proof
end

section
/-! PROOFS. The comparisons (R246, R251) and the uniform instructions (R240, R259, R260): their functions give the values that the statements name; O9 and
O12 are put together here. -/

namespace Sys2Proof

open Machine

/-! ## From an instruction's function to its statement -/

theorem truthResult_of {i : Instr} {f : VF} {w val : State → Env → Nat → Nat → Bool} (hexec : ∀ s, exec i s = vectorBool s i f (w s))
    (hval : ∀ s e l tid, w s e l tid = val s e l tid) : TruthResult i f val := fun s e h => by
  have hw : w s = val s := funext fun e => funext fun l => funext fun tid => hval s e l tid
  rw [hexec, hw]
  exact truth_spec s e i f (val s) h

theorem uniformResult_of {i : Instr} {d : BitVec 11} {k : Nat} {w val : State → Env → Nat} (hexec : ∀ s, exec i s = uniform s i d k (w s))
    (hval : ∀ s e, w s e = val s e) : UniformResult i d k val := fun s e h => by
  have hw : w s = val s := funext fun e => hval s e
  rw [hexec, hw]
  exact uniform_spec s e i d k (val s) h

/-! ## Comparisons -/

/-- Settles O9: an integer comparison is one case for each condition of R230; a float comparison is the model's own function. -/
theorem comparisons : Obligations.Comparisons := fun f =>
  ⟨truthResult_of (exec_icmp · f) fun s e _ tid => by
      change cmpInt f.cnd (opI f f.a s e tid) (opI f f.b s e tid) = _
      generalize f.cnd = cnd
      rcases cnd with _ | _ | _ | _ | _ | cnd
      · exact beq_eq_decide ..
      · exact (congrArg (!·) (beq_eq_decide ..)).trans (decide_not ..).symm
      all_goals rfl,
    truthResult_of (exec_fcmp · f) fun _ _ _ _ => rfl⟩

/-! ## Uniform instructions -/

/-- Settles O12: the sources are read once for the group, and the functions are those of the vector instructions of the same name. -/
theorem uniformArithmetic : Obligations.UniformArithmetic := fun f =>
  ⟨uniformResult_of (exec_gadd · f) fun _ _ => writeTy_eq_narrowed ..,
    uniformResult_of (exec_gsub · f) fun _ _ => writeTy_eq_narrowed ..,
    uniformResult_of (exec_gmul · f) fun _ _ => writeTy_eq_narrowed ..,
    uniformResult_of (exec_gand · f) fun _ _ => rfl,
    uniformResult_of (exec_gor · f) fun _ _ => rfl,
    uniformResult_of (exec_gxor · f) fun _ _ => rfl,
    uniformResult_of (exec_gshl · f) fun s e => by rw [s32_lowByte, shiftL_eq]; rfl,
    uniformResult_of (exec_gshr · f) fun s e => by rw [s32_lowByte, shiftR_eq]; rfl,
    uniformResult_of (exec_gcmp · f) fun _ _ => rfl,
    uniformResult_of (exec_gmov · f) fun _ _ => rfl,
    uniformResult_of (exec_gsel · f) fun s e => by
      by_cases h : uni32 s e f.c = 0
      · simp only [h, bne_self_eq_false, Bool.false_eq_true, if_false, if_true]; rfl
      · simp only [h, bne_iff_ne.mpr h, if_false, if_true]; rfl,
    uniformResult_of (exec_gadd64 · f) fun _ _ => writeTy_eq_narrowed ..,
    uniformResult_of (exec_gmin · f) fun _ _ => writeTy_eq_narrowed ..,
    uniformResult_of (exec_gmax · f) fun _ _ => writeTy_eq_narrowed ..,
    uniformResult_of (exec_gfop · f) fun _ _ => rfl⟩

end Sys2Proof
end

section
/-! PROOFS. Floating point (R234 to R237, R249 to R258): one rounding is exact on what a format holds and stays within the format, sums and products do not
depend on the order of their operands, and the float instructions leave these results; O10 is put together here. -/

namespace Sys2Proof.Machine

/-! ## Encodings of a format (R234) -/

section
variable (F : Fmt)

theorem Fmt.sign_eq : F.sign = 2 ^ F.ebits * 2 ^ F.fbits := Nat.pow_add ..

theorem Fmt.inf_lt_sign : F.inf < F.sign := by
  rw [F.sign_eq, Fmt.inf]
  exact Nat.mul_lt_mul_of_pos_right (Nat.sub_lt (Nat.two_pow_pos _) Nat.one_pos) (Nat.two_pow_pos _)

theorem Fmt.infOf_lt (neg : Bool) : F.infOf neg < 2 * F.sign := by
  have h := F.inf_lt_sign
  cases neg <;> simp only [Fmt.infOf, Bool.false_eq_true, if_false, if_true] <;> omega

theorem Fmt.zeroOf_lt (neg : Bool) : F.zeroOf neg < 2 * F.sign := by
  have h := F.inf_lt_sign
  cases neg <;> simp only [Fmt.zeroOf, Bool.false_eq_true, if_false, if_true] <;> omega

theorem Fmt.nan_lt (hf : 0 < F.fbits) : F.nan < 2 * F.sign := by
  have hp : 2 ^ (F.fbits - 1) < 2 ^ F.fbits := Nat.pow_lt_pow_right (by decide) (by omega)
  have hs : 2 ^ F.fbits ≤ F.sign := Nat.pow_le_pow_right (by decide) (Nat.le_add_left ..)
  have h := F.inf_lt_sign
  rw [Fmt.nan]
  omega

/-- A rounding gives an encoding of the format. -/
theorem Fmt.round_lt (mode : Nat) (neg : Bool) (m : Nat) (e : Int) (sticky : Bool) : F.round mode neg m e sticky < 2 * F.sign := by
  have h := F.inf_lt_sign
  have hz := F.zeroOf_lt neg
  have hi := F.infOf_lt neg
  simp only [Fmt.zeroOf, Fmt.infOf] at hz hi
  simp only [Fmt.round]
  split
  · exact hz
  · split
    · omega
    · split <;> omega

/-- Sign, exponent field and fraction make up an encoding. -/
theorem Fmt.fields_eq {x : Nat} (hx : x < 2 * F.sign) :
    F.zeroOf (decide (x / F.sign % 2 = 1)) + (x / 2 ^ F.fbits % 2 ^ F.ebits * 2 ^ F.fbits + x % 2 ^ F.fbits) = x := by
  have hsign : x / F.sign = x / 2 ^ F.fbits / 2 ^ F.ebits := by rw [Nat.div_div_eq_div_mul, F.sign_eq, Nat.mul_comm]
  have hlt : x / F.sign < 2 := Nat.div_lt_of_lt_mul (Nat.mul_comm .. ▸ hx)
  have hzero : F.zeroOf (decide (x / F.sign % 2 = 1)) = x / F.sign * (2 ^ F.ebits * 2 ^ F.fbits) := by
    rw [Fmt.zeroOf, ← F.sign_eq]
    rcases Nat.le_one_iff_eq_zero_or_eq_one.mp (Nat.lt_succ_iff.mp hlt) with h | h <;> simp [h]
  have hq := Nat.div_add_mod' (x / 2 ^ F.fbits) (2 ^ F.ebits)
  have hr := Nat.div_add_mod' x (2 ^ F.fbits)
  calc _ = (x / 2 ^ F.fbits / 2 ^ F.ebits * 2 ^ F.ebits + x / 2 ^ F.fbits % 2 ^ F.ebits) * 2 ^ F.fbits + x % 2 ^ F.fbits := by rw [hzero, hsign]; ring
    _ = x := by rw [hq, hr]

/-- A magnitude m × 2^e stands in the format as it is: m fills the fraction, or e is the least exponent. -/
structure Fmt.Holds (F : Fmt) (m : Nat) (e : Int) : Prop where
  short : m < 2 * 2 ^ F.fbits
  least : F.qmin ≤ e
  normal : 2 ^ F.fbits ≤ m ∨ e = F.qmin
  finite : (e - F.qmin).toNat * 2 ^ F.fbits + m < F.inf

theorem Fmt.val_fin {x : Nat} (hx : x < 2 * F.sign) (he : 1 < F.ebits) {neg : Bool} {m : Nat} {e : Int} (h : F.val x = .fin neg m e) :
    F.Holds m e ∧ F.zeroOf neg + ((e - F.qmin).toNat * 2 ^ F.fbits + m) = x := by
  have hfields := F.fields_eq hx
  have hfr : x % 2 ^ F.fbits < 2 ^ F.fbits := Nat.mod_lt _ (Nat.two_pow_pos _)
  have hex : x / 2 ^ F.fbits % 2 ^ F.ebits < 2 ^ F.ebits := Nat.mod_lt _ (Nat.two_pow_pos _)
  have hE : 2 ^ 1 < 2 ^ F.ebits := Nat.pow_lt_pow_right (by decide) he
  simp only [Fmt.val] at h
  generalize x / 2 ^ F.fbits % 2 ^ F.ebits = ex at *
  generalize x % 2 ^ F.fbits = fr at *
  split at h
  · split at h <;> simp at h
  · rename_i hinf
    have hbits : ex * 2 ^ F.fbits + fr < F.inf :=
      calc ex * 2 ^ F.fbits + fr < (ex + 1) * 2 ^ F.fbits := by rw [Nat.add_mul, Nat.one_mul]; omega
        _ ≤ F.inf := Nat.mul_le_mul_right _ (by omega)
    split at h
    · rename_i h0
      simp only [FVal.fin.injEq] at h
      obtain ⟨rfl, rfl, rfl⟩ := h
      rw [h0] at hbits hfields
      exact ⟨⟨by omega, le_rfl, .inr rfl, by simpa using hbits⟩, by simpa using hfields⟩
    · rename_i h0
      simp only [FVal.fin.injEq] at h
      obtain ⟨rfl, rfl, rfl⟩ := h
      have hk : (F.qmin + (ex - 1 : Nat) - F.qmin).toNat = ex - 1 := by omega
      have hsum : (ex - 1) * 2 ^ F.fbits + (fr + 2 ^ F.fbits) = ex * 2 ^ F.fbits + fr := by
        obtain ⟨k, rfl⟩ : ∃ k, ex = k + 1 := ⟨ex - 1, by omega⟩
        rw [Nat.add_sub_cancel, Nat.add_mul]; omega
      exact ⟨⟨by omega, by omega, .inl (by omega), by rw [hk, hsum]; exact hbits⟩, by rw [hk, hsum]; exact hfields⟩

theorem Fmt.val_inf {x : Nat} (hx : x < 2 * F.sign) {neg : Bool} (h : F.val x = .inf neg) : F.infOf neg = x := by
  have hfields := F.fields_eq hx
  simp only [Fmt.val] at h
  split at h
  · rename_i hex
    split at h
    · rename_i hfr
      simp only [FVal.inf.injEq] at h
      rw [hex, hfr, h] at hfields
      exact hfields
    · simp at h
  · split at h <;> simp at h

theorem Fmt.val_one (he : 1 < F.ebits) : F.val F.one = .fin false (2 ^ F.fbits) (-F.fbits) := by
  have hP := Nat.two_pow_pos F.fbits
  have hpow : 2 ^ F.ebits = 2 * 2 ^ (F.ebits - 1) := by rw [← Nat.pow_succ', Nat.succ_eq_add_one, Nat.sub_add_cancel (by omega)]
  have h1 : 2 ^ 1 ≤ 2 ^ (F.ebits - 1) := Nat.pow_le_pow_right (by decide) (by omega)
  have hdiv : F.one / 2 ^ F.fbits = 2 ^ (F.ebits - 1) - 1 := Nat.mul_div_cancel _ hP
  have hmod : F.one % 2 ^ F.fbits = 0 := Nat.mul_mod_left ..
  have hlt : F.one < F.sign := by
    rw [F.sign_eq, Fmt.one]
    exact Nat.mul_lt_mul_of_pos_right (by omega) hP
  have hex : (2 ^ (F.ebits - 1) - 1) % 2 ^ F.ebits = 2 ^ (F.ebits - 1) - 1 := Nat.mod_eq_of_lt (by omega)
  simp only [Fmt.val, hdiv, hmod, hex, Nat.div_eq_of_lt hlt, Fmt.qmin]
  rw [if_neg (by omega), if_neg (by omega)]
  generalize 2 ^ (F.ebits - 1) = B at *
  simp
  omega

end

/-! ## A rounding of what the format holds (R236) -/

theorem roundsUp_exact (mode : Nat) (neg odd : Bool) : roundsUp mode neg odd false .lt = false := by
  unfold roundsUp
  split <;> rfl

theorem bitLen_mul_two_pow {m : Nat} (h : m ≠ 0) (k : Nat) : bitLen (m * 2 ^ k) = bitLen m + k := by
  rw [bitLen_eq_size, bitLen_eq_size, ← Nat.shiftLeft_eq, Nat.size_shiftLeft h]

/-- Bits appended to a magnitude are taken off again without a remainder. -/
theorem toUnits_exact (mode : Nat) (neg : Bool) (m k : Nat) (e : Int) : toUnits mode neg (m * 2 ^ k) (e - k) e false = m := by
  rw [toUnits]
  split
  · rename_i h
    obtain rfl : k = 0 := by omega
    simp
  · rename_i h
    have hpos : 0 < 2 ^ (k - 1) := Nat.two_pow_pos _
    by_cases hm : m = 0
    · simp [hm, roundsUp_exact]
    · have hk : min (e - (e - (k : Int))).toNat (bitLen (m * 2 ^ k) + 2) = k := by rw [bitLen_mul_two_pow hm]; omega
      simp only [hk, Nat.mul_div_cancel _ (Nat.two_pow_pos k), Nat.mul_mod_left, hpos, if_true]
      simp [roundsUp_exact]

/-- The rounding of a magnitude that the format holds, however many zero bits are appended to it, is the magnitude. -/
theorem Fmt.round_exact {F : Fmt} {m : Nat} {e : Int} (h : F.Holds m e) (mode : Nat) (neg : Bool) (k : Nat) :
    F.round mode neg (m * 2 ^ k) (e - k) = F.zeroOf neg + ((e - F.qmin).toNat * 2 ^ F.fbits + m) := by
  obtain ⟨hshort, hleast, hnormal, hfinite⟩ := h
  have hP := Nat.two_pow_pos F.fbits
  by_cases hm : m = 0
  · obtain rfl : e = F.qmin := by omega
    simp [Fmt.round, Fmt.zeroOf, hm]
  · have hlen : bitLen m ≤ F.fbits + 1 := by rw [bitLen_eq_size, Nat.size_le, Nat.pow_succ']; exact hshort
    have hq : max (e - k + bitLen (m * 2 ^ k) - 1 - F.fbits) F.qmin = e := by
      rw [bitLen_mul_two_pow hm, Nat.cast_add]
      rcases hnormal with hn | hn
      · have hfull : F.fbits < bitLen m := by rw [bitLen_eq_size]; exact Nat.lt_size.mpr hn
        omega
      · omega
    have hne : ¬ (m * 2 ^ k = 0) := Nat.mul_ne_zero hm (Nat.two_pow_pos k).ne'
    simp only [Fmt.round, hq, toUnits_exact, hne, hfinite, decide_false, Bool.false_and, Bool.false_eq_true, if_false, if_true, Fmt.zeroOf]

/-! ## Sums and products (R237) -/

theorem addVal_fin_comm (F : Fmt) (mode : Nat) (n1 n2 : Bool) (m1 m2 : Nat) (e1 e2 : Int) :
    addVal F mode (.fin n1 m1 e1) (.fin n2 m2 e2) = addVal F mode (.fin n2 m2 e2) (.fin n1 m1 e1) := by
  by_cases h : m1 = 0 ∧ m2 = 0
  · simp only [addVal, h.1, h.2, decide_true, Bool.and_self, if_true]
    cases n1 <;> cases n2 <;> rfl
  · have h12 : ¬ (decide (m1 = 0) && decide (m2 = 0)) = true := by simpa using h
    have h21 : ¬ (decide (m2 = 0) && decide (m1 = 0)) = true := Bool.and_comm .. ▸ h12
    have he : (if m1 = 0 then e2 else if m2 = 0 then e1 else min e1 e2) = if m2 = 0 then e1 else if m1 = 0 then e2 else min e2 e1 := by
      split <;> split <;> omega
    simp only [addVal, if_neg h12, if_neg h21, he]
    rw [Int.add_comm]

theorem addVal_comm (F : Fmt) (mode : Nat) (a b : FVal) : addVal F mode a b = addVal F mode b a := by
  cases a with
  | nan => cases b <;> rfl
  | inf x =>
    cases b with
    | nan | fin => rfl
    | inf y => cases x <;> cases y <;> rfl
  | fin n1 m1 e1 =>
    cases b with
    | nan | inf => rfl
    | fin n2 m2 e2 => exact addVal_fin_comm ..

theorem mulVal_comm (a b : FVal) : mulVal a b = mulVal b a := by
  cases a <;> cases b <;> simp only [mulVal, Nat.mul_comm, Int.add_comm, bne_comm]

theorem addVal_lt {F : Fmt} (hf : 0 < F.fbits) (mode : Nat) (a b : FVal) : addVal F mode a b < 2 * F.sign := by
  unfold addVal
  split
  · exact F.nan_lt hf
  · exact F.nan_lt hf
  · split
    · exact F.infOf_lt _
    · exact F.nan_lt hf
  · exact F.infOf_lt _
  · exact F.infOf_lt _
  · split
    · exact F.zeroOf_lt _
    · extract_lets e x y t
      split
      · exact F.zeroOf_lt _
      · exact F.round_lt ..

theorem packVal_lt {F : Fmt} (hf : 0 < F.fbits) (mode : Nat) (v : FVal) : packVal F mode v < 2 * F.sign := by
  cases v with
  | nan => exact F.nan_lt hf
  | inf s => exact F.infOf_lt s
  | fin s m e => exact F.round_lt ..

section
variable {F : Fmt} {x : Nat} (hx : x < 2 * F.sign) (he : 1 < F.ebits)
include hx he

/-- A value of the format is packed into its own encoding. -/
theorem packVal_val (mode : Nat) (h : F.val x ≠ .nan) : packVal F mode (F.val x) = x := by
  cases hv : F.val x with
  | nan => exact absurd hv h
  | inf s => exact F.val_inf hx hv
  | fin s m e =>
    obtain ⟨hholds, hbits⟩ := F.val_fin hx he hv
    have hr := F.round_exact hholds mode s 0
    rw [Nat.pow_zero, Nat.mul_one, Nat.cast_zero, Int.sub_zero, hbits] at hr
    exact hr

theorem fMul_one (mode : Nat) (h : F.val x ≠ .nan) : fMul F mode x F.one = x := by
  have hP := (Nat.two_pow_pos F.fbits).ne'
  rw [fMul, F.val_one he]
  cases hv : F.val x with
  | nan => exact absurd hv h
  | inf s => simpa only [mulVal, if_neg hP, packVal, Bool.bne_false] using F.val_inf hx hv
  | fin s m e =>
    obtain ⟨hholds, hbits⟩ := F.val_fin hx he hv
    rw [mulVal, packVal, Bool.bne_false, ← Int.sub_eq_add_neg, F.round_exact hholds, hbits]

end

theorem arith_nan {F : Fmt} {x : Nat} (h : F.val x = .nan) (mode y : Nat) :
    fAdd F mode x y = F.nan ∧ fSub F mode x y = F.nan ∧ fMul F mode x y = F.nan ∧ fDiv F mode x y = F.nan := by
  simp only [fAdd, fSub, fMul, fDiv, h]
  exact ⟨rfl, rfl, rfl, rfl⟩

end Sys2Proof.Machine

namespace Sys2Proof

open Machine

theorem formats_wide : ∀ F ∈ [fmtF32, fmtF16, fmtBF16], 0 < F.fbits ∧ 1 < F.ebits := by decide

theorem floatRounding : Part.FloatRounding := fun F hF mode x y hx _ => by
  obtain ⟨hf, he⟩ := formats_wide F hF
  exact ⟨fun h => ⟨packVal_val hx he mode h, fMul_one hx he mode h⟩, fun h => arith_nan h mode y, addVal_comm ..,
    congrArg (packVal F mode) (mulVal_comm ..), addVal_lt hf .., packVal_lt hf ..⟩

/-! ## The float instructions (R249 to R258) -/

theorem vectorFloat : Part.VectorFloat := fun f =>
  ⟨vectorResult_of (exec_fadd · f) fun _ _ _ _ _ => rfl,
    vectorResult_of (exec_fsub · f) fun _ _ _ _ _ => rfl,
    vectorResult_of (exec_fmul · f) fun _ _ _ _ _ => rfl,
    vectorResult_of (exec_ffma · f) fun _ _ _ _ _ => rfl,
    vectorResult_of (exec_fdiv · f) fun _ _ _ _ _ => rfl,
    vectorResult_of (exec_fsqrt · f) fun _ _ _ _ _ => rfl,
    vectorResult_of (exec_frcp · f) fun _ _ _ _ _ => rfl,
    vectorResult_of (exec_fmin · f) fun _ _ _ _ _ => rfl,
    vectorResult_of (exec_fmax · f) fun _ _ _ _ _ => rfl,
    vectorResult_of (exec_frsq · f) fun _ _ _ _ _ => rfl,
    vectorResult_of (exec_fex2 · f) fun _ _ _ _ _ => rfl,
    vectorResult_of (exec_flg2 · f) fun _ _ _ _ _ => rfl,
    vectorResult_of (exec_fsin · f) fun _ _ _ _ _ => rfl,
    vectorResult_of (exec_fcos · f) fun _ _ _ _ _ => rfl,
    vectorResult_of (exec_ftanh · f) fun _ _ _ _ _ => rfl,
    vectorResult_of (exec_fclass · f) fun _ _ _ _ _ => rfl,
    vectorResult_of (exec_frnd · f) fun _ _ _ _ _ => rfl⟩

theorem packedHalves : Part.PackedHalves := fun f =>
  ⟨vectorResult_of (exec_hadd2 · f) fun _ _ _ _ _ => rfl,
    vectorResult_of (exec_hmul2 · f) fun _ _ _ _ _ => rfl,
    vectorResult_of (exec_hfma2 · f) fun _ _ _ _ _ => rfl,
    vectorResult_of (exec_hmin2 · f) fun _ _ _ _ _ => rfl,
    vectorResult_of (exec_hmax2 · f) fun _ _ _ _ _ => rfl⟩

theorem conversions : Part.Conversions := fun f =>
  ⟨vectorResult_of (exec_fcvt · f) fun _ _ _ _ _ => rfl,
    vectorResult_of (exec_fcvti · f) fun _ _ _ _ _ => writeTy_eq_narrowed ..,
    vectorResult_of (exec_icvtf · f) fun _ _ _ _ _ => rfl,
    vectorResult_of (exec_icvt · f) fun _ _ _ _ _ => writeTy_eq_narrowed ..⟩

/-- Settles O10: the instructions' functions are the statement's, and the laws of rounding rest on `Fmt.round_exact`, for a magnitude as the format
holds it and for its product with 1. -/
theorem floatArithmetic : Obligations.FloatArithmetic := ⟨vectorFloat, floatRounding, packedHalves, conversions⟩

end Sys2Proof
end

section
/-! PROOFS. The mask instructions and what lanes give one another (R263 to R271): the lanes whose bit is 1, counted, found and asked about; O11 is put
together here. -/

namespace Sys2Proof

open Machine

/-! ## The lanes whose bit is 1 (R265, R266) -/

/-- A selected lane of which an instruction asks whether its bit of A is 1. -/
def votesFor (s : State) (e : Env) (f : VF) (p : Nat × Nat) : Bool := laneBit s e p.1 p.2 f.a

variable (s : State) (e : Env) (f : VF)

theorem votes_eq : votes s e f = ((e.sel f.pm f.pn).filter (votesFor s e f)).map Prod.fst := rfl

theorem length_votes : (votes s e f).length = (e.sel f.pm f.pn).countP (votesFor s e f) := by
  rw [votes_eq, List.length_map, List.countP_eq_length_filter]

theorem headD_votes (d : Nat) : (votes s e f).headD d = (((e.sel f.pm f.pn).find? (votesFor s e f)).map Prod.fst).getD d := by
  rw [votes_eq, List.headD_eq_head?_getD, List.head?_map, List.head?_filter]

theorem votes_isEmpty : (votes s e f).isEmpty = !(e.sel f.pm f.pn).any (votesFor s e f) := by
  rw [Bool.eq_iff_iff, votes_eq]
  simp

theorem votes_unanimous : (votes s e f).length = (e.sel f.pm f.pn).length ↔ (e.sel f.pm f.pn).all (votesFor s e f) = true := by
  rw [length_votes, List.countP_eq_length, List.all_eq_true]

/-! ## The statements -/

theorem masks : Part.Masks := fun f =>
  ⟨truthResult_of (exec_mand · f) fun _ _ _ _ => rfl,
    truthResult_of (exec_mor · f) fun _ _ _ _ => rfl,
    truthResult_of (exec_mxor · f) fun _ _ _ _ => rfl,
    truthResult_of (exec_mnot · f) fun _ _ _ _ => rfl,
    truthResult_of (exec_mmov · f) fun _ _ _ _ => rfl,
    vectorResult_of (exec_mpop · f) fun _ s e _ _ => length_votes s e f,
    vectorResult_of (exec_mfirst · f) fun _ s e _ _ => headD_votes s e f 32⟩

theorem vote_result (f : VF) : VectorResult (.vote f) f 1 (fun s e _ _ => let P := e.sel f.pm f.pn
    match f.fn.toNat with
    | 0 => if P.any (fun p => laneBit s e p.1 p.2 f.a) then 1 else 0
    | 1 => if P.all (fun p => laneBit s e p.1 p.2 f.a) then 1 else 0
    | _ => (maskOf ((P.filter fun p => laneBit s e p.1 p.2 f.a).map Prod.fst) : LaneMask).toNat) :=
  vectorResult_of (exec_vote · f) fun _ s e _ _ => by
    dsimp only
    generalize f.fn.toNat = fn
    rcases fn with _ | _ | fn
    · show (if (votes s e f).isEmpty = true then 0 else 1) = if (e.sel f.pm f.pn).any (votesFor s e f) = true then 1 else 0
      rw [votes_isEmpty]
      cases (e.sel f.pm f.pn).any (votesFor s e f) <;> rfl
    · exact if_congr (votes_unanimous s e f) rfl rfl
    · rfl

theorem laneExchange : Part.LaneExchange := fun f =>
  ⟨vote_result f,
    vectorResult_of (exec_shfl · f) fun _ _ _ _ _ => rfl,
    vectorResult_of (exec_bcast · f) fun _ _ _ _ _ => rfl,
    vectorResult_of (exec_lred · f) fun _ _ _ _ _ => rfl,
    vectorResult_of (exec_lscan · f) fun _ _ _ _ _ => rfl⟩

/-- Settles O11: the instructions' functions are the statement's, but for `votes`, which lists the lanes whose bit is 1: its length counts them, its head
is the lowest, it is empty where no lane's bit is 1 and as long as the selection where every lane's is. -/
theorem masksAndLanes : Obligations.MasksAndLanes := ⟨masks, laneExchange⟩

end Sys2Proof
end

section
/-! PROOFS. Transfers of control (R272 to R274, R277, R278): a clause's end sends every thread of the bundle to the resume point that the clause-ending
instruction fixed for its lane, and to the fall-through where it fixed none; O13 is put together here. -/

namespace Sys2Proof

open Machine

/-! ## Threads and map entries changed once each -/

section
variable {k : Nat} {f : State → Nat × Nat → State} {F : Nat × Nat → Thread → Thread}
  (hf : ∀ u p i, (f u p).thread k i = if i = p.2 then (u.thread k p.2).map (F p) else u.thread k i)
include hf

/-- Threads are changed in turn; one that is not of the list is as before. -/
theorem foldl_thread_out {i : Nat} {ls : List (Nat × Nat)} (hi : i ∉ ls.map Prod.snd) (t : State) : (ls.foldl f t).thread k i = t.thread k i :=
  foldl_keeps (P := fun u : State => u.thread k i = t.thread k i) ls f
    (fun u p hp hu => by rw [hf, if_neg fun h => hi (List.mem_map.mpr ⟨p, hp, h.symm⟩), hu]) rfl

/-- One that is of the list comes out changed once. -/
theorem foldl_thread_in {p : Nat × Nat} {ls : List (Nat × Nat)} (hn : (ls.map Prod.snd).Nodup) (hp : p ∈ ls) (t : State) :
    (ls.foldl f t).thread k p.2 = (t.thread k p.2).map (F p) := by
  induction ls generalizing t with
  | nil => exact absurd hp List.not_mem_nil
  | cons q ls ih =>
    rw [List.map_cons, List.nodup_cons] at hn
    rw [List.foldl_cons]
    rcases List.mem_cons.mp hp with rfl | hp
    · rw [foldl_thread_out hf hn.1, hf, if_pos rfl]
    · rw [ih hn.2 hp, hf, if_neg fun h => hn.1 (List.mem_map.mpr ⟨p, hp, h⟩)]

end

section
variable {α β : Type} (key : α → Nat) (val : α → β)

theorem mapGet_foldl_out {l : Nat} {ls : List α} (hl : l ∉ ls.map key) (m : Map β) :
    mapGet? (ls.foldl (fun m p => mapSet m (key p) (val p)) m) l = mapGet? m l :=
  foldl_keeps (P := fun x : Map β => mapGet? x l = mapGet? m l) ls _
    (fun x p hp hx => by rw [mapGet_set, if_neg fun h => hl (List.mem_map.mpr ⟨p, hp, h.symm⟩), hx]) rfl

theorem mapGet_foldl_in {p : α} {ls : List α} (hn : (ls.map key).Nodup) (hp : p ∈ ls) (m : Map β) :
    mapGet? (ls.foldl (fun m p => mapSet m (key p) (val p)) m) (key p) = some (val p) := by
  induction ls generalizing m with
  | nil => exact absurd hp List.not_mem_nil
  | cons q ls ih =>
    rw [List.map_cons, List.nodup_cons] at hn
    rw [List.foldl_cons]
    rcases List.mem_cons.mp hp with rfl | hp
    · rw [mapGet_foldl_out key val hn.1, mapGet_set, if_pos rfl]
    · exact ih hn.2 hp _

end

/-! ## The bundle's lanes -/

/-- What makes a thread a lane's: its group, its lane, and that it has not exited. -/
def laneKey (th : Thread) : Nat × Nat × TState := (th.grp, th.lane, th.st)

theorem tidAt_eq_find (t : Team) (g l : Nat) : tidAt t g l = (List.range (t.threads.map laneKey).length).find? fun i =>
    ((t.threads.map laneKey)[i]?).any fun q => q.1 == g && q.2.1 == l && q.2.2 != .exited := by
  rw [tidAt, List.length_map]
  congr 1
  funext i
  rw [List.getElem?_map]
  cases t.threads[i]? <;> rfl

/-- Threads that keep their places make the same lanes. -/
theorem lanesOf_of_laneKeys {s u : State} {k : Nat} {t : Team} (ht : s.team k = some t)
    (h : ∀ i, (u.thread k i).map laneKey = (s.thread k i).map laneKey) (g : Nat) (m : LaneMask) : lanesOf ((u.team k).getD t) g m = lanesOf t g m := by
  cases hu : u.team k with
  | none => rfl
  | some t' =>
    have hkeys : t'.threads.map laneKey = t.threads.map laneKey := List.ext_getElem? fun i => by
      have hi := h i
      simp only [State.thread, hu, ht, Option.bind_some] at hi
      rw [List.getElem?_map, List.getElem?_map, hi]
    have htid : ∀ l, tidAt t' g l = tidAt t g l := fun l => by rw [tidAt_eq_find, tidAt_eq_find, hkeys]
    simp only [Option.getD_some, lanesOf, htid]

/-- A lane of the bundle has one thread, and a thread one lane. -/
theorem lane_eq_of_fst {e : Env} {p q : Nat × Nat} (hp : p ∈ e.lanes) (hq : q ∈ e.lanes) (h : p.1 = q.1) : p = q :=
  Prod.ext h (Option.some.inj ((mem_lanesOf hp).1.symm.trans (h ▸ (mem_lanesOf hq).1)))
theorem lane_eq_of_snd {e : Env} {p q : Nat × Nat} (hp : p ∈ e.lanes) (hq : q ∈ e.lanes) (h : p.2 = q.2) : p = q :=
  Prod.ext (lane_unique (i := p.2) hp (h ▸ hq)) h

theorem lanes_fst_nodup {e : Env} {ls : List (Nat × Nat)} (hs : ls.Sublist e.lanes) : (ls.map Prod.fst).Nodup :=
  List.Nodup.map_on (fun _ hp _ hq h => lane_eq_of_fst (hs.subset hp) (hs.subset hq) h) ((lanes_nodup e).sublist hs)

theorem mem_sel {e : Env} {pm : BitVec 4} {pn : BitVec 1} {l tid : Nat} (hm : (l, tid) ∈ e.lanes) : (l, tid) ∈ e.sel pm pn ↔ selects e pm pn l = true := by
  rw [Env.sel, List.mem_filter, and_iff_right hm]
  rfl

/-! ## Resume points fixed before the clause ends (R272) -/

/-- The resume point at a clause address that a transfer gives a thread. -/
def resumeAt (e : Env) (a : Nat) : Resume := { prio := hdrPrio e.hdr, clause := a }
/-- A group whose bundle has a lane's next resume point fixed. -/
def fixNext (l : Nat) (r : Resume) (gr : Group) : Group := { gr with bundle := gr.bundle.map fun b => { b with next := mapSet b.next l r } }

theorem transferTo_eq (s : State) (e : Env) (l a : Nat) : transferTo s e l a = s.updGroup e.tk e.g (fixNext l (resumeAt e a)) := rfl

/-- A step for one lane of a transfer of control: it changes the lane's thread by F, which leaves the thread in its place, and fixes its next resume
point at the address a. -/
structure Routes (e : Env) (f : State → Nat × Nat → State) (F : Nat × Nat → Thread → Thread) (a : Nat × Nat → Nat) : Prop where
  thread : ∀ u p i, (f u p).thread e.tk i = if i = p.2 then (u.thread e.tk p.2).map (F p) else u.thread e.tk i
  group : ∀ u p, (f u p).group e.tk e.g = (u.group e.tk e.g).map (fixNext p.1 (resumeAt e (a p)))
  place : ∀ p th, laneKey (F p th) = laneKey th

theorem routes_transferTo (e : Env) (a : Nat × Nat → Nat) : Routes e (fun u p => transferTo u e p.1 (a p)) (fun _ th => th) a where
  thread u p i := by
    rw [transferTo_eq, thread_updGroup, Option.map_id']
    split
    · next h => rw [h]
    · rfl
  group u p := by rw [transferTo_eq, group_updGroup, if_pos ⟨rfl, rfl⟩]
  place _ _ := rfl

theorem routes_updThread (e : Env) {F : Nat × Nat → Thread → Thread} (a : Nat × Nat → Nat) (hF : ∀ p th, laneKey (F p th) = laneKey th) :
    Routes e (fun u p => transferTo (u.updThread e.tk p.2 (F p)) e p.1 (a p)) F a where
  thread u p i := by
    rw [transferTo_eq, thread_updGroup, thread_updThread_team]
  group u p := by rw [transferTo_eq, group_updGroup, if_pos ⟨rfl, rfl⟩, group_updThread]
  place := hF

section
variable {s : State} {e : Env} {f : State → Nat × Nat → State} {F : Nat × Nat → Thread → Thread} {a : Nat × Nat → Nat} {ls : List (Nat × Nat)}
  (h : envOf s = some e) (hr : Routes e f F a)
include hr

theorem Routes.laneKeys (u : State) (i : Nat) : ((ls.foldl f u).thread e.tk i).map laneKey = (u.thread e.tk i).map laneKey := by
  refine foldl_keeps (P := fun v : State => (v.thread e.tk i).map laneKey = (u.thread e.tk i).map laneKey) ls f (fun v p _ hv => ?_) rfl
  rw [hr.thread]
  split
  · next hi =>
    rw [← hv, hi, Option.map_map]
    congr 1
    funext th
    exact hr.place p th
  · exact hv

/-- The resume points fixed for the lanes of a list stand in the bundle. -/
theorem Routes.bundle {u : State} {gr : Group} {b : Bundle} (hgr : u.group e.tk e.g = some gr) (hb : gr.bundle = some b) :
    ∃ gr', (ls.foldl f u).group e.tk e.g = some gr' ∧
      gr'.bundle = some { b with next := ls.foldl (fun m p => mapSet m p.1 (resumeAt e (a p))) b.next } := by
  induction ls generalizing u gr b with
  | nil => exact ⟨gr, hgr, hb⟩
  | cons p ls ih =>
    exact ih (u := f u p) (gr := fixNext p.1 (resumeAt e (a p)) gr) (b := { b with next := mapSet b.next p.1 (resumeAt e (a p)) })
      (by rw [hr.group, hgr, Option.map_some]) (by rw [fixNext, hb, Option.map_some])

include h

/-- The thread of a lane, once the lanes of a list have been routed. -/
theorem Routes.thread_after (hs : ls.Sublist e.lanes) {p : Nat × Nat} (hp : p ∈ e.lanes) :
    (ls.foldl f s).thread e.tk p.2 = some (if p ∈ ls then F p (e.thread p.2) else e.thread p.2) := by
  obtain ⟨hth, -, -⟩ := thread_of_lane h hp
  by_cases hm : p ∈ ls
  · rw [foldl_thread_in hr.thread (lanes_tids_nodup hs) hm, hth, if_pos hm, Option.map_some]
  · rw [foldl_thread_out hr.thread, hth, if_neg hm]
    intro hi
    obtain ⟨q, hq, hqp⟩ := List.mem_map.mp hi
    exact hm (lane_eq_of_snd hp (hs.subset hq) hqp.symm ▸ hq)

end

/-! ## The end of the clause -/

theorem MovedOn.link {th th' : Thread} (h : MovedOn th th') : th'.link = th.link := by rw [h]
theorem MovedOn.runnable {th th' : Thread} (h : MovedOn th th') : th'.st = .runnable := by rw [h]
theorem MovedOn.fetch {th th' : Thread} (h : MovedOn th th') : th'.fetch = true := by rw [h]

/-- A thread at the end of its bundle's clause, with the resume point fixed for its lane or the fall-through. -/
def resumed (gr : Group) (b : Bundle) (p : Nat × Nat) (th : Thread) : Thread :=
  { th with
    st := .runnable, rp := (mapGet? b.next p.1).getD { prio := hdrPrio (b.words.headD 0), clause := fallThrough b }, fetch := true, xfer := b.lanes
    safe := if hdrSafe (b.words.headD 0) && gr.flagMask == 0 then some (b.words.getD (hdrWords (b.words.headD 0) - 1) 0) else none, replay := none }

theorem endClause_eq {u : State} {e : Env} {gr : Group} {b : Bundle} (hgr : u.group e.tk e.g = some gr) (hb : gr.bundle = some b) :
    Machine.endClause u e = ((lanesOf ((u.team e.tk).getD e.team) e.g b.lanes).foldl (fun s p => s.updThread e.tk p.2 (resumed gr b p)) u).updGroup
      e.tk e.g fun gr => { gr with bundle := none } := by
  simp only [Machine.endClause, hgr, hb]
  rfl

theorem endClause_thread_in {u : State} {e : Env} {gr : Group} {b : Bundle} (hgr : u.group e.tk e.g = some gr) (hb : gr.bundle = some b)
    (hlanes : lanesOf ((u.team e.tk).getD e.team) e.g b.lanes = e.lanes) {p : Nat × Nat} (hp : p ∈ e.lanes) :
    (Machine.endClause u e).thread e.tk p.2 = (u.thread e.tk p.2).map (resumed gr b p) := by
  rw [endClause_eq hgr hb, hlanes, thread_updGroup]
  exact foldl_thread_in (fun v q i => thread_updThread_team v e.tk q.2 i (resumed gr b q)) (lanes_tids_nodup (List.Sublist.refl e.lanes)) hp u

theorem advance_last {v : State} {e : Env} {gr : Group} {b : Bundle} (hgr : v.group e.tk e.g = some gr) (hb : gr.bundle = some b)
    (hlast : ¬ b.index + 1 < hdrCount (b.words.headD 0)) : Machine.advance v e =
      Machine.endClause ((Machine.endReplay v e.tk e.g).updGroup e.tk e.g fun gr => { gr with bundle := some { b with snap := none } }) e := by
  simp only [Machine.advance, group_endReplay, hgr, hb, if_neg hlast]

theorem laneKeys_endReplay (u : State) (tk g k i : Nat) :
    ((Machine.endReplay u tk g).thread k i).map laneKey = (u.thread k i).map laneKey := by
  obtain ⟨f, hf, hx⟩ := thread_endReplay u tk g k i
  rw [hx, Option.map_map]
  congr 1
  funext th
  rw [Function.comp_apply]
  rcases hf th with h | h <;> rw [h]
  rfl

/-- The moving on of a bundle from the last instruction of its clause, where the threads have kept their places. -/
theorem advance_thread_last {s v : State} {e : Env} {gr : Group} {b : Bundle} (h : envOf s = some e) (hgr : v.group e.tk e.g = some gr)
    (hb : gr.bundle = some b) (hlast : ¬ b.index + 1 < hdrCount (b.words.headD 0)) (hlanes : b.lanes = e.b.lanes)
    (hkeys : ∀ i, (v.thread e.tk i).map laneKey = (s.thread e.tk i).map laneKey) {p : Nat × Nat} (hp : p ∈ e.lanes) {th : Thread}
    (hth : v.thread e.tk p.2 = some th) : ∃ th', (Machine.advance v e).thread e.tk p.2 = some th' ∧ MovedOn th th' ∧
      th'.rp = (mapGet? b.next p.1).getD { prio := hdrPrio (b.words.headD 0), clause := fallThrough b } := by
  obtain ⟨hteam, -, -⟩ := envOf_spec h
  obtain ⟨g, hg, hx⟩ := thread_endReplay v e.tk e.g e.tk p.2
  have hgr' : ((Machine.endReplay v e.tk e.g).updGroup e.tk e.g fun gr => { gr with bundle := some { b with snap := none } }).group e.tk e.g =
      some { gr with bundle := some { b with snap := none } } := by rw [group_updGroup, if_pos ⟨rfl, rfl⟩, group_endReplay, hgr, Option.map_some]
  rw [advance_last hgr hb hlast, endClause_thread_in hgr' rfl ?_ hp, thread_updGroup, hx, hth]
  · refine ⟨resumed _ _ p (g th), rfl, ?_, rfl⟩
    rcases hg th with hg | hg <;> rw [hg] <;> rfl
  · refine (lanesOf_of_laneKeys hteam (fun i => ?_) e.g b.lanes).trans (by rw [hlanes]; rfl)
    rw [thread_updGroup, laneKeys_endReplay, hkeys]

section
variable {s : State} {e : Env} {f : State → Nat × Nat → State} {F : Nat × Nat → Thread → Thread} {a : Nat × Nat → Nat} {ls : List (Nat × Nat)}
  (h : envOf s = some e) (hr : Routes e f F a) (hc : ClauseEnds e) (hs : ls.Sublist e.lanes)
include h hr hc hs

/-- Once the lanes of a list have been routed and the clause has ended, every thread of the bundle has moved on: those of the list, changed by F, to the
resume point at their address, the others, as they were, to the fall-through. -/
theorem Routes.moves {p : Nat × Nat} (hp : p ∈ e.lanes) : ∃ th, (Machine.advance (ls.foldl f s) e).thread e.tk p.2 = some th ∧
    MovedOn (if p ∈ ls then F p (e.thread p.2) else e.thread p.2) th ∧ th.rp = resumeAt e (if p ∈ ls then a p else fallThrough e.b) := by
  obtain ⟨-, -, hb0⟩ := envOf_spec h
  obtain ⟨hcount, hnone⟩ := hc
  obtain ⟨gr, hgr, hb⟩ := hr.bundle (ls := ls) (group_of_env h) hb0
  obtain ⟨th, hth, hmoved, hrp⟩ := advance_thread_last h hgr hb (hcount ▸ Nat.lt_irrefl _) rfl (hr.laneKeys s) hp (hr.thread_after h hs hp)
  refine ⟨th, hth, hmoved, hrp.trans ?_⟩
  dsimp only
  by_cases hm : p ∈ ls
  · rw [mapGet_foldl_in Prod.fst _ (lanes_fst_nodup hs) hm, if_pos hm, Option.getD_some]
  · rw [mapGet_foldl_out Prod.fst, hnone, if_neg hm, mapGet_nil, Option.getD_none]
    · rfl
    · intro hi
      obtain ⟨q, hq, hqp⟩ := List.mem_map.mp hi
      exact hm (lane_eq_of_fst hp (hs.subset hq) hqp.symm ▸ hq)

end

theorem goesTo_of_movedOn {t : State} {e : Env} {tid a : Nat} {th0 th : Thread} (ht : t.thread e.tk tid = some th) (hm : MovedOn th0 th)
    (hrp : th.rp = resumeAt e a) : GoesTo t e tid a :=
  ⟨th, ht, congrArg Resume.clause hrp, congrArg Resume.index hrp, hm.fetch, .inl hm.runnable⟩

/-! ## Branches and jmpi (R272 to R274, R278) -/

/-- An instruction that sends the threads of some lanes to their addresses, and does nothing else, is a transfer of control. -/
theorem transferResult_of {i : Instr} {dest : State → Env → Nat → Nat → Nat} (ls : State → Env → List (Nat × Nat)) (a : Env → Nat × Nat → Nat)
    (hexec : ∀ s e, Issues s i e → exec i s = .next (Machine.advance ((ls s e).foldl (fun u p => transferTo u e p.1 (a e p)) s) e))
    (hls : ∀ s e, (ls s e).Sublist e.lanes)
    (hdest : ∀ s e l tid, (l, tid) ∈ e.lanes → dest s e l tid = if (l, tid) ∈ ls s e then a e (l, tid) else fallThrough e.b) : TransferResult i dest := by
  intro s e h hc
  refine ⟨_, hexec s e h, fun l tid hm => ?_, Kept.advance (Kept.foldl _ _ (fun u p _ hu => ?_) _ (Kept.refl h.bundle _ _ _))⟩
  · obtain ⟨th, hth, hmoved, hrp⟩ := (routes_transferTo e (a e)).moves h.bundle hc (hls s e) hm
    rw [hdest s e l tid hm]
    exact goesTo_of_movedOn hth hmoved hrp
  · exact hu.updGroup _ fun gr => ⟨rfl, fun _ _ => rfl, fun _ _ => rfl⟩

/-- Two functions that agree where P holds, which one of them keeps, fold alike. -/
theorem foldl_eq_of_keeps {α σ : Type} {P : σ → Prop} {f g : σ → α → σ} (hfg : ∀ u x, P u → f u x = g u x) (hg : ∀ u x, P u → P (g u x))
    (l : List α) {u : σ} (hu : P u) : l.foldl f u = l.foldl g u := by
  induction l generalizing u with
  | nil => rfl
  | cons x xs ih => rw [List.foldl_cons, List.foldl_cons, hfg u x hu, ih (hg u x hu)]

section
variable {i : Instr} {f : BF} {taken : Env → State → Nat → Bool} (htaken : ∀ s u e l, OnlyTeams s u → taken e u l = taken e s l)
include htaken

/-- A branch reads its condition from what no transfer changes, so it is as in the state that issues. -/
theorem branch_exec {s : State} {e : Env} (h : Issues s i e) : branch s i f taken =
    .next (Machine.advance (((e.sel f.pm f.pn).filter fun p => taken e s p.1).foldl (fun u p => transferTo u e p.1 (targetOf e f)) s) e) := by
  rw [branch, h.simple, List.foldl_filter]
  congr 2
  refine foldl_eq_of_keeps (P := OnlyTeams s) (fun u p hu => ?_) (fun u p hu => ?_) _ (.refl s)
  · simp only [htaken s u e p.1 hu]
  · split
    · exact hu.trans (onlyTeams_updGroup ..)
    · exact hu

theorem branch_result (hexec : ∀ s, exec i s = branch s i f taken) :
    TransferResult i fun s e l _ => if selects e f.pm f.pn l && taken e s l then targetOf e f else fallThrough e.b :=
  transferResult_of (fun s e => (e.sel f.pm f.pn).filter fun p => taken e s p.1) (fun e _ => targetOf e f)
    (fun s e h => (hexec s).trans (branch_exec htaken h)) (fun s e => List.filter_sublist.trans (sel_sublist ..))
    fun _ _ _ _ hm => if_congr (by rw [List.mem_filter, mem_sel hm, Bool.and_eq_true]) rfl rfl

end

theorem jmpi_result (f : OF) : TransferResult (.jmpi f) fun _ e l tid => if selects e f.pm f.pn l then (src64 e tid f.a).toNat else fallThrough e.b :=
  transferResult_of (fun _ e => e.sel f.pm f.pn) (fun e p => (src64 e p.2 f.a).toNat) (fun _ _ h => (exec_jmpi ..).trans (h.simple _))
    (fun _ e => sel_sublist e ..) fun _ _ _ _ hm => if_congr (mem_sel hm).symm rfl rfl

theorem branches : Part.Branches :=
  ⟨fun f => by simpa only [Bool.and_true] using branch_result (i := .bra f) (f := f) (taken := fun _ _ _ => true) (fun _ _ _ _ _ => rfl) (exec_bra · f),
    fun f => branch_result (taken := fun e _ l => bit (e.grp.mask f.mreg.toNat) l == (f.fn == 0)) (fun _ _ _ _ _ => rfl) (exec_brm · f),
    fun f => branch_result (taken := fun e s _ => (uni32 s e f.a != 0) == (f.fn == 0)) (fun _ _ _ _ hu => by rw [uni32, uni32, hu.src32]) (exec_brg · f),
    jmpi_result⟩

/-! ## Calls and returns (R277, R278) -/

/-- One thread of an instruction that uses the private stack: where it faults, the fault joins those of the threads before it. -/
def stackStep (k : State → Env → Ctx → Nat → Nat → Stack State) (e : Env) (c : Ctx) (acc : Stack (List (Nat × FaultInfo))) (p : Nat × Nat) :
    Stack (List (Nat × FaultInfo)) :=
  acc.bind fun fs s => match k s e c p.1 p.2 with
    | .ok s' _ => .ok fs s'
    | .wait s => .wait s
    | .fault f s => .ok (fs ++ [(p.2, f)]) s

section
variable {s u : State} {i : Instr} {e : Env} {c : Ctx} {sel : Env → List (Nat × Nat)} {k : State → Env → Ctx → Nat → Nat → Stack State}
  (h : Issues s i e) (hx : s.ctx e.team.ctx = some c)
include h hx

/-- Where no thread has to wait, those that fault park and the bundle moves on (R276). -/
theorem stackInsn_done {fs : List (Nat × FaultInfo)} (hrun : (sel e).foldl (stackStep k e c) (.ok [] s) = .ok fs u) :
    stackInsn s i sel k = .next (Machine.advance ((errorWins fs).foldl (fun s x => parkThread s e.tk x.1 x.2) u) e) := by
  rw [stackInsn, h.withGate]
  simp only [hx]
  generalize hr : List.foldl _ (Stack.ok [] s) (sel e) = r
  obtain rfl : r = .ok fs u := hr.symm.trans hrun
  rfl

/-- Where every thread's work is one step on the state, the instruction is these steps and the moving on. -/
theorem stackInsn_steps {step : State → Nat × Nat → State} (hk : ∀ p ∈ sel e, ∀ u, k u e c p.1 p.2 = .ok (step u p) (step u p)) :
    stackInsn s i sel k = .next (Machine.advance ((sel e).foldl step s) e) := by
  refine stackInsn_done h hx (fs := []) ?_
  generalize sel e = ls at hk
  clear h hx
  induction ls generalizing s with
  | nil => rfl
  | cons p ls ih =>
    rw [List.foldl_cons, List.foldl_cons, stackStep, Stack.bind, hk p List.mem_cons_self]
    exact ih fun q hq => hk q (List.mem_cons_of_mem _ hq)

end

/-- An instruction that changes each selected thread's link stack and sends the thread to an address is a transfer of control that changes the link
stacks besides. -/
theorem linkTransfer_result {s : State} {i : Instr} {e : Env} {pm : BitVec 4} {pn : BitVec 1} {k : State → Env → Ctx → Nat → Nat → Stack State}
    {F : Nat × Nat → Thread → Thread} {a : Nat × Nat → Nat} (h : Issues s i e) (hc : ClauseEnds e) (hx : (s.ctx e.team.ctx).isSome = true)
    (hexec : exec i s = stackInsn s i (fun e => e.sel pm pn) k) (hF : ∀ p th, laneKey (F p th) = laneKey th)
    (hk : ∀ c, ∀ p ∈ e.sel pm pn, ∀ u, k u e c p.1 p.2 =
      .ok (transferTo (u.updThread e.tk p.2 (F p)) e p.1 (a p)) (transferTo (u.updThread e.tk p.2 (F p)) e p.1 (a p))) :
    ∃ t, exec i s = .next t ∧ OnlyTeams s t ∧ ∀ l tid, (l, tid) ∈ e.lanes →
      GoesTo t e tid (if selects e pm pn l then a (l, tid) else fallThrough e.b) ∧ ∃ th, t.thread e.tk tid = some th ∧
        th.link = if selects e pm pn l then (F (l, tid) (e.thread tid)).link else (e.thread tid).link := by
  obtain ⟨c, hctx⟩ := Option.isSome_iff_exists.mp hx
  refine ⟨_, hexec.trans (stackInsn_steps h hctx (hk c)), (onlyTeams_foldl _ _ (fun u p => ?_) s).trans (onlyTeams_advance ..), fun l tid hm => ?_⟩
  · exact (onlyTeams_updThread ..).trans (onlyTeams_updGroup ..)
  · obtain ⟨th, hth, hmoved, hrp⟩ := (routes_updThread e a hF).moves h.bundle hc (sel_sublist e pm pn) hm
    simp only [mem_sel hm] at hmoved hrp
    exact ⟨goesTo_of_movedOn hth hmoved hrp, th, hth, hmoved.link.trans (apply_ite Thread.link ..)⟩

/-- A thread with the fall-through pushed on the links it holds on chip, and one with its last link popped. -/
def pushed (e : Env) (th : Thread) : Thread := { th with link := th.link ++ [BitVec.ofNat 64 (fallThrough e.b)] }
def popped (th : Thread) : Thread := { th with link := th.link.dropLast }

theorem callTo_onChip {e : Env} {tid : Nat} (h : (e.thread tid).link.length < 4) (u : State) (c : Ctx) (l a : Nat) :
    callTo u e c l tid a = .ok (transferTo (u.updThread e.tk tid (pushed e)) e l a) (transferTo (u.updThread e.tk tid (pushed e)) e l a) := by
  rw [callTo, pushLink, if_pos h]
  rfl

theorem popLink_onChip {e : Env} {tid : Nat} (h : (e.thread tid).link ≠ []) (u : State) (c : Ctx) (l : Nat) :
    popLink u e c l tid = .ok ((e.thread tid).link.getLastD 0).toNat (u.updThread e.tk tid popped) := by
  rw [popLink, List.getLastD_eq_getLast?, List.getLast?_eq_some_getLast h]
  rfl

theorem calls : Part.Calls :=
  ⟨fun f s _ h hc hx hl => linkTransfer_result (F := fun _ => pushed _) (a := fun _ => targetOf _ f) h hc hx (exec_call ..) (fun _ _ => rfl)
      fun c p hp u => callTo_onChip (hl p hp) u c p.1 _,
    fun f s e h hc hx hl => linkTransfer_result (F := fun _ => pushed e) (a := fun p => (src64 e p.2 f.a).toNat) h hc hx (exec_calli ..) (fun _ _ => rfl)
      fun c p hp u => callTo_onChip (hl p hp) u c p.1 _,
    fun f s e h hc hx hl => linkTransfer_result (F := fun _ => popped) (a := fun p => ((e.thread p.2).link.getLastD 0).toNat) h hc hx (exec_ret ..)
      (fun _ _ => rfl) fun c p hp u => by rw [popLink_onChip (hl p hp)]; rfl⟩

/-- Settles O13: a step for one lane fixes its thread's next resume point, and the clause's end sends every thread of the bundle to the point fixed for
its lane, or to the fall-through (`Routes.moves`). -/
theorem branchesAndCalls : Obligations.BranchesAndCalls := ⟨branches, calls⟩

end Sys2Proof
end

section
/-! PROOFS. The layer on private-stack accesses made in one step: translation, admission and the accesses at the homes leave the teams alone (R18, R44,
R49, R123, R124, R143, R276). -/

namespace Sys2Proof.Machine

/-! ## Answers that leave the teams alone -/

/-- An answer of a home, unless it is to wait, leaves the teams as they were. -/
def Home.TeamsSame {α : Type} (x : Home α) (s : State) : Prop :=
  match x with
  | .ok _ u => u.teams = s.teams
  | .poisoned _ u => u.teams = s.teams
  | .refused _ _ _ u => u.teams = s.teams
  | .wait _ => True

/-- An access that is done leaves the teams as they were. -/
def Virt.TeamsSame {α : Type} (x : Virt α) (s : State) : Prop :=
  match x with
  | .ok _ u => u.teams = s.teams
  | _ => True

theorem Home.TeamsSame.of_eq {α : Type} {x : Home α} {s u : State} (hx : x.TeamsSame u) (hu : u.teams = s.teams) : x.TeamsSame s := by
  cases x with
  | ok a v => exact (hx : v.teams = u.teams).trans hu
  | poisoned a v => exact (hx : v.teams = u.teams).trans hu
  | refused c b r v => exact (hx : v.teams = u.teams).trans hu
  | wait v => trivial

theorem Home.TeamsSame.bind {α β : Type} {x : Home α} {s : State} {f : α → State → Home β} (hx : x.TeamsSame s) (hf : ∀ a u, (f a u).TeamsSame u) :
    (x.bind f).TeamsSame s := by
  cases x with
  | ok a u => exact (hf a u).of_eq hx
  | poisoned a u => exact hx
  | refused c b r u => exact hx
  | wait u => trivial

theorem Virt.TeamsSame.of_eq {α : Type} {x : Virt α} {s u : State} (hx : x.TeamsSame u) (hu : u.teams = s.teams) : x.TeamsSame s := by
  cases x with
  | ok a v => exact (hx : v.teams = u.teams).trans hu
  | wait v => trivial
  | fault c as a r v => trivial

theorem Virt.TeamsSame.bind {α β : Type} {x : Virt α} {s : State} {f : α → State → Virt β} (hx : x.TeamsSame s) (hf : ∀ a u, (f a u).TeamsSame u) :
    (x.bind f).TeamsSame s := by
  cases x with
  | ok a u => exact (hf a u).of_eq hx
  | wait u => trivial
  | fault c as a r u => trivial

theorem Virt.bind_eq_ok {α β : Type} {x : Virt α} {f : α → State → Virt β} {b : β} {w : State} (h : x.bind f = .ok b w) :
    ∃ a u, x = .ok a u ∧ f a u = .ok b w := by
  cases x with
  | ok a u => exact ⟨a, u, rfl, h⟩
  | wait u => cases h
  | fault c as a r u => cases h

theorem Home.KeepsTeams.of_eq {α : Type} {x : Home α} {s u : State} (hx : x.KeepsTeams u) (hu : u.teams = s.teams) : x.KeepsTeams s := by
  cases x with
  | ok a v => exact (hx : v.teams = u.teams).trans hu
  | poisoned a v => exact (hx : v.teams = u.teams).trans hu
  | _ => trivial

theorem Home.KeepsTeams.bind {α β : Type} {x : Home α} {s : State} {f : α → State → Home β} (hx : x.KeepsTeams s) (hf : ∀ a u, (f a u).KeepsTeams u) :
    (x.bind f).KeepsTeams s := by
  cases x with
  | ok a u => exact (hf a u).of_eq hx
  | poisoned a u => exact hx
  | _ => trivial

theorem Home.KeepsTeams.toVirt {α : Type} {x : Home α} {s : State} (hx : x.KeepsTeams s) (va : Nat) : (x.toVirt va).TeamsSame s := by
  cases x with
  | ok a u => exact hx
  | _ => trivial

theorem Home.TeamsSame.keepsTeams {α : Type} {x : Home α} {s : State} (hx : x.TeamsSame s) : x.KeepsTeams s := by
  cases x with
  | ok a u => exact hx
  | poisoned a u => exact hx
  | _ => trivial

/-! ## Writes at a home (R44, R49, R92, R143) -/

theorem teams_performWrite (s : State) (ea : Nat) (bs : List Byte) : (performWrite s ea bs).teams = s.teams := by
  unfold performWrite
  dsimp only
  split
  all_goals
    simp only [teams_touchPage, teams_markDirtyPage, teams_markMigration, teams_markWritten, updLine_teams, writeMem_teams, teams_mscRemove, teams_l2Fill]

theorem teams_invalidateNow (s : State) (line : Nat) (x : Option Nat) : (invalidateNow s line x).teams = s.teams :=
  (updLine_teams ..).trans (cachesOnly_dropCopies ..).teams

theorem teams_lostAccess (s : State) (ea : Nat) : (lostAccess s ea).teams = s.teams := rfl

theorem teams_grantRefused {s u : State} {ea r : Nat} {c : Cause} (h : grantRefused s ea = some (c, r, u)) : u.teams = s.teams := by
  unfold grantRefused at h
  dsimp only at h
  split_ifs at h <;> cases h <;> rfl

theorem teamsSame_peerAccess {s : State} {core : Option Nat} {ea n : Nat} {put : Option (List Byte)} {atom : Option (Nat × Nat)} {holds : List Nat}
    {r : Home (List Byte)} (h : peerAccess s core ea n put atom holds = some r) : r.TeamsSame s := by
  unfold peerAccess at h
  split at h
  · cases h
  split at h
  · cases h
    split
    · trivial
    · dsimp only
      split <;> rfl
  · split at h
    · cases h
    · cases h; trivial

/-- A reserve home's decision, unless it is to wait, leaves the teams as they were. -/
def Adm.TeamsSame (x : Adm) (s : State) : Prop :=
  match x with
  | .grant u => u.teams = s.teams
  | .refuse u _ _ => u.teams = s.teams
  | .wait _ => True

theorem teamsSame_admission (s : State) (b ctx : Nat) : (Machine.admission s b ctx).TeamsSame s := by
  unfold Machine.admission
  dsimp only
  split
  · exact rfl
  split
  · trivial
  split
  · split
    · trivial
    split
    · split
      · exact updPage_teams ..
      · exact rfl
    · trivial
  split
  · exact rfl
  split
  · exact (updBillet_teams ..).trans ((teams_markMigration ..).trans ((updCtx_teams ..).trans (teams_touchDesc ..)))
  · exact (teams_markMigration ..).trans (teams_touchDesc ..)

theorem teamsSame_storeAtHome {α : Type} (s : State) (ctx ea n : Nat) (core : Option Nat) {act : State → Home α} (hact : ∀ u, (act u).TeamsSame u) :
    (storeAtHome s ctx ea n core act).TeamsSame s := by
  unfold storeAtHome
  dsimp only
  split
  · next h => exact teams_grantRefused h
  split
  · trivial
  split
  · trivial
  split
  · trivial
  split
  · refine (hact _).of_eq ?_
    cases core <;> simp only [updCore_teams, teams_invalidateNow, teams_recallNow, teams_dirErrorNow]
  · have hadm := teamsSame_admission s (billetOf ea) ctx
    split
    · next u hu =>
      rw [hu] at hadm
      refine (hact _).of_eq (Eq.trans ?_ hadm)
      cases core <;> simp only [updCore_teams, teams_invalidateNow, teams_recallNow, teams_dirErrorNow]
    · next u c r hu => rw [hu] at hadm; exact hadm
    · trivial

theorem teamsSame_writeLine (s : State) (ctx ea : Nat) (bs : List Byte) (core : Option Nat) : (writeLine s ctx ea bs core).TeamsSame s := by
  unfold writeLine
  split
  · exact teams_lostAccess s ea
  split
  · next h => exact (teamsSame_peerAccess h).bind fun _ _ => rfl
  · exact teamsSame_storeAtHome s ctx ea _ core fun u => teams_performWrite u ea bs

theorem teamsSame_rmwLine (s : State) (ctx ea n : Nat) (f : List Byte → List Byte) (core : Option Nat) : (rmwLine s ctx ea n f core).TeamsSame s := by
  unfold rmwLine
  dsimp only
  split
  · exact teams_lostAccess s ea
  split
  · next h => exact (teamsSame_peerAccess h).bind fun old u => (teamsSame_writeLine u ..).bind fun _ _ => rfl
  split
  · exact rfl
  · refine teamsSame_storeAtHome s ctx ea n core fun u => ?_
    split
    · exact teams_l2Fill ..
    · exact (teams_performWrite ..).trans (teams_l2Fill ..)

/-! ## Translation (R18, R19) -/

theorem teamsSame_homeWalkRead (s : State) (core : Option Nat) (ea : Nat) : (homeWalkRead s core ea).TeamsSame s := by
  have hfill : ∀ cs, (l2Fill (recallNow (dirErrorNow s (lineOf ea)) (lineOf ea) (BitVec.allOnes 32) true) (lineOf ea) cs).teams = s.teams := fun _ => by
    simp only [teams_l2Fill, teams_recallNow, teams_dirErrorNow]
  unfold homeWalkRead
  dsimp only
  split
  · trivial
  split
  · trivial
  split
  · trivial
  split
  · exact hfill _
  · refine (teams_touchPage ..).trans ?_
    cases core
    · exact hfill _
    · exact (updLine_teams ..).trans (hfill _)

theorem teamsSame_homeWalkCas (s : State) (core : Option Nat) (ctx ea : Nat) (old new : DWord) : (homeWalkCas s core ctx ea old new).TeamsSame s :=
  (teamsSame_rmwLine ..).bind fun _ u => by cases core <;> rfl

theorem teamsSame_walkStep (s : State) (core : Option Nat) (w : Walker) : (walkStep s core w).TeamsSame s := by
  unfold walkStep
  split
  · exact rfl
  split
  · next ea pte _ =>
    have h := teamsSame_homeWalkCas s core w.ctx ea pte (updatedPte pte w.kind)
    split
    all_goals next hx => rw [hx] at h; exact h
  split
  · exact rfl
  · have h := teamsSame_homeWalkRead s core w.entry
    split
    all_goals next hx => rw [hx] at h; exact h

theorem teamsSame_walkRun (core : Option Nat) (n : Nat) (s : State) (w : Walker) : (walkRun core n s w).TeamsSame s := by
  induction n generalizing s w with
  | zero => trivial
  | succ n ih =>
    unfold walkRun
    split
    · exact rfl
    · exact (teamsSame_walkStep s core w).bind fun w u => ih u w

/-- A translation made at once that gives an address leaves the teams as they were. -/
def XlateNow.TeamsSame (x : XlateNow) (s : State) : Prop :=
  match x with
  | .ok _ _ _ u => u.teams = s.teams
  | _ => True

theorem teamsSame_xlateNow (s : State) (core : Option Nat) (ctx pslot va n kind : Nat) (sys : Bool) :
    (xlateNow s core ctx pslot va n kind sys).TeamsSame s := by
  have hgive : ∀ (u : State) (r : Xlate), u.teams = s.teams → XlateNow.TeamsSame (match r with
      | .ok t e p _ => XlateNow.ok t e p u
      | .fault c a x => .fault c a x u
      | .refused c b x => .refused c b x u
      | .miss => .wait u) s := fun u r hu => by
    cases r with
    | ok => exact hu
    | _ => trivial
  unfold xlateNow
  split
  · trivial
  split
  · trivial
  split
  · trivial
  next c _ _ _ g _ =>
  dsimp only
  split
  · have hrun := teamsSame_walkRun core 16 s (walkStart c ctx g kind sys)
    split
    · next w u hu =>
      rw [hu] at hrun
      split
      · refine hgive _ _ ?_
        cases core <;> exact hrun
      · exact hgive u _ hrun
      · trivial
      · trivial
    all_goals trivial
  · exact hgive s _ rfl

theorem teamsSame_partTargets (core : Option Nat) (ctx pslot kind : Nat) (sys : Bool) (segs : List (Nat × List Byte)) (s : State) :
    (partTargets core ctx pslot kind sys segs s).TeamsSame s := by
  induction segs generalizing s with
  | nil => exact rfl
  | cons p segs ih =>
    have h := teamsSame_xlateNow s core ctx pslot p.1 p.2.length kind sys
    unfold partTargets
    split
    · next hx =>
      rw [hx] at h
      exact ((ih _).of_eq h).bind fun _ _ => rfl
    all_goals trivial

theorem teamsSame_virtTargets (s : State) (core : Option Nat) (ctx pslot va : Nat) (bs : List Byte) (kind : Nat) (sys : Bool) :
    (virtTargets s core ctx pslot va bs kind sys).TeamsSame s := by
  unfold virtTargets
  split_ifs
  · trivial
  · exact teamsSame_partTargets ..

/-! ## OWN accesses (R123, R124, R152, R276) -/

theorem keepsTeams_ownRead (s : State) (core ctx : Nat) (p : Part) : (ownRead s core ctx p).KeepsTeams s := by
  have hread : ∀ ids : List Nat,
      (if ownHit s core p then ids.foldl (fun s i => (l1Read s core (lineOf p.ea * 128 + 16 * i)).2) s else s).teams = s.teams := fun ids => by
    split
    · exact teams_foldl _ _ (fun u i => (cachesOnly_l1Read u core _).teams) s
    · rfl
  unfold ownRead
  dsimp only
  split
  · exact keepsTeams_hostFetch ..
  split
  · exact keepsTeams_readLine ..
  generalize hv : (if ownHit s core p = true then _ else s) = v
  have hteams : v.teams = s.teams := hv ▸ hread _
  split
  · exact hteams
  split
  · trivial
  split
  · exact (keepsTeams_readLine ..).of_eq hteams
  · exact ((keepsTeams_readLine ..).of_eq hteams).bind fun _ _ => rfl

theorem teamsSame_ownReads (core ctx : Nat) (ps : List Part) (s : State) : (ownReads core ctx ps s).TeamsSame s := by
  induction ps generalizing s with
  | nil => exact rfl
  | cons p ps ih => exact ((keepsTeams_ownRead s core ctx p).toVirt p.va).bind fun _ u => (ih u).bind fun _ _ => rfl

theorem teamsSame_admitOwn (core ctx : Nat) (s : State) (p : Part) : (admitOwn core ctx s p).TeamsSame s := by
  unfold admitOwn
  split
  · exact rfl
  split
  · trivial
  · exact teamsSame_storeAtHome s ctx p.ea _ _ fun _ => rfl

/-- Parts are admitted in turn, whatever is refused on the way. -/
theorem teamsSame_admitParts {f : State → Part → Home (List Part)} (hf : ∀ s p, (f s p).TeamsSame s) (ps : List Part) (refs : List (Cause × Nat × Nat))
    (out : List Part) (s : State) : (admitParts f ps refs out s).TeamsSame s := by
  induction ps generalizing refs out s with
  | nil =>
    cases refs
    · exact rfl
    · trivial
  | cons p ps ih =>
    have h := hf s p
    unfold admitParts
    split
    · exact ih ..
    split
    · next hx => rw [hx] at h; exact (ih ..).of_eq h
    · trivial
    · trivial
    · next hx => rw [hx] at h; exact (ih ..).of_eq h

theorem teamsSame_sendBare (core : Nat) (holds : List Nat) (ps : List (Nat × List Byte)) (s : State) : (sendBare core holds ps s).TeamsSame s := by
  induction ps generalizing s with
  | nil => exact rfl
  | cons p ps ih =>
    unfold sendBare
    split
    · next h => exact (teamsSame_peerAccess h).bind fun _ u => ih u
    · trivial

theorem teams_ownWrite (s : State) (core : Nat) (p : Part) : (ownWrite s core p).teams = s.teams := by
  have hrecall : (if (s.line (lineOf p.ea)).owner = core then s else recallNow s (lineOf p.ea) (BitVec.allOnes 32) true).teams = s.teams := by
    split
    · rfl
    · exact teams_recallNow ..
  unfold ownWrite
  dsimp only
  rw [updCore_teams]
  split
  · rfl
  split
  all_goals
    simp only [updCore_teams, updBillet_teams, updLine_teams, teams_touchPage, teams_markDirtyPage, teams_markMigration, teams_l2Fill]
    exact hrecall

theorem teams_putOwn (s : State) (core team : Nat) (p : Part) : (putOwn s core team p).teams = s.teams := by
  unfold putOwn
  split
  · rfl
  split
  · exact (updCore_teams ..).trans (teams_performWrite ..)
  · exact teams_ownWrite ..

theorem teamsSame_ownWrites (core ctx team : Nat) (ps : List Part) (s : State) : (ownWrites core ctx team ps s).TeamsSame s :=
  (teamsSame_admitParts (teamsSame_admitOwn core ctx) ..).bind fun _ _ => ((teamsSame_sendBare ..).keepsTeams.toVirt _).bind fun _ u =>
    teams_foldl _ _ (fun u p => teams_putOwn u core team p) u

/-! ## The private stack (R276) -/

theorem teamsSame_stackParts (s : State) (e : Env) (tid va : Nat) (bs : List Byte) (kind : Nat) : (stackParts s e tid va bs kind).TeamsSame s :=
  (teamsSame_virtTargets ..).bind fun _ u => by
    split
    · trivial
    · exact rfl

theorem liftStack_ok {α : Type} {e : Env} {lane : Nat} {x : Virt α} {a : α} {u : State} (h : liftStack e lane x = .ok a u) : x = .ok a u := by
  cases x with
  | ok => cases h; rfl
  | wait => cases h
  | fault => cases h

theorem Virt.TeamsSame.eq {α : Type} {x : Virt α} {s u : State} {a : α} (h : x.TeamsSame s) (hx : x = .ok a u) : u.teams = s.teams := by
  rw [hx] at h
  exact h

theorem thread_of_teams {s u : State} (h : u.teams = s.teams) (k i : Nat) : u.thread k i = s.thread k i := by
  simp only [State.thread, State.team, h]

/-- A load of a thread's private stack leaves the threads as they were. -/
theorem thread_stackLoad {s u : State} {e : Env} {lane tid va n : Nat} {bs : List Byte} (h : stackLoad s e lane tid va n = .ok bs u) (k i : Nat) :
    u.thread k i = s.thread k i :=
  thread_of_teams (((teamsSame_stackParts ..).bind fun ps v => teamsSame_ownReads _ _ ps v).eq (liftStack_ok h)) k i

/-- A store leaves the threads of its team as they were; it is progress of the team. -/
theorem thread_stackStore {s u : State} {e : Env} {lane tid va : Nat} {bs : List Byte} (h : stackStore s e lane tid va bs = .ok () u) (i : Nat) :
    u.thread e.tk i = s.thread e.tk i := by
  obtain ⟨ps, v, hparts, hwrites⟩ := Virt.bind_eq_ok (liftStack_ok h)
  obtain ⟨_, w, hw, hu⟩ := Virt.bind_eq_ok hwrites
  cases hu
  rw [thread_progress]
  exact thread_of_teams (((teamsSame_ownWrites ..).eq hw).trans ((teamsSame_stackParts ..).eq hparts)) e.tk i

end Sys2Proof.Machine
end

section
/-! PROOFS. The private stack of a bundle of one thread (R276 to R279): frames pushed and popped, links spilled and reloaded, and the faults at the stack's
ends; O14 is put together here. -/

namespace Sys2Proof

open Machine

/-! ## One thread's work on its private stack -/

theorem errorWins_singleton (tid : Nat) (f : FaultInfo) : errorWins [(tid, f)] = [(tid, f)] := by
  cases h : f.cause == .bpoison || f.cause == .xpoison <;> simp [errorWins, h]

section
variable {s : State} {i : Instr} {e : Env} {c : Ctx} {l tid : Nat} {sel : Env → List (Nat × Nat)} {k : State → Env → Ctx → Nat → Nat → Stack State}
  (h : Issues s i e) (hx : s.ctx e.team.ctx = some c) (hsel : sel e = [(l, tid)]) (hexec : exec i s = stackInsn s i sel k)
include h hx hsel hexec

/-- The one thread's work is done, and the bundle moves on. -/
theorem stackInsn_one {v : State} (hk : k s e c l tid = .ok v v) : ∃ t, exec i s = .next t ∧ t = Machine.advance v e := by
  refine ⟨_, hexec.trans (stackInsn_done h hx (fs := []) (u := v) ?_), rfl⟩
  rw [hsel, List.foldl_cons, List.foldl_nil, stackStep, Stack.bind, hk]

/-- The one thread faults before anything is done: it parks at the instruction. -/
theorem stackInsn_parks (hlanes : e.lanes = [(l, tid)]) (hout : (e.thread tid).handler = false) {cause : Cause} {f : FaultInfo} (hf : FaultOf e cause f)
    (hk : k s e c l tid = .fault f s) : ∃ t, exec i s = .next t ∧ Parks t e [(l, tid)] cause := by
  obtain ⟨rfl, hw, hc, hi⟩ := hf
  refine ⟨_, hexec.trans (stackInsn_done h hx (fs := [(tid, f)]) (u := s) ?_), ?_⟩
  · rw [hsel, List.foldl_cons, List.foldl_nil, stackStep, Stack.bind, hk]
    rfl
  · rw [errorWins_singleton]
    exact parks_faultSel h.bundle (fun _ => rfl) (hlanes ▸ List.Sublist.refl _) (fun p hp => List.mem_singleton.mp hp ▸ hout) hw hc hi

end

theorem sel_of_one {e : Env} {l tid : Nat} (hlanes : e.lanes = [(l, tid)]) {pm : BitVec 4} {pn : BitVec 1} (h : selects e pm pn l = true) :
    e.sel pm pn = [(l, tid)] := by
  rw [Env.sel, hlanes]
  exact List.filter_cons_of_pos h

/-- Two changes that agree on the thread as it stands. -/
theorem updThread_congr {s : State} {k i : Nat} {th : Thread} {f g : Thread → Thread} (ht : s.thread k i = some th) (h : f th = g th) :
    s.updThread k i f = s.updThread k i g := by
  obtain ⟨tm, hk, hth⟩ := Option.bind_eq_some_iff.mp ht
  have hupd : listUpd tm.threads i f = listUpd tm.threads i g := List.ext_getElem? fun j => by
    rw [listUpd_get, listUpd_get]
    split
    · next hj => rw [hj, hth, Option.map_some, Option.map_some, h]
    · rfl
  unfold State.team at hk
  simp only [State.updThread, State.updTeam, hk, hupd]

/-! ## Frames (R279) -/

section
variable {s : State} {e : Env} {c : Ctx} {l tid : Nat}

theorem pushFrame_stores {u : State} {a n : Nat} (hth : s.thread e.tk tid = some (e.thread tid))
    (hroom : (e.thread tid).sp + 8 * (e.thread tid).link.length + 8 * ((n + 1) / 2) ≤ spillSize c)
    (hs : stackStore s e l tid (stackAddr c (e.thread tid).sp) ((e.thread tid).link.flatMap (fun x => leBytes 8 x.toNat) ++
      (cellsGet (e.thread tid).v a n).flatMap wordBytes ++ (if n % 2 = 1 then List.replicate 4 0 else [])) = .ok () u) :
    pushFrame s e c l tid a n = .ok () (u.updThread e.tk tid fun x =>
      { x with sp := (e.thread tid).sp + 8 * (e.thread tid).link.length + 8 * ((n + 1) / 2), link := [] }) := by
  simp only [pushFrame, if_neg (Nat.not_lt.mpr hroom), hs, Stack.bind]
  exact congrArg (Stack.ok ()) (updThread_congr ((thread_stackStore hs ..).trans hth) rfl)

theorem pushFrame_full {a n : Nat} (hfull : spillSize c < (e.thread tid).sp + 8 * (e.thread tid).link.length + 8 * ((n + 1) / 2)) :
    pushFrame s e c l tid a n = .fault (stackFault e l .lnkovf [stackAddr c (e.thread tid).sp] (e.thread tid).sp 0) s := if_pos hfull

theorem popFrame_loads {u : State} {bs : List Byte} {a n : Nat} (hth : s.thread e.tk tid = some (e.thread tid)) (hl : (e.thread tid).link = [])
    (hroom : 8 * ((n + 1) / 2) ≤ (e.thread tid).sp) (hs : stackLoad s e l tid (stackAddr c ((e.thread tid).sp - 8 * ((n + 1) / 2))) (4 * n) = .ok bs u) :
    popFrame s e c l tid a n = .ok () (u.updThread e.tk tid fun x =>
      { x with sp := (e.thread tid).sp - 8 * ((n + 1) / 2), v := cellsSet (e.thread tid).v a (toWords bs) }) := by
  simp only [popFrame, hl, if_neg (Nat.not_lt.mpr hroom), hs, Stack.bind, bne_self_eq_false, Bool.false_eq_true, if_false]
  exact congrArg (Stack.ok ()) (updThread_congr ((thread_stackLoad hs ..).trans hth) rfl)

theorem popFrame_linked {a n : Nat} (hl : (e.thread tid).link ≠ []) : popFrame s e c l tid a n = .fault (stackFault e l .lnkorder [] 0 0) s :=
  if_pos (bne_iff_ne.mpr hl)

theorem popFrame_empty {a n : Nat} (hl : (e.thread tid).link = []) (hempty : (e.thread tid).sp < 8 * ((n + 1) / 2)) :
    popFrame s e c l tid a n = .fault (stackFault e l .lnkunf [stackAddr c (e.thread tid).sp] (e.thread tid).sp 0) s := by
  simp only [popFrame, hl, if_pos hempty, bne_self_eq_false, Bool.false_eq_true, if_false]

end

theorem thread_of_one {s : State} {e : Env} {l tid : Nat} (h : envOf s = some e) (hlanes : e.lanes = [(l, tid)]) :
    s.thread e.tk tid = some (e.thread tid) := (thread_of_lane h (p := (l, tid)) (hlanes ▸ List.mem_singleton_self _)).1

theorem frames : Part.Frames := fun _ _ _ _ _ _ hlanes hx =>
  ⟨fun h => ⟨
      fun _ hroom hs => stackInsn_one h hx hlanes (exec_pushm ..) (congrArg (Stack.bind · _) (pushFrame_stores (thread_of_one h.bundle hlanes) hroom hs)),
      fun hfull hout => stackInsn_parks h hx hlanes (exec_pushm ..) hlanes hout ⟨rfl, rfl, rfl, rfl⟩ (congrArg (Stack.bind · _) (pushFrame_full hfull))⟩,
    fun h => ⟨
      fun _ _ hl hroom hs => stackInsn_one h hx hlanes (exec_popm ..) (congrArg (Stack.bind · _) (popFrame_loads (thread_of_one h.bundle hlanes) hl hroom hs)),
      fun hl hout => stackInsn_parks h hx hlanes (exec_popm ..) hlanes hout ⟨rfl, rfl, rfl, rfl⟩ (congrArg (Stack.bind · _) (popFrame_linked hl)),
      fun hl hempty hout =>
        stackInsn_parks h hx hlanes (exec_popm ..) hlanes hout ⟨rfl, rfl, rfl, rfl⟩ (congrArg (Stack.bind · _) (popFrame_empty hl hempty))⟩⟩

/-! ## Spills and reloads of the link stack (R277, R278) -/

section
variable {s : State} {e : Env} {c : Ctx} {l tid : Nat}

/-- A thread whose oldest link has gone to the private stack to make room for the fall-through. -/
def spilledLink (e : Env) (th : Thread) : Thread := { th with sp := th.sp + 8, link := th.link.drop 1 ++ [BitVec.ofNat 64 (fallThrough e.b)] }

theorem callTo_spills {u : State} {a : Nat} (hl : 4 ≤ (e.thread tid).link.length) (hroom : (e.thread tid).sp + 8 ≤ spillSize c)
    (hs : stackStore s e l tid (stackAddr c (e.thread tid).sp) (leBytes 8 ((e.thread tid).link.headD 0).toNat) = .ok () u) :
    callTo s e c l tid a = .ok (transferTo (u.updThread e.tk tid (spilledLink e)) e l a) (transferTo (u.updThread e.tk tid (spilledLink e)) e l a) := by
  simp only [callTo, pushLink, if_neg (Nat.not_lt.mpr hl), if_neg (Nat.not_lt.mpr hroom), hs, Stack.bind]
  rfl

theorem callTo_full {a : Nat} (hl : 4 ≤ (e.thread tid).link.length) (hfull : spillSize c < (e.thread tid).sp + 8) :
    callTo s e c l tid a = .fault (stackFault e l .lnkovf [stackAddr c (e.thread tid).sp] (e.thread tid).sp 0) s := by
  simp only [callTo, pushLink, if_neg (Nat.not_lt.mpr hl), if_pos hfull, Stack.bind]

theorem popLink_reloads {u : State} {bs : List Byte} (hl : (e.thread tid).link = []) (hroom : 8 ≤ (e.thread tid).sp)
    (hs : stackLoad s e l tid (stackAddr c ((e.thread tid).sp - 8)) 8 = .ok bs u) :
    popLink s e c l tid = .ok (leNat bs) (u.updThread e.tk tid fun x => { x with sp := x.sp - 8 }) := by
  simp only [popLink, hl, List.getLast?_nil, if_pos hroom, hs, Stack.bind]

theorem popLink_empty (hl : (e.thread tid).link = []) (hempty : (e.thread tid).sp < 8) :
    popLink s e c l tid = .fault (stackFault e l .lnkunf [stackAddr c (e.thread tid).sp] (e.thread tid).sp 0) s := by
  simp only [popLink, hl, List.getLast?_nil, if_neg (Nat.not_le.mpr hempty)]

end

theorem linkSpills : Part.LinkSpills := fun _ _ _ _ _ hlanes hx =>
  ⟨fun _ _ h hsel hl => ⟨
      fun hroom hs => stackInsn_one h hx (sel_of_one hlanes hsel) (exec_call ..) (callTo_spills hl hroom hs),
      fun hfull hout => stackInsn_parks h hx (sel_of_one hlanes hsel) (exec_call ..) hlanes hout ⟨rfl, rfl, rfl, rfl⟩ (callTo_full hl hfull)⟩,
    fun _ _ h hsel hl => ⟨
      fun hroom hs => stackInsn_one h hx (sel_of_one hlanes hsel) (exec_calli ..) (callTo_spills hl hroom hs),
      fun hfull hout => stackInsn_parks h hx (sel_of_one hlanes hsel) (exec_calli ..) hlanes hout ⟨rfl, rfl, rfl, rfl⟩ (callTo_full hl hfull)⟩,
    fun _ _ _ h hsel hl => ⟨
      fun hroom hs => stackInsn_one h hx (sel_of_one hlanes hsel) (exec_ret ..) (congrArg (Stack.bind · _) (popLink_reloads hl hroom hs)),
      fun hempty hout =>
        stackInsn_parks h hx (sel_of_one hlanes hsel) (exec_ret ..) hlanes hout ⟨rfl, rfl, rfl, rfl⟩ (congrArg (Stack.bind · _) (popLink_empty hl hempty))⟩⟩

/-- Settles O14: what a frame or a link does to the private stack is one lemma for each way it can go, and an access leaves the thread itself as it
was (`thread_stackStore`, `thread_stackLoad`), so the registers and the pointer that are restored are those of the issue. -/
theorem privateStack : Obligations.PrivateStack := ⟨frames, linkSpills⟩

end Sys2Proof
end
